-- ==== Sys2Proof/Word.lean ====
section
/-!
DEFINITION. The plain data words of the model: bytes, register words, and their conversion to lists of bytes
(little-endian, R5).
-/

namespace Sys2Proof

/-- One byte of memory. -/
abbrev Byte := BitVec 8

/-- A register value: the widest register is 64 bits. -/
abbrev Word := BitVec 64

end Sys2Proof
end

