-- ==== Sys2Proof/Types.lean ====
section
/-!
DEFINITION. The operand types of the commands: the packets, messages and reports that reach the device from
outside, and what a fault event carries. The opcode table gives a row's name only; its operands are the model's
(log entry 1).
-/

namespace Sys2Proof

/-- A Trean request after its `OP` (R304, R306): header fields, the operand words A and B, the byte mask of a WR and
the carried data; `hostFault` tells that an access it makes to a host window faults (R321). -/
structure TrnReq where
  poison   : Bool := false
  retry    : Bool := false
  cls      : Nat := 1
  viaValid : Bool := false
  dst      : Nat
  src      : Nat
  age      : Nat := 0
  tag      : Nat := 0
  job      : Nat
  epoch    : Nat := 0
  seq      : Nat := 0
  addr     : Nat
  sctx     : Nat := 0
  via      : Nat := 0
  a        : Nat := 0
  b        : Nat := 0
  mask     : Nat := 0
  data     : List Byte := []
  hostFault : Bool := false
  deriving DecidableEq, Repr

/-- A Trean reply after its `OP` (R305, R306): header fields, the old value of an ATOM, the line of an RD_DATA. -/
structure TrnRsp where
  poison   : Bool := false
  viaValid : Bool := false
  dst      : Nat
  src      : Nat
  age      : Nat := 0
  status   : Nat := 0
  tag      : Nat
  via      : Nat := 0
  value    : Nat := 0
  data     : List Byte := []
  deriving DecidableEq, Repr

/-- A packet as it travels: its `OP` with a request or a reply. -/
inductive TrnPkt where
  | req (op : Nat) (r : TrnReq)
  | rsp (op : Nat) (r : TrnRsp)
  deriving DecidableEq, Repr

/-- The 256 bytes of a link flit as its codewords deliver them (R299, R300): the codewords corrected, whether one of them was uncorrectable,
and the symbols corrected on each lane (R441). -/
structure Flit where
  raw     : List Byte
  fecCorr : Nat := 0
  fecBad  : Bool := false
  laneSym : List Nat := []
  deriving DecidableEq, Repr

/-- What a partner offers in the ability exchange (R296, R297): masks as in `TRN_PORT_CFG`, its trained lanes, its
endpoint and mesh member. -/
structure Ability where
  rates    : Nat
  lanes    : Nat
  fec      : Nat
  usable   : Nat
  endpoint : Nat
  epoch    : Nat
  isSwitch : Bool
  deriving DecidableEq, Repr

/-- How a host read completion arrived (R109, R376). -/
inductive CplKind where
  | ok | ep | ur | ca
  deriving DecidableEq, Repr

/-- The 64 bytes of a write into a half-line, with the symbols that differ in the stored word when a partial write reads it (R250). -/
structure HalfWrite where
  data : List Byte
  err  : List (Nat × Nat) := []
  deriving DecidableEq, Repr

/-- The engine command descriptor of Table: engine command (R234), with its payload; `reserved` joins its reserved bits, and bit i of
`pmap` says that 32-bit word i of the payload is poisoned (R243). `tiers`: the tiers manager's weave stop issued it (R231). `errs`: the
half-lines whose stored word differs from its codeword when the command reads it, with the symbols that differ as in PIER_READ (R250). -/
structure EngCmd where
  opcode   : Nat
  cls      : Nat
  inst     : Nat
  ctx      : Nat
  payload  : List Byte := []
  reserved : Nat := 0
  tag      : Nat
  src      : Nat := 0
  dst      : Nat := 0
  aux      : Nat := 0
  args     : List Byte := []
  pmap     : Nat := 0
  tiers    : Bool := false
  errs     : List (Nat × List (Nat × Nat)) := []
  deriving DecidableEq, Repr

/-- A PTP Sync, Follow_Up or Delay_Resp (R338-R341): domain number, source port identity, sequence, whether a Follow_Up comes,
the time it carries and its correction in 2^-16 ns, and whether a Delay_Resp answers this device. -/
structure PtpMsg where
  domain  : Nat
  ident   : Nat
  num     : Nat
  seq     : Nat
  twoStep : Bool := false
  time    : Int := 0
  corr    : Int := 0
  mine    : Bool := true
  deriving DecidableEq, Repr

/-- What an Announce message tells of its master (R340): source port identity, clock quality, priority2, grandmaster identity and
steps removed. -/
structure PtpAnnounce where
  ident : Nat
  num   : Nat
  cls   : Nat
  acc   : Nat
  var   : Nat
  prio2 : Nat
  gm    : Nat
  steps : Nat
  deriving DecidableEq, Repr

/-- A pilot resource element of an uplink PDU: its symbol, subcarrier of the carrier, and transmitted value. -/
structure Pilot where
  sym : Nat
  sc  : Nat
  i   : Int
  q   : Int
  deriving DecidableEq, Repr

/-- Where a soft bit goes: its byte in the core store, and whether scrambling inverted it. -/
structure LlrPlace where
  off  : Nat
  flip : Bool
  deriving DecidableEq, Repr

/-- What the fields of an uplink PDU tell the receiver (TS 38.211 and 38.212 give this, the spec does not): first PRB and PRBs; the PUCCH
format, 5 for others; DFT-s-OFDM; the subcarrier spacing of its pilots; the DMRS or SRS pilots by port, PTRS pilots, data resource
elements as (symbol, subcarrier), bits of a symbol; the candidates of formats 0 and 1 by their value; bits of HARQ-ACK, SR, CSI part 1 and CSI
part 2; the soft bits of the HARQ-ACK codeword (in formats 2 to 4 of all UCI but CSI part 2) and of the two CSI parts; where each soft bit of the data
goes, and the range that holds them; PRBs of an RB group. -/
structure RxCfg where
  prb    : Nat := 0
  prbs   : Nat := 1
  format : Nat := 5
  dft    : Bool := false
  comb   : Nat := 1
  ports  : List (List Pilot) := []
  ptrs   : List Pilot := []
  data   : List (Nat × Nat) := []
  qm     : Nat := 2
  seqs   : List (List Pilot) := []
  ack    : Nat := 0
  sr     : Nat := 0
  csi    : Nat := 0
  csi2   : Nat := 0
  ackAt  : List Nat := []
  csiAt  : List Nat := []
  csi2At : List Nat := []
  place  : List LlrPlace := []
  llrOff : Nat := 0
  llrLen : Nat := 0
  group  : Nat := 1
  deriving DecidableEq, Repr

/-- What the fields of a downlink PDU tell the transmitter (TS 38.211 and 38.212 give this, the spec does not): where its coded bits lie in the
twin-access region, how many there are and how many encoder jobs make them; the scrambling sequence as a mask; bits of a symbol; layers; data
resource elements as (symbol, subcarrier) in order; the precoding weights by antenna and layer; the reference signals and synchronisation
sequences by layer. -/
structure TxCfg where
  src     : Nat := 0
  bits    : Nat := 0
  blocks  : Nat := 1
  scram   : Nat := 0
  qm      : Nat := 2
  layers  : Nat := 1
  data    : List (Nat × Nat) := []
  weights : List (List (Int × Int)) := []
  pilots  : List (List Pilot) := []
  deriving DecidableEq, Repr

/-- Where a PDU lies and what the C-plane tells of it (R182): first PRB and PRBs, first symbol and symbols, beam index; for a PRACH its frame
structure, CP length, time offset and frequency offset. -/
structure CSect where
  prb   : Nat := 0
  prbs  : Nat := 1
  sym   : Nat := 0
  syms  : Nat := 14
  beam  : Nat := 0
  fs    : Nat := 0
  cp    : Nat := 0
  tOff  : Nat := 0
  fOff  : Nat := 0
  deriving DecidableEq, Repr

/-- A PDU of a TTI request (R145, R191): kind (0 PUSCH, 1 PUCCH, 2 PRACH, 3 SRS, 4 PDSCH, 5 DCI, 6 SSB, 7 CSI-RS), layers, its other sizes
that R145 limits (0 where it has none): CORESET number, payload bits, CSI-RS ports, SRS ports, symbols and comb, SSB index; for a
PRACH whether L = 839 and its spacing in 10 Hz; for a PUSCH its RNTI, HARQ process, new data, code blocks, parameters and whether it carries UCI; its place, and the data of its receiver or
transmitter. -/
structure FapiPdu where
  kind    : Nat
  layers  : Nat := 1
  coreset : Nat := 0
  bits    : Nat := 0
  ports   : Nat := 1
  symbols : Nat := 1
  comb    : Nat := 2
  index   : Nat := 0
  qm      : Nat := 2
  long    : Bool := true
  scs     : Nat := 125
  rnti    : Nat := 0
  harq    : Nat := 0
  newData : Bool := true
  blocks  : Nat := 1
  params  : List Nat := []
  uci     : Bool := false
  sect    : CSect := {}
  rx      : RxCfg := {}
  tx      : TxCfg := {}
  deriving DecidableEq, Repr

/-- What the body of a FAPI request says: whether it could be read at all, whether it is malformed, its PDUs, the tags of TLVs beyond the
device's limits, its configuration as (register, value) of the carrier, and its payloads as (host address, bytes). -/
structure FapiBody where
  faults : Bool := false
  bad    : Bool := false
  pdus   : List FapiPdu := []
  tags   : List Nat := []
  words  : List (Nat × Nat) := []
  refs   : List (Nat × Nat) := []
  deriving DecidableEq, Repr

/-- An operator invocation that the iteration composer forms (R224, R418): the step of the model plan whose operator, attribute word and
tensor ID it takes, its tensors A2 to A5, and its parameter block with the shapes of the batch. -/
structure ComposerRun where
  step : Nat
  t    : List Nat
  p    : List Nat
  deriving DecidableEq, Repr

/-- The PDU that a job of a radio accelerator serves: its carrier, SFN, slot and place. -/
structure JobFor where
  carrier : Nat
  sfn     : Nat
  slot    : Nat
  pdu     : Nat
  deriving DecidableEq, Repr

/-- A job of a radio accelerator (R166): the unit, numbered as the bits of `RADIO_ACCEL_FENCE`; the core and the twin-access ranges of its
input and output; its parameters, for a transform: points, 1 for the inverse, scale shift, for a polar unit: 0 encoding, 1 decoding, 2 Reed-Muller
decoding, then N, and for decoding the bits, or the bits of the latter; the PDU it serves, if any, of the uplink, or of the downlink for an encoder and a polar unit that encodes. -/
structure AccelJob where
  unit   : Nat
  core   : Nat
  src    : Nat
  len    : Nat
  dst    : Nat
  outLen : Nat
  params : List Nat := []
  use    : Option JobFor := none
  deriving DecidableEq, Repr

/-- A preamble of a PRACH occasion (R159): the root it uses, and its cyclic-shift window as first sample and samples. -/
structure Preamble where
  root  : Nat
  first : Nat
  count : Nat
  deriving DecidableEq, Repr

/-- A PRACH occasion for a preamble detector (R158, R159): the unit, carrier, SFN and slot, its PDU's place, whether L = 839, the PRACH
subcarrier spacing in 10 Hz, antennas and repetitions, the configured roots as C16 values, its preambles by index, and the core-store
offset of its samples, a C16 sequence for each antenna and repetition. -/
structure PrachJob where
  unit    : Nat
  carrier : Nat
  sfn     : Nat
  slot    : Nat
  pdu     : Nat
  long    : Bool
  scs     : Nat
  ants    : Nat := 1
  reps    : Nat := 1
  roots   : List (List (Int × Int)) := []
  pres    : List Preamble := []
  core    : Nat
  src     : Nat
  deriving DecidableEq, Repr

/-- The soft-buffer use of a HARQ_COMBINE (R168-R170): carrier, RNTI, HARQ process, code block, and the slot that holds its PUSCH with its
place there. -/
structure SoftUse where
  carrier : Nat
  rnti    : Nat
  harq    : Nat
  block   : Nat
  sfn     : Nat
  slot    : Nat
  pdu     : Nat
  deriving DecidableEq, Repr

/-- An uplink U-plane message as received (R181-R183, R189): source MAC, VLAN, eCPRI revision, message type, E bit, subsequence ID, whether it
is uplink, sections, compression method; eAxC, sequence ID, SFN, slot, symbol, first PRB, PRB count, mantissa width and the bytes of its
PRBs. -/
structure UplaneMsg where
  mac    : Nat
  vlan   : Nat
  eaxc   : Nat
  seq    : Nat
  rev    : Nat := 1
  mtype  : Nat := 0
  ebit   : Bool := true
  subseq : Nat := 0
  uplink : Bool := true
  sects  : Nat := 1
  meth   : Nat := 1
  sfn    : Nat
  slot   : Nat
  sym    : Nat
  start  : Nat
  num    : Nat
  width  : Nat
  data   : List Byte := []
  deriving DecidableEq, Repr

/-- Who makes an access (R231): an instance's context, slot work of instance 0, or the tiers manager acting for instance 0. -/
inductive Who where
  | ctx (inst ctx : Nat)
  | slot
  | tiers
  deriving DecidableEq, Repr

/-- The channel estimates of an SRS resource for an RB group (R161): block exponent and C16 values by port. -/
structure SrsEst where
  exp  : Nat
  vals : List (Int × Int)
  deriving DecidableEq, Repr

/-- A radio task (R207, R212, R213): its carrier and index, the slot it serves, its release tick and its deadline in 125 ps units of TB0 (as slot
times), whether it is urgent, whether it processes uplink, the places in the UL_TTI.request of the PDUs it works on and reports, the downlink
symbols it makes, and whether a fault interrupted it (R214). -/
structure Task where
  carrier  : Nat
  index    : Nat
  frame    : Nat := 0
  slot     : Nat := 0
  release  : Nat := 0
  deadline : Nat := 0
  urgent   : Bool := false
  uplink   : Bool := false
  pdus     : List Nat := []
  syms     : List Nat := []
  again    : Bool := false
  deriving DecidableEq, Repr

end Sys2Proof
end

