-- ==== Sys2Proof/Syntax.lean ====
section
/-!
DEFINITION. The commands of the block: one constructor per row of the opcode table, in its order. The table gives names only, so the
operands are the model's (log entry 1): what reaches the device from outside, or the choice that the spec leaves to its timing.
-/

namespace Sys2Proof

/-- The commands of the block. -/
inductive Instr where
  /-- `REGISTER_WRITE` (R8). -/
  | registerWrite (key mask value : Nat)
  /-- `ARR_GO` (R90). -/
  | arrGo (a : Fin 388)
  /-- `ARR_STOP` (R82). -/
  | arrStop (a : Fin 388) (stopAt columns : Nat) (err : Nat := 0)
  /-- `ARR_RESUME` (R85). -/
  | arrResume (a : Fin 388)
  /-- `ARR_QUEUED_START` (R90). -/
  | arrQueuedStart (a : Fin 388)
  /-- `ARR_SWAP` (R65). -/
  | arrSwap (a : Fin 388) (fixed : Bool := false)
  /-- `ARR_INVOCATION_COMPLETE` (R68). -/
  | arrInvocationComplete (a : Fin 388) (fixed : Bool := false)
  /-- `ARR_STATE_LOST` (R88). -/
  | arrStateLost (a : Fin 388)
  /-- `RECLAIM` (R115). -/
  | reclaim (c : Fin 96) (ns : Nat) (err : Nat := 0)
  /-- `PREEMPT` (R116). -/
  | preempt (c : Fin 96) (reached : Bool := true) (err : Nat := 0)
  /-- `CORE_RESTORE` (R118). -/
  | coreRestore (c : Fin 96) (whole : Bool := true)
  /-- `CORE_COMMIT` (R123). -/
  | coreCommit (c : Fin 96)
  /-- `CORE_STRM_ENABLE` (R123). -/
  | coreStrmEnable (c : Fin 96) (s : Fin 16) (value : Word)
  /-- `STREAM_COPY` (R104). -/
  | streamCopy (c : Fin 96) (s : Fin 16)
  /-- `STREAM_GATHER` (R102). -/
  | streamGather (c : Fin 96) (s : Fin 16)
  /-- `STREAM_SCATTER` (R102). -/
  | streamScatter (c : Fin 96) (s : Fin 16)
  /-- `STREAM_FILL` (R100). -/
  | streamFill (c : Fin 96) (s : Fin 16)
  /-- `PEER_CREDIT_RETURN` (R99). -/
  | peerCreditReturn (c : Fin 96) (s : Fin 16)
  /-- `PAGE_FAULT` (R106). -/
  | pageFault (c : Fin 96) (s : Fin 16) (at_ : Nat := 0) (dest : Bool := false)
  /-- `PAGE_RESPONSE` (R107). -/
  | pageResponse (c : Fin 96) (s : Fin 16) (ok : Bool)
  /-- `PAGE_LIMIT_EXPIRY` (R108). -/
  | pageLimitExpiry (c : Fin 96) (s : Fin 16)
  /-- `STALL_WATCH_EXPIRY` (R114). -/
  | stallWatchExpiry (c : Fin 96) (i : Fin 65) (x : Fin 16)
  /-- `CORE_STORE_SCRUB_READ` (R95). -/
  | coreStoreScrubRead (c : Fin 96) (word : Fin 131072) (outcome : Nat)
  /-- `CORE_STATE_LOST` (R121). -/
  | coreStateLost (c : Fin 96)
  /-- `SNOP` (R130). -/
  | snop (c : Fin 96) (fixed : Bool := false)
  /-- `CMAC` (R131). -/
  | cmac (c : Fin 96) (fixed : Bool := false)
  /-- `CMUL` (R130). -/
  | cmul (c : Fin 96) (fixed : Bool := false)
  /-- `CADD` (R130). -/
  | cadd (c : Fin 96) (fixed : Bool := false)
  /-- `CSUB` (R130). -/
  | csub (c : Fin 96) (fixed : Bool := false)
  /-- `CNCO` (R132). -/
  | cnco (c : Fin 96) (fixed : Bool := false)
  /-- `SRND` (R131). -/
  | srnd (c : Fin 96) (fixed : Bool := false)
  /-- `SNORM` (R133). -/
  | snorm (c : Fin 96) (fixed : Bool := false)
  /-- `SEXP` (R134). -/
  | sexp (c : Fin 96) (fixed : Bool := false)
  /-- `SBFPC` (R135). -/
  | sbfpc (c : Fin 96) (fixed : Bool := false)
  /-- `SBFPX` (R136). -/
  | sbfpx (c : Fin 96) (fixed : Bool := false)
  /-- `SSET` (R130). -/
  | sset (c : Fin 96) (fixed : Bool := false)
  /-- `SACS` (R130). -/
  | sacs (c : Fin 96) (fixed : Bool := false)
  /-- `SACL` (R130). -/
  | sacl (c : Fin 96) (fixed : Bool := false)
  /-- `SLOOP` (R137). -/
  | sloop (c : Fin 96)
  /-- `SJMP` (R130). -/
  | sjmp (c : Fin 96)
  /-- `SEND` (R141). -/
  | send (c : Fin 96)
  /-- `SRET` (R139). -/
  | sret (c : Fin 96)
  /-- `SSTL` (R130). -/
  | sstl (c : Fin 96) (fixed : Bool := false)
  /-- `SLDL` (R130). -/
  | sldl (c : Fin 96) (fixed : Bool := false)
  /-- `SSTA` (R130). -/
  | ssta (c : Fin 96) (fixed : Bool := false)
  /-- `SLDA` (R130). -/
  | slda (c : Fin 96) (fixed : Bool := false)
  /-- `SIG_ILLEGAL` (R142). -/
  | sigIllegal (c : Fin 96)
  /-- `SIG_STATE_LOST` (R142). -/
  | sigStateLost (c : Fin 96)
  /-- `SIG_GO` (R144). -/
  | sigGo (c : Fin 96)
  /-- `SIG_IRQ` (R139). -/
  | sigIrq (c : Fin 96)
  /-- `TASK_INTERRUPT_ENTRY` (R139). -/
  | taskInterruptEntry (c : Fin 96)
  /-- `SYMBOL_TICK` (R349). -/
  | symbolTick
  /-- `SLOT_BOUNDARY` (R348). -/
  | slotBoundary (code : Fin 3)
  /-- `REQUEST_CUTOFF` (R194). -/
  | requestCutoff (n : Fin 512)
  /-- `TASK_RELEASE` (R212). -/
  | taskRelease (task : Task) (side : Fin 2) (ns : Nat)
  /-- `TASK_START` (R213). -/
  | taskStart (c : Fin 96) (code : List Nat) (start vector : Fin 2048) (at_ : Nat := 0)
  /-- `LEND` (R203). -/
  | lend (c : Fin 96) (gap : Nat) (who : Nat × Nat)
  /-- `UPLANE_RECEIVE` (R189). -/
  | uplaneReceive (p : Fin 32) (msg : UplaneMsg)
  /-- `RX_WINDOW_CLOSE` (R187). -/
  | rxWindowClose (n : Fin 512) (sfn : Fin 1024) (slot : Fin 80) (sym : Fin 14)
  /-- `CPLANE_SEND` (R185). -/
  | cplaneSend (n : Fin 512) (sfn : Fin 1024) (slot : Fin 80)
  /-- `DL_UPLANE_SEND` (R186). -/
  | dlUplaneSend (n : Fin 512) (sfn : Fin 1024) (slot : Fin 80) (sym : Fin 14) (stream off : Nat)
  /-- `TX_WINDOW_CLOSE` (R30). -/
  | txWindowClose (n : Fin 512) (sfn : Fin 1024) (slot : Fin 80) (sym : Fin 14)
  /-- `CODE_BLOCK_DECODE` (R164). -/
  | codeBlockDecode (unit : Fin 16) (carrier frame slot pdu block : Nat)
  /-- `PREAMBLE_DETECT` (R159). -/
  | preambleDetect (job : PrachJob)
  /-- `ACCELERATOR_FAULT` (R167). -/
  | acceleratorFault (unit : Fin 44)
  /-- `CARRIER_ENABLE` (R181). -/
  | carrierEnable (n : Fin 512) (on : Bool)
  /-- `FLASH_SHARE` (R165). -/
  | flashShare (on : Bool)
  /-- `PARAM_REQUEST` (R190). -/
  | paramRequest (ch : Fin 16) (body : FapiBody)
  /-- `CONFIG_REQUEST` (R190). -/
  | configRequest (ch : Fin 16) (body : FapiBody)
  /-- `START_REQUEST` (R190). -/
  | startRequest (ch : Fin 16) (body : FapiBody)
  /-- `STOP_REQUEST` (R190). -/
  | stopRequest (ch : Fin 16) (body : FapiBody)
  /-- `DL_TTI_REQUEST` (R188). -/
  | dlTtiRequest (ch : Fin 16) (body : FapiBody)
  /-- `UL_DCI_REQUEST` (R188). -/
  | ulDciRequest (ch : Fin 16) (body : FapiBody)
  /-- `TX_DATA_REQUEST` (R188). -/
  | txDataRequest (ch : Fin 16) (body : FapiBody)
  /-- `UL_TTI_REQUEST` (R188). -/
  | ulTtiRequest (ch : Fin 16) (body : FapiBody)
  /-- `UNSUPPORTED_FAPI_MESSAGE` (R190). -/
  | unsupportedFapiMessage (ch : Fin 16) (body : FapiBody)
  /-- `ETH_AUTONEG_COMPLETE` (R179). -/
  | ethAutonegComplete (p : Fin 32) (modes : Nat) (ok : Bool)
  /-- `ETH_PORT_STATE_CHANGE` (R180). -/
  | ethPortStateChange (p : Fin 32) (training : Bool)
  /-- `ETH_FRAME_DROP` (R182). -/
  | ethFrameDrop (p : Fin 32) (fec : Nat)
  /-- `ETH_LANE_RECAL` (R478). -/
  | ethLaneRecal (lane : Fin 32)
  /-- `SYNC` (R339). -/
  | sync (p : Fin 32) (msg : PtpMsg)
  /-- `FOLLOW_UP` (R341). -/
  | followUp (p : Fin 32) (msg : PtpMsg)
  /-- `DELAY_RESP` (R341). -/
  | delayResp (p : Fin 32) (msg : PtpMsg)
  /-- `ANNOUNCE` (R340). -/
  | announce (p : Fin 32) (domain : Nat) (msg : PtpAnnounce)
  /-- `DELAY_REQ_SEND` (R338). -/
  | delayReqSend (k : Fin 2)
  /-- `FOREIGN_MASTER_TIMEOUT` (R340). -/
  | foreignMasterTimeout (k : Fin 2) (p : Fin 32) (ident num : Nat)
  /-- `SERVO_UPDATE` (R341). -/
  | servoUpdate (k : Fin 2)
  /-- `DOMAIN_LOSS_TIMEOUT` (R342). -/
  | domainLossTimeout (k : Fin 2)
  /-- `SYNCE_STATE_CHANGE` (R343). -/
  | synceStateChange (locked : Bool) (freq : Int)
  /-- `DOM_EN` (R342). -/
  | domEn (mask : Fin 4)
  /-- `SET` (R355). -/
  | timeSet (value : Word)
  /-- `TB_READ` (R334). -/
  | tbRead (n : Fin 4)
  /-- `ARM` (R350). -/
  | arm (n : Fin 8)
  /-- `DISARM` (R350). -/
  | disarm (n : Fin 8)
  /-- `TPO_PULSE` (R350). -/
  | tpoPulse (n : Fin 8)
  /-- `TCI_EDGE` (R351). -/
  | tciEdge (n : Fin 8) (rising : Bool)
  /-- `TCI_READ` (R351). -/
  | tciRead (n : Fin 8)
  /-- `REF_CLOCK_LOST` (R352). -/
  | refClockLost
  /-- `PIER_READ` (R250). -/
  | pierRead (who : Who) (line : Fin 8589934592) (err : List (Nat × Nat) := [])
  /-- `PIER_WRITE` (R229). -/
  | pierWrite (who : Who) (line : Fin 8589934592) (mask : Word) (half : HalfWrite) (poison : Bool)
  /-- `REFRESH_DUE` (R251). -/
  | refreshDue (p : Fin 8) (ch : Fin 32) (bank : Fin 65536) (pending : Bool)
  /-- `PIER_SCRUB_READ` (R252). -/
  | pierScrubRead (line : Fin 8589934592) (err : List (Nat × Nat))
  /-- `SCRUB_PASS_OVERRUN` (R252). -/
  | scrubPassOverrun (p : Fin 8)
  /-- `ROW_SPARE` (R253). -/
  | rowSpare (p : Fin 8) (ch : Fin 32) (row : Nat)
  /-- `PIER_SPARE` (R254). -/
  | pierSpare (p : Fin 8) (ch : Fin 32)
  /-- `CHANNEL_SPARE_COMPLETE` (R254). -/
  | channelSpareComplete (p : Fin 8)
  /-- `PIER_RETRAIN` (R256). -/
  | pierRetrain (p : Fin 8) (ch : Fin 32)
  /-- `RETRAIN_SLICE` (R256). -/
  | retrainSlice (p : Fin 8) (ch : Fin 32) (done ok : Bool) (group : Option (Fin 32)) (copied : Nat)
  /-- `ATTEND` (R239). -/
  | attend (p : Fin 8) (x : EngCmd)
  /-- `GATHER` (R243). -/
  | gather (p : Fin 8) (x : EngCmd) (rows : Bool := false)
  /-- `DEQUANT` (R244). -/
  | dequant (p : Fin 8) (x : EngCmd)
  /-- `COPY` (R245). -/
  | copy (p : Fin 8) (x : EngCmd)
  /-- `MOVE` (R245). -/
  | move (p : Fin 8) (x : EngCmd)
  /-- `CRC64` (R245). -/
  | crc64 (p : Fin 8) (x : EngCmd)
  /-- `HARQ_COMBINE` (R246). -/
  | harqCombine (p : Fin 8) (x : EngCmd) (use : Option SoftUse)
  /-- `FILL` (R246). -/
  | fill (p : Fin 8) (x : EngCmd)
  /-- `DIRTY_SCAN` (R232). -/
  | dirtyScan (p : Fin 8) (x : EngCmd)
  /-- `PREFETCH_LAYER` (R272). -/
  | prefetchLayer (i : Fin 65) (x : Fin 16) (layer : Nat)
  /-- `ON_DEMAND_PROMOTION` (R273). -/
  | onDemandPromotion (i : Fin 65) (x : Fin 16) (ash : Nat)
  /-- `PROMOTION` (R268). -/
  | promotion (i : Fin 65) (ash : Nat) (tier : Fin 2)
  /-- `PROMOTION_COMPLETE` (R268). -/
  | promotionComplete (ash : Nat) (tier : Fin 2) (mismatches : Nat)
  /-- `FETCH_LIMIT_EXPIRY` (R273). -/
  | fetchLimitExpiry (i : Fin 65) (x : Fin 16)
  /-- `FLASH_CODEWORD_READ` (R277). -/
  | flashCodewordRead (row : Nat) (pos : Fin 30) (ch : Fin 32) (cw : Nat := 0) (flips : List Nat := [])
  /-- `FLASH_RETRY` (R278). -/
  | flashRetry (row : Nat) (pos : Fin 30) (ch : Fin 32) (cw : Nat) (mid : List Nat) (low high : List Nat := [])
  /-- `SOFT_WAIT_EXPIRY` (R278). -/
  | softWaitExpiry (row : Nat) (pos : Fin 30) (ch : Fin 32) (cw : Nat)
  /-- `STRIPE_REBUILD` (R279). -/
  | stripeRebuild (row : Nat) (p q : Bool) (also : List Nat)
  /-- `BLOCK_RETIREMENT` (R282). -/
  | blockRetirement (ch : Fin 32) (target block : Nat) (failed : Bool)
  /-- `FLS_RECAL` (R283). -/
  | flsRecal (ch : Fin 32) (ok : Bool)
  /-- `MORTAR_SCRUB_READ` (R498). -/
  | mortarScrubRead (word : Fin 8388608) (outcome : Nat)
  /-- `FLIT_RECEIVE` (R301). -/
  | flitReceive (port : Fin 8) (flit : Flit)
  /-- `FLIT_NAK` (R301). -/
  | flitNak (port : Fin 8) (seq : Nat)
  /-- `TRN_SIGNAL_DETECT` (R297). -/
  | trnSignalDetect (port : Fin 8)
  /-- `TRN_ABILITY_DONE` (R296). -/
  | trnAbilityDone (port : Fin 8) (ability : Ability)
  /-- `TRN_ABILITY_TIMEOUT` (R297). -/
  | trnAbilityTimeout (port : Fin 8)
  /-- `TRN_TRAIN_DONE` (R297). -/
  | trnTrainDone (port : Fin 8) (ok : Bool)
  /-- `TRN_INIT_DONE` (R297). -/
  | trnInitDone (port : Fin 8)
  /-- `TRN_ENABLE` (R297). -/
  | trnEnable (port : Fin 8) (on : Bool)
  /-- `TRN_RETRAIN` (R297). -/
  | trnRetrain (port : Fin 8)
  /-- `TRN_RECAL` (R298). -/
  | trnRecal (port : Fin 8) (lane : Fin 4) (done : Bool)
  /-- `GW_EN` (R322). -/
  | gwEn (on : Bool) (ports : Fin 256)
  /-- `RD` (R306). -/
  | rd (port : Fin 8) (req : TrnReq)
  /-- `WR` (R313). -/
  | wr (port : Fin 8) (req : TrnReq)
  /-- `FADD` (R306). -/
  | fadd (port : Fin 8) (req : TrnReq)
  /-- `CAS` (R306). -/
  | cas (port : Fin 8) (req : TrnReq)
  /-- `MIN_S` (R306). -/
  | minS (port : Fin 8) (req : TrnReq)
  /-- `MAX_S` (R306). -/
  | maxS (port : Fin 8) (req : TrnReq)
  /-- `MIN_U` (R306). -/
  | minU (port : Fin 8) (req : TrnReq)
  /-- `MAX_U` (R306). -/
  | maxU (port : Fin 8) (req : TrnReq)
  /-- `OR` (R306). -/
  | orOp (port : Fin 8) (req : TrnReq)
  /-- `EXADD` (R52). -/
  | exadd (port : Fin 8) (req : TrnReq)
  /-- `FFADD` (R319). -/
  | ffadd (port : Fin 8) (req : TrnReq)
  /-- `REL_ST` (R311). -/
  | relSt (port : Fin 8) (req : TrnReq)
  /-- `REL_ADD` (R311). -/
  | relAdd (port : Fin 8) (req : TrnReq)
  /-- `BLK_REQ` (R323). -/
  | blkReq (port : Fin 8) (near epoch seq : Nat) (pkts : List TrnPkt)
  /-- `BLK_RSP` (R323). -/
  | blkRsp (port : Fin 8) (near epoch seq : Nat) (pkts : List TrnPkt)
  /-- `BLK_ACK` (R323). -/
  | blkAck (far : Nat) (chan : Fin 2) (seq : Nat)
  /-- `RD_DATA` (R306). -/
  | rdData (port : Fin 8) (rsp : TrnRsp)
  /-- `DONE` (R314). -/
  | done (port : Fin 8) (rsp : TrnRsp)
  /-- `ACCEPT` (R314). -/
  | accept (port : Fin 8) (rsp : TrnRsp)
  /-- `ATOM` (R306). -/
  | atom (port : Fin 8) (rsp : TrnRsp)
  /-- `NACK` (R321). -/
  | nack (port : Fin 8) (rsp : TrnRsp)
  /-- `WRITE_RESEND_TIMER` (R314). -/
  | writeResendTimer (tag : Nat)
  /-- `WRITE_OUTCOME_UNKNOWN` (R316). -/
  | writeOutcomeUnknown (tag : Nat)
  /-- `READ_RESEND` (R329). -/
  | readResend (tag : Nat) (late : Bool)
  /-- `LOAD_LIMIT_EXPIRY` (R329). -/
  | loadLimitExpiry (tag : Nat)
  /-- `REPLY_CACHE_EXPIRY` (R313). -/
  | replyCacheExpiry (agent : Fin 8) (src seq : Nat)
  /-- `AGE_EXPIRY` (R315). -/
  | ageExpiry (port : Fin 8)
  /-- `GW_BLOCK_CLOSE` (R323). -/
  | gwBlockClose (far : Nat) (chan : Fin 2)
  /-- `GW_BLOCK_RESEND` (R323). -/
  | gwBlockResend (far : Nat) (chan : Fin 2) (seq : Nat)
  /-- `FM_EPOCH` (R326). -/
  | fmEpoch (src epoch : Nat) (fences : List (Nat × Bool)) (jobs : List Nat)
  /-- `FM_JOB_TEARDOWN` (R328). -/
  | fmJobTeardown (src job : Nat)
  /-- `FM_ROUTE` (R322). -/
  | fmRoute (src pod : Nat) (gateways : List Nat)
  /-- `FM_ADMIT` (R327). -/
  | fmAdmit (src epoch : Nat)
  /-- `FM_PROBE` (R325). -/
  | fmProbe (src nonce : Nat)
  /-- `BAR2_READ` (R378). -/
  | bar2Read (i : Fin 65) (off n : Nat)
  /-- `BAR2_WRITE` (R378). -/
  | bar2Write (i : Fin 65) (off : Nat) (data : List Byte) (ep : Bool)
  /-- `MBX_SQ_TAIL` (R385). -/
  | mbxSqTail (i : Fin 65) (q : Fin 17) (index : Fin 4096) (writes : List (Nat × List Byte)) (bad : List (Nat × Nat))
  /-- `MBX_CQ_HEAD` (R385). -/
  | mbxCqHead (i : Fin 65) (q : Fin 17) (index : Fin 4096)
  /-- `RING_ENABLE` (R385). -/
  | ringEnable (i : Fin 65) (q : Fin 17) (on : Bool)
  /-- `RING_FAULT` (R390). -/
  | ringFault (i : Fin 65) (q : Fin 17) (command : Option Nat)
  /-- `NOTICE_WRITE` (R389). -/
  | noticeWrite (i : Fin 65)
  /-- `MSIX_COALESCE_EXPIRY` (R380). -/
  | msixCoalesceExpiry (i : Fin 65) (q : Fin 17)
  /-- `HOST_COMPLETION` (R109). -/
  | hostCompletion (c : Fin 96) (s : Fin 16) (data : List Byte) (kind : CplKind)
  /-- `PCIE_COMPLETION_TIMEOUT` (R376). -/
  | pcieCompletionTimeout (c : Fin 96) (s : Fin 16)
  /-- `ATS_INVALIDATION` (R382). -/
  | atsInvalidation (tag : Nat) (page pages : Nat := 0) (gone : Bool := false)
  /-- `FUNCTION_LEVEL_RESET` (R392). -/
  | functionLevelReset (i : Fin 65)
  /-- `HOT_RESET` (R392). -/
  | hotReset
  /-- `LINK_DOWN` (R392). -/
  | linkDown (internal : Bool := false)
  /-- `LINK_STATE_CHANGE` (R375). -/
  | linkStateChange (width rate : Fin 16) (flit : Bool)
  /-- `LINK_CORRECTED` (R376). -/
  | linkCorrected
  /-- `PCIE_LOOPBACK` (R475). -/
  | pcieLoopback (on : Bool)
  /-- `VF_ENABLE` (R391). -/
  | vfEnable (count : Fin 65)
  /-- `FREEZE_DONE` (R393). -/
  | freezeDone (i : Fin 65)
  /-- `ITERATION_BOUNDARY` (R221). -/
  | iterationBoundary (i : Fin 65) (x : Fin 16) (steps : List Nat) (images : List (List Nat × List Nat))
  /-- `CONTEXT_TEARDOWN` (R434). -/
  | contextTeardown (i : Fin 65) (x : Fin 16)
  /-- `INSTANCE_TEARDOWN_RUN` (R435). -/
  | instanceTeardownRun (i : Fin 65)
  /-- `RECORD_DRAIN` (R429). -/
  | recordDrain (fixed : Nat := 0)
  /-- `HEALTH_SECOND` (R442). -/
  | healthSecond
  /-- `TELEMETRY_SAMPLE` (R447). -/
  | telemetrySample (values : List Nat)
  /-- `CREDIT_TICK` (R410). -/
  | creditTick
  /-- `RESIZE_TIMEOUT` (R221). -/
  | resizeTimeout (i : Fin 65)
  /-- `WATCHDOG_EXPIRY` (R459). -/
  | watchdogExpiry (core : Fin 4) (imageOk : Bool) (hit : Option (Nat × Nat) := none)
  /-- `LOG_PERSIST` (R468). -/
  | logPersist
  /-- `PERST_N_RISE` (R455). -/
  | perstNRise
  /-- `PERST_N_FALL` (R487). -/
  | perstNFall
  /-- `BOOT_STAGE_DONE` (R455). -/
  | bootStageDone (refClock readable : Bool) (failed : List Nat) (ms : Nat)
  /-- `GET_VERSION` (R464). -/
  | getVersion
  /-- `GET_CAPABILITIES` (R464). -/
  | getCapabilities
  /-- `NEGOTIATE_ALGORITHMS` (R464). -/
  | negotiateAlgorithms
  /-- `GET_DIGESTS` (R464). -/
  | getDigests
  /-- `GET_CERTIFICATE` (R464). -/
  | getCertificate (slot off len : Nat)
  /-- `CHALLENGE` (R464). -/
  | challenge (slot : Nat) (nonce : List Byte)
  /-- `GET_MEASUREMENTS` (R465). -/
  | getMeasurements (index : Nat) (signed : Bool) (nonce : List Byte)
  /-- `SPDM_UNSUPPORTED_REQUEST` (R464). -/
  | spdmUnsupportedRequest (code : Nat)
  /-- `THERMAL_CHECK` (R492). -/
  | thermalCheck (island : Fin 144) (reading : Int)
  /-- `DROOP_DETECT` (R491). -/
  | droopDetect (island : Fin 144) (n : Nat)
  /-- `DROOP_RELEASE` (R491). -/
  | droopRelease (island : Fin 144)
  /-- `THERMAL_TRIP` (R493). -/
  | thermalTrip (island : Fin 144) (reading : Int) (dram : Bool)
  /-- `CLOCK_TRIP` (R493). -/
  | clockTrip (island : Fin 144) (n : Nat)
  /-- `SUPPLY_TRIP` (R493). -/
  | supplyTrip (rail reading : Nat)
  /-- `VOLTAGE_MONITOR_CHECK` (R478). -/
  | voltageMonitorCheck
  /-- `DIODE_CHECK` (R478). -/
  | diodeCheck (diode : Nat) (ok : Bool)
  /-- `ENTER` (R476). -/
  | enter
  /-- `LEAVE` (R476). -/
  | leave (bits errors : Nat)
  /-- `START` (R477). -/
  | bistStart (value : Word)
  /-- `BIST_COMPLETE` (R477). -/
  | bistComplete (pass : Bool)
  /-- `LANES` (R478). -/
  | lanes (mask : Fin 4294967296)
  /-- `QUERY_DEVICE` (R406). -/
  | queryDevice (i : Fin 65) (q : Fin 17)
  /-- `QUERY_INSTANCE` (R405). -/
  | queryInstance (i : Fin 65) (q : Fin 17)
  /-- `REG_READ` (R405). -/
  | regRead (i : Fin 65) (q : Fin 17)
  /-- `REG_WRITE` (R405). -/
  | regWrite (i : Fin 65) (q : Fin 17)
  /-- `PARTITION_SET` (R407). -/
  | partitionSet (i : Fin 65) (q : Fin 17)
  /-- `PARTITION_RELEASE` (R391). -/
  | partitionRelease (i : Fin 65) (q : Fin 17)
  /-- `WINDOW_SET` (R405). -/
  | windowSet (i : Fin 65) (q : Fin 17)
  /-- `BAR2_MAP` (R378). -/
  | bar2Map (i : Fin 65) (q : Fin 17)
  /-- `LEND_SET` (R203). -/
  | lendSet (i : Fin 65) (q : Fin 17)
  /-- `SET_CREATE` (R266). -/
  | setCreate (i : Fin 65) (q : Fin 17)
  /-- `SET_GRANT` (R267). -/
  | setGrant (i : Fin 65) (q : Fin 17)
  /-- `SET_DELETE` (R276). -/
  | setDelete (i : Fin 65) (q : Fin 17)
  /-- `ASHLAR_LOAD` (R276). -/
  | ashlarLoad (i : Fin 65) (q : Fin 17)
  /-- `ASHLAR_HOLD` (R268). -/
  | ashlarHold (i : Fin 65) (q : Fin 17)
  /-- `CONTEXT_CREATE` (R419). -/
  | contextCreate (i : Fin 65) (q : Fin 17)
  /-- `CONTEXT_DESTROY` (R419). -/
  | contextDestroy (i : Fin 65) (q : Fin 17)
  /-- `COMPOSER_SET` (R223). -/
  | composerSet (i : Fin 65) (q : Fin 17)
  /-- `SEQ_SUBMIT` (R420). -/
  | seqSubmit (i : Fin 65) (q : Fin 17)
  /-- `SEQ_CANCEL` (R420). -/
  | seqCancel (i : Fin 65) (q : Fin 17)
  /-- `INVOKE` (R411). -/
  | invoke (i : Fin 65) (q : Fin 17)
  /-- `PLAN_RUN` (R418). -/
  | planRun (i : Fin 65) (q : Fin 17)
  /-- `AUDIT_READ` (R368). -/
  | auditRead (i : Fin 65) (q : Fin 17)
  /-- `RADIO_ADMIT` (R409). -/
  | radioAdmit (i : Fin 65) (q : Fin 17)
  /-- `FAPI_OPEN` (R193). -/
  | fapiOpen (i : Fin 65) (q : Fin 17)
  /-- `FAPI_CLOSE` (R405). -/
  | fapiClose (i : Fin 65) (q : Fin 17)
  /-- `TIME_EXCHANGE` (R345). -/
  | timeExchange (i : Fin 65) (q : Fin 17)
  /-- `FREEZE` (R393). -/
  | freeze (i : Fin 65) (q : Fin 17)
  /-- `THAW` (R398). -/
  | thaw (i : Fin 65) (q : Fin 17)
  /-- `DIRTY_TRACK` (R394). -/
  | dirtyTrack (i : Fin 65) (q : Fin 17)
  /-- `SAVE` (R395). -/
  | save (i : Fin 65) (q : Fin 17)
  /-- `RESTORE` (R397). -/
  | restore (i : Fin 65) (q : Fin 17)
  /-- `INSTANCE_TEARDOWN` (R435). -/
  | instanceTeardown (i : Fin 65) (q : Fin 17)
  /-- `JOB_REGISTER` (R499). -/
  | jobRegister (i : Fin 65) (q : Fin 17)
  /-- `JOB_RELEASE` (R405). -/
  | jobRelease (i : Fin 65) (q : Fin 17)
  /-- `EXPORT_SET` (R321). -/
  | exportSet (i : Fin 65) (q : Fin 17)
  /-- `CHOICE_READ` (R319). -/
  | choiceRead (i : Fin 65) (q : Fin 17)
  /-- `REPLAY_TO_STEP` (R370). -/
  | replayToStep (i : Fin 65) (q : Fin 17)
  /-- `ERROR_READ` (R448). -/
  | errorRead (i : Fin 65) (q : Fin 17)
  /-- `FENCE_UNIT` (R438). -/
  | fenceUnit (i : Fin 65) (q : Fin 17)
  /-- `UNFENCE_UNIT` (R440). -/
  | unfenceUnit (i : Fin 65) (q : Fin 17) (pass : Bool)
  /-- `HEALTH_SNAPSHOT` (R502). -/
  | healthSnapshot (i : Fin 65) (q : Fin 17)
  /-- `FW_STAGE` (R461). -/
  | fwStage (i : Fin 65) (q : Fin 17)
  /-- `FW_COMMIT` (R461). -/
  | fwCommit (i : Fin 65) (q : Fin 17) (ok : Bool)
  /-- `FW_ACTIVATE` (R461). -/
  | fwActivate (i : Fin 65) (q : Fin 17)
  /-- `FW_RECOVER` (R458). -/
  | fwRecover (i : Fin 65) (q : Fin 17)
  /-- `LOG_READ` (R468). -/
  | logRead (i : Fin 65) (q : Fin 17)
  /-- `SVN_RAISE` (R463). -/
  | svnRaise (i : Fin 65) (q : Fin 17)
  /-- `MGT_QUERY` (R470). -/
  | mgtQuery (i : Fin 65) (q : Fin 17)
  /-- `MATMUL` (R39). -/
  | matmul (i : Fin 65) (x : Fin 16)
  /-- `ATTENTION` (R241). -/
  | attention (i : Fin 65) (x : Fin 16)
  /-- `SOFTMAX` (R414). -/
  | softmax (i : Fin 65) (x : Fin 16)
  /-- `RMSNORM` (R496). -/
  | rmsnorm (i : Fin 65) (x : Fin 16)
  /-- `LAYERNORM` (R496). -/
  | layernorm (i : Fin 65) (x : Fin 16)
  /-- `ELEMENTWISE` (R413). -/
  | elementwise (i : Fin 65) (x : Fin 16)
  /-- `CONVERT` (R54). -/
  | convert (i : Fin 65) (x : Fin 16)
  /-- `REDUCE_EXACT` (R39). -/
  | reduceExact (i : Fin 65) (x : Fin 16)
  /-- `GATHER_ROWS` (R103). -/
  | gatherRows (i : Fin 65) (x : Fin 16)
  /-- `GATHER_FIRST` (R360). -/
  | gatherFirst (i : Fin 65) (x : Fin 16)
  /-- `MOE_ROUTE` (R415). -/
  | moeRoute (i : Fin 65) (x : Fin 16)
  /-- `MOE_COMBINE` (R496). -/
  | moeCombine (i : Fin 65) (x : Fin 16)
  /-- `SAMPLE` (R416). -/
  | sample (i : Fin 65) (x : Fin 16)
  /-- `ALLREDUCE` (R417). -/
  | allreduce (i : Fin 65) (x : Fin 16)
  /-- `REDUCE_SCATTER` (R417). -/
  | reduceScatter (i : Fin 65) (x : Fin 16)
  /-- `ALLGATHER` (R417). -/
  | allgather (i : Fin 65) (x : Fin 16) (blocks : List (List Byte × Bool))
  /-- `ALLTOALL` (R417). -/
  | alltoall (i : Fin 65) (x : Fin 16) (blocks : List (List Byte × Bool))
  /-- `END` (R418). -/
  | planEnd (i : Fin 65) (x : Fin 16)
  /-- `OPERATOR` (R418). -/
  | operator (i : Fin 65) (x : Fin 16)
  /-- `STREAMS` (R418). -/
  | streams (i : Fin 65) (x : Fin 16)
  /-- `WAIT_HEAD` (R418). -/
  | waitHead (i : Fin 65) (x : Fin 16)
  /-- `ATOMIC` (R501). -/
  | atomic (i : Fin 65) (x : Fin 16)
  /-- `RELEASE` (R311). -/
  | release (i : Fin 65) (x : Fin 16)
  /-- `WAIT_VALUE` (R501). -/
  | waitValue (i : Fin 65) (x : Fin 16)
  /-- `FENCE` (R312). -/
  | planFence (i : Fin 65) (x : Fin 16)
  /-- `TIME_READ` (R501). -/
  | timeRead (i : Fin 65) (x : Fin 16)
  /-- `TRN_LINK_LOSS` (R297). -/
  | trnLinkLoss (port : Fin 8)
  /-- `MSIX_UNMASK` (R380). -/
  | msixUnmask (i : Fin 65) (vector : Nat)
  /-- `MGT_SRAM_UNCORRECTABLE` (R459). -/
  | mgtSramUncorrectable (core : Fin 4) (imageOk : Bool) (hit : Option (Nat × Nat) := none)
  /-- `LDPC_ENCODE` (R166). -/
  | ldpcEncode (job : AccelJob)
  /-- `POLAR_JOB` (R166). -/
  | polarJob (job : AccelJob)
  /-- `TRANSFORM_JOB` (R166). -/
  | transformJob (job : AccelJob)
  deriving DecidableEq, Repr

end Sys2Proof
end

