-- ==== Sys2Proof/Decode.lean ====
section
/-!
DEFINITION. The commands spelled by words of the opcode table. Its rows give a name and a rule and no bits, so no word spells a command
(log entry 3).
-/

namespace Sys2Proof

/-- The command that the low `nbits` bits of a word spell: none, as no row of the table has bits. -/
def decodeTableWord (_nbits _w : Nat) : Option Instr := none

end Sys2Proof
end

