-- ==== Sys2Proof/Config.lean ====
section
/-!
DEFINITION. What the spec leaves open and no definition here fixes: the free values. Each is a constant without a
body, so nothing can be proved of its value (log entries 8 and 19).
-/

namespace Sys2Proof.Config

/-- The `n`-th value that the spec does not state, as a number; its user cuts it to the width of what it fills. -/
opaque freeNat : Nat → Nat

/-- MMSE-IRC weights of a PRB (R151), from the channel estimates by port and antenna and the noise covariance: FP32 words by layer and
antenna, I then Q. The spec gives no order for the FP32 operations. -/
opaque mmseWeights : List Int → List Nat

/-- The post-equalisation SINR of each layer from the same estimates and covariance (R152). -/
opaque mmseSinr : List Int → List Nat

/-- The amplitude of the least component of a downlink modulation of so many bits (R29). -/
opaque txUnit : Nat → Int

/-- The fraction bits, modulo 32, of a precoding weight (R29). -/
opaque precShift : Nat

/-- The time in ns, modulo 2,001, that a reclaim takes for a re-dispatch or a change of role (R205), from the core and TB2. -/
opaque reclaimNs : Nat → Nat → Nat

/-- The taps that lie within the estimated delay spread of an estimate's delay response (R151). -/
opaque delayTaps : List Int → Nat

/-- The fraction bits, modulo 8, of the C16 channel estimates (R151). -/
opaque estShift : Nat

/-- The fraction bits, modulo 64, of an LLR before it is rounded (R152). -/
opaque llrShift : Nat

/-- Half the distance between neighbouring points of a modulation of so many bits in equalised symbols. -/
opaque qamUnit : Nat → Int

/-- The estimated noise of a correlation, in its units (R154). -/
opaque noiseOf : List Int → Nat

/-- The error of a power or SINR in steps of 0.01 dB, of which the model uses 0.05 dB either way (R161). -/
opaque measError : List Int → Nat

/-- How the standard FAPI field of a measurement (0 RSRP, 1 SINR, 2 offset in Hz, 3 timing in ns, 4 timing advance, 5 preamble power) holds it
(R192): its resolution less 1 in the measurement's units, its least and greatest value, its invalid value. -/
opaque scfField : Nat → Nat × Int × Int × Nat

/-- Whether a transform's stages decimate in time (R166). -/
opaque transformDit : Bool

/-- The width of a darner's values less 8, modulo 32 (R164). -/
opaque darnerWidth : Nat

/-- The offset of a darner's min-sum. -/
opaque darnerOffset : Nat

/-- The parity checks of a code block's code, as the positions that each joins, from its parameters (TS 38.212, not in the spec). -/
opaque ldpcRows : List Nat → List (List Nat)

/-- The value of each position of a code block's code from the LLRs of its circular buffer: punctured positions 0, fillers known. -/
opaque ldpcPlace : List Nat → List Int → List Int

/-- Bit i of the j-th basis sequence of the Reed-Muller code of UCI (TS 38.212, not in the spec). -/
opaque reedMuller : Nat → Nat → Bool

/-- The LLRs of the N positions of the polar code of so many bits from those received (TS 38.212, not in the spec). -/
opaque polarPlace : Nat → List Int → List Int

/-- Whether a position of the polar code of so many bits and positions is frozen (TS 38.212, not in the spec). -/
opaque polarFrozen : Nat → Nat → Nat → Bool

/-- The metric of a path of a polar unit, the least best, from the LLRs and the path's bits in order (R166 gives no arithmetic for it). -/
opaque polarMetric : List Int → List Bool → Nat

/-- Whether the information bits of a path pass the CRC of UCI or DCI of so many bits (TS 38.212, not in the spec). -/
opaque polarCrcOk : Nat → List Bool → Bool

/-- The fraction bits that a preamble detector cuts from a product, modulo 32 (R159). -/
opaque detectorShift : Nat

/-- The scale shift of its inverse DFT, modulo 32. -/
opaque detectorScale : Nat

/-- The section ID and the fields of a C-plane or U-plane section that the spec does not name. -/
opaque sectionId : List Nat → Nat

/-- The signature that the identity key makes over an SPDM transcript (R464), whose key the spec does not give. -/
opaque identitySign : List Byte → List Byte

/-- The 64 bytes in which SSTA stores eight address registers (R130), whose layout the spec does not give: a number made from their
bases, offsets, strides and lengths. -/
opaque addrImage : List Nat → Nat

/-- The body of an indication, in the SCF FAPI encoding that the spec refers to and does not give, from its message type, carrier, SFN,
slot, status and contents. -/
opaque fapiBody : List Nat → List Byte

/-- The base-2 logarithm, less 4 and modulo 13, of the entries of a payload free ring, which FAPI_OPEN does not name (R193). -/
opaque freeRingLog2 : Nat

/-- The parity checks of the flash code, base graph 1 with lifting size 384, as the positions that each joins (TS 38.212, not in the spec). -/
opaque flashRows : List (List Nat)

/-- The CRC24B of data bits (TS 38.212, not in the spec). -/
opaque flashCrc : List Bool → List Bool

/-- The parity bits of the flash code's core graph for its 8,448 information bits (TS 38.212, not in the spec). -/
opaque flashParity : List Bool → List Bool

/-- The information bits to which hard-decision bit flipping brings a codeword within so many iterations, or none when it does not converge;
R277 does not say which bits an iteration flips. -/
opaque flashHard : Nat → List Bool → Option (List Bool)

/-- The targets of a flash channel, less 1 and modulo 8, and the pages of a flash block, less 1 (R274, R275: the card's NAND). -/
opaque flashTargets : Nat → Nat
opaque blockPages : Nat

/-- The number of the k-th spare block of a target of a channel (R282). -/
opaque spareBlock : Nat → Nat → Nat → Nat

/-- Whether a code block of these parameters and hard bits passes its CRC. -/
opaque blockCrcOk : List Nat → Nat → Bool

/-- Whether a transport block of these parameters and code blocks passes its CRC. -/
opaque tbCrcOk : List Nat → List Nat → Bool

/-- The payload bytes of a transport block. -/
opaque tbPayload : List Nat → List Nat → List Byte

/-- The output of an LDPC encoder (kind 1) or a polar unit (kind 2), whose codes TS 38.212 gives and the spec does not, from the job's
parameters and input (R166). -/
opaque accelOutput : Nat → List Nat → List Byte → List Byte

/-- The firmware's tasks of a carrier (R207), from its record and CONFIG.request: the period of its TDD pattern in slots, then for each task the
numbers that `Machine.carTasks` reads: its release, its deadline, the symbol it works on, and its worst-case time in ns without the reclaim charge. -/
opaque taskTable : List Nat → List Byte → Nat × List (List Nat)

/-- Whether a carrier's TDD pattern, allocation and modulation are the reference conditions (R148), from its CONFIG.request. -/
opaque isReference : List Byte → Bool

/-- The PRBs of each PRACH and SRS message of the slot of a carrier that holds most of them, from its CONFIG.request (R184). -/
opaque prachMsgs : List Nat → List Byte → List Nat

/-- The slots of a carrier's TDD pattern and those of them that hold uplink, from its CONFIG.request (R165). -/
opaque ulSlots : List Byte → Nat × List Nat

/-- The most code blocks of an uplink slot of a carrier, from its record and CONFIG.request (R165). -/
opaque slotBlocks : List Nat → List Byte → Nat

/-- The windows of a carrier's jobs on the accelerators of a kind (1 encoders, 2 polar units, 3 transform units, 4 preamble detectors) over 20 ms,
from its record and CONFIG.request: when each opens and closes in ns, and its jobs as (type, size) (R211). -/
opaque accelJobs : Nat → List Nat → List Byte → List (Nat × Nat × List (Nat × Nat))

/-- The core-store offset and bytes of a reserved core's landing, mirror and transmit rings, before they are cut to their regions (R189). -/
opaque ringPlace : Nat → Nat → Nat

end Sys2Proof.Config
end

