-- ==== Sys2Proof/Machine/Bits.lean ====
section
/-!
DEFINITION. Bit fields, little-endian byte lists and signed readings (R5, R35), shared by every file above.
-/

namespace Sys2Proof.Machine

/-- The field of `w` bits at bit `lo` of `v`. -/
def bitsAt (v lo w : Nat) : Nat := v >>> lo % 2 ^ w

/-- `v` with the field of `w` bits at bit `lo` replaced by `x`. -/
def setBits (v lo w x : Nat) : Nat := v - bitsAt v lo w * 2 ^ lo + x % 2 ^ w * 2 ^ lo

/-- Bit `i` of `v`. -/
def bitOf (v i : Nat) : Bool := v.testBit i

/-- A Boolean as a bit. -/
def b2n (b : Bool) : Nat := if b then 1 else 0

/-- The two's complement reading of a `w`-bit value. -/
def toSigned (w v : Nat) : Int := if 2 * (v % 2 ^ w) < 2 ^ w then (v % 2 ^ w : Nat) else (v % 2 ^ w : Nat) - 2 ^ w

/-- The `w`-bit two's complement encoding of an integer. -/
def ofSigned (w : Nat) (x : Int) : Nat := (x % (2 ^ w : Nat)).toNat

/-- A value saturated to `w`-bit two's complement, and whether it saturated. -/
def satSigned (w : Nat) (x : Int) : Int × Bool :=
  if x > 2 ^ (w - 1) - 1 then (2 ^ (w - 1) - 1, true)
  else if x < -(2 ^ (w - 1)) then (-(2 ^ (w - 1)), true) else (x, false)

/-- The little-endian number of a list of bytes (R5). -/
def leNat : List Byte → Nat
  | [] => 0
  | b :: bs => b.toNat + 256 * leNat bs

/-- The `n` little-endian bytes of a number (R5). -/
def natLe : Nat → Nat → List Byte
  | 0, _ => []
  | n + 1, v => BitVec.ofNat 8 v :: natLe n (v / 256)

/-- Exactly `n` bytes: the list cut, or filled with zero bytes. -/
def padTo (n : Nat) (bs : List Byte) : List Byte :=
  (bs ++ List.replicate (n - bs.length) 0).take n

/-- The little-endian number in `w` bytes at offset `off` of a byte list. -/
def fieldLe (bs : List Byte) (off w : Nat) : Nat := leNat ((bs.drop off).take w)

/-- Element `i` of `w` bits of a densely packed plane (R35). -/
def packedElem (bs : List Byte) (w i : Nat) : Nat :=
  fieldLe bs (w * i / 8) ((w * i % 8 + w + 7) / 8) >>> (w * i % 8) % 2 ^ w

/-- The densely packed number of a list of `w`-bit elements (R35). -/
def packNat (w : Nat) : List Nat → Nat
  | [] => 0
  | e :: es => e % 2 ^ w + 2 ^ w * packNat w es

/-- The densely packed bytes of a list of `w`-bit elements (R35). -/
def packElems (w : Nat) (es : List Nat) : List Byte := natLe ((w * es.length + 7) / 8) (packNat w es)

/-- `a / b` rounded up. -/
def ceilDiv (a b : Nat) : Nat := (a + b - 1) / b

/-- The numbers `0 … n-1` starting at `a`. -/
def rangeFrom (a n : Nat) : List Nat := (List.range n).map (a + ·)

@[simp] theorem natLe_length (n v : Nat) : (natLe n v).length = n := by
  induction n generalizing v with
  | zero => rfl
  | succ n ih => simp [natLe, ih]

@[simp] theorem padTo_length (n : Nat) (bs : List Byte) : (padTo n bs).length = n := by
  simp only [padTo, List.length_take, List.length_append, List.length_replicate]
  omega

theorem leNat_natLe (n v : Nat) : leNat (natLe n v) = v % 256 ^ n := by
  induction n generalizing v with
  | zero => simp [natLe, leNat, Nat.mod_one]
  | succ n ih =>
    have h : (BitVec.ofNat 8 v).toNat = v % 256 := BitVec.toNat_ofNat v 8
    rw [natLe, leNat, ih, h, Nat.pow_succ', Nat.mod_mul]

end Sys2Proof.Machine
end

