-- ==== Sys2Proof/Machine/Draw.lean ====
section
/-!
DEFINITION. The counter-based generator of every random draw (R366).
-/

namespace Sys2Proof.Machine

/-- A sum of 32-bit words (R366). -/
def add32 (a b : Nat) : Nat := (a + b) % 2 ^ 32

/-- A 32-bit word rotated left (R366). -/
def rotl32 (x s : Nat) : Nat := (x <<< s ||| x >>> (32 - s)) % 2 ^ 32

/-- One round of a block: the key words and the counter words after it (R366). -/
def drawRound (k0 k1 c0 c1 c2 c3 : Nat) : Nat × Nat × Nat × Nat × Nat × Nat :=
  let c0 := add32 c0 k0
  let c2 := c2 ^^^ k1
  let c1 := add32 (rotl32 (c1 ^^^ c0) 11) c2
  let c3 := rotl32 (add32 c3 c1) 21 ^^^ c0
  let c0 := add32 (rotl32 (c0 ^^^ c3) 6) c2
  let c2 := rotl32 (add32 c2 c0) 17 ^^^ c1
  (add32 k0 0x5C4E9D27, rotl32 k1 9 ^^^ k0, c3, c0, c1, c2)

/-- Twelve rounds under a key (R366). -/
def drawRounds : Nat → Nat × Nat × Nat × Nat × Nat × Nat → Nat × Nat × Nat × Nat × Nat × Nat
  | 0, x => x
  | n + 1, (k0, k1, c0, c1, c2, c3) => drawRounds n (drawRound k0 k1 c0 c1 c2 c3)

/-- The procedure block of R366. -/
def drawBlock (k0 k1 c0 c1 c2 c3 : Nat) : List Nat :=
  match drawRounds 12 (k0, k1, c0, c1, c2, c3) with
  | (_, _, c0, c1, c2, c3) => [c0 ^^^ k1, add32 c1 k0, c2 ^^^ k0, add32 c3 k1]

/-- The word at an index of a list of words. -/
def wordAt (l : List Nat) (i : Nat) : Nat := (l[i]?).getD 0

/-- The procedure draw of R366: four words. -/
def draw (seed step tensor index : Nat) : List Nat :=
  let w := fun v i => bitsAt v (32 * i) 32
  let x := drawBlock (w seed 0) (w seed 1) (w seed 2) (w seed 3) (tensor % 2 ^ 32) 0
  let y := drawBlock (wordAt x 0) (wordAt x 1) (w step 0) (w step 1) (wordAt x 2) (wordAt x 3)
  drawBlock (wordAt y 0) (wordAt y 1) (w index 0) (w index 1) (wordAt y 2) (wordAt y 3)

end Sys2Proof.Machine
end

