-- ==== Sys2Proof/Machine/Crc.lean ====
section
/-!
DEFINITION. The CRC-64 of R245, the CRC-32C of R300 and the field GF(2⁸) of R248.
-/

namespace Sys2Proof.Machine

/-- Bits of a reflected CRC with the bit-reversed polynomial `p` (R245, R300). -/
def crcBits (p : Nat) : Nat → Nat → Nat
  | 0, c => c
  | n + 1, c => crcBits p n (if c % 2 = 1 then c / 2 ^^^ p else c / 2)

/-- The CRC-64 of R245 over a list of bytes. -/
def crc64 (bs : List Byte) : Nat :=
  bs.foldl (fun c b => crcBits 0xC96C5795D7870F42 8 (c ^^^ b.toNat)) 0xFFFFFFFFFFFFFFFF ^^^ 0xFFFFFFFFFFFFFFFF

/-- The CRC-32C of R300 over a list of bytes: polynomial 0x1EDC6F41, reflected. -/
def crc32c (bs : List Byte) : Nat :=
  bs.foldl (fun c b => crcBits 0x82F63B78 8 (c ^^^ b.toNat)) 0xFFFFFFFF ^^^ 0xFFFFFFFF

/-- A product in GF(2⁸) with polynomial x⁸+x⁴+x³+x²+1, by `n` bits of `b` (R248). -/
def gfMulN : Nat → Nat → Nat → Nat
  | 0, _, _ => 0
  | n + 1, a, b =>
    let a2 := if a < 128 then 2 * a else (2 * a) ^^^ 0x11D
    (if b % 2 = 1 then a else 0) ^^^ gfMulN n a2 (b / 2)

/-- A product in GF(2⁸) (R248). -/
def gfMul (a b : Nat) : Nat := gfMulN 8 a b

/-- α to a power (R248). -/
def gfPow : Nat → Nat
  | 0 => 1
  | n + 1 => gfMul 2 (gfPow n)

/-- The inverse of an element of GF(2⁸) other than 0. -/
def gfInv (a : Nat) : Nat := ((List.range 256).find? (fun x => gfMul a x == 1)).getD 0

end Sys2Proof.Machine
end

