-- ==== Sys2Proof/Machine/RegMap.lean ====
section
/-!
DEFINITION. The register map: each register's key and fields (offset, width, access, update class, reset), from
the register tables of the chapters (R7, R8). A device register's key is its offset in register space; register
`o` of BAR 0 of instance `i` (R377) has key `(i + 1) * 2^32 + o`. The arrays are numbered 0-387: brick `b` of core
`c` is 4`c` + `b`, keystone `n` is 384 + `n`, the order of their blocks in register space.
-/

namespace Sys2Proof.Machine

/-- A field's place in its register. -/
structure Fld where
  lo : Nat
  w  : Nat
  deriving DecidableEq, Repr

/-- Access codes (R7). Bits in no field of a register are RSV. -/
inductive Acc where
  | ro | rw | wo | w1c
  deriving DecidableEq, Repr

/-- Update classes (R8). -/
inductive UpdClass where
  | l | s | q | none
  deriving DecidableEq, Repr

/-- A field of the register tables: place, access, class, reset value. -/
structure FldDesc where
  lo    : Nat
  w     : Nat
  acc   : Acc
  cls   : UpdClass
  reset : Nat
  deriving DecidableEq, Repr

/-- A register of the register tables: name, key of its first copy, the strides and counts of its copies, width
and fields. -/
structure RegDesc where
  name    : String
  base    : Nat
  stride1 : Nat
  count1  : Nat
  stride2 : Nat
  count2  : Nat
  width   : Nat
  flds    : List FldDesc
  deriving DecidableEq, Repr

/-- `ARR_ID` (03_arrays): kind, core and index of the array. -/
def regArrId (a : Nat) : Nat := 0x01000000 + a * 0x100
/-- `ARR_ID`.`KIND`. -/
def fldArrIdKind : Fld := ⟨15, 1⟩
/-- `ARR_ID`.`CORE`. -/
def fldArrIdCore : Fld := ⟨8, 7⟩
/-- `ARR_ID`.`INDEX`. -/
def fldArrIdIndex : Fld := ⟨0, 2⟩
/-- `ARR_CTRL` (03_arrays): start, stop, resume and stop boundary. -/
def regArrCtrl (a : Nat) : Nat := 0x01000008 + a * 0x100
/-- `ARR_CTRL`.`STOP_AT`. -/
def fldArrCtrlStopAt : Fld := ⟨6, 2⟩
/-- `ARR_CTRL`.`RESUME`. -/
def fldArrCtrlResume : Fld := ⟨2, 1⟩
/-- `ARR_CTRL`.`STOP`. -/
def fldArrCtrlStop : Fld := ⟨1, 1⟩
/-- `ARR_CTRL`.`GO`. -/
def fldArrCtrlGo : Fld := ⟨0, 1⟩
/-- `ARR_DESC_BASE` (03_arrays): address of the invocation descriptor; bits [5:0] must be 0. -/
def regArrDescBase (a : Nat) : Nat := 0x01000010 + a * 0x100
/-- `ARR_DESC_BASE`.`BASE`. -/
def fldArrDescBaseBase : Fld := ⟨6, 58⟩
/-- `ARR_SAVE_BASE` (03_arrays): address of the save area; bits [11:0] must be 0. -/
def regArrSaveBase (a : Nat) : Nat := 0x01000018 + a * 0x100
/-- `ARR_SAVE_BASE`.`BASE`. -/
def fldArrSaveBaseBase : Fld := ⟨12, 52⟩
/-- `ARR_STATUS` (03_arrays): state, last status and configuration reject. -/
def regArrStatus (a : Nat) : Nat := 0x01000020 + a * 0x100
/-- `ARR_STATUS`.`LAST_STATUS`. -/
def fldArrStatusLastStatus : Fld := ⟨16, 16⟩
/-- `ARR_STATUS`.`CFG_REJECT`. -/
def fldArrStatusCfgReject : Fld := ⟨5, 1⟩
/-- `ARR_STATUS`.`FAULT`. -/
def fldArrStatusFault : Fld := ⟨4, 1⟩
/-- `ARR_STATUS`.`QUEUED`. -/
def fldArrStatusQueued : Fld := ⟨3, 1⟩
/-- `ARR_STATUS`.`SAVED`. -/
def fldArrStatusSaved : Fld := ⟨2, 1⟩
/-- `ARR_STATUS`.`STOPPING`. -/
def fldArrStatusStopping : Fld := ⟨1, 1⟩
/-- `ARR_STATUS`.`BUSY`. -/
def fldArrStatusBusy : Fld := ⟨0, 1⟩
/-- `ARR_POS` (03_arrays): stream position of the running invocation. -/
def regArrPos (a : Nat) : Nat := 0x01000028 + a * 0x100
/-- `ARR_POS`.`GROUP`. -/
def fldArrPosGroup : Fld := ⟨40, 24⟩
/-- `ARR_POS`.`DTILE`. -/
def fldArrPosDtile : Fld := ⟨16, 24⟩
/-- `ARR_POS`.`COLUMN`. -/
def fldArrPosColumn : Fld := ⟨8, 8⟩
/-- `ARR_POS`.`PASS`. -/
def fldArrPosPass : Fld := ⟨6, 2⟩
/-- `ARR_WIDE_COUNT` (03_arrays): wide-pass increments since reset (R70). -/
def regArrWideCount (a : Nat) : Nat := 0x01000030 + a * 0x100
/-- `ARR_WIDE_COUNT`.`COUNT`. -/
def fldArrWideCountCount : Fld := ⟨0, 64⟩
/-- `ARR_BUSY_CYCLES` (03_arrays): cycles with at least one column entering, since reset. -/
def regArrBusyCycles (a : Nat) : Nat := 0x01000038 + a * 0x100
/-- `ARR_BUSY_CYCLES`.`COUNT`. -/
def fldArrBusyCyclesCount : Fld := ⟨0, 64⟩
/-- `ARR_CTX` (03_arrays): work class, instance and context of the invocation. -/
def regArrCtx (a : Nat) : Nat := 0x01000040 + a * 0x100
/-- `ARR_CTX`.`WORK_CLASS`. -/
def fldArrCtxWorkClass : Fld := ⟨11, 2⟩
/-- `ARR_CTX`.`INSTANCE`. -/
def fldArrCtxInstance : Fld := ⟨4, 7⟩
/-- `ARR_CTX`.`CONTEXT`. -/
def fldArrCtxContext : Fld := ⟨0, 4⟩
/-- `CORE_ID` (04_cores_streams): core and course number. -/
def regCoreId (a : Nat) : Nat := 0x02000000 + a * 0x1000
/-- `CORE_ID`.`COURSE`. -/
def fldCoreIdCourse : Fld := ⟨8, 4⟩
/-- `CORE_ID`.`CORE`. -/
def fldCoreIdCore : Fld := ⟨0, 7⟩
/-- `CORE_CTRL` (04_cores_streams): commit, restore, pre-empt, reclaim. -/
def regCoreCtrl (a : Nat) : Nat := 0x02000008 + a * 0x1000
/-- `CORE_CTRL`.`RECLAIM`. -/
def fldCoreCtrlReclaim : Fld := ⟨3, 1⟩
/-- `CORE_CTRL`.`PREEMPT`. -/
def fldCoreCtrlPreempt : Fld := ⟨2, 1⟩
/-- `CORE_CTRL`.`RESTORE`. -/
def fldCoreCtrlRestore : Fld := ⟨1, 1⟩
/-- `CORE_CTRL`.`COMMIT`. -/
def fldCoreCtrlCommit : Fld := ⟨0, 1⟩
/-- `CORE_STATUS` (04_cores_streams): state, lending, configuration reject. -/
def regCoreStatus (a : Nat) : Nat := 0x02000010 + a * 0x1000
/-- `CORE_STATUS`.`LAST_STATUS`. -/
def fldCoreStatusLastStatus : Fld := ⟨16, 16⟩
/-- `CORE_STATUS`.`CFG_REJECT`. -/
def fldCoreStatusCfgReject : Fld := ⟨5, 1⟩
/-- `CORE_STATUS`.`LENT`. -/
def fldCoreStatusLent : Fld := ⟨4, 1⟩
/-- `CORE_STATUS`.`LENT_SAVED`. -/
def fldCoreStatusLentSaved : Fld := ⟨3, 1⟩
/-- `CORE_STATUS`.`STATE`. -/
def fldCoreStatusState : Fld := ⟨0, 3⟩
/-- `CORE_PART` (04_cores_streams): owner, slot reservation, lend boundary. -/
def regCorePart (a : Nat) : Nat := 0x02000018 + a * 0x1000
/-- `CORE_PART`.`LEND_BASE`. -/
def fldCorePartLendBase : Fld := ⟨16, 4⟩
/-- `CORE_PART`.`SLOT_RESERVED`. -/
def fldCorePartSlotReserved : Fld := ⟨8, 1⟩
/-- `CORE_PART`.`OWNER`. -/
def fldCorePartOwner : Fld := ⟨0, 7⟩
/-- `CORE_STALL` (04_cores_streams): stall and page-wait limits. -/
def regCoreStall (a : Nat) : Nat := 0x02000020 + a * 0x1000
/-- `CORE_STALL`.`PAGE_LIMIT`. -/
def fldCoreStallPageLimit : Fld := ⟨16, 10⟩
/-- `CORE_STALL`.`STALL_LIMIT`. -/
def fldCoreStallStallLimit : Fld := ⟨0, 10⟩
/-- `CORE_SAVE_BASE` (04_cores_streams): core save area; bits [11:0] must be 0. -/
def regCoreSaveBase (a : Nat) : Nat := 0x02000028 + a * 0x1000
/-- `CORE_SAVE_BASE`.`BASE`. -/
def fldCoreSaveBaseBase : Fld := ⟨12, 52⟩
/-- `CORE_CTX` (04_cores_streams): work class, instance and context. -/
def regCoreCtx (a : Nat) : Nat := 0x02000030 + a * 0x1000
/-- `CORE_CTX`.`WORK_CLASS`. -/
def fldCoreCtxWorkClass : Fld := ⟨11, 2⟩
/-- `CORE_CTX`.`INSTANCE`. -/
def fldCoreCtxInstance : Fld := ⟨4, 7⟩
/-- `CORE_CTX`.`CONTEXT`. -/
def fldCoreCtxContext : Fld := ⟨0, 4⟩
/-- `CORE_SRAM_ERR` (04_cores_streams): corrected and poisoned word counts. -/
def regCoreSramErr (a : Nat) : Nat := 0x02000038 + a * 0x1000
/-- `CORE_SRAM_ERR`.`POISONED`. -/
def fldCoreSramErrPoisoned : Fld := ⟨32, 32⟩
/-- `CORE_SRAM_ERR`.`CORRECTED`. -/
def fldCoreSramErrCorrected : Fld := ⟨0, 32⟩
/-- `CORE_STALL_LAST` (04_cores_streams): context and blocked streams of the last stall. -/
def regCoreStallLast (a : Nat) : Nat := 0x02000040 + a * 0x1000
/-- `CORE_STALL_LAST`.`BLOCKED`. -/
def fldCoreStallLastBlocked : Fld := ⟨16, 16⟩
/-- `CORE_STALL_LAST`.`INSTANCE`. -/
def fldCoreStallLastInstance : Fld := ⟨4, 7⟩
/-- `CORE_STALL_LAST`.`CONTEXT`. -/
def fldCoreStallLastContext : Fld := ⟨0, 4⟩
/-- `CORE_STRM_CFG` (04_cores_streams): mode, direction, buffer of stream *s*. -/
def regCoreStrmCfg (a : Nat) (b : Nat) : Nat := 0x02000100 + a * 0x1000 + b * 0x40
/-- `CORE_STRM_CFG`.`BASE`. -/
def fldCoreStrmCfgBase : Fld := ⟨32, 22⟩
/-- `CORE_STRM_CFG`.`AHEAD`. -/
def fldCoreStrmCfgAhead : Fld := ⟨24, 8⟩
/-- `CORE_STRM_CFG`.`SIZE_LOG2`. -/
def fldCoreStrmCfgSizeLog2 : Fld := ⟨19, 5⟩
/-- `CORE_STRM_CFG`.`SLOTS`. -/
def fldCoreStrmCfgSlots : Fld := ⟨14, 5⟩
/-- `CORE_STRM_CFG`.`DIR`. -/
def fldCoreStrmCfgDir : Fld := ⟨5, 2⟩
/-- `CORE_STRM_CFG`.`MODE`. -/
def fldCoreStrmCfgMode : Fld := ⟨3, 2⟩
/-- `CORE_STRM_CFG`.`INDEX`. -/
def fldCoreStrmCfgIndex : Fld := ⟨2, 1⟩
/-- `CORE_STRM_CFG`.`ENABLE`. -/
def fldCoreStrmCfgEnable : Fld := ⟨0, 1⟩
/-- `CORE_STRM_DESC` (04_cores_streams): descriptor list of stream *s*. -/
def regCoreStrmDesc (a : Nat) (b : Nat) : Nat := 0x02000108 + a * 0x1000 + b * 0x40
/-- `CORE_STRM_DESC`.`DESC_BASE`. -/
def fldCoreStrmDescDescBase : Fld := ⟨32, 22⟩
/-- `CORE_STRM_DESC`.`DESC_COUNT`. -/
def fldCoreStrmDescDescCount : Fld := ⟨0, 16⟩
/-- `CORE_STRM_PTR` (04_cores_streams): head, tail and current descriptor. -/
def regCoreStrmPtr (a : Nat) (b : Nat) : Nat := 0x02000110 + a * 0x1000 + b * 0x40
/-- `CORE_STRM_PTR`.`DESC_NEXT`. -/
def fldCoreStrmPtrDescNext : Fld := ⟨48, 16⟩
/-- `CORE_STRM_PTR`.`TAIL`. -/
def fldCoreStrmPtrTail : Fld := ⟨24, 24⟩
/-- `CORE_STRM_PTR`.`HEAD`. -/
def fldCoreStrmPtrHead : Fld := ⟨0, 24⟩
/-- `CORE_STRM_STATE` (04_cores_streams): state and last status of stream *s*. -/
def regCoreStrmState (a : Nat) (b : Nat) : Nat := 0x02000118 + a * 0x1000 + b * 0x40
/-- `CORE_STRM_STATE`.`LAST_STATUS`. -/
def fldCoreStrmStateLastStatus : Fld := ⟨16, 16⟩
/-- `CORE_STRM_STATE`.`STATE`. -/
def fldCoreStrmStateState : Fld := ⟨0, 4⟩
/-- `SIG_CTRL` (05_signal_datapath): start, interrupt, interrupt enable. -/
def regSigCtrl (a : Nat) : Nat := 0x03000000 + a * 0x100
/-- `SIG_CTRL`.`IRQ_EN`. -/
def fldSigCtrlIrqEn : Fld := ⟨2, 1⟩
/-- `SIG_CTRL`.`IRQ`. -/
def fldSigCtrlIrq : Fld := ⟨1, 1⟩
/-- `SIG_CTRL`.`GO`. -/
def fldSigCtrlGo : Fld := ⟨0, 1⟩
/-- `SIG_STATUS` (05_signal_datapath): state, handler, configuration reject. -/
def regSigStatus (a : Nat) : Nat := 0x03000008 + a * 0x100
/-- `SIG_STATUS`.`LAST_STATUS`. -/
def fldSigStatusLastStatus : Fld := ⟨16, 16⟩
/-- `SIG_STATUS`.`CFG_REJECT`. -/
def fldSigStatusCfgReject : Fld := ⟨5, 1⟩
/-- `SIG_STATUS`.`IRQ_PENDING`. -/
def fldSigStatusIrqPending : Fld := ⟨4, 1⟩
/-- `SIG_STATUS`.`IN_HANDLER`. -/
def fldSigStatusInHandler : Fld := ⟨3, 1⟩
/-- `SIG_STATUS`.`STATE`. -/
def fldSigStatusState : Fld := ⟨0, 2⟩
/-- `SIG_ENTRY` (05_signal_datapath): start and handler indices. -/
def regSigEntry (a : Nat) : Nat := 0x03000010 + a * 0x100
/-- `SIG_ENTRY`.`VECTOR`. -/
def fldSigEntryVector : Fld := ⟨16, 11⟩
/-- `SIG_ENTRY`.`START`. -/
def fldSigEntryStart : Fld := ⟨0, 11⟩
/-- `SIG_PC` (05_signal_datapath): PC, LDEPTH and IRP. -/
def regSigPc (a : Nat) : Nat := 0x03000018 + a * 0x100
/-- `SIG_PC`.`IRP_DEPTH`. -/
def fldSigPcIrpDepth : Fld := ⟨28, 2⟩
/-- `SIG_PC`.`IRP_PC`. -/
def fldSigPcIrpPc : Fld := ⟨16, 11⟩
/-- `SIG_PC`.`LDEPTH`. -/
def fldSigPcLdepth : Fld := ⟨14, 2⟩
/-- `SIG_PC`.`PC`. -/
def fldSigPcPc : Fld := ⟨0, 11⟩
/-- `SIG_SAT_COUNT` (05_signal_datapath): saturation counts. -/
def regSigSatCount (a : Nat) : Nat := 0x03000020 + a * 0x100
/-- `SIG_SAT_COUNT`.`OUT_SAT`. -/
def fldSigSatCountOutSat : Fld := ⟨32, 32⟩
/-- `SIG_SAT_COUNT`.`ACC_SAT`. -/
def fldSigSatCountAccSat : Fld := ⟨0, 32⟩
/-- `SIG_LOOP0` (05_signal_datapath): loop level 0. -/
def regSigLoop0 (a : Nat) : Nat := 0x03000028 + a * 0x100
/-- `SIG_LOOP0`.`LCOUNT`. -/
def fldSigLoop0Lcount : Fld := ⟨32, 15⟩
/-- `SIG_LOOP0`.`LEND`. -/
def fldSigLoop0Lend : Fld := ⟨16, 11⟩
/-- `SIG_LOOP0`.`LSTART`. -/
def fldSigLoop0Lstart : Fld := ⟨0, 11⟩
/-- `SIG_LOOP1` (05_signal_datapath): loop level 1. -/
def regSigLoop1 (a : Nat) : Nat := 0x03000030 + a * 0x100
/-- `SIG_LOOP1`.`LCOUNT`. -/
def fldSigLoop1Lcount : Fld := ⟨32, 15⟩
/-- `SIG_LOOP1`.`LEND`. -/
def fldSigLoop1Lend : Fld := ⟨16, 11⟩
/-- `SIG_LOOP1`.`LSTART`. -/
def fldSigLoop1Lstart : Fld := ⟨0, 11⟩
/-- `SIG_LOOP2` (05_signal_datapath): loop level 2. -/
def regSigLoop2 (a : Nat) : Nat := 0x03000038 + a * 0x100
/-- `SIG_LOOP2`.`LCOUNT`. -/
def fldSigLoop2Lcount : Fld := ⟨32, 15⟩
/-- `SIG_LOOP2`.`LEND`. -/
def fldSigLoop2Lend : Fld := ⟨16, 11⟩
/-- `SIG_LOOP2`.`LSTART`. -/
def fldSigLoop2Lstart : Fld := ⟨0, 11⟩
/-- `RADIO_STATUS` (06_radio_processing): configuration reject, enabled carriers. -/
def regRadioStatus : Nat := 0x04000000
/-- `RADIO_STATUS`.`LAST_STATUS`. -/
def fldRadioStatusLastStatus : Fld := ⟨16, 16⟩
/-- `RADIO_STATUS`.`CARRIERS`. -/
def fldRadioStatusCarriers : Fld := ⟨1, 10⟩
/-- `RADIO_STATUS`.`CFG_REJECT`. -/
def fldRadioStatusCfgReject : Fld := ⟨0, 1⟩
/-- `RADIO_ADMIT` (06_radio_processing): reservation in force. -/
def regRadioAdmit : Nat := 0x04000008
/-- `RADIO_ADMIT`.`RES_CORES`. -/
def fldRadioAdmitResCores : Fld := ⟨40, 8⟩
/-- `RADIO_ADMIT`.`SOFT_MIB`. -/
def fldRadioAdmitSoftMib : Fld := ⟨16, 24⟩
/-- `RADIO_ADMIT`.`UNITS`. -/
def fldRadioAdmitUnits : Fld := ⟨0, 16⟩
/-- `RADIO_DARNER` (06_radio_processing): flash sharing of darners. -/
def regRadioDarner : Nat := 0x04000010
/-- `RADIO_DARNER`.`FLASH_SHARE`. -/
def fldRadioDarnerFlashShare : Fld := ⟨0, 1⟩
/-- `RADIO_ACCEL_FENCE` (06_radio_processing): fenced accelerators. -/
def regRadioAccelFence : Nat := 0x04000018
/-- `RADIO_ACCEL_FENCE`.`DETECTOR`. -/
def fldRadioAccelFenceDetector : Fld := ⟨36, 8⟩
/-- `RADIO_ACCEL_FENCE`.`TRANSFORM`. -/
def fldRadioAccelFenceTransform : Fld := ⟨28, 8⟩
/-- `RADIO_ACCEL_FENCE`.`POLAR`. -/
def fldRadioAccelFencePolar : Fld := ⟨24, 4⟩
/-- `RADIO_ACCEL_FENCE`.`ENCODER`. -/
def fldRadioAccelFenceEncoder : Fld := ⟨16, 8⟩
/-- `RADIO_ACCEL_FENCE`.`DARNER`. -/
def fldRadioAccelFenceDarner : Fld := ⟨0, 16⟩
/-- `RADIO_MISS` (06_radio_processing): slot-miss and re-dispatch counts. -/
def regRadioMiss : Nat := 0x04000020
/-- `RADIO_MISS`.`REDISPATCH`. -/
def fldRadioMissRedispatch : Fld := ⟨32, 32⟩
/-- `RADIO_MISS`.`MISS`. -/
def fldRadioMissMiss : Fld := ⟨0, 32⟩
/-- `RADIO_CAR_CTRL` (06_radio_processing): carrier start and stop. -/
def regRadioCarCtrl (a : Nat) : Nat := 0x04001000 + a * 0x40
/-- `RADIO_CAR_CTRL`.`ENABLE`. -/
def fldRadioCarCtrlEnable : Fld := ⟨0, 1⟩
/-- `RADIO_CAR_CFG` (06_radio_processing): kind, numerology, PRBs, soft slots, pair. -/
def regRadioCarCfg (a : Nat) : Nat := 0x04001008 + a * 0x40
/-- `RADIO_CAR_CFG`.`PAIR`. -/
def fldRadioCarCfgPair : Fld := ⟨32, 4⟩
/-- `RADIO_CAR_CFG`.`SOFT_SLOTS`. -/
def fldRadioCarCfgSoftSlots : Fld := ⟨20, 6⟩
/-- `RADIO_CAR_CFG`.`PRB`. -/
def fldRadioCarCfgPrb : Fld := ⟨8, 9⟩
/-- `RADIO_CAR_CFG`.`MU`. -/
def fldRadioCarCfgMu : Fld := ⟨6, 2⟩
/-- `RADIO_CAR_CFG`.`KIND`. -/
def fldRadioCarCfgKind : Fld := ⟨0, 2⟩
/-- `RADIO_CAR_GAIN` (06_radio_processing): UL and DL gain. -/
def regRadioCarGain (a : Nat) : Nat := 0x04001010 + a * 0x40
/-- `RADIO_CAR_GAIN`.`UL_GAIN`. -/
def fldRadioCarGainUlGain : Fld := ⟨16, 11⟩
/-- `RADIO_CAR_GAIN`.`DL_GAIN`. -/
def fldRadioCarGainDlGain : Fld := ⟨0, 11⟩
/-- `RADIO_CAR_RXREF` (06_radio_processing): level reference. -/
def regRadioCarRxref (a : Nat) : Nat := 0x04001018 + a * 0x40
/-- `RADIO_CAR_RXREF`.`RX_REF`. -/
def fldRadioCarRxrefRxRef : Fld := ⟨0, 16⟩
/-- `RADIO_CAR_TRK` (06_radio_processing): tracking controls. -/
def regRadioCarTrk (a : Nat) : Nat := 0x04001020 + a * 0x40
/-- `RADIO_CAR_TRK`.`CFO_CORR`. -/
def fldRadioCarTrkCfoCorr : Fld := ⟨9, 1⟩
/-- `RADIO_CAR_TRK`.`TA_CORR`. -/
def fldRadioCarTrkTaCorr : Fld := ⟨8, 1⟩
/-- `RADIO_CAR_TRK`.`TRK_SHIFT`. -/
def fldRadioCarTrkTrkShift : Fld := ⟨0, 3⟩
/-- `RADIO_CAR_PRACH` (06_radio_processing): detection threshold. -/
def regRadioCarPrach (a : Nat) : Nat := 0x04001028 + a * 0x40
/-- `RADIO_CAR_PRACH`.`THRESH`. -/
def fldRadioCarPrachThresh : Fld := ⟨0, 16⟩
/-- `RADIO_CAR_LDPC` (06_radio_processing): darner iteration limit. -/
def regRadioCarLdpc (a : Nat) : Nat := 0x04001030 + a * 0x40
/-- `RADIO_CAR_LDPC`.`MAX_ITER`. -/
def fldRadioCarLdpcMaxIter : Fld := ⟨0, 5⟩
/-- `RADIO_CAR_STATUS` (06_radio_processing): state and misses. -/
def regRadioCarStatus (a : Nat) : Nat := 0x04001038 + a * 0x40
/-- `RADIO_CAR_STATUS`.`MISSES`. -/
def fldRadioCarStatusMisses : Fld := ⟨16, 16⟩
/-- `RADIO_CAR_STATUS`.`STATE`. -/
def fldRadioCarStatusState : Fld := ⟨0, 2⟩
/-- `FHU_STATUS` (07_fronthaul_l2): last status, configuration reject. -/
def regFhuStatus : Nat := 0x05000000
/-- `FHU_STATUS`.`LAST_STATUS`. -/
def fldFhuStatusLastStatus : Fld := ⟨16, 16⟩
/-- `FHU_STATUS`.`CFG_REJECT`. -/
def fldFhuStatusCfgReject : Fld := ⟨0, 1⟩
/-- `FHU_GRP_CFG` (07_fronthaul_l2): layout and negotiation of group *g*. -/
def regFhuGrpCfg (a : Nat) : Nat := 0x05001000 + a * 0x40
/-- `FHU_GRP_CFG`.`AN_EN`. -/
def fldFhuGrpCfgAnEn : Fld := ⟨4, 1⟩
/-- `FHU_GRP_CFG`.`LAYOUT`. -/
def fldFhuGrpCfgLayout : Fld := ⟨0, 2⟩
/-- `FHU_GRP_STATE` (07_fronthaul_l2): port states and counters of group *g*. -/
def regFhuGrpState (a : Nat) : Nat := 0x05001008 + a * 0x40
/-- `FHU_GRP_STATE`.`RX_UNMATCHED`. -/
def fldFhuGrpStateRxUnmatched : Fld := ⟨48, 16⟩
/-- `FHU_GRP_STATE`.`FEC_UNCORR`. -/
def fldFhuGrpStateFecUncorr : Fld := ⟨32, 16⟩
/-- `FHU_GRP_STATE`.`PORTS`. -/
def fldFhuGrpStatePorts : Fld := ⟨0, 16⟩
/-- `FHU_CAR_NET` (07_fronthaul_l2): port, VLAN, eAxC ranges of carrier *n*. -/
def regFhuCarNet (a : Nat) : Nat := 0x05002000 + a * 0x40
/-- `FHU_CAR_NET`.`EAXC_PRACH`. -/
def fldFhuCarNetEaxcPrach : Fld := ⟨48, 16⟩
/-- `FHU_CAR_NET`.`EAXC_BASE`. -/
def fldFhuCarNetEaxcBase : Fld := ⟨32, 16⟩
/-- `FHU_CAR_NET`.`VLAN`. -/
def fldFhuCarNetVlan : Fld := ⟨16, 12⟩
/-- `FHU_CAR_NET`.`PCP`. -/
def fldFhuCarNetPcp : Fld := ⟨13, 3⟩
/-- `FHU_CAR_NET`.`PORT`. -/
def fldFhuCarNetPort : Fld := ⟨0, 5⟩
/-- `FHU_CAR_MAC` (07_fronthaul_l2): radio-unit MAC address. -/
def regFhuCarMac (a : Nat) : Nat := 0x05002008 + a * 0x40
/-- `FHU_CAR_MAC`.`RU_MAC`. -/
def fldFhuCarMacRuMac : Fld := ⟨0, 48⟩
/-- `FHU_CAR_BFP` (07_fronthaul_l2): mantissa widths. -/
def regFhuCarBfp (a : Nat) : Nat := 0x05002010 + a * 0x40
/-- `FHU_CAR_BFP`.`UL_MW`. -/
def fldFhuCarBfpUlMw : Fld := ⟨4, 4⟩
/-- `FHU_CAR_BFP`.`DL_MW`. -/
def fldFhuCarBfpDlMw : Fld := ⟨0, 4⟩
/-- `FHU_CAR_WIN` (07_fronthaul_l2): C-plane advance and windows. -/
def regFhuCarWin (a : Nat) : Nat := 0x05002018 + a * 0x40
/-- `FHU_CAR_WIN`.`CP_ADV`. -/
def fldFhuCarWinCpAdv : Fld := ⟨36, 12⟩
/-- `FHU_CAR_WIN`.`TX_MAX`. -/
def fldFhuCarWinTxMax : Fld := ⟨24, 12⟩
/-- `FHU_CAR_WIN`.`TX_MIN`. -/
def fldFhuCarWinTxMin : Fld := ⟨12, 12⟩
/-- `FHU_CAR_WIN`.`RX_MAX`. -/
def fldFhuCarWinRxMax : Fld := ⟨0, 12⟩
/-- `FHU_CAR_LEAD` (07_fronthaul_l2): request cutoffs, indication deadline. -/
def regFhuCarLead (a : Nat) : Nat := 0x05002020 + a * 0x40
/-- `FHU_CAR_LEAD`.`DL_LEAD`. -/
def fldFhuCarLeadDlLead : Fld := ⟨20, 12⟩
/-- `FHU_CAR_LEAD`.`UL_LEAD`. -/
def fldFhuCarLeadUlLead : Fld := ⟨8, 12⟩
/-- `FHU_CAR_LEAD`.`IND_SLOTS`. -/
def fldFhuCarLeadIndSlots : Fld := ⟨0, 4⟩
/-- `FHU_CAR_CNT` (07_fronthaul_l2): carrier counters. -/
def regFhuCarCnt (a : Nat) : Nat := 0x05002028 + a * 0x40
/-- `FHU_CAR_CNT`.`TX_DROP`. -/
def fldFhuCarCntTxDrop : Fld := ⟨48, 16⟩
/-- `FHU_CAR_CNT`.`RX_OUTSIDE`. -/
def fldFhuCarCntRxOutside : Fld := ⟨32, 16⟩
/-- `FHU_CAR_CNT`.`RX_SEQ_ERR`. -/
def fldFhuCarCntRxSeqErr : Fld := ⟨16, 16⟩
/-- `FHU_CAR_CNT`.`RX_MISSING`. -/
def fldFhuCarCntRxMissing : Fld := ⟨0, 16⟩
/-- `TIME_SP_STATUS` (08_scheduling): state, free spares, configuration reject. -/
def regTimeSpStatus : Nat := 0x09008000
/-- `TIME_SP_STATUS`.`LAST_STATUS`. -/
def fldTimeSpStatusLastStatus : Fld := ⟨16, 16⟩
/-- `TIME_SP_STATUS`.`SPARES`. -/
def fldTimeSpStatusSpares : Fld := ⟨6, 2⟩
/-- `TIME_SP_STATUS`.`CFG_REJECT`. -/
def fldTimeSpStatusCfgReject : Fld := ⟨5, 1⟩
/-- `TIME_SP_STATUS`.`STATE`. -/
def fldTimeSpStatusState : Fld := ⟨0, 2⟩
/-- `TIME_SP_LEND` (08_scheduling): lending control. -/
def regTimeSpLend : Nat := 0x09008008
/-- `TIME_SP_LEND`.`MIN_GAP`. -/
def fldTimeSpLendMinGap : Fld := ⟨4, 12⟩
/-- `TIME_SP_LEND`.`LEND_EN`. -/
def fldTimeSpLendLendEn : Fld := ⟨0, 1⟩
/-- `TIME_SP_RES_LO` (08_scheduling): reserved cores 0–63. -/
def regTimeSpResLo : Nat := 0x09008010
/-- `TIME_SP_RES_LO`.`CORES`. -/
def fldTimeSpResLoCores : Fld := ⟨0, 64⟩
/-- `TIME_SP_RES_HI` (08_scheduling): reserved cores 64–95. -/
def regTimeSpResHi : Nat := 0x09008018
/-- `TIME_SP_RES_HI`.`CORES`. -/
def fldTimeSpResHiCores : Fld := ⟨0, 32⟩
/-- `TIME_SP_SPARE_LO` (08_scheduling): spare cores 0–63. -/
def regTimeSpSpareLo : Nat := 0x09008020
/-- `TIME_SP_SPARE_LO`.`CORES`. -/
def fldTimeSpSpareLoCores : Fld := ⟨0, 64⟩
/-- `TIME_SP_SPARE_HI` (08_scheduling): spare cores 64–95. -/
def regTimeSpSpareHi : Nat := 0x09008028
/-- `TIME_SP_SPARE_HI`.`CORES`. -/
def fldTimeSpSpareHiCores : Fld := ⟨0, 32⟩
/-- `TIME_SP_POOL_LO` (08_scheduling): replacement pool, cores 0–63. -/
def regTimeSpPoolLo : Nat := 0x09008030
/-- `TIME_SP_POOL_LO`.`POOL`. -/
def fldTimeSpPoolLoPool : Fld := ⟨0, 64⟩
/-- `TIME_SP_POOL_HI` (08_scheduling): replacement pool, cores 64–95. -/
def regTimeSpPoolHi : Nat := 0x09008038
/-- `TIME_SP_POOL_HI`.`POOL`. -/
def fldTimeSpPoolHiPool : Fld := ⟨0, 32⟩
/-- `TIME_SP_COUNT` (08_scheduling): loans and reclaims. -/
def regTimeSpCount : Nat := 0x09008040
/-- `TIME_SP_COUNT`.`LENDS`. -/
def fldTimeSpCountLends : Fld := ⟨32, 32⟩
/-- `TIME_SP_COUNT`.`RECLAIMS`. -/
def fldTimeSpCountReclaims : Fld := ⟨0, 32⟩
/-- `TIME_SP_RECLAIM_MAX` (08_scheduling): longest reclaim. -/
def regTimeSpReclaimMax : Nat := 0x09008048
/-- `TIME_SP_RECLAIM_MAX`.`RECLAIM_MAX`. -/
def fldTimeSpReclaimMaxReclaimMax : Fld := ⟨0, 16⟩
/-- `PIER_ID` (09_piers): pier number. -/
def regPierId (a : Nat) : Nat := 0x06000000 + a * 0x1000
/-- `PIER_ID`.`PIER`. -/
def fldPierIdPier : Fld := ⟨0, 3⟩
/-- `PIER_STATUS` (09_piers): state, spared channel, configuration reject. -/
def regPierStatus (a : Nat) : Nat := 0x06000008 + a * 0x1000
/-- `PIER_STATUS`.`LAST_STATUS`. -/
def fldPierStatusLastStatus : Fld := ⟨16, 16⟩
/-- `PIER_STATUS`.`SPARE_CH`. -/
def fldPierStatusSpareCh : Fld := ⟨6, 5⟩
/-- `PIER_STATUS`.`CFG_REJECT`. -/
def fldPierStatusCfgReject : Fld := ⟨5, 1⟩
/-- `PIER_STATUS`.`STATE`. -/
def fldPierStatusState : Fld := ⟨0, 3⟩
/-- `PIER_CFG` (09_piers): ECC mode. -/
def regPierCfg (a : Nat) : Nat := 0x06000010 + a * 0x1000
/-- `PIER_CFG`.`ECC_MODE`. -/
def fldPierCfgEccMode : Fld := ⟨0, 1⟩
/-- `PIER_SCRUB` (09_piers): scrubbing control. -/
def regPierScrub (a : Nat) : Nat := 0x06000018 + a * 0x1000
/-- `PIER_SCRUB`.`SCRUB_HOURS`. -/
def fldPierScrubScrubHours : Fld := ⟨8, 8⟩
/-- `PIER_SCRUB`.`SCRUB_EN`. -/
def fldPierScrubScrubEn : Fld := ⟨0, 1⟩
/-- `PIER_SPARE_CFG` (09_piers): row sparing control. -/
def regPierSpareCfg (a : Nat) : Nat := 0x06000020 + a * 0x1000
/-- `PIER_SPARE_CFG`.`ROW_THRESH`. -/
def fldPierSpareCfgRowThresh : Fld := ⟨8, 8⟩
/-- `PIER_SPARE_CFG`.`AUTO_ROW`. -/
def fldPierSpareCfgAutoRow : Fld := ⟨0, 1⟩
/-- `PIER_ERR` (09_piers): corrected and poisoned counts. -/
def regPierErr (a : Nat) : Nat := 0x06000028 + a * 0x1000
/-- `PIER_ERR`.`POISONED`. -/
def fldPierErrPoisoned : Fld := ⟨32, 32⟩
/-- `PIER_ERR`.`CORRECTED`. -/
def fldPierErrCorrected : Fld := ⟨0, 32⟩
/-- `PIER_SCRUB_STATE` (09_piers): scrub progress. -/
def regPierScrubState (a : Nat) : Nat := 0x06000030 + a * 0x1000
/-- `PIER_SCRUB_STATE`.`PASSES`. -/
def fldPierScrubStatePasses : Fld := ⟨48, 16⟩
/-- `PIER_SCRUB_STATE`.`LAST_MIN`. -/
def fldPierScrubStateLastMin : Fld := ⟨32, 16⟩
/-- `PIER_SCRUB_STATE`.`PROGRESS`. -/
def fldPierScrubStateProgress : Fld := ⟨0, 26⟩
/-- `PIER_LINK` (09_piers): link spares and groups out of service. -/
def regPierLink (a : Nat) : Nat := 0x06000038 + a * 0x1000
/-- `PIER_LINK`.`SPARE_USED`. -/
def fldPierLinkSpareUsed : Fld := ⟨32, 32⟩
/-- `PIER_LINK`.`GROUP_OFF`. -/
def fldPierLinkGroupOff : Fld := ⟨0, 32⟩
/-- `PIER_CH_CTRL` (09_piers): retrain, spare channel *c*. -/
def regPierChCtrl (a : Nat) (b : Nat) : Nat := 0x06000100 + a * 0x1000 + b * 0x20
/-- `PIER_CH_CTRL`.`SPARE`. -/
def fldPierChCtrlSpare : Fld := ⟨1, 1⟩
/-- `PIER_CH_CTRL`.`RETRAIN`. -/
def fldPierChCtrlRetrain : Fld := ⟨0, 1⟩
/-- `PIER_CH_STATE` (09_piers): state of channel *c*. -/
def regPierChState (a : Nat) (b : Nat) : Nat := 0x06000108 + a * 0x1000 + b * 0x20
/-- `PIER_CH_STATE`.`RETRAINS`. -/
def fldPierChStateRetrains : Fld := ⟨48, 16⟩
/-- `PIER_CH_STATE`.`ROWS_SPARED`. -/
def fldPierChStateRowsSpared : Fld := ⟨32, 16⟩
/-- `PIER_CH_STATE`.`STATE`. -/
def fldPierChStateState : Fld := ⟨0, 3⟩
/-- `PIER_CH_ERR` (09_piers): error counts of channel *c*. -/
def regPierChErr (a : Nat) (b : Nat) : Nat := 0x06000110 + a * 0x1000 + b * 0x20
/-- `PIER_CH_ERR`.`POISONED`. -/
def fldPierChErrPoisoned : Fld := ⟨32, 32⟩
/-- `PIER_CH_ERR`.`CORRECTED`. -/
def fldPierChErrCorrected : Fld := ⟨0, 32⟩
/-- `TIER_STATUS` (10_tiers_flash): state, last status, configuration reject. -/
def regTierStatus : Nat := 0x07000000
/-- `TIER_STATUS`.`LAST_STATUS`. -/
def fldTierStatusLastStatus : Fld := ⟨16, 16⟩
/-- `TIER_STATUS`.`CFG_REJECT`. -/
def fldTierStatusCfgReject : Fld := ⟨5, 1⟩
/-- `TIER_STATUS`.`STATE`. -/
def fldTierStatusState : Fld := ⟨0, 1⟩
/-- `TIER_MAP_BASE` (10_tiers_flash): pier-window offset of the map. -/
def regTierMapBase : Nat := 0x07000008
/-- `TIER_MAP_BASE`.`BASE`. -/
def fldTierMapBaseBase : Fld := ⟨0, 39⟩
/-- `TIER_PREFETCH` (10_tiers_flash): lookahead and fetch limit. -/
def regTierPrefetch : Nat := 0x07000010
/-- `TIER_PREFETCH`.`FETCH_LIMIT`. -/
def fldTierPrefetchFetchLimit : Fld := ⟨16, 10⟩
/-- `TIER_PREFETCH`.`LOOKAHEAD`. -/
def fldTierPrefetchLookahead : Fld := ⟨0, 4⟩
/-- `TIER_COUNT` (10_tiers_flash): promotions. -/
def regTierCount : Nat := 0x07000018
/-- `TIER_COUNT`.`ONDEMAND`. -/
def fldTierCountOndemand : Fld := ⟨32, 32⟩
/-- `TIER_COUNT`.`PROMOTIONS`. -/
def fldTierCountPromotions : Fld := ⟨0, 32⟩
/-- `TIER_LOST` (10_tiers_flash): losses and rebuilds. -/
def regTierLost : Nat := 0x07000020
/-- `TIER_LOST`.`REWRITES`. -/
def fldTierLostRewrites : Fld := ⟨32, 32⟩
/-- `TIER_LOST`.`LOST`. -/
def fldTierLostLost : Fld := ⟨0, 32⟩
/-- `FLS_STATUS` (10_tiers_flash): last status, configuration reject. -/
def regFlsStatus : Nat := 0x07008000
/-- `FLS_STATUS`.`LAST_STATUS`. -/
def fldFlsStatusLastStatus : Fld := ⟨16, 16⟩
/-- `FLS_STATUS`.`CFG_REJECT`. -/
def fldFlsStatusCfgReject : Fld := ⟨5, 1⟩
/-- `FLS_STATUS`.`LOST_CH`. -/
def fldFlsStatusLostCh : Fld := ⟨0, 2⟩
/-- `FLS_WEIGHTS` (10_tiers_flash): weights region. -/
def regFlsWeights : Nat := 0x07008008
/-- `FLS_WEIGHTS`.`FIRST_BLOCK`. -/
def fldFlsWeightsFirstBlock : Fld := ⟨32, 32⟩
/-- `FLS_WEIGHTS`.`BLOCKS`. -/
def fldFlsWeightsBlocks : Fld := ⟨0, 32⟩
/-- `FLS_SOFT` (10_tiers_flash): soft path controls. -/
def regFlsSoft : Nat := 0x07008010
/-- `FLS_SOFT`.`LLR_STRONG`. -/
def fldFlsSoftLlrStrong : Fld := ⟨24, 8⟩
/-- `FLS_SOFT`.`LLR_WEAK`. -/
def fldFlsSoftLlrWeak : Fld := ⟨16, 8⟩
/-- `FLS_SOFT`.`SOFT_WAIT`. -/
def fldFlsSoftSoftWait : Fld := ⟨8, 8⟩
/-- `FLS_SOFT`.`FLS_ITER`. -/
def fldFlsSoftFlsIter : Fld := ⟨0, 5⟩
/-- `FLS_RETIRE` (10_tiers_flash): retirement controls. -/
def regFlsRetire : Nat := 0x07008018
/-- `FLS_RETIRE`.`SPARE_LOW`. -/
def fldFlsRetireSpareLow : Fld := ⟨8, 8⟩
/-- `FLS_RETIRE`.`RETIRE_SOFT`. -/
def fldFlsRetireRetireSoft : Fld := ⟨0, 4⟩
/-- `FLS_ERR` (10_tiers_flash): soft corrections and rebuilds. -/
def regFlsErr : Nat := 0x07008020
/-- `FLS_ERR`.`REBUILT`. -/
def fldFlsErrRebuilt : Fld := ⟨32, 32⟩
/-- `FLS_ERR`.`SOFT_CORRECTED`. -/
def fldFlsErrSoftCorrected : Fld := ⟨0, 32⟩
/-- `FLS_CH_CTRL` (10_tiers_flash): recalibrate channel *c*. -/
def regFlsChCtrl (a : Nat) : Nat := 0x07008100 + a * 0x10
/-- `FLS_CH_CTRL`.`RECAL`. -/
def fldFlsChCtrlRecal : Fld := ⟨0, 1⟩
/-- `FLS_CH_STATE` (10_tiers_flash): state of channel *c*. -/
def regFlsChState (a : Nat) : Nat := 0x07008108 + a * 0x10
/-- `FLS_CH_STATE`.`RETIRED`. -/
def fldFlsChStateRetired : Fld := ⟨48, 16⟩
/-- `FLS_CH_STATE`.`SPARES`. -/
def fldFlsChStateSpares : Fld := ⟨32, 16⟩
/-- `FLS_CH_STATE`.`SOFT_RETRIES`. -/
def fldFlsChStateSoftRetries : Fld := ⟨16, 16⟩
/-- `FLS_CH_STATE`.`STATE`. -/
def fldFlsChStateState : Fld := ⟨0, 3⟩
/-- `TRN_STATUS` (11_trean): ports up, fenced, configuration reject. -/
def regTrnStatus : Nat := 0x08000000
/-- `TRN_STATUS`.`LAST_STATUS`. -/
def fldTrnStatusLastStatus : Fld := ⟨16, 16⟩
/-- `TRN_STATUS`.`PORTS_UP`. -/
def fldTrnStatusPortsUp : Fld := ⟨8, 8⟩
/-- `TRN_STATUS`.`CFG_REJECT`. -/
def fldTrnStatusCfgReject : Fld := ⟨5, 1⟩
/-- `TRN_STATUS`.`FENCED`. -/
def fldTrnStatusFenced : Fld := ⟨0, 1⟩
/-- `TRN_ID` (11_trean): endpoint ID. -/
def regTrnId : Nat := 0x08000008
/-- `TRN_ID`.`ENDPOINT`. -/
def fldTrnIdEndpoint : Fld := ⟨0, 16⟩
/-- `TRN_FM` (11_trean): fabric manager endpoint. -/
def regTrnFm : Nat := 0x08000010
/-- `TRN_FM`.`FM_VALID`. -/
def fldTrnFmFmValid : Fld := ⟨16, 1⟩
/-- `TRN_FM`.`FM_ENDPOINT`. -/
def fldTrnFmFmEndpoint : Fld := ⟨0, 16⟩
/-- `TRN_TOPO` (11_trean): switched or mesh. -/
def regTrnTopo : Nat := 0x08000018
/-- `TRN_TOPO`.`MESH`. -/
def fldTrnTopoMesh : Fld := ⟨4, 1⟩
/-- `TRN_TOPO`.`MESH_N`. -/
def fldTrnTopoMeshN : Fld := ⟨0, 4⟩
/-- `TRN_GW` (11_trean): gateway role. -/
def regTrnGw : Nat := 0x08000020
/-- `TRN_GW`.`GW_EN`. -/
def fldTrnGwGwEn : Fld := ⟨8, 1⟩
/-- `TRN_GW`.`GW_PORTS`. -/
def fldTrnGwGwPorts : Fld := ⟨0, 8⟩
/-- `TRN_TIMING` (11_trean): read limit. -/
def regTrnTiming : Nat := 0x08000028
/-- `TRN_TIMING`.`LOAD_LIMIT`. -/
def fldTrnTimingLoadLimit : Fld := ⟨0, 14⟩
/-- `TRN_EPOCH` (11_trean): current and admission epochs. -/
def regTrnEpoch : Nat := 0x08000030
/-- `TRN_EPOCH`.`ADMIT_EPOCH`. -/
def fldTrnEpochAdmitEpoch : Fld := ⟨32, 32⟩
/-- `TRN_EPOCH`.`EPOCH`. -/
def fldTrnEpochEpoch : Fld := ⟨0, 32⟩
/-- `TRN_HOME_CNT` (11_trean): home-agent counts. -/
def regTrnHomeCnt : Nat := 0x08000038
/-- `TRN_HOME_CNT`.`CACHE_HITS`. -/
def fldTrnHomeCntCacheHits : Fld := ⟨32, 32⟩
/-- `TRN_HOME_CNT`.`ACCEPTS`. -/
def fldTrnHomeCntAccepts : Fld := ⟨0, 32⟩
/-- `TRN_REQ_CNT` (11_trean): requester counts. -/
def regTrnReqCnt : Nat := 0x08000040
/-- `TRN_REQ_CNT`.`OUTCOME_UNKNOWN`. -/
def fldTrnReqCntOutcomeUnknown : Fld := ⟨48, 16⟩
/-- `TRN_REQ_CNT`.`READ_TIMEOUT`. -/
def fldTrnReqCntReadTimeout : Fld := ⟨32, 16⟩
/-- `TRN_REQ_CNT`.`RETRIES`. -/
def fldTrnReqCntRetries : Fld := ⟨0, 32⟩
/-- `TRN_CHOICE` (11_trean): timing-dependent choices at this device's homes. -/
def regTrnChoice : Nat := 0x08000048
/-- `TRN_CHOICE`.`FFADD_APPLIED`. -/
def fldTrnChoiceFfaddApplied : Fld := ⟨32, 32⟩
/-- `TRN_CHOICE`.`STORE_RACES`. -/
def fldTrnChoiceStoreRaces : Fld := ⟨0, 32⟩
/-- `TRN_DROP_CNT` (11_trean): dropped packets and messages. -/
def regTrnDropCnt : Nat := 0x08000050
/-- `TRN_DROP_CNT`.`FENCE_DROP`. -/
def fldTrnDropCntFenceDrop : Fld := ⟨32, 32⟩
/-- `TRN_DROP_CNT`.`MGT_DROP`. -/
def fldTrnDropCntMgtDrop : Fld := ⟨0, 32⟩
/-- `TRN_PORT_CFG` (11_trean): advertised modes. -/
def regTrnPortCfg (a : Nat) : Nat := 0x08001000 + a * 0x100
/-- `TRN_PORT_CFG`.`ADV_FEC`. -/
def fldTrnPortCfgAdvFec : Fld := ⟨8, 3⟩
/-- `TRN_PORT_CFG`.`ADV_LANES`. -/
def fldTrnPortCfgAdvLanes : Fld := ⟨4, 3⟩
/-- `TRN_PORT_CFG`.`ADV_RATE`. -/
def fldTrnPortCfgAdvRate : Fld := ⟨0, 3⟩
/-- `TRN_PORT_CTRL` (11_trean): enable, retrain, recalibrate. -/
def regTrnPortCtrl (a : Nat) : Nat := 0x08001008 + a * 0x100
/-- `TRN_PORT_CTRL`.`RECAL`. -/
def fldTrnPortCtrlRecal : Fld := ⟨2, 4⟩
/-- `TRN_PORT_CTRL`.`RETRAIN`. -/
def fldTrnPortCtrlRetrain : Fld := ⟨1, 1⟩
/-- `TRN_PORT_CTRL`.`ENABLE`. -/
def fldTrnPortCtrlEnable : Fld := ⟨0, 1⟩
/-- `TRN_PORT_STATE` (11_trean): state and mode. -/
def regTrnPortState (a : Nat) : Nat := 0x08001010 + a * 0x100
/-- `TRN_PORT_STATE`.`PEER`. -/
def fldTrnPortStatePeer : Fld := ⟨48, 16⟩
/-- `TRN_PORT_STATE`.`FEC`. -/
def fldTrnPortStateFec : Fld := ⟨42, 2⟩
/-- `TRN_PORT_STATE`.`LANES`. -/
def fldTrnPortStateLanes : Fld := ⟨40, 2⟩
/-- `TRN_PORT_STATE`.`RATE`. -/
def fldTrnPortStateRate : Fld := ⟨38, 2⟩
/-- `TRN_PORT_STATE`.`LANES_ACTIVE`. -/
def fldTrnPortStateLanesActive : Fld := ⟨32, 4⟩
/-- `TRN_PORT_STATE`.`STATE`. -/
def fldTrnPortStateState : Fld := ⟨0, 4⟩
/-- `TRN_PORT_TX` (11_trean): flits sent. -/
def regTrnPortTx (a : Nat) : Nat := 0x08001018 + a * 0x100
/-- `TRN_PORT_TX`.`FLITS`. -/
def fldTrnPortTxFlits : Fld := ⟨0, 64⟩
/-- `TRN_PORT_RX` (11_trean): flits received. -/
def regTrnPortRx (a : Nat) : Nat := 0x08001020 + a * 0x100
/-- `TRN_PORT_RX`.`FLITS`. -/
def fldTrnPortRxFlits : Fld := ⟨0, 64⟩
/-- `TRN_PORT_ERR` (11_trean): FEC and CRC counts. -/
def regTrnPortErr (a : Nat) : Nat := 0x08001028 + a * 0x100
/-- `TRN_PORT_ERR`.`FEC_CORR`. -/
def fldTrnPortErrFecCorr : Fld := ⟨32, 32⟩
/-- `TRN_PORT_ERR`.`FEC_UNCORR`. -/
def fldTrnPortErrFecUncorr : Fld := ⟨16, 16⟩
/-- `TRN_PORT_ERR`.`CRC_ERR`. -/
def fldTrnPortErrCrcErr : Fld := ⟨0, 16⟩
/-- `TRN_PORT_RETRY` (11_trean): replays, retrains, aged packets. -/
def regTrnPortRetry (a : Nat) : Nat := 0x08001030 + a * 0x100
/-- `TRN_PORT_RETRY`.`REPLAYS`. -/
def fldTrnPortRetryReplays : Fld := ⟨32, 32⟩
/-- `TRN_PORT_RETRY`.`RETRAINS`. -/
def fldTrnPortRetryRetrains : Fld := ⟨16, 16⟩
/-- `TRN_PORT_RETRY`.`AGED`. -/
def fldTrnPortRetryAged : Fld := ⟨0, 16⟩
/-- `TRN_PORT_STALL` (11_trean): credit stall time. -/
def regTrnPortStall (a : Nat) : Nat := 0x08001038 + a * 0x100
/-- `TRN_PORT_STALL`.`CREDIT_STALL`. -/
def fldTrnPortStallCreditStall : Fld := ⟨0, 64⟩
/-- `TIME_STATUS` (12_time): followed domains, SyncE, configuration reject. -/
def regTimeStatus : Nat := 0x09000000
/-- `TIME_STATUS`.`LAST_STATUS`. -/
def fldTimeStatusLastStatus : Fld := ⟨16, 16⟩
/-- `TIME_STATUS`.`SYNCE_STATE`. -/
def fldTimeStatusSynceState : Fld := ⟨8, 2⟩
/-- `TIME_STATUS`.`TB1_FOLLOW`. -/
def fldTimeStatusTb1Follow : Fld := ⟨6, 2⟩
/-- `TIME_STATUS`.`CFG_REJECT`. -/
def fldTimeStatusCfgReject : Fld := ⟨5, 1⟩
/-- `TIME_STATUS`.`TB0_FOLLOW`. -/
def fldTimeStatusTb0Follow : Fld := ⟨0, 2⟩
/-- `TIME_SEL` (12_time): sources, domain enables, SyncE. -/
def regTimeSel : Nat := 0x09000008
/-- `TIME_SEL`.`SYNCE_EN`. -/
def fldTimeSelSynceEn : Fld := ⟨21, 1⟩
/-- `TIME_SEL`.`SYNCE_PORT`. -/
def fldTimeSelSyncePort : Fld := ⟨16, 5⟩
/-- `TIME_SEL`.`DOM_EN`. -/
def fldTimeSelDomEn : Fld := ⟨12, 2⟩
/-- `TIME_SEL`.`TB3_SRC`. -/
def fldTimeSelTb3Src : Fld := ⟨8, 2⟩
/-- `TIME_SEL`.`TB1_SRC`. -/
def fldTimeSelTb1Src : Fld := ⟨4, 2⟩
/-- `TIME_SEL`.`TB0_SRC`. -/
def fldTimeSelTb0Src : Fld := ⟨0, 2⟩
/-- `TIME_ADJ` (12_time): slew and step limits. -/
def regTimeAdj : Nat := 0x09000010
/-- `TIME_ADJ`.`STEP_LIM`. -/
def fldTimeAdjStepLim : Fld := ⟨16, 16⟩
/-- `TIME_ADJ`.`SLEW_PPB`. -/
def fldTimeAdjSlewPpb : Fld := ⟨0, 16⟩
/-- `TIME_FRAME` (12_time): frame offset. -/
def regTimeFrame : Nat := 0x09000018
/-- `TIME_FRAME`.`FRAME_OFF`. -/
def fldTimeFrameFrameOff : Fld := ⟨0, 27⟩
/-- `TIME_SET_SEC` (12_time): seconds of a `SET`. -/
def regTimeSetSec : Nat := 0x09000020
/-- `TIME_SET_SEC`.`SEC`. -/
def fldTimeSetSecSec : Fld := ⟨0, 48⟩
/-- `TIME_SET_SUB` (12_time): sub-second, target and commit of a `SET`. -/
def regTimeSetSub : Nat := 0x09000028
/-- `TIME_SET_SUB`.`SET`. -/
def fldTimeSetSubSet : Fld := ⟨63, 1⟩
/-- `TIME_SET_SUB`.`TARGET`. -/
def fldTimeSetSubTarget : Fld := ⟨48, 2⟩
/-- `TIME_SET_SUB`.`SUB`. -/
def fldTimeSetSubSub : Fld := ⟨0, 33⟩
/-- `TIME_TB_SEC` (12_time): seconds of TB*n*. -/
def regTimeTbSec (a : Nat) : Nat := 0x09000100 + a * 0x10
/-- `TIME_TB_SEC`.`SEC`. -/
def fldTimeTbSecSec : Fld := ⟨0, 48⟩
/-- `TIME_TB_SUB` (12_time): sub-second of TB*n*. -/
def regTimeTbSub (a : Nat) : Nat := 0x09000108 + a * 0x10
/-- `TIME_TB_SUB`.`SUB`. -/
def fldTimeTbSubSub : Fld := ⟨0, 33⟩
/-- `TIME_DOM_CFG` (12_time): source and PTP settings of domain *d* (0 = A, 1 = B). -/
def regTimeDomCfg (a : Nat) : Nat := 0x09000200 + a * 0x40
/-- `TIME_DOM_CFG`.`PTP_DOMAIN`. -/
def fldTimeDomCfgPtpDomain : Fld := ⟨24, 8⟩
/-- `TIME_DOM_CFG`.`DREQ_LOG`. -/
def fldTimeDomCfgDreqLog : Fld := ⟨12, 3⟩
/-- `TIME_DOM_CFG`.`MCAST`. -/
def fldTimeDomCfgMcast : Fld := ⟨8, 1⟩
/-- `TIME_DOM_CFG`.`TCI_REF`. -/
def fldTimeDomCfgTciRef : Fld := ⟨4, 3⟩
/-- `TIME_DOM_CFG`.`SOURCE`. -/
def fldTimeDomCfgSource : Fld := ⟨0, 2⟩
/-- `TIME_DOM_PORTS` (12_time): Ethernet ports of domain *d*. -/
def regTimeDomPorts (a : Nat) : Nat := 0x09000208 + a * 0x40
/-- `TIME_DOM_PORTS`.`PORTS`. -/
def fldTimeDomPortsPorts : Fld := ⟨0, 32⟩
/-- `TIME_DOM_GAIN` (12_time): asymmetry and gains. -/
def regTimeDomGain (a : Nat) : Nat := 0x09000210 + a * 0x40
/-- `TIME_DOM_GAIN`.`ASYM`. -/
def fldTimeDomGainAsym : Fld := ⟨16, 16⟩
/-- `TIME_DOM_GAIN`.`KI_SHIFT`. -/
def fldTimeDomGainKiShift : Fld := ⟨8, 4⟩
/-- `TIME_DOM_GAIN`.`KP_SHIFT`. -/
def fldTimeDomGainKpShift : Fld := ⟨0, 4⟩
/-- `TIME_DOM_LIMIT` (12_time): loss and lock limits. -/
def regTimeDomLimit (a : Nat) : Nat := 0x09000218 + a * 0x40
/-- `TIME_DOM_LIMIT`.`LOSS_LIMIT`. -/
def fldTimeDomLimitLossLimit : Fld := ⟨24, 8⟩
/-- `TIME_DOM_LIMIT`.`LOCK_NS`. -/
def fldTimeDomLimitLockNs : Fld := ⟨0, 16⟩
/-- `TIME_DOM_STATE` (12_time): state, parent, frequency. -/
def regTimeDomState (a : Nat) : Nat := 0x09000220 + a * 0x40
/-- `TIME_DOM_STATE`.`FREQ`. -/
def fldTimeDomStateFreq : Fld := ⟨32, 32⟩
/-- `TIME_DOM_STATE`.`CLOCK_CLASS`. -/
def fldTimeDomStateClockClass : Fld := ⟨24, 8⟩
/-- `TIME_DOM_STATE`.`PARENT_PORT`. -/
def fldTimeDomStateParentPort : Fld := ⟨16, 5⟩
/-- `TIME_DOM_STATE`.`STATE`. -/
def fldTimeDomStateState : Fld := ⟨0, 3⟩
/-- `TIME_DOM_OFFSET` (12_time): last offset and delay. -/
def regTimeDomOffset (a : Nat) : Nat := 0x09000228 + a * 0x40
/-- `TIME_DOM_OFFSET`.`OFFSET`. -/
def fldTimeDomOffsetOffset : Fld := ⟨32, 32⟩
/-- `TIME_DOM_OFFSET`.`DELAY`. -/
def fldTimeDomOffsetDelay : Fld := ⟨0, 32⟩
/-- `TIME_TPO_CTRL` (12_time): TPO*n* control. -/
def regTimeTpoCtrl (a : Nat) : Nat := 0x09000300 + a * 0x20
/-- `TIME_TPO_CTRL`.`TB`. -/
def fldTimeTpoCtrlTb : Fld := ⟨8, 2⟩
/-- `TIME_TPO_CTRL`.`POL`. -/
def fldTimeTpoCtrlPol : Fld := ⟨4, 1⟩
/-- `TIME_TPO_CTRL`.`MISSED`. -/
def fldTimeTpoCtrlMissed : Fld := ⟨3, 1⟩
/-- `TIME_TPO_CTRL`.`ARMED`. -/
def fldTimeTpoCtrlArmed : Fld := ⟨2, 1⟩
/-- `TIME_TPO_CTRL`.`DISARM`. -/
def fldTimeTpoCtrlDisarm : Fld := ⟨1, 1⟩
/-- `TIME_TPO_CTRL`.`ARM`. -/
def fldTimeTpoCtrlArm : Fld := ⟨0, 1⟩
/-- `TIME_TPO_START_SEC` (12_time): seconds of the first pulse. -/
def regTimeTpoStartSec (a : Nat) : Nat := 0x09000308 + a * 0x20
/-- `TIME_TPO_START_SEC`.`SEC`. -/
def fldTimeTpoStartSecSec : Fld := ⟨0, 48⟩
/-- `TIME_TPO_START_SUB` (12_time): sub-second of the first pulse. -/
def regTimeTpoStartSub (a : Nat) : Nat := 0x09000310 + a * 0x20
/-- `TIME_TPO_START_SUB`.`SUB`. -/
def fldTimeTpoStartSubSub : Fld := ⟨0, 33⟩
/-- `TIME_TPO_SHAPE` (12_time): width and period. -/
def regTimeTpoShape (a : Nat) : Nat := 0x09000318 + a * 0x20
/-- `TIME_TPO_SHAPE`.`WIDTH`. -/
def fldTimeTpoShapeWidth : Fld := ⟨44, 20⟩
/-- `TIME_TPO_SHAPE`.`PERIOD`. -/
def fldTimeTpoShapePeriod : Fld := ⟨0, 43⟩
/-- `TIME_TCI_CTRL` (12_time): TCI*n* control and queue state. -/
def regTimeTciCtrl (a : Nat) : Nat := 0x09000400 + a * 0x20
/-- `TIME_TCI_CTRL`.`DROPPED`. -/
def fldTimeTciCtrlDropped : Fld := ⟨24, 8⟩
/-- `TIME_TCI_CTRL`.`COUNT`. -/
def fldTimeTciCtrlCount : Fld := ⟨16, 5⟩
/-- `TIME_TCI_CTRL`.`TB`. -/
def fldTimeTciCtrlTb : Fld := ⟨8, 2⟩
/-- `TIME_TCI_CTRL`.`EDGE`. -/
def fldTimeTciCtrlEdge : Fld := ⟨4, 2⟩
/-- `TIME_TCI_CTRL`.`ENABLE`. -/
def fldTimeTciCtrlEnable : Fld := ⟨0, 1⟩
/-- `TIME_TCI_SEC` (12_time): oldest capture's seconds; read removes it. -/
def regTimeTciSec (a : Nat) : Nat := 0x09000408 + a * 0x20
/-- `TIME_TCI_SEC`.`SEC`. -/
def fldTimeTciSecSec : Fld := ⟨0, 48⟩
/-- `TIME_TCI_SUB` (12_time): that capture's sub-second. -/
def regTimeTciSub (a : Nat) : Nat := 0x09000410 + a * 0x20
/-- `TIME_TCI_SUB`.`VALID`. -/
def fldTimeTciSubValid : Fld := ⟨63, 1⟩
/-- `TIME_TCI_SUB`.`STEPPED`. -/
def fldTimeTciSubStepped : Fld := ⟨62, 1⟩
/-- `TIME_TCI_SUB`.`SUB`. -/
def fldTimeTciSubSub : Fld := ⟨0, 33⟩
/-- `MBX_STATUS` (14_host_instances): last status, notices, configuration reject. -/
def regMbxStatus (a : Nat) : Nat := 0x100000000 + a * 0x100000000
/-- `MBX_STATUS`.`LAST_STATUS`. -/
def fldMbxStatusLastStatus : Fld := ⟨16, 16⟩
/-- `MBX_STATUS`.`NOTICE_LOST`. -/
def fldMbxStatusNoticeLost : Fld := ⟨6, 1⟩
/-- `MBX_STATUS`.`CFG_REJECT`. -/
def fldMbxStatusCfgReject : Fld := ⟨5, 1⟩
/-- `MBX_CREDIT` (14_host_instances): admission credit remaining. -/
def regMbxCredit (a : Nat) : Nat := 0x100000008 + a * 0x100000000
/-- `MBX_CREDIT`.`CREDIT`. -/
def fldMbxCreditCredit : Fld := ⟨0, 32⟩
/-- `MBX_SQ_BASE` (14_host_instances): submission ring *q*. -/
def regMbxSqBase (a : Nat) (b : Nat) : Nat := 0x100000100 + a * 0x100000000 + b * 0x20
/-- `MBX_SQ_BASE`.`BASE`. -/
def fldMbxSqBaseBase : Fld := ⟨12, 52⟩
/-- `MBX_CQ_BASE` (14_host_instances): completion ring *q*. -/
def regMbxCqBase (a : Nat) (b : Nat) : Nat := 0x100000108 + a * 0x100000000 + b * 0x20
/-- `MBX_CQ_BASE`.`BASE`. -/
def fldMbxCqBaseBase : Fld := ⟨12, 52⟩
/-- `MBX_RING_CFG` (14_host_instances): size, vector, coalescing, enable of pair *q*. -/
def regMbxRingCfg (a : Nat) (b : Nat) : Nat := 0x100000110 + a * 0x100000000 + b * 0x20
/-- `MBX_RING_CFG`.`COAL_US`. -/
def fldMbxRingCfgCoalUs : Fld := ⟨24, 8⟩
/-- `MBX_RING_CFG`.`VECTOR`. -/
def fldMbxRingCfgVector : Fld := ⟨12, 12⟩
/-- `MBX_RING_CFG`.`LOG2_ENTRIES`. -/
def fldMbxRingCfgLog2Entries : Fld := ⟨4, 4⟩
/-- `MBX_RING_CFG`.`ENABLE`. -/
def fldMbxRingCfgEnable : Fld := ⟨0, 1⟩
/-- `MBX_RING_STATE` (14_host_instances): head, tail, phase, state of pair *q*. -/
def regMbxRingState (a : Nat) (b : Nat) : Nat := 0x100000118 + a * 0x100000000 + b * 0x20
/-- `MBX_RING_STATE`.`STATE`. -/
def fldMbxRingStateState : Fld := ⟨28, 3⟩
/-- `MBX_RING_STATE`.`SQ_HEAD`. -/
def fldMbxRingStateSqHead : Fld := ⟨16, 12⟩
/-- `MBX_RING_STATE`.`CQ_PHASE`. -/
def fldMbxRingStateCqPhase : Fld := ⟨12, 1⟩
/-- `MBX_RING_STATE`.`CQ_TAIL`. -/
def fldMbxRingStateCqTail : Fld := ⟨0, 12⟩
/-- `MBX_SQ_TAIL` (14_host_instances): submission doorbell of ring *q*. -/
def regMbxSqTail (a : Nat) (b : Nat) : Nat := 0x100001000 + a * 0x100000000 + b * 0x8
/-- `MBX_SQ_TAIL`.`INDEX`. -/
def fldMbxSqTailIndex : Fld := ⟨0, 12⟩
/-- `MBX_CQ_HEAD` (14_host_instances): completion doorbell of ring *q*. -/
def regMbxCqHead (a : Nat) (b : Nat) : Nat := 0x100001004 + a * 0x100000000 + b * 0x8
/-- `MBX_CQ_HEAD`.`INDEX`. -/
def fldMbxCqHeadIndex : Fld := ⟨0, 12⟩
/-- `HOST_FN_STATUS` (14_host_instances): instance, state, configuration reject. -/
def regHostFnStatus (a : Nat) : Nat := 0x100002000 + a * 0x100000000
/-- `HOST_FN_STATUS`.`LAST_STATUS`. -/
def fldHostFnStatusLastStatus : Fld := ⟨16, 16⟩
/-- `HOST_FN_STATUS`.`INSTANCE`. -/
def fldHostFnStatusInstance : Fld := ⟨8, 7⟩
/-- `HOST_FN_STATUS`.`CFG_REJECT`. -/
def fldHostFnStatusCfgReject : Fld := ⟨5, 1⟩
/-- `HOST_FN_STATUS`.`STATE`. -/
def fldHostFnStatusState : Fld := ⟨0, 3⟩
/-- `HOST_LINK` (14_host_instances): link width and rate; physical function only, 0 elsewhere. -/
def regHostLink (a : Nat) : Nat := 0x100002008 + a * 0x100000000
/-- `HOST_LINK`.`WIDTH`. -/
def fldHostLinkWidth : Fld := ⟨20, 4⟩
/-- `HOST_LINK`.`RATE`. -/
def fldHostLinkRate : Fld := ⟨16, 4⟩
/-- `HOST_LINK`.`FLIT`. -/
def fldHostLinkFlit : Fld := ⟨15, 1⟩
/-- `HOST_BAR2_SEG` (14_host_instances): BAR 2 segment *s*, 0–63. -/
def regHostBar2Seg (a : Nat) (b : Nat) : Nat := 0x100002100 + a * 0x100000000 + b * 0x8
/-- `HOST_BAR2_SEG`.`BASE`. -/
def fldHostBar2SegBase : Fld := ⟨22, 18⟩
/-- `HOST_BAR2_SEG`.`WRITE`. -/
def fldHostBar2SegWrite : Fld := ⟨1, 1⟩
/-- `HOST_BAR2_SEG`.`VALID`. -/
def fldHostBar2SegValid : Fld := ⟨0, 1⟩
/-- `MGT_FH_STATUS` (16_faults_health): last status, configuration reject. -/
def regMgtFhStatus : Nat := 0x0A008000
/-- `MGT_FH_STATUS`.`LAST_STATUS`. -/
def fldMgtFhStatusLastStatus : Fld := ⟨16, 16⟩
/-- `MGT_FH_STATUS`.`CFG_REJECT`. -/
def fldMgtFhStatusCfgReject : Fld := ⟨5, 1⟩
/-- `MGT_FH_FENCE` (16_faults_health): automatic fence rule. -/
def regMgtFhFence : Nat := 0x0A008008
/-- `MGT_FH_FENCE`.`FENCE_WINDOW`. -/
def fldMgtFhFenceFenceWindow : Fld := ⟨8, 8⟩
/-- `MGT_FH_FENCE`.`STATE_LOST_FENCE`. -/
def fldMgtFhFenceStateLostFence : Fld := ⟨0, 4⟩
/-- `MGT_FH_SCORE` (16_faults_health): damping and advice thresholds. -/
def regMgtFhScore : Nat := 0x0A008010
/-- `MGT_FH_SCORE`.`ADVISE_HI`. -/
def fldMgtFhScoreAdviseHi : Fld := ⟨32, 10⟩
/-- `MGT_FH_SCORE`.`ADVISE_LO`. -/
def fldMgtFhScoreAdviseLo : Fld := ⟨16, 10⟩
/-- `MGT_FH_SCORE`.`DAMP`. -/
def fldMgtFhScoreDamp : Fld := ⟨0, 4⟩
/-- `MGT_FH_FENCED_LO` (16_faults_health): fenced cores 0–63. -/
def regMgtFhFencedLo : Nat := 0x0A008018
/-- `MGT_FH_FENCED_LO`.`FENCED`. -/
def fldMgtFhFencedLoFenced : Fld := ⟨0, 64⟩
/-- `MGT_FH_FENCED_HI` (16_faults_health): fenced cores 64–95 and keystones. -/
def regMgtFhFencedHi : Nat := 0x0A008020
/-- `MGT_FH_FENCED_HI`.`FENCED_KEY`. -/
def fldMgtFhFencedHiFencedKey : Fld := ⟨32, 4⟩
/-- `MGT_FH_FENCED_HI`.`FENCED`. -/
def fldMgtFhFencedHiFenced : Fld := ⟨0, 32⟩
/-- `MGT_FH_RECORDS` (16_faults_health): record sequence and losses. -/
def regMgtFhRecords : Nat := 0x0A008028
/-- `MGT_FH_RECORDS`.`RECORDS_LOST`. -/
def fldMgtFhRecordsRecordsLost : Fld := ⟨32, 32⟩
/-- `MGT_FH_RECORDS`.`NEXT_SEQ`. -/
def fldMgtFhRecordsNextSeq : Fld := ⟨0, 32⟩
/-- `MGT_STATUS` (17_management_security): last status, configuration reject. -/
def regMgtStatus : Nat := 0x0A000000
/-- `MGT_STATUS`.`LAST_STATUS`. -/
def fldMgtStatusLastStatus : Fld := ⟨16, 16⟩
/-- `MGT_STATUS`.`CFG_REJECT`. -/
def fldMgtStatusCfgReject : Fld := ⟨5, 1⟩
/-- `MGT_BOOT` (17_management_security): boot stage and duration. -/
def regMgtBoot : Nat := 0x0A000008
/-- `MGT_BOOT`.`BOOT_MS`. -/
def fldMgtBootBootMs : Fld := ⟨32, 16⟩
/-- `MGT_BOOT`.`STAGE`. -/
def fldMgtBootStage : Fld := ⟨0, 4⟩
/-- `MGT_WD` (17_management_security): watchdog restarts. -/
def regMgtWd : Nat := 0x0A000010
/-- `MGT_WD`.`LAST_SEC`. -/
def fldMgtWdLastSec : Fld := ⟨32, 32⟩
/-- `MGT_WD`.`RESTARTS`. -/
def fldMgtWdRestarts : Fld := ⟨16, 16⟩
/-- `MGT_WD`.`LAST_CORE`. -/
def fldMgtWdLastCore : Fld := ⟨0, 2⟩
/-- `MGT_FW` (17_management_security): running and staged image. -/
def regMgtFw : Nat := 0x0A000018
/-- `MGT_FW`.`VERSION`. -/
def fldMgtFwVersion : Fld := ⟨32, 32⟩
/-- `MGT_FW`.`SVN`. -/
def fldMgtFwSvn : Fld := ⟨24, 8⟩
/-- `MGT_FW`.`HANDOVER`. -/
def fldMgtFwHandover : Fld := ⟨8, 16⟩
/-- `MGT_FW`.`STAGED`. -/
def fldMgtFwStaged : Fld := ⟨0, 2⟩
/-- `MGT_SRAM_ERR` (17_management_security): management-SRAM errors. -/
def regMgtSramErr : Nat := 0x0A000020
/-- `MGT_SRAM_ERR`.`UNCORRECTED`. -/
def fldMgtSramErrUncorrected : Fld := ⟨32, 32⟩
/-- `MGT_SRAM_ERR`.`CORRECTED`. -/
def fldMgtSramErrCorrected : Fld := ⟨0, 32⟩
/-- `MGT_LOG` (17_management_security): log persistence. -/
def regMgtLog : Nat := 0x0A000028
/-- `MGT_LOG`.`NEXT_PAGE`. -/
def fldMgtLogNextPage : Fld := ⟨36, 14⟩
/-- `MGT_LOG`.`PERSISTED`. -/
def fldMgtLogPersisted : Fld := ⟨0, 32⟩
/-- `SEC_STATUS` (17_management_security): last status, configuration reject. -/
def regSecStatus : Nat := 0x0B000000
/-- `SEC_STATUS`.`LAST_STATUS`. -/
def fldSecStatusLastStatus : Fld := ⟨16, 16⟩
/-- `SEC_STATUS`.`CFG_REJECT`. -/
def fldSecStatusCfgReject : Fld := ⟨5, 1⟩
/-- `SEC_FUSE` (17_management_security): debug fuse, key revocation, minimum SVN. -/
def regSecFuse : Nat := 0x0B000008
/-- `SEC_FUSE`.`DEBUG_BLOWN`. -/
def fldSecFuseDebugBlown : Fld := ⟨63, 1⟩
/-- `SEC_FUSE`.`KEY_REVOKED`. -/
def fldSecFuseKeyRevoked : Fld := ⟨8, 4⟩
/-- `SEC_FUSE`.`MIN_SVN`. -/
def fldSecFuseMinSvn : Fld := ⟨0, 7⟩
/-- `SEC_SPDM` (17_management_security): SPDM counts. -/
def regSecSpdm : Nat := 0x0B000010
/-- `SEC_SPDM`.`REFUSED`. -/
def fldSecSpdmRefused : Fld := ⟨32, 32⟩
/-- `SEC_SPDM`.`REQUESTS`. -/
def fldSecSpdmRequests : Fld := ⟨0, 32⟩
/-- `TST_STATUS` (18_test_loopback): loop-back state, configuration reject. -/
def regTstStatus : Nat := 0x0C000000
/-- `TST_STATUS`.`LAST_STATUS`. -/
def fldTstStatusLastStatus : Fld := ⟨16, 16⟩
/-- `TST_STATUS`.`CFG_REJECT`. -/
def fldTstStatusCfgReject : Fld := ⟨5, 1⟩
/-- `TST_STATUS`.`LB_STATE`. -/
def fldTstStatusLbState : Fld := ⟨0, 2⟩
/-- `TST_LB_SEL` (18_test_loopback): interface, unit, depth, pattern. -/
def regTstLbSel : Nat := 0x0C000008
/-- `TST_LB_SEL`.`PATTERN`. -/
def fldTstLbSelPattern : Fld := ⟨20, 4⟩
/-- `TST_LB_SEL`.`DEPTH`. -/
def fldTstLbSelDepth : Fld := ⟨16, 3⟩
/-- `TST_LB_SEL`.`UNIT`. -/
def fldTstLbSelUnit : Fld := ⟨8, 8⟩
/-- `TST_LB_SEL`.`IFACE`. -/
def fldTstLbSelIface : Fld := ⟨0, 3⟩
/-- `TST_LB_CTRL` (18_test_loopback): enter, leave. -/
def regTstLbCtrl : Nat := 0x0C000010
/-- `TST_LB_CTRL`.`LEAVE`. -/
def fldTstLbCtrlLeave : Fld := ⟨1, 1⟩
/-- `TST_LB_CTRL`.`ENTER`. -/
def fldTstLbCtrlEnter : Fld := ⟨0, 1⟩
/-- `TST_LB_BITS` (18_test_loopback): bits or edges compared. -/
def regTstLbBits : Nat := 0x0C000018
/-- `TST_LB_BITS`.`COUNT`. -/
def fldTstLbBitsCount : Fld := ⟨0, 64⟩
/-- `TST_LB_ERR` (18_test_loopback): bits in error, or largest edge error. -/
def regTstLbErr : Nat := 0x0C000020
/-- `TST_LB_ERR`.`COUNT`. -/
def fldTstLbErrCount : Fld := ⟨0, 64⟩
/-- `TST_BIST` (18_test_loopback): self-test of a fenced unit. -/
def regTstBist : Nat := 0x0C000028
/-- `TST_BIST`.`UNIT`. -/
def fldTstBistUnit : Fld := ⟨8, 8⟩
/-- `TST_BIST`.`KIND`. -/
def fldTstBistKind : Fld := ⟨4, 3⟩
/-- `TST_BIST`.`PASS`. -/
def fldTstBistPass : Fld := ⟨2, 1⟩
/-- `TST_BIST`.`BUSY`. -/
def fldTstBistBusy : Fld := ⟨1, 1⟩
/-- `TST_BIST`.`START`. -/
def fldTstBistStart : Fld := ⟨0, 1⟩
/-- `TST_CAL_ETH` (18_test_loopback): Ethernet lane recalibration. -/
def regTstCalEth : Nat := 0x0C000030
/-- `TST_CAL_ETH`.`LANES`. -/
def fldTstCalEthLanes : Fld := ⟨0, 32⟩

/-- The registers of block 0x1. -/
def regTable1 : List RegDesc := [
  ⟨"ARR_ID", 0x01000000, 256, 388, 1, 1, 32, [⟨15, 1, .ro, .none, 0⟩, ⟨8, 7, .ro, .none, 0⟩, ⟨0, 2, .ro, .none, 0⟩]⟩,
  ⟨"ARR_CTRL", 0x01000008, 256, 388, 1, 1, 32, [⟨6, 2, .rw, .l, 0⟩, ⟨2, 1, .wo, .l, 0⟩, ⟨1, 1, .wo, .l, 0⟩, ⟨0, 1, .wo, .l, 0⟩]⟩,
  ⟨"ARR_DESC_BASE", 0x01000010, 256, 388, 1, 1, 64, [⟨6, 58, .rw, .s, 0⟩]⟩,
  ⟨"ARR_SAVE_BASE", 0x01000018, 256, 388, 1, 1, 64, [⟨12, 52, .rw, .s, 0⟩]⟩,
  ⟨"ARR_STATUS", 0x01000020, 256, 388, 1, 1, 32, [⟨16, 16, .ro, .none, 0⟩, ⟨5, 1, .w1c, .l, 0⟩, ⟨4, 1, .ro, .none, 0⟩, ⟨3, 1, .ro, .none, 0⟩, ⟨2, 1, .ro, .none, 0⟩, ⟨1, 1, .ro, .none, 0⟩, ⟨0, 1, .ro, .none, 0⟩]⟩,
  ⟨"ARR_POS", 0x01000028, 256, 388, 1, 1, 64, [⟨40, 24, .ro, .none, 0⟩, ⟨16, 24, .ro, .none, 0⟩, ⟨8, 8, .ro, .none, 0⟩, ⟨6, 2, .ro, .none, 0⟩]⟩,
  ⟨"ARR_WIDE_COUNT", 0x01000030, 256, 388, 1, 1, 64, [⟨0, 64, .ro, .none, 0⟩]⟩,
  ⟨"ARR_BUSY_CYCLES", 0x01000038, 256, 388, 1, 1, 64, [⟨0, 64, .ro, .none, 0⟩]⟩,
  ⟨"ARR_CTX", 0x01000040, 256, 388, 1, 1, 32, [⟨11, 2, .rw, .s, 2⟩, ⟨4, 7, .rw, .s, 0⟩, ⟨0, 4, .rw, .s, 0⟩]⟩]

/-- The registers of block 0x2. -/
def regTable2 : List RegDesc := [
  ⟨"CORE_ID", 0x02000000, 4096, 96, 1, 1, 32, [⟨8, 4, .ro, .none, 0⟩, ⟨0, 7, .ro, .none, 0⟩]⟩,
  ⟨"CORE_CTRL", 0x02000008, 4096, 96, 1, 1, 32, [⟨3, 1, .wo, .l, 0⟩, ⟨2, 1, .wo, .l, 0⟩, ⟨1, 1, .wo, .l, 0⟩, ⟨0, 1, .wo, .l, 0⟩]⟩,
  ⟨"CORE_STATUS", 0x02000010, 4096, 96, 1, 1, 32, [⟨16, 16, .ro, .none, 0⟩, ⟨5, 1, .w1c, .l, 0⟩, ⟨4, 1, .ro, .none, 0⟩, ⟨3, 1, .ro, .none, 0⟩, ⟨0, 3, .ro, .none, 0⟩]⟩,
  ⟨"CORE_PART", 0x02000018, 4096, 96, 1, 1, 32, [⟨16, 4, .rw, .q, 8⟩, ⟨8, 1, .rw, .q, 0⟩, ⟨0, 7, .rw, .q, 0⟩]⟩,
  ⟨"CORE_STALL", 0x02000020, 4096, 96, 1, 1, 32, [⟨16, 10, .rw, .l, 50⟩, ⟨0, 10, .rw, .l, 10⟩]⟩,
  ⟨"CORE_SAVE_BASE", 0x02000028, 4096, 96, 1, 1, 64, [⟨12, 52, .rw, .s, 0⟩]⟩,
  ⟨"CORE_CTX", 0x02000030, 4096, 96, 1, 1, 32, [⟨11, 2, .rw, .s, 2⟩, ⟨4, 7, .rw, .s, 0⟩, ⟨0, 4, .rw, .s, 0⟩]⟩,
  ⟨"CORE_SRAM_ERR", 0x02000038, 4096, 96, 1, 1, 64, [⟨32, 32, .ro, .none, 0⟩, ⟨0, 32, .ro, .none, 0⟩]⟩,
  ⟨"CORE_STALL_LAST", 0x02000040, 4096, 96, 1, 1, 32, [⟨16, 16, .ro, .none, 0⟩, ⟨4, 7, .ro, .none, 0⟩, ⟨0, 4, .ro, .none, 0⟩]⟩,
  ⟨"CORE_STRM_CFG", 0x02000100, 4096, 96, 64, 16, 64, [⟨32, 22, .rw, .q, 0⟩, ⟨24, 8, .rw, .q, 0⟩, ⟨19, 5, .rw, .q, 0⟩, ⟨14, 5, .rw, .q, 0⟩, ⟨5, 2, .rw, .q, 0⟩, ⟨3, 2, .rw, .q, 0⟩, ⟨2, 1, .rw, .q, 0⟩, ⟨0, 1, .rw, .q, 0⟩]⟩,
  ⟨"CORE_STRM_DESC", 0x02000108, 4096, 96, 64, 16, 64, [⟨32, 22, .rw, .s, 0⟩, ⟨0, 16, .rw, .s, 0⟩]⟩,
  ⟨"CORE_STRM_PTR", 0x02000110, 4096, 96, 64, 16, 64, [⟨48, 16, .ro, .none, 0⟩, ⟨24, 24, .ro, .none, 0⟩, ⟨0, 24, .ro, .none, 0⟩]⟩,
  ⟨"CORE_STRM_STATE", 0x02000118, 4096, 96, 64, 16, 32, [⟨16, 16, .ro, .none, 0⟩, ⟨0, 4, .ro, .none, 0⟩]⟩]

/-- The registers of block 0x3. -/
def regTable3 : List RegDesc := [
  ⟨"SIG_CTRL", 0x03000000, 256, 96, 1, 1, 32, [⟨2, 1, .rw, .l, 0⟩, ⟨1, 1, .wo, .l, 0⟩, ⟨0, 1, .wo, .l, 0⟩]⟩,
  ⟨"SIG_STATUS", 0x03000008, 256, 96, 1, 1, 32, [⟨16, 16, .ro, .none, 0⟩, ⟨5, 1, .w1c, .l, 0⟩, ⟨4, 1, .ro, .none, 0⟩, ⟨3, 1, .ro, .none, 0⟩, ⟨0, 2, .ro, .none, 0⟩]⟩,
  ⟨"SIG_ENTRY", 0x03000010, 256, 96, 1, 1, 32, [⟨16, 11, .rw, .q, 0⟩, ⟨0, 11, .rw, .q, 0⟩]⟩,
  ⟨"SIG_PC", 0x03000018, 256, 96, 1, 1, 32, [⟨28, 2, .ro, .none, 0⟩, ⟨16, 11, .ro, .none, 0⟩, ⟨14, 2, .ro, .none, 0⟩, ⟨0, 11, .ro, .none, 0⟩]⟩,
  ⟨"SIG_SAT_COUNT", 0x03000020, 256, 96, 1, 1, 64, [⟨32, 32, .ro, .none, 0⟩, ⟨0, 32, .ro, .none, 0⟩]⟩,
  ⟨"SIG_LOOP0", 0x03000028, 256, 96, 1, 1, 64, [⟨32, 15, .ro, .none, 0⟩, ⟨16, 11, .ro, .none, 0⟩, ⟨0, 11, .ro, .none, 0⟩]⟩,
  ⟨"SIG_LOOP1", 0x03000030, 256, 96, 1, 1, 64, [⟨32, 15, .ro, .none, 0⟩, ⟨16, 11, .ro, .none, 0⟩, ⟨0, 11, .ro, .none, 0⟩]⟩,
  ⟨"SIG_LOOP2", 0x03000038, 256, 96, 1, 1, 64, [⟨32, 15, .ro, .none, 0⟩, ⟨16, 11, .ro, .none, 0⟩, ⟨0, 11, .ro, .none, 0⟩]⟩]

/-- The registers of block 0x4. -/
def regTable4 : List RegDesc := [
  ⟨"RADIO_STATUS", 0x04000000, 1, 1, 1, 1, 32, [⟨16, 16, .ro, .none, 0⟩, ⟨1, 10, .ro, .none, 0⟩, ⟨0, 1, .w1c, .l, 0⟩]⟩,
  ⟨"RADIO_ADMIT", 0x04000008, 1, 1, 1, 1, 64, [⟨40, 8, .ro, .none, 0⟩, ⟨16, 24, .ro, .none, 0⟩, ⟨0, 16, .ro, .none, 0⟩]⟩,
  ⟨"RADIO_DARNER", 0x04000010, 1, 1, 1, 1, 32, [⟨0, 1, .rw, .l, 0⟩]⟩,
  ⟨"RADIO_ACCEL_FENCE", 0x04000018, 1, 1, 1, 1, 64, [⟨36, 8, .ro, .none, 0⟩, ⟨28, 8, .ro, .none, 0⟩, ⟨24, 4, .ro, .none, 0⟩, ⟨16, 8, .ro, .none, 0⟩, ⟨0, 16, .ro, .none, 0⟩]⟩,
  ⟨"RADIO_MISS", 0x04000020, 1, 1, 1, 1, 64, [⟨32, 32, .ro, .none, 0⟩, ⟨0, 32, .ro, .none, 0⟩]⟩,
  ⟨"RADIO_CAR_CTRL", 0x04001000, 64, 512, 1, 1, 32, [⟨0, 1, .rw, .l, 0⟩]⟩,
  ⟨"RADIO_CAR_CFG", 0x04001008, 64, 512, 1, 1, 64, [⟨32, 4, .rw, .q, 0⟩, ⟨20, 6, .rw, .q, 24⟩, ⟨8, 9, .rw, .q, 0⟩, ⟨6, 2, .rw, .q, 0⟩, ⟨0, 2, .rw, .q, 0⟩]⟩,
  ⟨"RADIO_CAR_GAIN", 0x04001010, 64, 512, 1, 1, 32, [⟨16, 11, .rw, .l, 0⟩, ⟨0, 11, .rw, .l, 0⟩]⟩,
  ⟨"RADIO_CAR_RXREF", 0x04001018, 64, 512, 1, 1, 32, [⟨0, 16, .rw, .l, 0⟩]⟩,
  ⟨"RADIO_CAR_TRK", 0x04001020, 64, 512, 1, 1, 32, [⟨9, 1, .rw, .l, 1⟩, ⟨8, 1, .rw, .l, 1⟩, ⟨0, 3, .rw, .l, 2⟩]⟩,
  ⟨"RADIO_CAR_PRACH", 0x04001028, 64, 512, 1, 1, 32, [⟨0, 16, .rw, .l, 3072⟩]⟩,
  ⟨"RADIO_CAR_LDPC", 0x04001030, 64, 512, 1, 1, 32, [⟨0, 5, .rw, .l, 8⟩]⟩,
  ⟨"RADIO_CAR_STATUS", 0x04001038, 64, 512, 1, 1, 32, [⟨16, 16, .ro, .none, 0⟩, ⟨0, 2, .ro, .none, 0⟩]⟩]

/-- The registers of block 0x5. -/
def regTable5 : List RegDesc := [
  ⟨"FHU_STATUS", 0x05000000, 1, 1, 1, 1, 32, [⟨16, 16, .ro, .none, 0⟩, ⟨0, 1, .w1c, .l, 0⟩]⟩,
  ⟨"FHU_GRP_CFG", 0x05001000, 64, 8, 1, 1, 32, [⟨4, 1, .rw, .q, 1⟩, ⟨0, 2, .rw, .q, 3⟩]⟩,
  ⟨"FHU_GRP_STATE", 0x05001008, 64, 8, 1, 1, 64, [⟨48, 16, .ro, .none, 0⟩, ⟨32, 16, .ro, .none, 0⟩, ⟨0, 16, .ro, .none, 0⟩]⟩,
  ⟨"FHU_CAR_NET", 0x05002000, 64, 512, 1, 1, 64, [⟨48, 16, .rw, .q, 0⟩, ⟨32, 16, .rw, .q, 0⟩, ⟨16, 12, .rw, .q, 0⟩, ⟨13, 3, .rw, .q, 0⟩, ⟨0, 5, .rw, .q, 0⟩]⟩,
  ⟨"FHU_CAR_MAC", 0x05002008, 64, 512, 1, 1, 64, [⟨0, 48, .rw, .q, 0⟩]⟩,
  ⟨"FHU_CAR_BFP", 0x05002010, 64, 512, 1, 1, 32, [⟨4, 4, .rw, .q, 9⟩, ⟨0, 4, .rw, .q, 9⟩]⟩,
  ⟨"FHU_CAR_WIN", 0x05002018, 64, 512, 1, 1, 64, [⟨36, 12, .rw, .l, 1200⟩, ⟨24, 12, .rw, .l, 1000⟩, ⟨12, 12, .rw, .l, 300⟩, ⟨0, 12, .rw, .l, 600⟩]⟩,
  ⟨"FHU_CAR_LEAD", 0x05002020, 64, 512, 1, 1, 32, [⟨20, 12, .rw, .l, 100⟩, ⟨8, 12, .rw, .l, 25⟩, ⟨0, 4, .rw, .l, 3⟩]⟩,
  ⟨"FHU_CAR_CNT", 0x05002028, 64, 512, 1, 1, 64, [⟨48, 16, .ro, .none, 0⟩, ⟨32, 16, .ro, .none, 0⟩, ⟨16, 16, .ro, .none, 0⟩, ⟨0, 16, .ro, .none, 0⟩]⟩]

/-- The registers of block 0x6. -/
def regTable6 : List RegDesc := [
  ⟨"PIER_ID", 0x06000000, 4096, 8, 1, 1, 32, [⟨0, 3, .ro, .none, 0⟩]⟩,
  ⟨"PIER_STATUS", 0x06000008, 4096, 8, 1, 1, 32, [⟨16, 16, .ro, .none, 0⟩, ⟨6, 5, .ro, .none, 0⟩, ⟨5, 1, .w1c, .l, 0⟩, ⟨0, 3, .ro, .none, 0⟩]⟩,
  ⟨"PIER_CFG", 0x06000010, 4096, 8, 1, 1, 32, [⟨0, 1, .rw, .q, 0⟩]⟩,
  ⟨"PIER_SCRUB", 0x06000018, 4096, 8, 1, 1, 32, [⟨8, 8, .rw, .l, 24⟩, ⟨0, 1, .rw, .l, 1⟩]⟩,
  ⟨"PIER_SPARE_CFG", 0x06000020, 4096, 8, 1, 1, 32, [⟨8, 8, .rw, .l, 8⟩, ⟨0, 1, .rw, .l, 1⟩]⟩,
  ⟨"PIER_ERR", 0x06000028, 4096, 8, 1, 1, 64, [⟨32, 32, .ro, .none, 0⟩, ⟨0, 32, .ro, .none, 0⟩]⟩,
  ⟨"PIER_SCRUB_STATE", 0x06000030, 4096, 8, 1, 1, 64, [⟨48, 16, .ro, .none, 0⟩, ⟨32, 16, .ro, .none, 0⟩, ⟨0, 26, .ro, .none, 0⟩]⟩,
  ⟨"PIER_LINK", 0x06000038, 4096, 8, 1, 1, 64, [⟨32, 32, .ro, .none, 0⟩, ⟨0, 32, .ro, .none, 0⟩]⟩,
  ⟨"PIER_CH_CTRL", 0x06000100, 4096, 8, 32, 32, 32, [⟨1, 1, .wo, .l, 0⟩, ⟨0, 1, .wo, .l, 0⟩]⟩,
  ⟨"PIER_CH_STATE", 0x06000108, 4096, 8, 32, 32, 64, [⟨48, 16, .ro, .none, 0⟩, ⟨32, 16, .ro, .none, 0⟩, ⟨0, 3, .ro, .none, 0⟩]⟩,
  ⟨"PIER_CH_ERR", 0x06000110, 4096, 8, 32, 32, 64, [⟨32, 32, .ro, .none, 0⟩, ⟨0, 32, .ro, .none, 0⟩]⟩]

/-- The registers of block 0x7. -/
def regTable7 : List RegDesc := [
  ⟨"TIER_STATUS", 0x07000000, 1, 1, 1, 1, 32, [⟨16, 16, .ro, .none, 0⟩, ⟨5, 1, .w1c, .l, 0⟩, ⟨0, 1, .ro, .none, 0⟩]⟩,
  ⟨"TIER_MAP_BASE", 0x07000008, 1, 1, 1, 1, 64, [⟨0, 39, .rw, .q, 0⟩]⟩,
  ⟨"TIER_PREFETCH", 0x07000010, 1, 1, 1, 1, 32, [⟨16, 10, .rw, .l, 20⟩, ⟨0, 4, .rw, .l, 2⟩]⟩,
  ⟨"TIER_COUNT", 0x07000018, 1, 1, 1, 1, 64, [⟨32, 32, .ro, .none, 0⟩, ⟨0, 32, .ro, .none, 0⟩]⟩,
  ⟨"TIER_LOST", 0x07000020, 1, 1, 1, 1, 64, [⟨32, 32, .ro, .none, 0⟩, ⟨0, 32, .ro, .none, 0⟩]⟩,
  ⟨"FLS_STATUS", 0x07008000, 1, 1, 1, 1, 32, [⟨16, 16, .ro, .none, 0⟩, ⟨5, 1, .w1c, .l, 0⟩, ⟨0, 2, .ro, .none, 0⟩]⟩,
  ⟨"FLS_WEIGHTS", 0x07008008, 1, 1, 1, 1, 64, [⟨32, 32, .rw, .q, 0⟩, ⟨0, 32, .rw, .q, 0⟩]⟩,
  ⟨"FLS_SOFT", 0x07008010, 1, 1, 1, 1, 32, [⟨24, 8, .rw, .l, 96⟩, ⟨16, 8, .rw, .l, 24⟩, ⟨8, 8, .rw, .l, 20⟩, ⟨0, 5, .rw, .l, 16⟩]⟩,
  ⟨"FLS_RETIRE", 0x07008018, 1, 1, 1, 1, 32, [⟨8, 8, .rw, .l, 16⟩, ⟨0, 4, .rw, .l, 4⟩]⟩,
  ⟨"FLS_ERR", 0x07008020, 1, 1, 1, 1, 64, [⟨32, 32, .ro, .none, 0⟩, ⟨0, 32, .ro, .none, 0⟩]⟩,
  ⟨"FLS_CH_CTRL", 0x07008100, 16, 32, 1, 1, 32, [⟨0, 1, .wo, .l, 0⟩]⟩,
  ⟨"FLS_CH_STATE", 0x07008108, 16, 32, 1, 1, 64, [⟨48, 16, .ro, .none, 0⟩, ⟨32, 16, .ro, .none, 0⟩, ⟨16, 16, .ro, .none, 0⟩, ⟨0, 3, .ro, .none, 0⟩]⟩]

/-- The registers of block 0x8. -/
def regTable8 : List RegDesc := [
  ⟨"TRN_STATUS", 0x08000000, 1, 1, 1, 1, 32, [⟨16, 16, .ro, .none, 0⟩, ⟨8, 8, .ro, .none, 0⟩, ⟨5, 1, .w1c, .l, 0⟩, ⟨0, 1, .ro, .none, 0⟩]⟩,
  ⟨"TRN_ID", 0x08000008, 1, 1, 1, 1, 32, [⟨0, 16, .rw, .q, 0⟩]⟩,
  ⟨"TRN_FM", 0x08000010, 1, 1, 1, 1, 32, [⟨16, 1, .rw, .q, 0⟩, ⟨0, 16, .rw, .q, 0⟩]⟩,
  ⟨"TRN_TOPO", 0x08000018, 1, 1, 1, 1, 32, [⟨4, 1, .rw, .q, 0⟩, ⟨0, 4, .rw, .q, 0⟩]⟩,
  ⟨"TRN_GW", 0x08000020, 1, 1, 1, 1, 32, [⟨8, 1, .rw, .q, 0⟩, ⟨0, 8, .rw, .q, 0⟩]⟩,
  ⟨"TRN_TIMING", 0x08000028, 1, 1, 1, 1, 32, [⟨0, 14, .rw, .l, 10⟩]⟩,
  ⟨"TRN_EPOCH", 0x08000030, 1, 1, 1, 1, 64, [⟨32, 32, .ro, .none, 0⟩, ⟨0, 32, .ro, .none, 0⟩]⟩,
  ⟨"TRN_HOME_CNT", 0x08000038, 1, 1, 1, 1, 64, [⟨32, 32, .ro, .none, 0⟩, ⟨0, 32, .ro, .none, 0⟩]⟩,
  ⟨"TRN_REQ_CNT", 0x08000040, 1, 1, 1, 1, 64, [⟨48, 16, .ro, .none, 0⟩, ⟨32, 16, .ro, .none, 0⟩, ⟨0, 32, .ro, .none, 0⟩]⟩,
  ⟨"TRN_CHOICE", 0x08000048, 1, 1, 1, 1, 64, [⟨32, 32, .ro, .none, 0⟩, ⟨0, 32, .ro, .none, 0⟩]⟩,
  ⟨"TRN_DROP_CNT", 0x08000050, 1, 1, 1, 1, 64, [⟨32, 32, .ro, .none, 0⟩, ⟨0, 32, .ro, .none, 0⟩]⟩,
  ⟨"TRN_PORT_CFG", 0x08001000, 256, 8, 1, 1, 32, [⟨8, 3, .rw, .q, 7⟩, ⟨4, 3, .rw, .q, 7⟩, ⟨0, 3, .rw, .q, 7⟩]⟩,
  ⟨"TRN_PORT_CTRL", 0x08001008, 256, 8, 1, 1, 32, [⟨2, 4, .wo, .l, 0⟩, ⟨1, 1, .wo, .l, 0⟩, ⟨0, 1, .rw, .l, 0⟩]⟩,
  ⟨"TRN_PORT_STATE", 0x08001010, 256, 8, 1, 1, 64, [⟨48, 16, .ro, .none, 0⟩, ⟨42, 2, .ro, .none, 0⟩, ⟨40, 2, .ro, .none, 0⟩, ⟨38, 2, .ro, .none, 0⟩, ⟨32, 4, .ro, .none, 0⟩, ⟨0, 4, .ro, .none, 0⟩]⟩,
  ⟨"TRN_PORT_TX", 0x08001018, 256, 8, 1, 1, 64, [⟨0, 64, .ro, .none, 0⟩]⟩,
  ⟨"TRN_PORT_RX", 0x08001020, 256, 8, 1, 1, 64, [⟨0, 64, .ro, .none, 0⟩]⟩,
  ⟨"TRN_PORT_ERR", 0x08001028, 256, 8, 1, 1, 64, [⟨32, 32, .ro, .none, 0⟩, ⟨16, 16, .ro, .none, 0⟩, ⟨0, 16, .ro, .none, 0⟩]⟩,
  ⟨"TRN_PORT_RETRY", 0x08001030, 256, 8, 1, 1, 64, [⟨32, 32, .ro, .none, 0⟩, ⟨16, 16, .ro, .none, 0⟩, ⟨0, 16, .ro, .none, 0⟩]⟩,
  ⟨"TRN_PORT_STALL", 0x08001038, 256, 8, 1, 1, 64, [⟨0, 64, .ro, .none, 0⟩]⟩]

/-- The registers of block 0x9. -/
def regTable9 : List RegDesc := [
  ⟨"TIME_SP_STATUS", 0x09008000, 1, 1, 1, 1, 32, [⟨16, 16, .ro, .none, 0⟩, ⟨6, 2, .ro, .none, 0⟩, ⟨5, 1, .w1c, .l, 0⟩, ⟨0, 2, .ro, .none, 0⟩]⟩,
  ⟨"TIME_SP_LEND", 0x09008008, 1, 1, 1, 1, 32, [⟨4, 12, .rw, .l, 20⟩, ⟨0, 1, .rw, .l, 1⟩]⟩,
  ⟨"TIME_SP_RES_LO", 0x09008010, 1, 1, 1, 1, 64, [⟨0, 64, .ro, .none, 0⟩]⟩,
  ⟨"TIME_SP_RES_HI", 0x09008018, 1, 1, 1, 1, 64, [⟨0, 32, .ro, .none, 0⟩]⟩,
  ⟨"TIME_SP_SPARE_LO", 0x09008020, 1, 1, 1, 1, 64, [⟨0, 64, .ro, .none, 0⟩]⟩,
  ⟨"TIME_SP_SPARE_HI", 0x09008028, 1, 1, 1, 1, 64, [⟨0, 32, .ro, .none, 0⟩]⟩,
  ⟨"TIME_SP_POOL_LO", 0x09008030, 1, 1, 1, 1, 64, [⟨0, 64, .rw, .l, 0⟩]⟩,
  ⟨"TIME_SP_POOL_HI", 0x09008038, 1, 1, 1, 1, 64, [⟨0, 32, .rw, .l, 0⟩]⟩,
  ⟨"TIME_SP_COUNT", 0x09008040, 1, 1, 1, 1, 64, [⟨32, 32, .ro, .none, 0⟩, ⟨0, 32, .ro, .none, 0⟩]⟩,
  ⟨"TIME_SP_RECLAIM_MAX", 0x09008048, 1, 1, 1, 1, 32, [⟨0, 16, .ro, .none, 0⟩]⟩,
  ⟨"TIME_STATUS", 0x09000000, 1, 1, 1, 1, 32, [⟨16, 16, .ro, .none, 0⟩, ⟨8, 2, .ro, .none, 0⟩, ⟨6, 2, .ro, .none, 0⟩, ⟨5, 1, .w1c, .l, 0⟩, ⟨0, 2, .ro, .none, 0⟩]⟩,
  ⟨"TIME_SEL", 0x09000008, 1, 1, 1, 1, 32, [⟨21, 1, .rw, .l, 0⟩, ⟨16, 5, .rw, .l, 0⟩, ⟨12, 2, .rw, .l, 0⟩, ⟨8, 2, .rw, .l, 3⟩, ⟨4, 2, .rw, .l, 2⟩, ⟨0, 2, .rw, .l, 2⟩]⟩,
  ⟨"TIME_ADJ", 0x09000010, 1, 1, 1, 1, 32, [⟨16, 16, .rw, .l, 10⟩, ⟨0, 16, .rw, .l, 100⟩]⟩,
  ⟨"TIME_FRAME", 0x09000018, 1, 1, 1, 1, 32, [⟨0, 27, .rw, .q, 0⟩]⟩,
  ⟨"TIME_SET_SEC", 0x09000020, 1, 1, 1, 1, 64, [⟨0, 48, .rw, .s, 0⟩]⟩,
  ⟨"TIME_SET_SUB", 0x09000028, 1, 1, 1, 1, 64, [⟨63, 1, .wo, .l, 0⟩, ⟨48, 2, .rw, .s, 3⟩, ⟨0, 33, .rw, .s, 0⟩]⟩,
  ⟨"TIME_TB_SEC", 0x09000100, 16, 4, 1, 1, 64, [⟨0, 48, .ro, .none, 0⟩]⟩,
  ⟨"TIME_TB_SUB", 0x09000108, 16, 4, 1, 1, 64, [⟨0, 33, .ro, .none, 0⟩]⟩,
  ⟨"TIME_DOM_CFG", 0x09000200, 64, 2, 1, 1, 32, [⟨24, 8, .rw, .q, 24⟩, ⟨12, 3, .rw, .q, 4⟩, ⟨8, 1, .rw, .q, 0⟩, ⟨4, 3, .rw, .q, 0⟩, ⟨0, 2, .rw, .q, 0⟩]⟩,
  ⟨"TIME_DOM_PORTS", 0x09000208, 64, 2, 1, 1, 32, [⟨0, 32, .rw, .q, 0⟩]⟩,
  ⟨"TIME_DOM_GAIN", 0x09000210, 64, 2, 1, 1, 32, [⟨16, 16, .rw, .l, 0⟩, ⟨8, 4, .rw, .l, 6⟩, ⟨0, 4, .rw, .l, 2⟩]⟩,
  ⟨"TIME_DOM_LIMIT", 0x09000218, 64, 2, 1, 1, 32, [⟨24, 8, .rw, .l, 8⟩, ⟨0, 16, .rw, .l, 50⟩]⟩,
  ⟨"TIME_DOM_STATE", 0x09000220, 64, 2, 1, 1, 64, [⟨32, 32, .ro, .none, 0⟩, ⟨24, 8, .ro, .none, 0⟩, ⟨16, 5, .ro, .none, 0⟩, ⟨0, 3, .ro, .none, 0⟩]⟩,
  ⟨"TIME_DOM_OFFSET", 0x09000228, 64, 2, 1, 1, 64, [⟨32, 32, .ro, .none, 0⟩, ⟨0, 32, .ro, .none, 0⟩]⟩,
  ⟨"TIME_TPO_CTRL", 0x09000300, 32, 8, 1, 1, 32, [⟨8, 2, .rw, .s, 0⟩, ⟨4, 1, .rw, .s, 0⟩, ⟨3, 1, .ro, .none, 0⟩, ⟨2, 1, .ro, .none, 0⟩, ⟨1, 1, .wo, .l, 0⟩, ⟨0, 1, .wo, .l, 0⟩]⟩,
  ⟨"TIME_TPO_START_SEC", 0x09000308, 32, 8, 1, 1, 64, [⟨0, 48, .rw, .s, 0⟩]⟩,
  ⟨"TIME_TPO_START_SUB", 0x09000310, 32, 8, 1, 1, 64, [⟨0, 33, .rw, .s, 0⟩]⟩,
  ⟨"TIME_TPO_SHAPE", 0x09000318, 32, 8, 1, 1, 64, [⟨44, 20, .rw, .s, 1⟩, ⟨0, 43, .rw, .s, 0⟩]⟩,
  ⟨"TIME_TCI_CTRL", 0x09000400, 32, 8, 1, 1, 32, [⟨24, 8, .ro, .none, 0⟩, ⟨16, 5, .ro, .none, 0⟩, ⟨8, 2, .rw, .l, 0⟩, ⟨4, 2, .rw, .l, 0⟩, ⟨0, 1, .rw, .l, 0⟩]⟩,
  ⟨"TIME_TCI_SEC", 0x09000408, 32, 8, 1, 1, 64, [⟨0, 48, .ro, .none, 0⟩]⟩,
  ⟨"TIME_TCI_SUB", 0x09000410, 32, 8, 1, 1, 64, [⟨63, 1, .ro, .none, 0⟩, ⟨62, 1, .ro, .none, 0⟩, ⟨0, 33, .ro, .none, 0⟩]⟩]

/-- The registers of block 0xa. -/
def regTable10 : List RegDesc := [
  ⟨"MGT_FH_STATUS", 0x0A008000, 1, 1, 1, 1, 32, [⟨16, 16, .ro, .none, 0⟩, ⟨5, 1, .w1c, .l, 0⟩]⟩,
  ⟨"MGT_FH_FENCE", 0x0A008008, 1, 1, 1, 1, 32, [⟨8, 8, .rw, .l, 24⟩, ⟨0, 4, .rw, .l, 2⟩]⟩,
  ⟨"MGT_FH_SCORE", 0x0A008010, 1, 1, 1, 1, 64, [⟨32, 10, .rw, .l, 800⟩, ⟨16, 10, .rw, .l, 500⟩, ⟨0, 4, .rw, .l, 12⟩]⟩,
  ⟨"MGT_FH_FENCED_LO", 0x0A008018, 1, 1, 1, 1, 64, [⟨0, 64, .ro, .none, 0⟩]⟩,
  ⟨"MGT_FH_FENCED_HI", 0x0A008020, 1, 1, 1, 1, 64, [⟨32, 4, .ro, .none, 0⟩, ⟨0, 32, .ro, .none, 0⟩]⟩,
  ⟨"MGT_FH_RECORDS", 0x0A008028, 1, 1, 1, 1, 64, [⟨32, 32, .ro, .none, 0⟩, ⟨0, 32, .ro, .none, 0⟩]⟩,
  ⟨"MGT_STATUS", 0x0A000000, 1, 1, 1, 1, 32, [⟨16, 16, .ro, .none, 0⟩, ⟨5, 1, .w1c, .l, 0⟩]⟩,
  ⟨"MGT_BOOT", 0x0A000008, 1, 1, 1, 1, 64, [⟨32, 16, .ro, .none, 0⟩, ⟨0, 4, .ro, .none, 0⟩]⟩,
  ⟨"MGT_WD", 0x0A000010, 1, 1, 1, 1, 64, [⟨32, 32, .ro, .none, 0⟩, ⟨16, 16, .ro, .none, 0⟩, ⟨0, 2, .ro, .none, 0⟩]⟩,
  ⟨"MGT_FW", 0x0A000018, 1, 1, 1, 1, 64, [⟨32, 32, .ro, .none, 0⟩, ⟨24, 8, .ro, .none, 0⟩, ⟨8, 16, .ro, .none, 0⟩, ⟨0, 2, .ro, .none, 0⟩]⟩,
  ⟨"MGT_SRAM_ERR", 0x0A000020, 1, 1, 1, 1, 64, [⟨32, 32, .ro, .none, 0⟩, ⟨0, 32, .ro, .none, 0⟩]⟩,
  ⟨"MGT_LOG", 0x0A000028, 1, 1, 1, 1, 64, [⟨36, 14, .ro, .none, 0⟩, ⟨0, 32, .ro, .none, 0⟩]⟩]

/-- The registers of block 0xb. -/
def regTable11 : List RegDesc := [
  ⟨"SEC_STATUS", 0x0B000000, 1, 1, 1, 1, 32, [⟨16, 16, .ro, .none, 0⟩, ⟨5, 1, .w1c, .l, 0⟩]⟩,
  ⟨"SEC_FUSE", 0x0B000008, 1, 1, 1, 1, 64, [⟨63, 1, .ro, .none, 0⟩, ⟨8, 4, .ro, .none, 0⟩, ⟨0, 7, .ro, .none, 0⟩]⟩,
  ⟨"SEC_SPDM", 0x0B000010, 1, 1, 1, 1, 64, [⟨32, 32, .ro, .none, 0⟩, ⟨0, 32, .ro, .none, 0⟩]⟩]

/-- The registers of block 0xc. -/
def regTable12 : List RegDesc := [
  ⟨"TST_STATUS", 0x0C000000, 1, 1, 1, 1, 32, [⟨16, 16, .ro, .none, 0⟩, ⟨5, 1, .w1c, .l, 0⟩, ⟨0, 2, .ro, .none, 0⟩]⟩,
  ⟨"TST_LB_SEL", 0x0C000008, 1, 1, 1, 1, 32, [⟨20, 4, .rw, .q, 0⟩, ⟨16, 3, .rw, .q, 3⟩, ⟨8, 8, .rw, .q, 0⟩, ⟨0, 3, .rw, .q, 0⟩]⟩,
  ⟨"TST_LB_CTRL", 0x0C000010, 1, 1, 1, 1, 32, [⟨1, 1, .wo, .l, 0⟩, ⟨0, 1, .wo, .l, 0⟩]⟩,
  ⟨"TST_LB_BITS", 0x0C000018, 1, 1, 1, 1, 64, [⟨0, 64, .ro, .none, 0⟩]⟩,
  ⟨"TST_LB_ERR", 0x0C000020, 1, 1, 1, 1, 64, [⟨0, 64, .ro, .none, 0⟩]⟩,
  ⟨"TST_BIST", 0x0C000028, 1, 1, 1, 1, 32, [⟨8, 8, .rw, .l, 0⟩, ⟨4, 3, .rw, .l, 0⟩, ⟨2, 1, .ro, .none, 0⟩, ⟨1, 1, .ro, .none, 0⟩, ⟨0, 1, .wo, .l, 0⟩]⟩,
  ⟨"TST_CAL_ETH", 0x0C000030, 1, 1, 1, 1, 32, [⟨0, 32, .wo, .l, 0⟩]⟩]

/-- The registers of block 0x100. -/
def regTable256 : List RegDesc := [
  ⟨"MBX_STATUS", 0x100000000, 4294967296, 65, 1, 1, 32, [⟨16, 16, .ro, .none, 0⟩, ⟨6, 1, .w1c, .l, 0⟩, ⟨5, 1, .w1c, .l, 0⟩]⟩,
  ⟨"MBX_CREDIT", 0x100000008, 4294967296, 65, 1, 1, 32, [⟨0, 32, .ro, .none, 0⟩]⟩,
  ⟨"MBX_SQ_BASE", 0x100000100, 4294967296, 65, 32, 17, 64, [⟨12, 52, .rw, .q, 0⟩]⟩,
  ⟨"MBX_CQ_BASE", 0x100000108, 4294967296, 65, 32, 17, 64, [⟨12, 52, .rw, .q, 0⟩]⟩,
  ⟨"MBX_RING_CFG", 0x100000110, 4294967296, 65, 32, 17, 32, [⟨24, 8, .rw, .l, 0⟩, ⟨12, 12, .rw, .q, 0⟩, ⟨4, 4, .rw, .q, 4⟩, ⟨0, 1, .rw, .l, 0⟩]⟩,
  ⟨"MBX_RING_STATE", 0x100000118, 4294967296, 65, 32, 17, 32, [⟨28, 3, .ro, .none, 0⟩, ⟨16, 12, .ro, .none, 0⟩, ⟨12, 1, .ro, .none, 1⟩, ⟨0, 12, .ro, .none, 0⟩]⟩,
  ⟨"MBX_SQ_TAIL", 0x100001000, 4294967296, 65, 8, 17, 32, [⟨0, 12, .wo, .l, 0⟩]⟩,
  ⟨"MBX_CQ_HEAD", 0x100001004, 4294967296, 65, 8, 17, 32, [⟨0, 12, .wo, .l, 0⟩]⟩,
  ⟨"HOST_FN_STATUS", 0x100002000, 4294967296, 65, 1, 1, 32, [⟨16, 16, .ro, .none, 0⟩, ⟨8, 7, .ro, .none, 0⟩, ⟨5, 1, .w1c, .l, 0⟩, ⟨0, 3, .ro, .none, 1⟩]⟩,
  ⟨"HOST_LINK", 0x100002008, 4294967296, 65, 1, 1, 32, [⟨20, 4, .ro, .none, 0⟩, ⟨16, 4, .ro, .none, 0⟩, ⟨15, 1, .ro, .none, 0⟩]⟩,
  ⟨"HOST_BAR2_SEG", 0x100002100, 4294967296, 65, 8, 64, 64, [⟨22, 18, .rw, .q, 0⟩, ⟨1, 1, .rw, .q, 0⟩, ⟨0, 1, .rw, .q, 0⟩]⟩]

/-- The register table of a block, by the top bits of a key; 256 stands for every BAR 0. -/
def regTableOf (key : Nat) : List RegDesc :=
  if key ≥ 0x100000000 then regTable256 else
  match key / 0x1000000 with
  | 1 => regTable1
  | 2 => regTable2
  | 3 => regTable3
  | 4 => regTable4
  | 5 => regTable5
  | 6 => regTable6
  | 7 => regTable7
  | 8 => regTable8
  | 9 => regTable9
  | 10 => regTable10
  | 11 => regTable11
  | 12 => regTable12
  | _ => []

/-- Whether a key is one of the copies of a register. -/
def RegDesc.covers (r : RegDesc) (key : Nat) : Bool :=
  r.base ≤ key && (key - r.base) / r.stride1 < r.count1 &&
    (key - r.base) % r.stride1 / r.stride2 < r.count2 && (key - r.base) % r.stride1 % r.stride2 == 0

/-- The register at a key, if there is one. -/
def regAt (key : Nat) : Option RegDesc := (regTableOf key).find? (fun r => r.covers key)

/-- The reset value of a register from its fields (the fused and fixed fields are filled by `idBits`). -/
def RegDesc.resetVal (r : RegDesc) : Nat := r.flds.foldl (fun a f => a + f.reset * 2 ^ f.lo) 0

/-- The fused and fixed fields: unit numbers in the ID registers and the instance in `HOST_FN_STATUS`. -/
def idBits (key : Nat) : Nat :=
  if key ≥ 0x100000000 then (if key % 0x100000000 = 0x2000 then (key / 0x100000000 - 1) * 2 ^ 8 else 0)
  else if key / 0x1000000 = 1 then
    let a := (key - 0x01000000) / 0x100
    if (key - 0x01000000) % 0x100 = 0 then
      (if a < 384 then a / 4 * 2 ^ 8 + a % 4 else 2 ^ 15 + 0x7F * 2 ^ 8 + (a - 384))
    else 0
  else if key / 0x1000000 = 2 then
    let c := (key - 0x02000000) / 0x1000
    if (key - 0x02000000) % 0x1000 = 0 then c / 8 * 2 ^ 8 + c else 0
  else if key / 0x1000000 = 6 then
    (if (key - 0x06000000) % 0x1000 = 0 then (key - 0x06000000) / 0x1000 else 0)
  else 0

/-- What a register holds at reset: the values of the field tables, and the ID fields (R3, R391). -/
def resetOf (key : Nat) : Word :=
  match regAt key with
  | none => 0
  | some r => BitVec.ofNat 64 (r.resetVal + idBits key)

end Sys2Proof.Machine
end

