-- ==== Sys2Proof/Machine/Formats.lean ====
section
/-!
DEFINITION. Element formats (R34), their values, and the rounding of an exact value to an output format
(R43, R44, R45, R54, R55, R56, R58).
-/

namespace Sys2Proof.Machine

/-- The element formats of Table: element formats (R34) and the two wide storage elements of R51 and R57. -/
inductive Fmt where
  | fp32 | bf16 | fp16 | e5m2 | e4m3 | e3m2 | e2m3 | e2m1 | int8 | int4 | int32 | e8m0 | c16 | exa80 | c40
  deriving DecidableEq, Repr

/-- The formats that follow sign, exponent and fraction. -/
def Fmt.isFloat : Fmt → Bool
  | .fp32 | .bf16 | .fp16 | .e5m2 | .e4m3 | .e3m2 | .e2m3 | .e2m1 => true
  | _ => false

/-- The formats that are two's complement integers. -/
def Fmt.isInt : Fmt → Bool
  | .int8 | .int4 | .int32 => true
  | _ => false

/-- Bits of one stored element (R34, R51, R57). -/
def Fmt.bits : Fmt → Nat
  | .fp32 => 32 | .bf16 => 16 | .fp16 => 16 | .e5m2 => 8 | .e4m3 => 8 | .e3m2 => 6 | .e2m3 => 6 | .e2m1 => 4
  | .int8 => 8 | .int4 => 4 | .int32 => 32 | .e8m0 => 8 | .c16 => 32 | .exa80 => 640 | .c40 => 128

/-- Stored fraction bits (R34). -/
def Fmt.mbits : Fmt → Nat
  | .fp32 => 23 | .bf16 => 7 | .fp16 => 10 | .e5m2 => 2 | .e4m3 => 3 | .e3m2 => 2 | .e2m3 => 3 | .e2m1 => 1
  | _ => 0

/-- Exponent bias (R34). -/
def Fmt.bias : Fmt → Nat
  | .fp32 => 127 | .bf16 => 127 | .fp16 => 15 | .e5m2 => 15 | .e4m3 => 7 | .e3m2 => 3 | .e2m3 => 1 | .e2m1 => 1
  | .e8m0 => 127
  | _ => 0

/-- The exponent of the smallest normal (R34, R54). -/
def Fmt.emin (f : Fmt) : Int := 1 - (f.bias : Int)

/-- The encoding, without its sign, of the largest finite value (R34). -/
def Fmt.maxCode : Fmt → Nat
  | .fp32 => 0x7F7FFFFF | .bf16 => 0x7F7F | .fp16 => 0x7BFF | .e5m2 => 0x7B | .e4m3 => 0x7E
  | .e3m2 => 0x1F | .e2m3 => 0x1F | .e2m1 => 0x7 | .int8 => 127 | .int4 => 7 | .int32 => 0x7FFFFFFF
  | _ => 0

/-- Whether the format encodes infinities (R34). -/
def Fmt.hasInf : Fmt → Bool
  | .fp32 | .bf16 | .fp16 | .e5m2 => true
  | _ => false

/-- The canonical quiet NaN (R34, R43). -/
def Fmt.nanCode : Fmt → Option Nat
  | .fp32 => some 0x7FC00000 | .bf16 => some 0x7FC0 | .fp16 => some 0x7E00 | .e5m2 => some 0x7E
  | .e4m3 => some 0x7F | .e8m0 => some 0xFF
  | _ => none

/-- The significand width counting the hidden bit (R38). -/
def Fmt.sigWidth (f : Fmt) : Nat := if f.isInt then f.bits else f.mbits + 1

/-- emax of an MX element format (R36). -/
def Fmt.emax : Fmt → Int
  | .e4m3 => 8 | .e5m2 => 15 | .e3m2 => 4 | .e2m3 => 2 | .e2m1 => 2
  | _ => 0

/-- The value of an encoding: NaN, an infinity, or the finite value ±`m`·2^`q` (R34). -/
inductive Val where
  | nan
  | inf (neg : Bool)
  | fin (neg : Bool) (m : Nat) (q : Int)
  deriving DecidableEq, Repr

/-- The value an encoding stands for (R34). C16, EXA-80 and C40 are read by operations of their own. -/
def Fmt.decode (f : Fmt) (code : Nat) : Val :=
  if f.isInt then
    let v := toSigned f.bits code
    .fin (v < 0) v.natAbs 0
  else if f = .e8m0 then
    if code % 256 = 255 then .nan else .fin false 1 ((code % 256 : Nat) - 127)
  else
    let s := bitOf code (f.bits - 1)
    let e := bitsAt code f.mbits (f.bits - 1 - f.mbits)
    let m := bitsAt code 0 f.mbits
    let top := 2 ^ (f.bits - 1 - f.mbits) - 1
    if f.hasInf && e == top then (if m = 0 then .inf s else .nan)
    else if f = .e4m3 ∧ e = 15 ∧ m = 7 then .nan
    else if e = 0 then .fin s m (f.emin - f.mbits)
    else .fin s (m + 2 ^ f.mbits) ((e : Int) - f.bias - f.mbits)

/-- The product of two values (R41); a product of an infinity and a zero is NaN. -/
def Val.mul : Val → Val → Val
  | .nan, _ => .nan
  | _, .nan => .nan
  | .inf a, .inf b => .inf (a != b)
  | .inf a, .fin b m _ => if m = 0 then .nan else .inf (a != b)
  | .fin a m _, .inf b => if m = 0 then .nan else .inf (a != b)
  | .fin a m q, .fin b n r => .fin (a != b) (m * n) (q + r)

/-- Whether a product is invalid in itself: an infinity times a zero (R41). -/
def Val.mulInvalid : Val → Val → Bool
  | .inf _, .fin _ m _ => m == 0
  | .fin _ m _, .inf _ => m == 0
  | _, _ => false

/-- A value scaled by 2^`k`. -/
def Val.scale (k : Int) : Val → Val
  | .fin s m q => .fin s m (q + k)
  | v => v

/-- A value with the opposite sign. -/
def Val.neg : Val → Val
  | .fin s m q => .fin (!s) m q
  | .inf s => .inf (!s)
  | .nan => .nan

/-- The flags of an output element or a request (R45). -/
structure Flags where
  invalid   : Bool := false
  overflow  : Bool := false
  underflow : Bool := false
  inexact   : Bool := false
  deriving DecidableEq, Repr

/-- The union of flags (R45). -/
def Flags.or (a b : Flags) : Flags :=
  ⟨a.invalid || b.invalid, a.overflow || b.overflow, a.underflow || b.underflow, a.inexact || b.inexact⟩

/-- The flag bits as a completion carries them: INVALID, OVERFLOW, UNDERFLOW, INEXACT from bit 3 to bit 0 (R387). -/
def Flags.toNat (f : Flags) : Nat := 8 * b2n f.invalid + 4 * b2n f.overflow + 2 * b2n f.underflow + b2n f.inexact

/-- The union over a list (R45). -/
def Flags.union (fs : List Flags) : Flags := fs.foldl Flags.or {}

/-- `m`·2^`q` as an integer multiple of 2^-`W`, cut towards zero below that grid. -/
def scaled (W : Nat) (m : Nat) (q : Int) : Nat :=
  if 0 ≤ q + W then m * 2 ^ (q + W).toNat else m / 2 ^ (-(q + W)).toNat

/-- The increment of R54 (ties to even) or, with a draw `u`, of R56 (stochastic). -/
def roundUp (q rem sh : Nat) (u : Option Nat) : Bool :=
  match u with
  | none => if sh = 0 then false else rem > 2 ^ (sh - 1) || (rem == 2 ^ (sh - 1) && q % 2 == 1)
  | some u => rem * 2 ^ 32 / 2 ^ sh + u ≥ 2 ^ 32

/-- A magnitude `m`·2^-`W` rounded at the bit of weight 2^`w` (R54, R56): the integer and whether it is inexact. -/
def roundAt (W m : Nat) (w : Int) (u : Option Nat) : Nat × Bool :=
  if w + W ≤ 0 then (m * 2 ^ (-(w + W)).toNat, false)
  else
    let sh := (w + W).toNat
    let q := m / 2 ^ sh
    let rem := m % 2 ^ sh
    (if roundUp q rem sh u then q + 1 else q, rem != 0)

/-- An exact accumulator: `acc`·2^-W and the flags of Table: exact partial (R50, R51, R496). -/
structure Exa where
  acc  : Int := 0
  any  : Bool := false
  nz   : Bool := false
  pinf : Bool := false
  ninf : Bool := false
  nan  : Bool := false
  inv  : Bool := false
  deriving DecidableEq, Repr

/-- A sum kept in `w` bits of two's complement (R53: beyond the limit it wraps). -/
def wrapTo (w : Nat) (x : Int) : Int := toSigned w (ofSigned w x)

/-- The combination of two accumulators of `w` bits (R52). That terms of +∞ and −∞ meet stands in `PINF` and `NINF`, not in `INV`, and
`Exa.invalid` derives it (DESIGN CHOICE, log entry 60). -/
def Exa.add (w : Nat) (a b : Exa) : Exa where
  acc := wrapTo w (a.acc + b.acc)
  any := a.any || b.any
  nz := (a.any || b.any) && (a.nz || !a.any) && (b.nz || !b.any)
  pinf := a.pinf || b.pinf
  ninf := a.ninf || b.ninf
  nan := a.nan || b.nan
  inv := a.inv || b.inv

/-- One term as an accumulator of weight 2^-`W` (R40, R41, R42, R52). -/
def Exa.ofVal (W : Nat) (v : Val) (invalid : Bool := false) : Exa :=
  match v with
  | .nan => { any := true, nan := true, inv := invalid }
  | .inf false => { any := true, pinf := true, inv := invalid }
  | .inf true => { any := true, ninf := true, inv := invalid }
  | .fin s m q => { acc := if s then -(scaled W m q : Int) else scaled W m q, any := true, nz := s && m == 0, inv := invalid }

/-- The product of two elements as a term (R40, R41). -/
def Exa.ofProduct (W : Nat) (a b : Val) : Exa := Exa.ofVal W (a.mul b) (Val.mulInvalid a b)

/-- Bits of an EXA-80 accumulator (R51). -/
def exaBits : Nat := 608
/-- The weight of bit 0 of an EXA-80 accumulator is 2^-288 (R51). -/
def exaW : Nat := 288
/-- Bits of the internal accumulator of R496. -/
def sqBits : Nat := 640
/-- The weight of bit 0 of the internal accumulator is 2^-320 (R496). -/
def sqW : Nat := 320

/-- The exact sum of a list of accumulators (R39, R52). -/
def Exa.sum (w : Nat) (xs : List Exa) : Exa := xs.foldl (Exa.add w) {}

/-- The 640-bit number of an EXA-80 value (R51). -/
def Exa.toNat (x : Exa) : Nat :=
  ofSigned exaBits x.acc + 2 ^ 608 * b2n x.any + 2 ^ 609 * b2n x.nz + 2 ^ 610 * b2n x.pinf + 2 ^ 611 * b2n x.ninf
    + 2 ^ 612 * b2n x.nan + 2 ^ 613 * b2n x.inv

/-- The EXA-80 value of a 640-bit number; the reserved bits are ignored (R51). -/
def Exa.ofNat (v : Nat) : Exa where
  acc := toSigned exaBits v
  any := bitOf v 608
  nz := bitOf v 609
  pinf := bitOf v 610
  ninf := bitOf v 611
  nan := bitOf v 612
  inv := bitOf v 613

/-- The exact partial of 24 bytes (R50) of value `sig`·2^`anchor` with the flags of `x`. -/
def partialNat (sig anchor : Int) (x : Exa) : Nat :=
  ofSigned 160 sig + 2 ^ 160 * ofSigned 16 anchor + 2 ^ 176 * b2n x.any + 2 ^ 177 * b2n x.nz + 2 ^ 178 * b2n x.pinf
    + 2 ^ 179 * b2n x.ninf + 2 ^ 180 * b2n x.nan + 2 ^ 181 * b2n x.inv

/-- The accumulator an exact partial stands for (R50, R52). -/
def Exa.ofPartial (v : Nat) : Exa where
  acc :=
    let k := toSigned 16 (bitsAt v 160 16) + exaW
    let s := toSigned 160 v
    if 0 ≤ k then wrapTo exaBits (s * 2 ^ k.toNat) else s / 2 ^ (-k).toNat
  any := bitOf v 176
  nz := bitOf v 177
  pinf := bitOf v 178
  ninf := bitOf v 179
  nan := bitOf v 180
  inv := bitOf v 181

/-- The exact value an accumulator holds, with specials resolved (R41, R42). -/
def Exa.value (W : Nat) (x : Exa) : Val :=
  if x.nan || (x.pinf && x.ninf) then .nan
  else if x.pinf then .inf false
  else if x.ninf then .inf true
  else if x.acc = 0 then .fin x.nz 0 0
  else .fin (x.acc < 0) x.acc.natAbs (-(W : Int))

/-- Whether the sum is marked invalid (R41). -/
def Exa.invalid (x : Exa) : Bool := x.inv || (x.pinf && x.ninf)

/-- An encoding with its sign bit. -/
def Fmt.signed (f : Fmt) (s : Bool) (code : Nat) : Nat := code + b2n s * 2 ^ (f.bits - 1)

/-- Overflow or an infinite result by output format and overflow mode (R44), for formats that are not MX. -/
def resolveOverflow (f : Fmt) (s ovfNan : Bool) : Nat :=
  if f.hasInf then f.signed s (f.maxCode + 1)
  else if f = .e4m3 then (if ovfNan then 0x7F else f.signed s 0x7E)
  else if f.isInt then (if s then ofSigned f.bits (-(f.maxCode : Int) - 1) else f.maxCode)
  else f.signed s f.maxCode

/-- The largest finite encoding of its sign (R44, the MX rows). -/
def Fmt.largest (f : Fmt) (s : Bool) : Nat :=
  if f.isInt then (if s then ofSigned f.bits (-(f.maxCode : Int)) else f.maxCode) else f.signed s f.maxCode

/-- Whether a magnitude rounded to the integer `q` exceeds the largest finite value of the integer format (R44, R54): the most negative
encoding is reached by saturation only. -/
def intOverflow (f : Fmt) (q : Nat) : Bool := q > f.maxCode

/-- A finite magnitude `m`·2^-`W` of sign `s` rounded once to `f` (R54, R56): encoding and flags (R45). -/
def roundFinite (f : Fmt) (W : Nat) (s : Bool) (m : Nat) (ovfNan : Bool) (u : Option Nat) : Nat × Flags :=
  if f.isInt then
    let (q, ix) := roundAt W m 0 u
    if intOverflow f q then (resolveOverflow f s ovfNan, { overflow := true, inexact := true })
    else (ofSigned f.bits (if s then -(q : Int) else q), { inexact := ix })
  else if m = 0 then (f.signed s 0, {})
  else
    let e : Int := max ((Nat.log2 m : Int) - W) f.emin
    let (q, ix) := roundAt W m (e - f.mbits) u
    let code := (e - f.emin).toNat * 2 ^ f.mbits + q
    if code > f.maxCode then (resolveOverflow f s ovfNan, { overflow := true, inexact := true })
    else (f.signed s code, { inexact := ix, underflow := ix && (Nat.log2 m : Int) - W < f.emin })

/-- The grid on which a value is exact for rounding: fine enough for its lowest bit. -/
def Val.grid : Val → Nat
  | .fin _ _ q => (-q).toNat
  | _ => 0

/-- A value rounded once to a format that is not MX (R43, R44, R54). -/
def roundVal (f : Fmt) (v : Val) (ovfNan : Bool := false) (u : Option Nat := none) : Nat × Flags :=
  match v with
  | .nan => if f.isInt then (0, { invalid := true }) else (f.nanCode.getD 0, {})
  | .inf s => (resolveOverflow f s ovfNan, { inexact := !f.hasInf })
  | .fin s m q => roundFinite f v.grid s (scaled v.grid m q) ovfNan u

/-- The procedure round_once of R54, with the flags of R45. -/
def roundOnce (f : Fmt) (W : Nat) (x : Exa) (ovfNan : Bool := false) (u : Option Nat := none) : Nat × Flags :=
  let r := roundVal f (x.value W) ovfNan u
  (r.1, r.2.or { invalid := x.invalid })

/-- The magnitude of a finite value on the grid 2^-`W`. -/
def Val.magAt (W : Nat) : Val → Nat
  | .fin _ m q => scaled W m q
  | _ => 0

/-- The shared exponent X of an MX block (R55 steps 2 and 3). -/
def mxExponent (f : Fmt) (W : Nat) (vs : List Val) : Int :=
  let amax := vs.foldl (fun a v => max a (v.magAt W)) 0
  if amax = 0 then -127 else max (-127) (min 127 ((Nat.log2 amax : Int) - W - f.emax))

/-- One element of an MX block under the shared exponent `X` (R55 step 4): encoding, flags, and whether it
overflows or is infinite. MXINT8 elements are INT8 times 2^-6 (R36). -/
def mxElement (f : Fmt) (X : Int) (v : Val) (u : Option Nat) : Nat × Flags × Bool :=
  match v with
  | .inf s => (f.largest s, { inexact := true }, true)
  | .nan => (0, {}, false)
  | .fin s _ _ =>
    let w := v.scale ((if f = .int8 then 6 else 0) - X)
    let r := roundVal f w false u
    if r.2.overflow then (f.largest s, { overflow := true, inexact := true }, true) else (r.1, r.2, false)

/-- An MX output block (R55): the scale byte, the element encodings and the flags. A draw per element is given
under stochastic rounding (R56). -/
def mxBlock (f : Fmt) (vs : List Val) (ovfNan : Bool) (us : Option (List Nat)) : Nat × List Nat × Flags :=
  let zeros := vs.map (fun _ => 0)
  let anyFinite := vs.any (fun v => decide (v ≠ .nan))
  if vs.any (fun v => decide (v = .nan)) then (0xFF, zeros, { inexact := anyFinite })
  else
    let W := vs.foldl (fun a v => max a v.grid) 0
    let X := mxExponent f W vs
    let rs := (List.range vs.length).map fun i =>
      mxElement f X ((vs[i]?).getD .nan) (us.map (fun l => (l[i]?).getD 0))
    let fl := Flags.union (rs.map (fun r => r.2.1))
    if ovfNan && rs.any (fun r => r.2.2) then (0xFF, zeros, fl)
    else ((X + 127).toNat, rs.map (fun r => r.1), fl)

/-- Rounding a fixed-point value right by `s` bits, half up, then saturating to `w` bits (R58). -/
def roundHalfUp (x : Int) (s w : Nat) : Int × Bool :=
  satSigned w (if s = 0 then x else (x + 2 ^ (s - 1)) / 2 ^ s)

end Sys2Proof.Machine
end

