-- ==== Sys2Proof/Machine/Tables.lean ====
section
/-!
DEFINITION. Sparse tables by number, and memory: a list of (address, byte) cells in one canonical form, addresses
strictly rising and no cell equal to what an unlisted address reads as (log entries 6 and 7).
-/

namespace Sys2Proof.Machine

/-- A sparse table: the entry of a number that is not listed is the table's default. -/
abbrev Tbl (α : Type) := List (Nat × α)

/-- The listed entry of a number. -/
def tget? {α : Type} (t : Tbl α) (k : Nat) : Option α := (t.find? (fun p => p.1 == k)).map (fun p => p.2)

/-- The entry of a number, or the default. -/
def tget {α : Type} (d : α) (t : Tbl α) (k : Nat) : α := (tget? t k).getD d

/-- The table without an entry. -/
def tdel {α : Type} (t : Tbl α) (k : Nat) : Tbl α := t.filter (fun p => p.1 != k)

/-- The table with one entry replaced. -/
def tset {α : Type} (t : Tbl α) (k : Nat) (v : α) : Tbl α := (k, v) :: tdel t k

/-- The table with one entry changed by a function of its old value. -/
def tmod {α : Type} (d : α) (t : Tbl α) (k : Nat) (f : α → α) : Tbl α := tset t k (f (tget d t k))

/-- The byte at an address; an unlisted address reads 0 (log entry 6). -/
def memGet (m : List Host.Cell) (a : Nat) : Byte := tget 0 m a

/-- Puts a byte at an address, keeping the addresses rising; a byte 0 is not listed. -/
def memPut : List Host.Cell → Nat → Byte → List Host.Cell
  | [], a, v => if v = 0 then [] else [(a, v)]
  | (b, w) :: m, a, v =>
    if a < b then (if v = 0 then (b, w) :: m else (a, v) :: (b, w) :: m)
    else if a = b then (if v = 0 then m else (a, v) :: m)
    else (b, w) :: memPut m a v

/-- `n` bytes from an address. -/
def memRead (m : List Host.Cell) (a n : Nat) : List Byte := (List.range n).map (fun i => memGet m (a + i))

/-- Writes bytes from an address on. -/
def memWrite : List Host.Cell → Nat → List Byte → List Host.Cell
  | m, _, [] => m
  | m, a, b :: bs => memWrite (memPut m a b) (a + 1) bs

/-- Writes zeros to a range. -/
def memClear (m : List Host.Cell) (a n : Nat) : List Host.Cell :=
  m.filter (fun c => c.1 < a || a + n ≤ c.1)

/-- The number in `w` bytes at an address (little-endian, R5). -/
def memNat (m : List Host.Cell) (a w : Nat) : Nat := leNat (memRead m a w)

/-- The canonical form of memory: addresses strictly rising from `lo` on, no listed byte 0. -/
def memWfFrom : Nat → List Host.Cell → Bool
  | _, [] => true
  | lo, (a, v) :: m => decide (lo ≤ a) && decide (v ≠ 0) && memWfFrom (a + 1) m

/-- The canonical form of memory. -/
def memWf (m : List Host.Cell) : Bool := memWfFrom 0 m

/-- Puts a number into a rising list without repeats. -/
def natPut : List Nat → Nat → List Nat
  | [], a => [a]
  | b :: l, a => if a < b then a :: b :: l else if a = b then b :: l else b :: natPut l a

/-- A rising list without the numbers of a range. -/
def natDrop (l : List Nat) (a n : Nat) : List Nat := l.filter (fun x => x < a || a + n ≤ x)

/-- Ranges, as (start, bytes), without what lies in the range of `n` from `a`. -/
def rangesDrop (l : List (Nat × Nat)) (a n : Nat) : List (Nat × Nat) :=
  l.flatMap (fun r => (if r.1 < a then [(r.1, min r.2 (a - r.1))] else [])
    ++ (if a + n < r.1 + r.2 then [(max r.1 (a + n), r.1 + r.2 - max r.1 (a + n))] else []))

/-- Whether a range meets one of a list. -/
def rangesMeet (l : List (Nat × Nat)) (a n : Nat) : Bool := l.any (fun r => decide (r.1 < a + n) && decide (a < r.1 + r.2))

/-- A value added to a counter of `w` bits that saturates. -/
def satAdd (w a b : Nat) : Nat := min (2 ^ w - 1) (a + b)

/-- Replaces the element at an index of a list. -/
def lset {α : Type} (l : List α) (i : Nat) (v : α) : List α := l.set i v

/-- The element at an index, or a default. -/
def lget {α : Type} (d : α) (l : List α) (i : Nat) : α := (l[i]?).getD d

/-- The map of a list of numbers as bits. -/
def bitMap (l : List Nat) : Nat := (l.eraseDups).foldl (fun a i => a + 2 ^ i) 0

/-- The set bits of a number below `n`, rising. -/
def bitList (n v : Nat) : List Nat := (List.range n).filter (fun i => bitOf v i)

end Sys2Proof.Machine
end

