-- ==== Sys2Proof/Machine/Units.lean ====
section
/-!
DEFINITION. The plain data of the device's units other than their registers: arrays, cores, streams, mailboxes,
instances, contexts, records. Registers live in the register file (Machine/RegMap.lean). Reset values without a
stated value are the defaults here (log entry 12).
-/

namespace Sys2Proof.Machine

/-- An error record (R427) before it is encoded; `detail` is the 20-byte block detail as a number (R428). -/
structure Rec where
  status  : Nat
  flags   : Nat := 0
  nesting : Nat := 0
  seq     : Nat := 0
  time    : Nat := 0
  inst    : Nat := 0x7F
  ctx     : Nat := 0x80
  repeats : Nat := 1
  job     : Nat := 0x80000000
  step    : Nat := 0xFFFFFFFFFFFFFFFF
  addr    : Nat := 0
  parent  : Nat := 0xFFFFFFFF
  detail  : Nat := 0
  deriving DecidableEq, Repr

/-- A mailbox command as fetched (R386); `sqHead` is the submission head after its fetch (R387). -/
structure Cmd where
  opcode : Nat
  irq    : Bool
  order  : Bool
  target : Nat
  cmdId  : Nat
  args   : List Nat
  sqHead : Nat
  deriving DecidableEq, Repr

/-- A ring pair beside its registers (R385, R388-R390): recorded tail, completion head, completion entries written
and not consumed, fetched commands not started, started commands not completed, completions held, and whether a
coalescing interval runs and a vector waits in it (R380). -/
structure RingSt where
  sqTail   : Nat := 0
  cqHead   : Nat := 0
  used     : Nat := 0
  fetched  : List Cmd := []
  running  : List Cmd := []
  held     : List (List Byte × Bool) := []
  coalOpen : Bool := false
  coalPend : Bool := false
  deriving DecidableEq, Repr

/-- A host-memory window of an instance (R220, R381). -/
structure Window where
  pasid : Nat
  base  : Nat
  len   : Nat
  deriving DecidableEq, Repr

/-- The units a resize of a partition names (R221, R407). -/
structure Part where
  cores   : Nat := 0
  keys    : Nat := 0
  lend    : Nat := 0
  cap     : Nat := 0
  regions : Nat := 0
  rate    : Nat := 0
  share   : Nat := 0
  pages   : List Nat := []
  deriving DecidableEq, Repr

/-- Counters of the instance telemetry that no other state holds (R446). -/
structure InstTele where
  lastSeq : Nat := 0
  records : Nat := 0
  td4     : Nat := 0
  td5     : Nat := 0
  notices : Nat := 0
  deriving DecidableEq, Repr

/-- An instance beside its registers: held notices, partition, windows, dirty tracking, freeze and resize in
progress with the commands that wait for them, the contexts that have not come to an iteration boundary since the resize was accepted (R221), MSI-X table entries, vectors unmasked and pending, how often its BAR 2 has been doubled beyond
its least size, seconds of the last 0x1604 per segment, the open instance teardown, its record ring and teardown
slots, whether it holds a partition (R378-R395, R430, R435). -/
structure InstSt where
  notices   : List (Nat × Nat) := []
  part      : Part := {}
  windows   : Tbl Window := []
  dirty     : Bool := false
  freezing  : Option (Nat × Cmd) := none
  resize    : Option (Part × Nat × Cmd) := none
  due       : List Nat := []
  msix      : Tbl (Nat × Nat) := []
  unmasked  : List Nat := []
  vecPend   : List Nat := []
  bar2Grow  : Nat := 0
  segSecs   : Tbl Nat := []
  ending    : Option (Nat × Nat) := none
  recs      : List Rec := []
  slots     : Tbl (Rec × List Byte) := []
  tele      : InstTele := {}
  borrower  : Bool := false
  held      : Bool := false
  deriving DecidableEq, Repr

/-- A plan step as read and checked at acceptance (R418). -/
structure PlanStep where
  kind : Nat
  f0   : Nat
  f1   : Nat
  f2   : Nat
  f3   : Nat
  deriving DecidableEq, Repr

/-- An accepted operator invocation or plan (R411, R418, R500): operator, tensor ID, attribute word, the images A2
to A6, its step, and the ring command whose completion it gives. A plan holds its remaining steps, the count
completed, the step number of its first and of its next operator step, and the flags so far; a collective its phase, the
count of requests it has issued in it, and the lines read back. `ready` lists the operand ashlars it has found a usable copy
of (R273), and `since` is TB2 at its acceptance (R203). `img` holds the parameter words of one that the composer formed (R224). -/
structure Inv where
  op      : Nat
  tensor  : Nat
  attr    : Nat
  a       : List Nat
  step    : Nat
  cmd     : Option Cmd
  isPlan  : Bool := false
  plan    : List PlanStep := []
  done    : Nat := 0
  started : Bool := false
  flags   : Nat := 0
  next    : Nat := 0
  phase   : Nat := 0
  pos     : Nat := 0
  lines   : Tbl (List Byte × Bool) := []
  ready   : List Nat := []
  since   : Nat := 0
  img     : Option (List Nat) := none
  deriving DecidableEq, Repr

/-- A sequence of the composer (R420): ring, tokens to prefill, tokens produced, the iteration that served it last. -/
structure SeqSt where
  id       : Nat
  tokens   : Nat
  count    : Nat
  maxNew   : Nat
  ring     : Nat
  k        : Nat
  vector   : Nat
  endTok   : Option Nat
  prefill  : Nat := 0
  produced : Nat := 0
  tail     : Nat := 0
  pasid    : Nat := 0
  cancel   : Option Cmd := none
  served   : Nat := 0
  deriving DecidableEq, Repr

/-- Composer parameters (R223, R272). -/
structure Composer where
  decodeCap     : Nat := 256
  chunk         : Nat := 512
  prefillChunks : Nat := 1
  schedule      : Nat := 0
  entries       : Nat := 0
  plan          : Nat := 0
  planSteps     : List PlanStep := []
  planCount     : Nat := 0
  deriving DecidableEq, Repr

/-- Counters of a context in the instance telemetry (R446). -/
structure CtxTele where
  invocations : Nat := 0
  ended3      : Nat := 0
  ended4      : Nat := 0
  wide        : Nat := 0
  hostBytes   : Nat := 0
  pierBytes   : Nat := 0
  trnBytes    : Nat := 0
  trnReqs     : Nat := 0
  trnRetries  : Nat := 0
  onDemand    : Nat := 0
  deriving DecidableEq, Repr

/-- A stream's fetch engine beside its registers (R97-R108): the context it belongs to, descriptors left to run,
bytes delivered within the current slot, whether a page request is outstanding and when it was sent, bytes of host
completions not yet delivered with their poison, lines received over Trean, reads issued, whether a status ended the current
request, whether it is slot work, the element whose line writes are in flight, the credits a producer holds for a peer ring (R99), and the
`PAGE_LIMIT` in force when its page request was sent, in ms (R123). -/
structure StrmSt where
  inst     : Nat := 0
  ctx      : Nat := 0
  left     : Nat := 0
  fill     : Nat := 0
  pageReq  : Option (Nat × Nat) := none
  pageWant : Option Nat := none
  resp     : Option Bool := none
  inBytes  : List (Byte × Bool) := []
  inErr    : Bool := false
  lines    : List (Nat × List Byte × Bool) := []
  asked    : List Nat := []
  failing  : Nat := 0
  rdPos    : Nat := 0
  slot     : Bool := false
  wrElem   : Option Nat := none
  credits  : Option Nat := none
  pageLim  : Nat := 50
  deriving DecidableEq, Repr

/-- A context (R362-R370, R419, R420, R434, R500). `step` is the step the next invocation takes; `lastRun` counts
the steps run to completion; `replayTo` is the target a replay context runs up to; `ending` is the status and SEQ
of the record that opened its teardown; `hand` the cores on which its plan started streams; `batch` is the iteration in progress as (sequence, prefill tokens), 0 tokens for decode; `saved` its streams as
the saves of cores left them: core, save base, streams; `away` the cores on which it is saved and not restored (R113, R123); `keySaved` the keystones a freeze stopped with their save areas. -/
structure CtxSt where
  live     : Bool := false
  cls      : Nat := 2
  detOff   : Bool := false
  replay   : Bool := false
  level    : Nat := 3
  job      : Nat := 0
  seed     : Nat := 0
  step     : Nat := 0
  startAt  : Nat := 0
  choices  : Nat := 0
  firstCh  : Option Nat := none
  lastRun  : Nat := 0
  lastStep : Option Nat := none
  replayTo : Nat := 0
  waitRep  : List (Nat × Cmd) := []
  destroy  : Option Cmd := none
  queue    : List Inv := []
  comp     : Composer := {}
  pending  : Option Composer := none
  seqs     : List SeqSt := []
  batch    : List (Nat × Nat) := []
  iter     : Nat := 0
  wide     : Nat := 0
  ending   : Option (Nat × Nat) := none
  nest     : Nat := 0
  layer    : Option Nat := none
  hand     : List Nat := []
  saved    : List (Nat × Nat × List StrmSt) := []
  away     : List Nat := []
  keySaved : List (Nat × Nat) := []
  tele     : CtxTele := {}
  deriving DecidableEq, Repr

/-- A registered job (R319, R499): its instances and its choice counter at this device's homes. -/
structure JobSt where
  insts  : Nat := 0
  live   : Bool := false
  choice : Nat := 0
  deriving DecidableEq, Repr

/-- A core's registers that no register block shows, and its stop and save state (R91, R115-R119): scalar
registers and their poison bits, vector registers as 256-byte numbers with 64 poison bits each, execute engine
state as the 256 bytes of the save area, the borrowed context, the words found poisoned in a scrub period, and the
`STALL_LIMIT` that the stall watch of each context (key instance·16 + context) took at its last restart (R112, R123), and TB2 at the start of its context (R218). -/
structure CoreSt where
  scalar   : Tbl Nat := []
  sPoison  : Nat := 0
  vector   : Tbl Nat := []
  vPoison  : Tbl Nat := []
  engine   : Nat := 0
  borrowed : Option (Nat × Nat) := none
  scrubBad : List Nat := []
  scrubAt  : Nat := 0
  watch    : Tbl Nat := []
  since    : Nat := 0
  deriving DecidableEq, Repr

/-- A stream of a context that a fence took off its core (R120): its number and its CFG, DESC and PTR. -/
structure RerunStrm where
  strm : Nat
  cfg  : Nat
  desc : Nat
  ptr  : Nat
  deriving DecidableEq, Repr

/-- A context that a fence took off its core and that waits for another (R120, R438). -/
structure Rerun where
  core  : Nat
  inst  : Nat
  ctx   : Nat
  strms : List RerunStrm
  deriving DecidableEq, Repr

/-- One accumulator of an array: an exact sum with its poison (R50, R88). -/
structure Cell where
  x      : Exa := {}
  poison : Bool := false
  i      : Int := 0
  q      : Int := 0
  deriving DecidableEq, Repr

/-- What a stationary register set of an array holds (R65): a depth tile, and per used problem and row the code, the scale byte and the
poison of each of its positions. -/
structure RegSet where
  tile  : Nat
  codes : List (List (List (Nat × Nat × Bool)))
  deriving DecidableEq, Repr

/-- A running or queued array invocation (R65, R66, R68, R79, R82, R90): the address and the 192 bytes of its
descriptor, its work class and context, the position of the next column to enter, the active and the background register set, the accumulators of the current
column group, the windows of a chunk that spans tiles with their anchors (keys (pass·256 + column)·512 + row), the range table of the stationary
rows (keys (chunk·4 + problem)·256 + row), the ranges of the stream buffer's columns (keys problem·256 + column) with the group and chunk it holds
(R69), the flags and poison so far, the wide-pass increments, the context's step, the save area committed with it, the save area it resumed from or
will, and TB2 at its start (R218). -/
structure ArrRun where
  addr   : Nat
  desc   : List Byte
  inst   : Nat
  ctx    : Nat
  cls    : Nat
  save   : Nat := 0
  group  : Nat := 0
  dtile  : Nat := 0
  column : Nat := 0
  pass   : Nat := 0
  active : Option RegSet := none
  back   : Option RegSet := none
  acc    : Tbl Cell := []
  win    : Tbl (Int × Cell) := []
  ranges : Tbl (Option (Int × Int)) := []
  scan   : Tbl (Option (Int × Int)) := []
  scanOf : Option (Nat × Nat) := none
  flags  : Flags := {}
  poison : Bool := false
  bad    : Bool := false
  wide   : Nat := 0
  step   : Nat := 0
  from_  : Option Nat := none
  since  : Nat := 0
  deriving DecidableEq, Repr

/-- An array beside its registers (R90): the running and the queued invocation. -/
structure ArrSt where
  run    : Option ArrRun := none
  queued : Option ArrRun := none
  deriving DecidableEq, Repr

/-- The fault and health state of R429-R444: record queue, log ring, coalescing keys, counters since reset, the badness of each
part in 2^-16 and the part of it that retraining records gave, the weight of its events since the last second in 2^-20, its events,
its advice; the times of state-lost errors per unit; the sampling interval and the sensor values shown; the fenced cores that were
reserved. -/
structure FaultSt where
  queue  : List Rec := []
  log    : List Rec := []
  coal   : List (Nat × Nat × Nat × Nat) := []
  td4    : Nat := 0
  td5    : Nat := 0
  bad    : Tbl Nat := []
  retr   : Tbl Nat := []
  weight : Tbl Nat := []
  wRetr  : Tbl Nat := []
  events : Tbl Nat := []
  advice : Tbl Nat := []
  lostAt : Tbl (List Nat) := []
  sample : Nat := 1000
  shown  : List Nat := []
  wasRes : List Nat := []
  deriving DecidableEq, Repr

end Sys2Proof.Machine
end

