-- ==== Sys2Proof/Machine/UnitsMem.lean ====
section
/-!
DEFINITION. The plain data of the piers and of the Trean fabric other than their registers.
-/

namespace Sys2Proof.Machine

/-- A page entry of a plinth (R231): owner 0-64, 0x7F free, 0x7E shared read-only; soft-buffer mark; dirty bit. -/
structure PageEnt where
  owner : Nat := 0x7F
  slot  : Bool := false
  dirty : Bool := false
  deriving DecidableEq, Repr

/-- Retraining of a channel (R256): slices done of the one in progress, failures in succession, and whether the
channel's DRAM timing or only link lines are recalibrated. -/
structure RetrainSt where
  active : Bool := false
  slices : Nat := 0
  fails  : Nat := 0
  deriving DecidableEq, Repr

/-- The piers beside their registers. Keys: page entries pier·2^15 + page; rows (pier·32 + channel)·2^20 + row;
channels pier·32 + channel; banks (pier·32 + channel)·2^16 + bank. `chMap` holds the spared or lost channel of a
pier; `lost` its lost mark with the rows whose lost bit a write has cleared, and `copied` the rows, from 0 up, that a
sparing copy had moved (R251-R256). `scrub` marks the half-lines of a row that the pass has read, `passOn` lists the piers whose pass
has begun (R252). -/
structure PierSt where
  pages    : Tbl PageEnt := []
  rowMap   : Tbl Nat := []
  rowCorr  : Tbl Nat := []
  chMap    : Tbl Nat := []
  lost     : Tbl (Nat × List Nat) := []
  retrain  : Tbl RetrainSt := []
  postpone : Tbl Nat := []
  due      : List Nat := []
  rowsOut  : List Nat := []
  overrun  : List Nat := []
  passFrom : Tbl Nat := []
  copied   : Tbl Nat := []
  scrub    : Tbl Nat := []
  passOn   : List Nat := []
  deriving DecidableEq, Repr

/-- A mode of Table: Trean modes: rate code, lanes code, FEC code as in `TRN_PORT_STATE`. -/
structure TrnMode where
  rate  : Nat
  lanes : Nat
  fec   : Nat
  deriving DecidableEq, Repr

/-- A Trean port beside its registers (R297-R302): struck modes, the partner's ability, the mode being trained, the
next flit sequence to send and to accept, unacknowledged sequences, NAKs in succession and the flit they name, credit
units of the three channels, the lane being recalibrated, the packets that wait for credit with when they came. -/
structure PortSt where
  struck   : List TrnMode := []
  ability  : Option Ability := none
  mode     : Option TrnMode := none
  nextSend : Nat := 0
  expect   : Nat := 0
  replay   : List Nat := []
  nakCount : Nat := 0
  nakSeq   : Nat := 0
  credReq  : Nat := 0
  credRsp  : Nat := 0
  credMgt  : Nat := 0
  recal    : Option Nat := none
  wait     : List (Nat × TrnPkt) := []
  deriving DecidableEq, Repr

/-- What an outstanding request of this device is for: a line read or a line write of a stream, the old value of an
atomic or release plan step, a value a plan step waits for, or part of a collective operator. -/
inductive ReqUse where
  | strmRead (strm : Nat) (line : Nat)
  | strmWrite (strm : Nat)
  | planAtomic (old : Nat)
  | planWait
  | operator (key : Nat)
  deriving DecidableEq, Repr

/-- An outstanding request (R310, R314, R329): operation, packet, port it was sent on, its context, what it is for,
whether DEV_SUSPECT was sent, whether it is still held at the source (R311), TB2 at its last progress and at its last copy or ACCEPT
(R314), and the `LOAD_LIMIT` in force at its issue (R329). -/
structure OutReq where
  op      : Nat
  pkt     : TrnReq
  port    : Nat
  inst    : Nat
  ctx     : Nat
  use     : ReqUse
  suspect : Bool := false
  held    : Bool := false
  order   : Nat := 0
  moved   : Nat := 0
  sent    : Nat := 0
  limit   : Nat := 0
  deriving DecidableEq, Repr

/-- A reply-cache entry (R313): the reply once applied, and when. -/
structure CacheEnt where
  reply : Option TrnPkt
  job   : Nat
  at_   : Nat
  deriving DecidableEq, Repr

/-- A line's queue at its home agent (R318): until when the request being applied occupies the line, whether it is a
WR, its source and whether its race was counted (R319), and the requests waiting with their arrival ports. -/
structure LineSt where
  until_  : Nat := 0
  isWr    : Bool := false
  src     : Nat := 0
  job     : Nat := 0
  counted : Bool := false
  waiting : List (Nat × TrnReq × Nat) := []
  deriving DecidableEq, Repr

/-- An export-table entry (R321). -/
structure Export where
  base   : Nat
  len    : Nat
  job    : Nat
  inst   : Nat
  rights : Nat
  deriving DecidableEq, Repr

/-- A write-type request that waits in a port buffer for a reply-cache entry: its operation, its port and TB2 at its arrival (R315, R317). -/
structure PortReq where
  op   : Nat
  req  : TrnReq
  port : Nat
  at_  : Nat
  deriving DecidableEq, Repr

/-- A gateway's open, unacknowledged or early block; `came` holds TB2 at each packet's arrival and its port,
`sent` TB2 at its last send (R315, R323). -/
structure GwBlock where
  far   : Nat
  chan  : Nat
  seq   : Nat
  pkts  : List TrnPkt
  bytes : Nat
  came  : List (Nat × Nat) := []
  sent  : Nat := 0
  deriving DecidableEq, Repr

/-- The Trean block beside its registers. `reqs` holds the outstanding requests by tag, those that wait for a free tag by 4,096 plus their order
(R304); `cache` is keyed (agent·2^48 + SRC·2^32 + SEQ); `lines` by line address;
`fence` holds (fenced, admission epoch) per endpoint; `gwSeq` the next block sequence to a (far, channel); `gwSeen`
the next block sequence expected from a (near, channel) with blocks that arrived early; `portWait` the requests that
wait in port buffers for a reply-cache entry (R317). -/
structure TrnSt where
  ports    : Tbl PortSt := []
  reqs     : Tbl OutReq := []
  nextTag  : Nat := 0
  nextSeq  : Nat := 0
  order    : Nat := 0
  cache    : Tbl CacheEnt := []
  lines    : Tbl LineSt := []
  exports  : Tbl Export := []
  routes   : Tbl (List Nat) := []
  fence    : Tbl (Bool × Nat) := []
  gwOpen   : List GwBlock := []
  gwSent   : List GwBlock := []
  gwSeq    : Tbl Nat := []
  gwSeen   : Tbl Nat := []
  gwEarly  : List GwBlock := []
  deadJobs : List Nat := []
  portWait : List PortReq := []
  deriving DecidableEq, Repr

end Sys2Proof.Machine
end

