-- ==== Sys2Proof/Machine/UnitsTier.lean ====
section
/-!
DEFINITION. The plain data of the tiers manager and the flash controller other than their registers and the ashlar map,
which lies in pier memory (R265, R266).
-/

namespace Sys2Proof.Machine

/-- A reference of an instance to a copy of an ashlar (R268-R270): tier 0 mortar or 1 pier, pinned, and when it was last
used. -/
structure AshRef where
  inst : Nat
  ash  : Nat
  tier : Nat
  pin  : Bool := false
  used : Nat := 0
  deriving DecidableEq, Repr

/-- An instance's share in a promotion in flight: the reference it adds, its pin, and when it was last used (R268, R270). -/
structure Want where
  inst : Nat
  pin  : Bool := false
  used : Nat := 0
  deriving DecidableEq, Repr

/-- A promotion in flight (R268, R277-R281): ashlar, tier, destination in 64 KiB units of the tier, whether it reads the pier copy (else
flash), the references it adds, the flash codewords delivered and, where they differ from what the page holds, with which bytes, the
codewords that wait for a retry or a rebuild, the codewords given up, whether every byte is poisoned, and whether it reads once more. -/
structure Promo where
  ash     : Nat
  tier    : Nat
  dst     : Nat
  pier    : Bool := false
  wants   : List Want := []
  read    : List Nat := []
  got     : Tbl (List Byte) := []
  badCw   : List Nat := []
  lostCw  : List Nat := []
  allLost : Bool := false
  again   : Bool := false
  deriving DecidableEq, Repr

/-- A request of a context that waits for an on-demand promotion (R273). -/
structure AshWait where
  inst : Nat
  ctx  : Nat
  ash  : Nat
  deriving DecidableEq, Repr

/-- A request for a reference: instance, ashlar, tier, pin, work class, whether it is an on-demand promotion, and the context that asks, if
one does (R267, R268, R273). -/
structure AshAsk where
  inst   : Nat
  ash    : Nat
  tier   : Nat
  pin    : Bool := false
  cls    : Nat := 2
  demand : Bool := false
  ctx    : Option Nat := none
  deriving DecidableEq, Repr

/-- The tiers manager and the flash controller. `live` lists the ashlar indices whose entry is not free; `rows` the set of a stripe row in
use and `parity` its P and Q pages (R275); `later` the requests that wait for space or for a rebuild, oldest first (R267, R273, R497);
`revoke` the grants (set·128 + instance) whose revocation waits; `soft` the codewords (page·16 + codeword) queued for a retry; `rebuild` the
data pages that wait for a rebuild; `remap` the block remap table, from a block to the spare one that stands for it (R275, R282); `sets` the
sets that exist with their kind, shared or not, and the owner of a private one; `gone` the first data page and the pages of the flash copies
of lost ashlars, by index (R294). Block keys are channel·2^40 + target·2^32 + block. -/
structure TierSt where
  live     : List Nat := []
  refs     : List AshRef := []
  promos   : List Promo := []
  waits    : List AshWait := []
  later    : List AshAsk := []
  rows     : Tbl Nat := []
  parity   : Tbl (List Byte × List Byte) := []
  revoke   : List Nat := []
  tick     : Nat := 0
  soft     : List Nat := []
  rebuild  : List Nat := []
  blkSoft  : Tbl Nat := []
  blkDue   : List Nat := []
  blkFail  : List Nat := []
  remap    : Tbl Nat := []
  lowDone  : List Nat := []
  recFails : Tbl Nat := []
  sets     : Tbl (Bool × Nat) := []
  gone     : Tbl (Nat × Nat) := []
  deriving DecidableEq, Repr

end Sys2Proof.Machine
end

