-- ==== Sys2Proof/Machine/UnitsSys.lean ====
section
/-!
DEFINITION. The plain data of the time unit, identity, pins and supplies, and what the device has driven on its
interfaces.
-/

namespace Sys2Proof.Machine

/-- A time base (R334, R335): seconds, sub-second in 125 ps units, the fraction of a unit in 2^-40, and the rate word
added per time-unit cycle of 1 ns in 2^-40 of 125 ps units (8 units per cycle when unadjusted). -/
structure Tb where
  sec  : Nat := 0
  sub  : Nat := 0
  frac : Nat := 0
  rate : Nat := 8 * 2 ^ 40
  base : Nat := 8 * 2 ^ 40
  deriving DecidableEq, Repr

/-- What the device drives on its interfaces (log entry 11). -/
inductive Out where
  | msix (inst vec : Nat)
  | cplData (ur ep : Bool) (data : List Byte)
  | regData (v : Nat)
  | aerFatal
  | aerCorrected
  | aerAdvisory
  | hostRead (core strm addr bytes : Nat)
  | hostPoison (addr bytes : Nat)
  | pageRequest (core strm pasid addr : Nat)
  | atsDone (tag : Nat)
  | trean (port : Nat) (p : TrnPkt)
  | flitAck (port kind seq : Nat)
  | flitReplay (port : Nat) (seqs : List Nat)
  | fmMessage (op : Nat) (body : List Nat)
  | block (op : Nat) (far seq bytes : Nat) (pkts : List TrnPkt)
  | halfLine (addr : Nat) (data : List Byte) (poison : Bool)
  | spdm (code : Nat) (body : List Byte)
  | delayReq (dom port seq : Nat)
  | pulse (n : Nat) (level : Bool)
  | indication (chan msg carrier sfn slot status : Nat) (content : List Nat)
  | ethFrame (port carrier plane sym stream start num seq : Nat) (data : List Byte)
  | engDone (tag status flags result : Nat)
  deriving DecidableEq, Repr

/-- The device's identity, fuses, pins and life (R1-R4, R406, R436, R455, R462, R463, R487; log entries 4 and 5); `boot` is
0 while booting, 1 once boot is complete, 2 when it has stopped, 3 in recovery mode (R455-R458); `pcieLoop` tells that the host link is in
the PCI Express Loopback state (R475). -/
structure EnvSt where
  cores     : Nat := 2 ^ 96 - 1
  keys      : Nat := 15
  grade     : Nat := 96
  fatal     : Option Nat := none
  serial    : Nat := 0
  macBase   : Nat := 0
  flashRaw  : Nat := 8 * 2 ^ 40
  linkDown  : Bool := true
  numVfs    : Nat := 0
  pcieLoop  : Bool := false
  thermtripN : Bool := true
  fatalN    : Bool := true
  boot      : Nat := 0
  deriving DecidableEq, Repr

end Sys2Proof.Machine
end

