-- ==== Sys2Proof/Machine/UnitsMgt.lean ====
section
/-!
DEFINITION. The plain data of management, of the time unit, of test and of the clocks' responses other than their registers.
-/

namespace Sys2Proof.Machine

/-- A firmware image as its header tells it (R462): version, security version, key slot, handover versions, the SHA-512 of the
image after the header and that of its sections (R465). -/
structure FwImg where
  version  : Nat := 0
  svn      : Nat := 0
  keySlot  : Nat := 0
  handover : Nat := 0
  handMin  : Nat := 0
  digest   : Nat := 0
  sect     : Nat := 0
  tables   : List Byte := []
  deriving DecidableEq, Repr

/-- A page of the log region of card flash (R468). -/
structure LogPage where
  first : Nat
  boots : Nat
  time  : Nat
  crc   : Nat
  recs  : List Rec
  deriving DecidableEq, Repr

/-- The management subsystem and the security block beside their registers (R452-R468): running, booted, staged and flash image
(none when the card holds no valid one), activations since boot, boots, the time of the last watchdog restart, whether the
image area matches the running image, entries of the log ring not persisted, log pages and the next of them, fused key hashes, the digest of the boot
ROM, the certificate chain, the SPDM transcript, and the map journal: entries, sets and stripe rows that flash restores. -/
structure MgtSt where
  running  : FwImg := {}
  booted   : FwImg := {}
  staged   : Option FwImg := none
  flash    : Option FwImg := some {}
  actCount : Nat := 0
  boots    : Nat := 0
  lastWd   : Option Nat := none
  areaOk   : Bool := true
  unsaved  : Nat := 0
  pages    : Tbl LogPage := []
  nextPg   : Nat := 0
  keyHash  : List Nat := [0, 0, 0, 0]
  rom      : Nat := 0
  cert     : List Byte := []
  script   : List Byte := []
  journal  : Tbl Nat := []
  sets     : Tbl (Bool × Nat × List Byte) := []
  rows     : Tbl Nat := []
  deriving DecidableEq, Repr

/-- A PTP exchange (R341): times and corrections in 2^-16 ns. -/
structure Exch where
  t1 : Int
  t2 : Int
  t3 : Int
  t4 : Int
  c1 : Int
  c2 : Int
  deriving DecidableEq, Repr

/-- A foreign master as its Announce messages tell it (R340). -/
structure Master where
  port  : Nat
  ident : Nat
  num   : Nat
  cls   : Nat
  acc   : Nat
  var   : Nat
  prio2 : Nat
  gm    : Nat
  steps : Nat
  seen  : Nat := 0
  deriving DecidableEq, Repr

/-- A Sync that waits for its exchange (R341): sequence, t2, t1 once known, correction. -/
structure SyncWait where
  seq : Nat
  t2  : Int
  t1  : Option Int
  c1  : Int
  deriving DecidableEq, Repr

/-- A PTP domain (R338-R346): its clock, its frequency and rate in 2^-32 ns per s, foreign masters and parent (Ethernet port,
clock identity, port number), the exchange in progress and those completed since the last update, successive updates inside the
lock limit and outside four times of it, frequencies of the last 64 locked seconds, the clock at the last pulse of the host
adapter, and TB2 at the last exchange. -/
structure Dom where
  clk     : Tb := {}
  freq    : Int := 0
  rate    : Int := 0
  masters : List Master := []
  parent  : Option (Nat × Nat × Nat) := none
  cls     : Nat := 0
  sync    : Option SyncWait := none
  dreq    : Option (Nat × Int) := none
  dseq    : Nat := 0
  exch    : List Exch := []
  near    : Nat := 0
  far     : Nat := 0
  freqs   : List Int := []
  capt    : Option Int := none
  seen    : Nat := 0
  deriving DecidableEq, Repr

/-- A pulse output as committed (R350): its time base, polarity, start, width and period in 125 ps units, the next leading edge,
the trailing edge of the pulse in progress, and what happens after it. -/
structure Tpo where
  tb     : Nat := 0
  pol    : Bool := false
  start  : Nat := 0
  width  : Nat := 0
  period : Nat := 0
  next   : Option Nat := none
  until_ : Option Nat := none
  rearm  : Bool := false
  stop   : Bool := false
  deriving DecidableEq, Repr

/-- A capture input (R351): queued captures (seconds, sub-second, stepped), TB2 of the last captured edge, the second of the last
drop record. -/
structure Tci where
  queue   : List (Nat × Nat × Bool) := []
  last    : Option Nat := none
  dropSec : Option Nat := none
  deriving DecidableEq, Repr

/-- The time unit beside its registers: the two domains, pulse outputs, capture inputs, the SyncE frequency, TB2 of the last step of
each time base, the domain that a time base with source auto follows. -/
structure TimeSt where
  doms    : List Dom := [{}, {}]
  tpos    : Tbl Tpo := []
  tcis    : Tbl Tci := []
  synce   : Int := 0
  stepped : Tbl Nat := []
  follow  : Tbl Nat := []
  deriving DecidableEq, Repr

/-- Test and calibration (R474-R481): the loop-back in force as (interface, unit, depth), the Ethernet lanes being re-adapted. -/
structure TstSt where
  looped : Option (Nat × Nat × Nat) := none
  cal    : List Nat := []
  deriving DecidableEq, Repr

/-- The responses to heat and droop (R491, R492): per island its thermal level, TB2 of its last step down and since when it reads
92 °C or less, its lengthening in 64ths; the diodes that failed their check. -/
structure HeatSt where
  level : Tbl (Nat × Option Nat × Option Nat) := []
  droop : Tbl Nat := []
  bad   : List Nat := []
  deriving DecidableEq, Repr

end Sys2Proof.Machine
end

