-- ==== Sys2Proof/Machine/UnitsRadio.lean ====
section
/-!
DEFINITION. The plain data of the slot planner, the signal datapaths, the radio block and the fronthaul unit other than
their registers. A slot on air is named by its carrier, its frame number (SFN with the count of SFN cycles above it) and its
number in the frame.
-/

namespace Sys2Proof.Machine

/-- A carrier as admitted (R148, R211, R409): its record's words after the carrier number, the fields of them used later, and the body of
its CONFIG.request; `pair` is the pair that serves it. -/
structure AdmCar where
  carrier : Nat
  words   : List Nat := []
  kind    : Nat := 0
  mu      : Nat := 0
  prb     : Nat := 0
  soft    : Nat := 0
  maxIter : Nat := 0
  pair    : Nat := 0
  ulLead  : Nat := 0
  dlLead  : Nat := 0
  ind     : Nat := 0
  port    : Nat := 0
  body    : List Byte := []
  deriving DecidableEq, Repr

/-- A measurement set of an uplink PDU (R161, R192): RSRP in 0.01 dBm, SINR in 0.01 dB, carrier-frequency offset in Hz, timing in ns and in
timing-advance units, each where it is available. -/
structure Meas where
  rsrp : Option Int := none
  sinr : Option Int := none
  cfo  : Option Int := none
  ns   : Option Int := none
  ta   : Option Int := none
  deriving DecidableEq, Repr

/-- Soft bits that a plinth engine passed on (R169): where they lie and how many. -/
structure Passed where
  addr : Nat
  len  : Nat
  deriving DecidableEq, Repr

/-- A PDU of an uplink slot whose indication is not written (R188, R190): kind (0 PUSCH, 1 PUCCH, 2 PRACH, 3 SRS), place in its
request, RNTI, HARQ process, new data, code blocks and decoder parameters; the soft bits passed on by code block, the code blocks decoded,
as (index, hard bits), and the status that ends it; whether UCI on it is still to report, whether its task has completed; its receiver's data and measurements. -/
structure UlPdu where
  kind    : Nat
  idx     : Nat
  rnti    : Nat := 0
  harq    : Nat := 0
  newData : Bool := true
  blocks  : Nat := 0
  params  : List Nat := []
  soft    : Tbl Passed := []
  hard    : Tbl Nat := []
  failed  : Bool := false
  status  : Nat := 0
  uci     : Bool := false
  seen    : Bool := false
  rx      : RxCfg := {}
  meas    : Meas := {}
  deriving DecidableEq, Repr

/-- A range of host memory that a downlink request of a slot left: a message body, or a payload. -/
structure DlRef where
  addr : Nat
  len  : Nat
  deriving DecidableEq, Repr

/-- A PDU of a downlink slot (R29): its place among those of the slot, what its transmitter knows of it, and the cores for which encoder jobs have
made its coded bits, once for each job. -/
structure DlPdu where
  idx   : Nat
  tx    : TxCfg := {}
  coded : List Nat := []
  deriving DecidableEq, Repr

/-- What is known of a slot of a carrier (R145, R150, R173, R180, R186, R187): downlink and uplink requested, uplink PDUs not reported, downlink
PDUs, kinds of the PDUs taken, where they lie as (kind, place), CORESETs used, where the downlink messages and payloads
lie, the sides of the pair whose uplink inputs no core holds any more, downlink symbols sent, whether a fault lost a downlink task (R216), downlink
lost, discards at the port told, missing PRBs counted, PRBs received by symbol·128 + stream as a mask, whether its miss is recorded. -/
structure SlotW where
  carrier : Nat
  frame   : Nat
  slot    : Nat
  dl      : Bool := false
  ul      : Bool := false
  pdus    : List UlPdu := []
  dlPdus  : List DlPdu := []
  sects   : Tbl CSect := []
  csets   : List Nat := []
  refs    : List DlRef := []
  gone    : List Nat := []
  sent    : List Nat := []
  lost    : Bool := false
  dead    : Bool := false
  told    : Bool := false
  short   : Bool := false
  got     : Tbl Nat := []
  missed  : Bool := false
  deriving DecidableEq, Repr

/-- A FAPI channel (R193-R197): its carriers as a mask, ring and arena addresses, sizes as powers of two, vector; the request
`TAIL` as last read and `HEAD`, indication `TAIL`, the next arena byte, what the arena holds as (entry count, start, bytes),
`HEAD` of the free ring, whether the vector was raised since the last symbol tick and waits, the slots that have a drop record,
and whether it closes. -/
structure FapiCh where
  cars     : Nat
  req      : Nat
  ind      : Nat
  arena    : Nat
  arenaLen : Nat
  free     : Nat
  reqLog   : Nat
  indLog   : Nat
  payLog   : Nat
  vector   : Nat
  tail     : Nat := 0
  head     : Nat := 0
  prod     : Nat := 0
  pos      : Nat := 0
  held     : List (Nat × Nat × Nat) := []
  freeHead : Nat := 0
  raised   : Bool := false
  waits    : Bool := false
  dropAt   : List (Nat × Nat) := []
  closing  : Bool := false
  deriving DecidableEq, Repr

/-- A binding of a soft-buffer slot (R170): slot, RNTI, HARQ process, TB2 of its last write. -/
structure SoftBind where
  slot : Nat
  rnti : Nat
  harq : Nat
  last : Nat
  deriving DecidableEq, Repr

/-- A landing record in a ring (R189): the symbol, stream and PRBs it belongs to, its offset in the ring and its bytes. -/
structure LandRec where
  carrier : Nat
  frame   : Nat
  slot    : Nat
  sym     : Nat
  stream  : Nat := 0
  first   : Nat := 0
  num     : Nat := 0
  off     : Nat
  len     : Nat
  free    : Bool := false
  deriving DecidableEq, Repr

/-- The records in the landing ring, the mirror ring and the transmit ring of a reserved core, oldest first (R149, R189). -/
structure CoreRings where
  land   : List LandRec := []
  mirror : List LandRec := []
  tx     : List LandRec := []
  deriving DecidableEq, Repr

/-- A frequency tracker (R156): its RNTI, the tracked offset as FP32 Hz, the start of the slot whose measurement moved it last, and that of the
last slot with a PUSCH or PUCCH of the RNTI, both as slot times. -/
structure Tracker where
  rnti : Nat
  hz   : Nat
  at_  : Nat
  seen : Nat
  deriving DecidableEq, Repr

/-- The slot planner, the radio block and the fronthaul unit beside their registers (R149-R226). `pairs` gives the two cores of
each pair by pair number, 0xFFFF for a role that no core holds; `queue` the tasks waiting by core, and by 96 + 2·pair + side for such
a role; `running` the task on each core and `urgent` the urgent tasks that wait for its handler; `returning` cores that come back as spares and `adding`, `removing` what an admission
changes, both at the next slot boundary; `saved` borrowed contexts as (core saved on, instance, context); `portL` the bits per
second charged to a port as downlink and uplink; `softPg` the page bases of a soft-buffer slot and `bound` the bindings, by
carrier; `seqTx` and `seqRx` sequence IDs by plane, direction, carrier and stream; `trk` the frequency trackers of a carrier, the latest moved
first; `away` the host pages of FAPI regions whose accesses fault; `rate` the link rate of an Ethernet port in Gb/s while its link is up and `upAt` the slot time
since when it carries traffic. -/
structure Planner where
  cars      : List AdmCar := []
  pairs     : Tbl (Nat × Nat) := []
  queue     : Tbl (List Task) := []
  running   : Tbl Task := []
  urgent    : Tbl (List Task) := []
  returning : List Nat := []
  borrowers : List Nat := []
  saved     : List (Nat × Nat × Nat) := []
  flash40   : Bool := false
  adding    : List (Nat × Bool) := []
  removing  : List Nat := []
  portL     : Tbl (Nat × Nat) := []
  rings     : Tbl CoreRings := []
  slots     : List SlotW := []
  chans     : Tbl FapiCh := []
  softPg    : Tbl (List Nat) := []
  bound     : Tbl (List SoftBind) := []
  seqTx     : Tbl Nat := []
  seqRx     : Tbl Nat := []
  trk       : Tbl (List Tracker) := []
  away      : List Nat := []
  rate      : Tbl Nat := []
  upAt      : Tbl Nat := []
  deriving DecidableEq, Repr

/-- A complex lane with its poison bit (R124). -/
structure Lane where
  i : Int := 0
  q : Int := 0
  p : Bool := false
  deriving DecidableEq, Repr

/-- An address register (R126). -/
structure AReg where
  base   : Nat := 0
  off    : Nat := 0
  stride : Int := 0
  len    : Nat := 0
  deriving DecidableEq, Repr

/-- A signal datapath beside its registers (R124-R144), which hold PC, LDEPTH, IRP and the loop levels: X registers by
register·16 + lane, accumulators by set·16 + lane, address registers, MW, SH, the four block exponents, phase and phase increment,
the instruction buffer, whether the task consumed poison, and the groups of address registers that SSTA has stored, newest
first (the layout of whose 64 bytes is open). -/
structure SigSt where
  x      : Tbl Lane := []
  acc    : Tbl Lane := []
  ar     : Tbl AReg := []
  mw     : Nat := 9
  sh     : Nat := 0
  be     : List Nat := [0, 0, 0, 0]
  ph     : Nat := 0
  pi_    : Nat := 0
  code   : Tbl Nat := []
  ate    : Bool := false
  images : List (List Nat) := []
  deriving DecidableEq, Repr

end Sys2Proof.Machine
end

