-- ==== Sys2Proof/Machine/Dev.lean ====
section
/-!
DEFINITION. The device: all of the state the spec gives the block, without the queue of waiting commands.
-/

namespace Sys2Proof.Machine

/-- The device. `regs` holds what a read of each register returns (the shadow for S fields, R10) and `act` the value in
force (R8, R9). `mem` is the device space and `poison` its poisoned carrier units by base (R109, R293); `hmem` is
host memory, and `hbad` the ranges of it, as (start, bytes), that the host returns poisoned (log entry 7). Keys: rings instance·17 + ring; contexts instance·16 + context; streams core·16 + stream;
arrays as in the register map; `shares` holds the invocations that fences took off their arrays, with the array, which wait for another
array (R86); `reruns` the contexts that fences took off their cores, which wait for another core (R120, R438); `unput` the cores whose shadowed fields were written since their last commit
(R10); `taken` the units (core c, or 96 + n for keystone n) that prompt contexts occupy, `waiting` the prompt contexts that wait for a unit in
the order of their acceptance, and `parked` the soak contexts that were pre-empted for them, with the core (R218, R219, R225);
`mortar` holds the owner of a 1 MiB region: an instance, 100 the copy pool, 101 the gateway, unlisted free (R497);
`keyOwn` the owner of a keystone (R220). `freeCtr` counts the free values taken (log entry 8); `outs` lists what was driven
on the interfaces, newest first (log entry 11). -/
structure Dev where
  env     : EnvSt := {}
  regs    : Tbl Word := []
  act     : Tbl Word := []
  mem     : List Host.Cell := []
  poison  : List Nat := []
  hmem    : List Host.Cell := []
  hbad    : List (Nat × Nat) := []
  tbs     : List Tb := [{}, {}, {}, {}]
  arrs    : Tbl ArrSt := []
  shares  : List (Nat × ArrRun) := []
  reruns  : List Rerun := []
  unput   : List Nat := []
  taken   : Tbl (Nat × Nat) := []
  waiting : List (Nat × Nat) := []
  parked  : List (Nat × Nat × Nat) := []
  cores   : Tbl CoreSt := []
  strms   : Tbl StrmSt := []
  mortar  : Tbl Nat := []
  keyOwn  : Tbl Nat := []
  pier    : PierSt := {}
  trn     : TrnSt := {}
  tier    : TierSt := {}
  insts   : Tbl InstSt := []
  rings   : Tbl RingSt := []
  ctxs    : Tbl CtxSt := []
  jobs    : Tbl JobSt := []
  flt     : FaultSt := {}
  sp      : Planner := {}
  sigs    : Tbl SigSt := []
  mgt     : MgtSt := {}
  time    : TimeSt := {}
  tst     : TstSt := {}
  heat    : HeatSt := {}
  outs    : List Out := []
  freeCtr : Nat := 0
  deriving DecidableEq, Repr

end Sys2Proof.Machine
end

