-- ==== Sys2Proof/Machine/Ops.lean ====
section
/-!
DEFINITION. The named operations over registers, time, memory, records and completions that every meaning uses:
register fields, TB2, the device space with its ownership checks and poison, error records with their teardowns,
completions and notices of the mailboxes.
-/

namespace Sys2Proof.Machine

/-! ### Registers -/

/-- The value a register holds (R10: the shadow for an S field). -/
def getReg (d : Dev) (k : Nat) : Nat := (tget (resetOf k) d.regs k).toNat

/-- Sets a register. -/
def setReg (d : Dev) (k v : Nat) : Dev := { d with regs := tset d.regs k (BitVec.ofNat 64 v) }

/-- A field of a register. -/
def fget (d : Dev) (k : Nat) (f : Fld) : Nat := bitsAt (getReg d k) f.lo f.w

/-- Sets a field of a register. -/
def fset (d : Dev) (k : Nat) (f : Fld) (v : Nat) : Dev := setReg d k (setBits (getReg d k) f.lo f.w v)

/-- Adds to a field that saturates. -/
def fsat (d : Dev) (k : Nat) (f : Fld) (n : Nat) : Dev := fset d k f (satAdd f.w (fget d k f) n)

/-- The value of a register in force: the committed one of S fields, the one at the last boundary of L fields
(R9, R10). -/
def getAct (d : Dev) (k : Nat) : Nat := (tget (resetOf k) d.act k).toNat

/-- A field of the value in force. -/
def fact (d : Dev) (k : Nat) (f : Fld) : Nat := bitsAt (getAct d k) f.lo f.w

/-- Puts a register's value in force (R9, R10). -/
def commitReg (d : Dev) (k : Nat) : Dev := { d with act := tset d.act k (BitVec.ofNat 64 (getReg d k)) }

/-- Puts a value in force that the register no longer holds (R10). -/
def setAct (d : Dev) (k v : Nat) : Dev := { d with act := tset d.act k (BitVec.ofNat 64 v) }

/-- Puts several registers' values in force together (R10). -/
def commitRegs (d : Dev) (ks : List Nat) : Dev := ks.foldl commitReg d

/-! ### Identity and life -/

/-- Whether core `c` is enabled by the fuses (R3). -/
def coreOn (d : Dev) (c : Nat) : Bool := bitOf d.env.cores c

/-- Whether keystone `n` is enabled by the fuses (R3). -/
def keyOn (d : Dev) (n : Nat) : Bool := bitOf d.env.keys n

/-- Whether core `c` is fenced (R438). -/
def coreFenced (d : Dev) (c : Nat) : Bool :=
  if c < 64 then bitOf (getReg d regMgtFhFencedLo) c else bitOf (getReg d regMgtFhFencedHi) (c - 64)

/-- Whether keystone `n` is fenced (R438). -/
def keyFenced (d : Dev) (n : Nat) : Bool := bitOf (getReg d regMgtFhFencedHi) (32 + n)

/-- Whether no device-fatal error is in force (R436; log entry 10). -/
def alive (d : Dev) : Bool := d.env.fatal.isNone

/-- Adds to what the device has driven on its interfaces. -/
def emit (d : Dev) (o : Out) : Dev := { d with outs := o :: d.outs }

/-! ### Time -/

/-- Units of 125 ps in a second (R334). -/
def subPerSec : Nat := 8000000000

/-- Time base `n` as one number in 125 ps units. -/
def tbTime (d : Dev) (n : Nat) : Nat := (lget {} d.tbs n).sec * subPerSec + (lget {} d.tbs n).sub

/-- TB2, the monotonic time of logs, in 125 ps units (R335, R427). -/
def tb2 (d : Dev) : Nat := tbTime d 2

/-- The TB2 second. -/
def tb2Sec (d : Dev) : Nat := (lget {} d.tbs 2).sec

/-! ### Free values -/

/-- The number of the next free value, and the device after it is taken (log entry 8). -/
def takeFree (d : Dev) : Nat × Dev := (d.freeCtr, { d with freeCtr := d.freeCtr + 1 })

/-! ### State of instances, contexts, rings -/

/-- The state of an instance. -/
def instSt (d : Dev) (i : Nat) : InstSt := tget {} d.insts i

/-- Changes the state of an instance. -/
def modInst (d : Dev) (i : Nat) (f : InstSt → InstSt) : Dev := { d with insts := tmod {} d.insts i f }

/-- The key of a context. -/
def ctxKey (i c : Nat) : Nat := i * 16 + c

/-- The state of a context. -/
def ctxSt (d : Dev) (i c : Nat) : CtxSt := tget {} d.ctxs (ctxKey i c)

/-- Changes the state of a context. -/
def modCtx (d : Dev) (i c : Nat) (f : CtxSt → CtxSt) : Dev := { d with ctxs := tmod {} d.ctxs (ctxKey i c) f }

/-- The key of a ring pair. -/
def ringKey (i q : Nat) : Nat := i * 17 + q

/-- The state of a ring pair. -/
def ringSt (d : Dev) (i q : Nat) : RingSt := tget {} d.rings (ringKey i q)

/-- Changes the state of a ring pair. -/
def modRing (d : Dev) (i q : Nat) (f : RingSt → RingSt) : Dev := { d with rings := tmod {} d.rings (ringKey i q) f }

/-- The state code of an instance (R391). -/
def instState (d : Dev) (i : Nat) : Nat := fget d (regHostFnStatus i) fldHostFnStatusState

/-- Sets the state code of an instance. -/
def setInstState (d : Dev) (i v : Nat) : Dev := fset d (regHostFnStatus i) fldHostFnStatusState v

/-! ### The piers' address map (R230) -/

/-- Pier, page within the pier, channel, row and half-line of a pier-window offset (R230). -/
def pierMap (o : Nat) : Nat × Nat × Nat × Nat × Nat :=
  let pier := bitsAt o 36 3 ^^^ bitsAt o 21 3
  let page := bitsAt o 21 15
  let channel := bitsAt o 8 5 ^^^ bitsAt o 13 5 ^^^ bitsAt o 18 5
  let choff := bitsAt o 13 23 * 256 + o % 256
  (pier, page, channel, choff / 2048, choff % 2048 / 64)

/-- The key of the page entry that holds a pier-window offset. -/
def pageKey (o : Nat) : Nat := (pierMap o).1 * 32768 + (pierMap o).2.1

/-- The pier-window offset of half-line `half` of a row: the inverse of R230. -/
def rowAddr (pier ch row half : Nat) : Nat :=
  let choff := row * 2048 + half * 64
  let hi := choff / 256
  let low := ch ^^^ hi % 32 ^^^ hi / 32 % 32
  let top := pier ^^^ hi / 256 % 8
  top * 2 ^ 36 + hi * 8192 + low * 256 + choff % 256

/-- The page entry at a pier-window offset (R231). -/
def pageOf (d : Dev) (o : Nat) : PageEnt := tget {} d.pier.pages (pageKey o)

/-- Changes the page entry at a pier-window offset. -/
def modPage (d : Dev) (o : Nat) (f : PageEnt → PageEnt) : Dev :=
  { d with pier := { d.pier with pages := tmod {} d.pier.pages (pageKey o) f } }

/-! ### The device space (R293, R294) -/

/-- The size of the pier window (R293). -/
def pierEnd : Nat := 0x8000000000
/-- The first offset of the mortar (R293). -/
def mortarBase : Nat := 0x8000000000
/-- The end of the mortar (R293). -/
def mortarEnd : Nat := 0x8010000000
/-- The first offset of the core stores (R293). -/
def storeBase : Nat := 0x8100000000
/-- The end of the core stores (R293). -/
def storeEnd : Nat := 0x8118000000
/-- The first offset of the keystone staging (R293). -/
def stagingBase : Nat := 0x8200000000
/-- The end of the keystone staging (R293). -/
def stagingEnd : Nat := 0x8202000000
/-- The first offset of the flash weights region (R293). -/
def flashBase : Nat := 0x400000000000
/-- The first offset of the host windows (R293). -/
def hostBase : Nat := 0x800000000000
/-- The end of the host windows (R293). -/
def hostEnd : Nat := 0xC10000000000

/-- The device offset of an offset in the store of core `c` (R293). -/
def storeAddr (c off : Nat) : Nat := storeBase + c * 0x400000 + off

/-- The device offset of an offset in the staging of keystone `n` (R293). -/
def stagingAddr (n off : Nat) : Nat := stagingBase + n * 0x800000 + off

/-- The key of a host address under a PASID in `hmem` (log entry 7). -/
def pasidKey (pasid iova : Nat) : Nat := (pasid + 1) * 2 ^ 64 + iova

/-- The host window a device offset names: instance, window, offset within it. -/
def windowOf (a : Nat) : Nat × Nat × Nat :=
  let s := (a - hostBase) / 2 ^ 36
  (s / 16, s % 16, (a - hostBase) % 2 ^ 36)

/-- The host memory key of a device offset in a host window, when its window covers `n` bytes there (R293). -/
def windowKey (d : Dev) (a n : Nat) : Option Nat :=
  let (i, w, o) := windowOf a
  match tget? (instSt d i).windows w with
  | none => none
  | some win => if o + n ≤ win.len then some (pasidKey win.pasid (win.base + o)) else none

/-- The 2 MiB page bases that a range of the pier window touches. -/
def pagesIn (a n : Nat) : List Nat :=
  (List.range ((a + n - 1) / 2097152 - a / 2097152 + 1)).map (fun i => (a / 2097152 + i) * 2097152)

/-- Whether a page admits an access (R231). -/
def pageAllows (p : PageEnt) (w : Who) (write : Bool) : Bool :=
  match w with
  | .slot => p.owner == 0 || (!write && p.owner == 0x7E)
  | .tiers => p.owner == 0x7E || (p.owner == 0 && !p.slot)
  | .ctx i _ => !p.slot && (p.owner == i || (!write && p.owner == 0x7E))

/-- The instance for which an access is made. -/
def whoInst : Who → Nat
  | .ctx i _ => i
  | _ => 0

/-- Whether a range meets the pages of the ashlar map and the set table while these hold anything: only the tiers manager writes them, and
others read an entry through it (R265, log entry 150). -/
def mapMeets (d : Dev) (w : Who) (a n : Nat) : Bool :=
  let base := fget d regTierMapBase fldTierMapBaseBase
  w != .tiers && !(d.tier.live.isEmpty && d.tier.sets.isEmpty) && decide (a < base + 65 * 2097152) && decide (base < a + n)

/-- Whether core `c` is of an instance's partition (R94, R220): instance 0 holds those of its partition, as `OWNER` reads 0 for a core
of none too. -/
def coreHeld (d : Dev) (i c : Nat) : Bool :=
  fget d (regCorePart c) fldCorePartOwner == i && (i != 0 || bitOf (instSt d 0).part.cores c)

/-- Whether core `c` serves slot work: a reserved core (R21). -/
def slotHeld (d : Dev) (c : Nat) : Bool := fget d (regCorePart c) fldCorePartSlotReserved == 1

/-- Whether dispatch places a context's work on a core of its partition: while a resize goes on not on one just added, nor on one being removed
once the context has come to an iteration boundary (R221 steps 2 and 6). -/
def corePlaced (d : Dev) (i x c : Nat) : Bool :=
  coreHeld d i c && fget d (regCorePart c) fldCorePartSlotReserved == 0 &&
    (match (instSt d i).resize with
     | some (new, _, _) => bitOf (instSt d i).part.cores c && (bitOf new.cores c || (instSt d i).due.contains x)
     | none => true)

/-- Whether dispatch places a context's work on a keystone (R220, R221). -/
def keyPlaced (d : Dev) (i x n : Nat) : Bool :=
  tget 127 d.keyOwn n == i &&
    (match (instSt d i).resize with
     | some (new, _, _) => bitOf (instSt d i).part.keys n && (bitOf new.keys n || (instSt d i).due.contains x)
     | none => true)

/-- Whether another partition has marked a core lendable to soak work, and is not losing it (R220, R221). -/
def lendable (d : Dev) (i c : Nat) : Bool :=
  let j := fget d (regCorePart c) fldCorePartOwner
  j != i && coreHeld d j c && !slotHeld d c && bitOf (instSt d j).part.lend c &&
    (match (instSt d j).resize with
     | some (new, _, _) => bitOf new.cores c
     | none => true)

/-- Whether a core may serve a context's work: one of its partition, or for a soak context one that another partition lends (R220). -/
def coreServes (d : Dev) (i x c : Nat) : Bool := corePlaced d i x c || ((ctxSt d i x).cls == 2 && lendable d i c)

/-- Whether a soak context of another instance runs on a core that its partition lends (R220). -/
def soakLent (d : Dev) (i x c : Nat) : Bool :=
  (ctxSt d i x).cls == 2 && lendable d i c && fact d (regCoreCtx c) fldCoreCtxInstance == i && fact d (regCoreCtx c) fldCoreCtxContext == x

/-- Whether a core's store admits an access: slot work reaches those of reserved cores (R21); otherwise the core is of the instance's partition, or
lent to its soak context, or it is a reserved core lent to the context, within the lend window (R94, R220; log entry 15). -/
def storeAllows (d : Dev) (w : Who) (c lo n : Nat) : Bool :=
  match w with
  | .slot => slotHeld d c && decide (lo + n ≤ 0x400000)
  | .tiers => true
  | .ctx i x =>
    match (tget {} d.cores c).borrowed with
    | some (bi, bx) => (bi == i && bx == x) && decide (fget d (regCorePart c) fldCorePartLendBase * 262144 ≤ lo)
        && decide (lo + n ≤ 0x400000)
    | none => ((coreHeld d i c && !slotHeld d c) || soakLent d i x c) && decide (lo + n ≤ 0x400000)

/-- The status an access of `n` bytes at a device offset ends its context with, or none when it is allowed (R231,
R293, R294, R497). Slot work reaches no mortar, staging or flash (R21). A fenced core's store cannot be reached, as its weave stop drops every request (R438, R439). -/
def accessErr (d : Dev) (w : Who) (write : Bool) (a n : Nat) : Option Nat :=
  if n = 0 then none
  else if a + n ≤ pierEnd then
    if (pagesIn a n).all (fun p => pageAllows (pageOf d p) w write) && !mapMeets d w a n then none else some 0x4308
  else if mortarBase ≤ a ∧ a + n ≤ mortarEnd then
    let rs := rangeFrom ((a - mortarBase) / 0x100000) ((a + n - 1 - mortarBase) / 0x100000 - (a - mortarBase) / 0x100000 + 1)
    if w == .slot then some 0x4414
    else if rs.all (fun r => tget 127 d.mortar r == (whoInst w) || (w == .tiers && tget 127 d.mortar r == 100)) then none
    else some 0x4414
  else if storeBase ≤ a ∧ a + n ≤ storeEnd then
    let c := (a - storeBase) / 0x400000
    if coreOn d c && coreFenced d c then some 0x4114
    else if coreOn d c && storeAllows d w c ((a - storeBase) % 0x400000) n then none else some 0x410B
  else if stagingBase ≤ a ∧ a + n ≤ stagingEnd then
    if w != .slot && keyOn d ((a - stagingBase) / 0x800000) && !keyFenced d ((a - stagingBase) / 0x800000) && tget 127 d.keyOwn ((a - stagingBase) / 0x800000) == (whoInst w) then none
    else some 0x4507
  else if flashBase ≤ a ∧ a + n ≤ hostBase then (if write || w == .slot then some 0x4507 else none)
  else if hostBase ≤ a ∧ a + n ≤ hostEnd then
    if (windowOf a).1 = (whoInst w) ∧ (windowKey d a n).isSome then none else some 0x4606
  else some 0x4507

/-- The size of the carrier unit of poison at a device offset (R109). -/
def unitSize (a : Nat) : Nat := if a < pierEnd then 64 else 32

/-- Whether the row that holds a pier-window offset is lost (R255). -/
def rowLost (d : Dev) (a : Nat) : Bool :=
  let (p, _, ch, row, _) := pierMap a
  match tget? d.pier.lost p with
  | none => false
  | some (lch, cleared) => lch == ch && tget 0 d.pier.copied p ≤ row && !cleared.contains row

/-- Whether an offset of the flash window falls in a page of a lost ashlar (R294). -/
def flashGone (d : Dev) (a : Nat) : Bool :=
  flashBase ≤ a && a < hostBase
    && d.tier.gone.any (fun p => p.2.1 ≤ (a - flashBase) / 16384 && (a - flashBase) / 16384 < p.2.1 + p.2.2)

/-- Whether the carrier unit with a base is poisoned (R109, R250, R255, R294). -/
def unitPoisoned (d : Dev) (base : Nat) : Bool :=
  d.poison.contains base || (base < pierEnd && rowLost d base) || flashGone d base

/-- The bases of the carrier units a range touches. -/
def unitsIn (a n : Nat) : List Nat :=
  let u := unitSize a
  if n = 0 then [] else (List.range ((a + n - 1) / u - a / u + 1)).map (fun i => (a / u + i) * u)

/-- Whether a range of the device space holds a poisoned unit, or one of host memory bytes that a completion brings with EP (R109). -/
def isPoisoned (d : Dev) (a n : Nat) : Bool :=
  if hostBase ≤ a then
    match windowKey d a n with
    | some k => rangesMeet d.hbad k n
    | none => false
  else (unitsIn a n).any (unitPoisoned d)

/-- The parts of a range of the device space that hold poison, as offset and length (R109). -/
def badParts (d : Dev) (a n : Nat) : List (Nat × Nat) :=
  if hostBase ≤ a then
    match windowKey d a n with
    | some k => (d.hbad.map (fun r => (max r.1 k, min (r.1 + r.2) (k + n)))).filterMap (fun r =>
        if r.1 < r.2 then some (r.1 - k, r.2 - r.1) else none)
    | none => []
  else ((unitsIn a n).filter (unitPoisoned d)).map (fun u => (max u a - a, min (u + unitSize a) (a + n) - max u a))

/-- The bytes of a range of the device space; those of a poisoned half-line of a pier are 0 (R250). -/
def devRead (d : Dev) (a n : Nat) : List Byte :=
  if hostBase ≤ a then
    match windowKey d a n with
    | some k => memRead d.hmem k n
    | none => List.replicate n 0
  else if a < pierEnd && (unitsIn a n).any (unitPoisoned d) then
    (List.range n).map (fun i => if unitPoisoned d ((a + i) / 64 * 64) then 0 else memGet d.mem (a + i))
  else memRead d.mem a n

/-- The number in `w` bytes of the device space. -/
def devNat (d : Dev) (a w : Nat) : Nat := leNat (devRead d a w)

/-- A lost row before a write into it: the rest of the row is filled with poison words and its bit is cleared
(R255). -/
def healRow (d : Dev) (base : Nat) : Dev :=
  if base < pierEnd && rowLost d base then
    let (p, _, ch, row, _) := pierMap base
    let halves := (List.range 32).map (rowAddr p ch row)
    { d with
      poison := halves.foldl natPut d.poison
      pier := { d.pier with lost := tmod (0, []) d.pier.lost p (fun x => (x.1, row :: x.2)) } }
  else d

/-- The poison marks after a write of `n` bytes at `a`: a poisoned write marks every unit it touches, another one
clears the units it covers whole (R109, R250). -/
def poisonAfter (l : List Nat) (a n : Nat) (p : Bool) : List Nat :=
  if p then (unitsIn a n).foldl natPut l
  else l.filter (fun b => !((unitsIn a n).contains b && a ≤ b && b + unitSize a ≤ a + n))

/-- Bytes of host memory written with or without EP (R109); the host returns them as they were written (PRESUMED, log entry 7). -/
def hostPut (d : Dev) (k : Nat) (bs : List Byte) (p : Bool) : Dev :=
  let d := { d with hmem := memWrite d.hmem k bs, hbad := rangesDrop d.hbad k bs.length }
  if p then emit { d with hbad := (k, bs.length) :: d.hbad } (.hostPoison k bs.length) else d

/-- Sets the DIRTY bits of the pages that a write into a pier touches (R232). -/
def touch (d : Dev) (a n : Nat) : Dev :=
  if a < pierEnd then (pagesIn a n).foldl (fun d o => modPage d o (fun e => { e with dirty := true })) d else d

/-- Writes bytes to the device space with their poison (R109), setting the DIRTY bits of the pages written (R232). -/
def devWrite (d : Dev) (a : Nat) (bs : List Byte) (p : Bool) : Dev :=
  if bs.isEmpty then d
  else if hostBase ≤ a then
    match windowKey d a bs.length with
    | some k => hostPut d k bs p
    | none => d
  else
    let d := (unitsIn a bs.length).foldl healRow d
    touch { d with mem := memWrite d.mem a bs, poison := poisonAfter d.poison a bs.length p } a bs.length

/-- Writes a number in `w` bytes. -/
def devPut (d : Dev) (a w v : Nat) (p : Bool := false) : Dev := devWrite d a (natLe w v) p

/-- Fills a range of the device space with zeros and clears its poison; DIRTY bits are left to the caller. -/
def devZero (d : Dev) (a n : Nat) : Dev :=
  let d := if d.pier.lost = [] then d else (unitsIn a n).foldl healRow d
  { d with mem := memClear d.mem a n, poison := natDrop d.poison a n }

/-- The bytes of the host's memory at an untranslated address. -/
def hostRead (d : Dev) (a n : Nat) : List Byte := memRead d.hmem a n

/-- The number in `w` bytes of host memory. -/
def hostNat (d : Dev) (a w : Nat) : Nat := memNat d.hmem a w

/-- Writes bytes to the host's memory at an untranslated address. -/
def hostWrite (d : Dev) (a : Nat) (bs : List Byte) : Dev := hostPut d a bs false

/-- The window of an instance that holds `n` bytes at an I/O virtual address: the host memory key, or none (R381). -/
def iovaKey (d : Dev) (i iova n : Nat) : Option Nat :=
  (((instSt d i).windows.map (fun w => w.2)).find? (fun w => w.base ≤ iova && iova + n ≤ w.base + w.len)).map
    (fun w => pasidKey w.pasid iova)

/-- The base-2 logarithm of the size of a function's BAR 2 (R378): the least size doubled as often as the host has asked. -/
def bar2Bits (d : Dev) (i : Nat) : Nat := (if i = 0 then 30 else 28) + (instSt d i).bar2Grow

/-- The bytes of a BAR 2 segment (R378): the window is divided into 64. -/
def segBytes (d : Dev) (i : Nat) : Nat := 2 ^ bar2Bits d i / 64

/-! ### Health weights (R441) -/

/-- One weight unit of R441 in the 2^-20 units kept here. -/
def wUnit : Nat := 2 ^ 20

/-- The part-table index of a pier channel, a Trean lane, an Ethernet lane, a flash channel, a keystone (R441). -/
def partPier (p c : Nat) : Nat := 96 + 32 * p + c
/-- The part-table index of a Trean lane (R441). -/
def partTrn (p l : Nat) : Nat := 352 + 4 * p + l
/-- The part-table index of an Ethernet lane (R441). -/
def partEth (l : Nat) : Nat := 384 + l
/-- The part-table index of a flash channel (R441). -/
def partFlash (c : Nat) : Nat := 416 + c
/-- The part-table index of the management part (R441). -/
def partMgt : Nat := 448
/-- The part-table index of a keystone (R441). -/
def partKey (n : Nat) : Nat := 449 + n

/-- Charges a part with weight, in 2^-20 units, and counts an event (R441). -/
def charge (d : Dev) (part w : Nat) : Dev :=
  { d with flt := { d.flt with
      weight := tmod 0 d.flt.weight part (· + w)
      events := tmod 0 d.flt.events part (satAdd 64 · 1) } }

/-- Byte `i` of a block detail. -/
def detByte (detail i : Nat) : Nat := bitsAt detail (8 * i) 8

/-- The part and weight that a record charges (R441); Trean lanes are charged by the caller, which knows the lane. -/
def recordCharge (r : Rec) : Option (Nat × Nat) :=
  let b := detByte r.detail
  let arr (w : Nat) := if b 0 = 0 then some (b 1, w) else some (partKey (b 2), w)
  match r.status with
  | 0x2102 => some (b 0, wUnit)
  | 0x2202 => arr wUnit
  | 0x1108 => some (b 0, 50 * wUnit)
  | 0x410C => some (b 0, 400 * wUnit)
  | 0x310F => some (b 0, 400 * wUnit)
  | 0x4205 => arr (400 * wUnit)
  | 0x2302 => some (partPier (b 0) (b 1), wUnit / 16)
  | 0x1303 => some (partPier (b 0) (b 1), 50 * wUnit)
  | 0x2304 => some (partPier (b 0) (b 1), 100 * wUnit)
  | 0x2306 => some (partPier (b 0) (b 1), 20 * wUnit)
  | 0x2402 => some (partFlash (b 2), 2 * wUnit)
  | 0x2403 => some (partFlash (b 2), 20 * wUnit)
  | 0x1404 => some (partFlash (b 2), 50 * wUnit)
  | 0x240C => some (partFlash (b 2), 20 * wUnit)
  | 0x2803 => some (partEth (b 3), 50 * wUnit)
  | 0x2A53 => some (partMgt, wUnit)
  | _ => none

/-- Charges the part of a record; retraining records are kept apart too (R443). -/
def chargeRecord (d : Dev) (r : Rec) : Dev :=
  match recordCharge r with
  | none => d
  | some (p, w) =>
    let d := charge d p w
    if r.status = 0x2306 then { d with flt := { d.flt with wRetr := tmod 0 d.flt.wRetr p (· + w) } } else d

/-! ### Records (R427-R432) -/

/-- The register and field that hold the last status of the block a record comes from. -/
def lastStatusOf (r : Rec) : Option (Nat × Fld) :=
  let b := detByte r.detail
  let code := r.status % 256
  match r.status / 256 % 16 with
  | 1 => if 0x0D ≤ code ∧ code ≤ 0x10 ∨ code = 0x16 then none
         else if 0x11 ≤ code ∧ code ≤ 0x15 then some (regMgtFhStatus, fldMgtFhStatusLastStatus)
         else some (regCoreStatus (b 0), fldCoreStatusLastStatus)
  | 2 => if code = 7 ∨ code = 8 then some (regMgtFhStatus, fldMgtFhStatusLastStatus) else none
  | 3 => some (regPierStatus (b 0), fldPierStatusLastStatus)
  | 4 => if code ∈ [2, 3, 4, 10, 11, 12, 13] then some (regFlsStatus, fldFlsStatusLastStatus)
         else some (regTierStatus, fldTierStatusLastStatus)
  | 5 => some (regTrnStatus, fldTrnStatusLastStatus)
  | 6 => some (regHostFnStatus (if r.inst < 65 then r.inst else 0), fldHostFnStatusLastStatus)
  | 7 => some (regRadioStatus, fldRadioStatusLastStatus)
  | 8 => some (regFhuStatus, fldFhuStatusLastStatus)
  | 9 => if 0x40 ≤ code then some (regTimeSpStatus, fldTimeSpStatusLastStatus)
         else some (regTimeStatus, fldTimeStatusLastStatus)
  | 10 => if 0x40 ≤ code then some (regMgtStatus, fldMgtStatusLastStatus) else none
  | 11 => if code = 5 ∨ code = 7 then some (regTstStatus, fldTstStatusLastStatus)
          else some (regSecStatus, fldSecStatusLastStatus)
  | _ => none

/-- Applies a change to the record with a sequence number, wherever it is kept. -/
def mapRec (d : Dev) (seq : Nat) (f : Rec → Rec) : Dev :=
  let g := fun (l : List Rec) => l.map (fun r => if r.seq == seq then f r else r)
  { d with
    flt := { d.flt with queue := g d.flt.queue, log := g d.flt.log }
    insts := d.insts.map (fun p => (p.1, { p.2 with recs := g p.2.recs })) }

/-- The teardown a record that names this instance and context belongs to, if one is open (R431, R432). -/
def openTeardown (d : Dev) (i c : Nat) : Option (Nat × Nat) :=
  if 65 ≤ i then none
  else if c < 16 ∧ (ctxSt d i c).ending.isSome then (ctxSt d i c).ending
  else (instSt d i).ending

/-- The record with its teardown's mark (R431, R432). -/
def attach (d : Dev) (r : Rec) : Rec :=
  match openTeardown d r.inst r.ctx with
  | none => r
  | some (_, seq) => { r with flags := r.flags ||| 2, parent := seq }

/-- Counts an attached error in its context's teardown (R431). -/
def countNesting (d : Dev) (r : Rec) : Dev :=
  match openTeardown d r.inst r.ctx with
  | none => d
  | some (_, seq) =>
    let d := mapRec d seq (fun x => { x with nesting := satAdd 8 x.nesting 1 })
    if r.ctx < 16 ∧ (ctxSt d r.inst r.ctx).ending.isSome then
      modCtx d r.inst r.ctx (fun x => { x with nest := satAdd 8 x.nest 1 })
    else d

/-- The key that tells the units of one status apart for coalescing (R429): the first three bytes of the detail. -/
def coalUnit (r : Rec) : Nat := r.detail % 2 ^ 24

/-- Enters a record into the record queue: it takes its SEQ and TIME there; a full queue loses it (R429). -/
def enqueueRec (d : Dev) (r : Rec) : Dev :=
  if 4096 ≤ d.flt.queue.length then fsat d regMgtFhRecords fldMgtFhRecordsRecordsLost 1
  else
    let seq := fget d regMgtFhRecords fldMgtFhRecordsNextSeq
    let r := { r with seq := seq, time := tb2 d }
    let d := fset d regMgtFhRecords fldMgtFhRecordsNextSeq (seq + 1)
    { d with flt := { d.flt with queue := d.flt.queue ++ [r] } }

/-- Shows a record's status in the last status of its block. -/
def showStatus (d : Dev) (r : Rec) : Dev :=
  match lastStatusOf r with
  | some (k, f) => fset d k f r.status
  | none => d

/-- Enters a record, or coalesces one of class 2 with one of its status and unit within the same TB2 second (R429). -/
def fileRec (d : Dev) (r : Rec) : Dev :=
  if r.status / 4096 = 2 then
    match d.flt.coal.find? (fun x => x.1 == r.status && x.2.1 == coalUnit r && x.2.2.1 == tb2Sec d) with
    | some (_, _, _, seq) => mapRec d seq (fun x => { x with repeats := satAdd 16 x.repeats 1 })
    | none =>
      let seq := fget d regMgtFhRecords fldMgtFhRecordsNextSeq
      if 4096 ≤ d.flt.queue.length then enqueueRec d r
      else
        let d := enqueueRec d r
        let old := d.flt.coal.filter (fun x => x.2.2.1 == tb2Sec d)
        { d with flt := { d.flt with coal := (r.status, coalUnit r, tb2Sec d, seq) :: old } }
  else enqueueRec d r

/-- Hands a record over (R427-R431): the part's health and the block's last status follow it, and it attaches to an open teardown. -/
def record (d : Dev) (r : Rec) : Dev :=
  let d := showStatus (chargeRecord d r) r
  fileRec (countNesting d r) (attach d r)

/-- A discarded write (R11): CFG_REJECT is set in the block's status register and an info record names the block and
the register offset; the record names no instance but for a function's own registers (log entry 16). -/
def cfgReject (d : Dev) (statusKey : Nat) (f : Fld) (status key : Nat) (detail : Nat := 0) (inst : Nat := 0) : Dev :=
  record (fset d statusKey f 1) { status := status, inst := inst, addr := key % 2 ^ 32, detail := detail }

/-! ### Ends of scopes -/

/-- The place of a port's state in `PORTS`. -/
def fldPort (p : Nat) : Fld := ⟨4 * (p % 4), 4⟩

/-- The state of an Ethernet port. -/
def ethState (d : Dev) (p : Nat) : Nat := fget d (regFhuGrpState (p / 4)) (fldPort p)

/-- The block detail of a pier's records (R428). -/
def pierDetail (o : Nat) : Nat :=
  let (p, _, ch, row, half) := pierMap o
  p + ch * 2 ^ 8 + row * 2 ^ 32 + half * 2 ^ 64

/-- The device's own Trean endpoint (R290). -/
def ownEndpoint (d : Dev) : Nat := fget d regTrnId fldTrnIdEndpoint

/-- `ADDR` and `DETAIL` of the record of a refused access at a device offset, by the block of its status (R428); others keep
those given. An offset in a window that the instance does not have names no I/O virtual address. -/
def accessPlace (d : Dev) (i status addr detail : Nat) : Nat × Nat :=
  match status with
  | 0x4308 => (addr, pierDetail addr)
  | 0x410B => (addr, if storeBase ≤ addr ∧ addr < storeEnd then (addr - storeBase) / 0x400000 else detail)
  | 0x4414 => (addr, 0)
  | 0x4507 => if addr < 2 ^ 48 ∧ detail = 0 then (ownEndpoint d * 2 ^ 48 + addr, ownEndpoint d) else (addr, detail)
  | 0x4606 =>
    if addr < hostBase ∨ hostEnd ≤ addr then (addr, detail)
    else
      let (j, w, o) := windowOf addr
      match tget? (instSt d i).windows w with
      | some win => if j = i then ((win.base + o) % 2 ^ 64, win.pasid) else (0, 0)
      | none => (0, 0)
  | _ => (addr, detail)

/-- The job a context's records carry (R499: none for a context of no job). -/
def jobOf (d : Dev) (i c : Nat) : Nat := if (ctxSt d i c).job = 0 then 0x80000000 else (ctxSt d i c).job

/-- A record that names a context, with its job and the step it runs. -/
def ctxRec (d : Dev) (i c status : Nat) (addr : Nat := 0) (detail : Nat := 0) : Rec :=
  { status := status, inst := i, ctx := c, job := jobOf d i c,
    step := (ctxSt d i c).lastStep.getD 0xFFFFFFFFFFFFFFFF
    addr := (accessPlace d i status addr detail).1
    detail := (accessPlace d i status addr detail).2 }

/-- A context-fatal error (R431): the first opens the context's teardown, a later one attaches to it. -/
def endCtx (d : Dev) (i c status : Nat) (addr : Nat := 0) (detail : Nat := 0) : Dev :=
  let r := ctxRec d i c status addr detail
  if (ctxSt d i c).live ∧ openTeardown d i c = none then
    let seq := fget d regMgtFhRecords fldMgtFhRecordsNextSeq
    let d := record d { r with flags := 1 }
    let d := modCtx d i c (fun x =>
      { x with
        ending := some (status, seq)
        nest := 0
        tele := { x.tele with ended4 := satAdd 64 x.tele.ended4 1 } })
    let d := modInst d i (fun x => { x with tele := { x.tele with td4 := satAdd 64 x.tele.td4 1 } })
    { d with flt := { d.flt with td4 := satAdd 64 d.flt.td4 1 } }
  else record d r

/-- A request-ended error of a context: its record, and the count of requests ended (R111, R446). -/
def endRequest (d : Dev) (i c status : Nat) (addr : Nat := 0) (detail : Nat := 0) : Dev :=
  let d := record d (ctxRec d i c status addr detail)
  modCtx d i c (fun x => { x with tele := { x.tele with ended3 := satAdd 64 x.tele.ended3 1 } })

/-- An instance-fatal error (R432): opens the instance's teardown, or attaches to the one in progress. -/
def endInst (d : Dev) (i status : Nat) : Dev :=
  if (instSt d i).ending.isSome then record d { status := status, inst := i }
  else
    let seq := fget d regMgtFhRecords fldMgtFhRecordsNextSeq
    let d := record d { status := status, inst := i, flags := 1 }
    let d := modInst d i (fun x =>
      { x with
        ending := some (status, seq)
        tele := { x.tele with td5 := satAdd 64 x.tele.td5 1 } })
    let d := { d with flt := { d.flt with td5 := satAdd 64 d.flt.td5 1 } }
    setInstState d i 5

/-- Enters a record into the log ring of 1,024 entries (R468). -/
def toLog (d : Dev) (r : Rec) : Dev :=
  let l := d.flt.log ++ [r]
  { d with
    flt := { d.flt with log := l.drop (l.length - 1024) }
    mgt := { d.mgt with unsaved := min 1024 (d.mgt.unsaved + 1) } }

/-- The health core drains the oldest record into the log ring and the ring of its instance, instance 0's for a record of none
(R429, R430). -/
def drainRecord (d : Dev) : Dev :=
  match d.flt.queue with
  | [] => d
  | r :: q =>
    let d := toLog { d with flt := { d.flt with queue := q } } r
    let i := if r.inst < 65 then r.inst else 0
    modInst d i (fun s =>
      { s with
        recs := (s.recs ++ [r]).drop (s.recs.length + 1 - 1024)
        tele := { s.tele with lastSeq := r.seq, records := satAdd 64 s.tele.records 1 } })

/-- The 64 bytes of an error record (R427). -/
def recBytes (r : Rec) : List Byte :=
  natLe 2 r.status ++ natLe 1 r.flags ++ natLe 1 r.nesting ++ natLe 4 r.seq ++ natLe 8 r.time ++ natLe 1 r.inst
    ++ natLe 1 r.ctx ++ natLe 2 r.repeats ++ natLe 4 r.job ++ natLe 8 r.step ++ natLe 8 r.addr ++ natLe 4 r.parent
    ++ natLe 20 r.detail

/-- Writes up to 255 log entries that are not persisted as the next page of the log region (R468). -/
def persistPage (d : Dev) : Dev :=
  let n := min 255 d.mgt.unsaved
  let rs := (d.flt.log.drop (d.flt.log.length - d.mgt.unsaved)).take n
  if n = 0 then d
  else
    let k := fget d regMgtLog fldMgtLogNextPage
    let page : LogPage := {
      first := (lget { status := 0 } rs 0).seq
      boots := d.mgt.boots
      time := tb2 d
      crc := crc64 (padTo 16320 (rs.flatMap recBytes))
      recs := rs }
    let d := fset d regMgtLog fldMgtLogNextPage ((k + 1) % 16384)
    let d := fsat d regMgtLog fldMgtLogPersisted n
    { d with mgt := { d.mgt with unsaved := d.mgt.unsaved - n, pages := tset d.mgt.pages k page, nextPg := (k + 1) % 16384 } }

/-- Drains every record and persists every entry, as the service core does before it halts (R436, R468). -/
def persistAll (d : Dev) : Dev :=
  let d := (List.range d.flt.queue.length).foldl (fun d _ => drainRecord d) d
  (List.range (d.mgt.unsaved / 255 + 1)).foldl (fun d _ => persistPage d) d

/-- A device-fatal error (R436, R480): it is recorded, every mailbox reads the fatal status, AER reports it, the Trean
ports go down, a loop-back ends, FATAL_N asserts, the log is persisted, and nothing works until a fundamental reset. -/
def deviceFatal (d : Dev) (r : Rec) (persist : Bool := true) : Dev :=
  let d := record d r
  let d := (List.range 65).foldl (fun d i => fset d (regMbxStatus i) fldMbxStatusLastStatus r.status) d
  let d := (List.range 8).foldl (fun d p => fset d (regTrnPortState p) fldTrnPortStateState 0) d
  let d := fset d regTrnStatus fldTrnStatusPortsUp 0
  let d := fset { d with tst := { d.tst with looped := none } } regTstStatus fldTstStatusLbState 0
  let d := if persist then persistAll d else d
  emit { d with env := { d.env with fatal := some r.status, fatalN := false } } .aerFatal

/-! ### Clocks of islands (R17) -/

/-- An island's thermal level, the time of its last step down and since when it reads 92 °C or less. -/
def heatOf (d : Dev) (island : Nat) : Nat × Option Nat × Option Nat := tget (0, none, none) d.heat.level island

/-- The clock of an island in MHz times 64, at a thermal level and a lengthening in 64ths (R491, R492). -/
def clock64 (level n : Nat) : Nat := (1900 - 100 * level) * (64 - n)

/-- Whether the two responses of an island together take it below 1.52 GHz (R17). -/
def belowFloor (d : Dev) (island : Nat) : Bool := clock64 (heatOf d island).1 (tget 0 d.heat.droop island) < 1520 * 64

/-- Work comes to an island with a floor clock (R17): one whose responses hold it below 1.52 GHz trips, which is device-fatal. -/
def islandWork (d : Dev) (island : Nat) : Dev :=
  if belowFloor d island then deviceFatal d { status := 0x6B09, detail := island } else d

/-! ### Completions, notices and interrupts (R380, R385-R390) -/

/-- Entries of a ring pair (R385). -/
def ringEntries (d : Dev) (i q : Nat) : Nat := 2 ^ fget d (regMbxRingCfg i q) fldMbxRingCfgLog2Entries

/-- Completion entries neither written and unconsumed nor reserved for a fetched command (R385, R389). -/
def freeEntries (d : Dev) (i q : Nat) : Nat :=
  let r := ringSt d i q
  ringEntries d i q - (r.used + r.fetched.length + r.running.length)

/-- Raises a vector: a masked one sets its pending bit (R380). -/
def raiseVector (d : Dev) (i v : Nat) : Dev :=
  if (instSt d i).unmasked.contains v then emit d (.msix i v)
  else modInst d i (fun x => { x with vecPend := natPut x.vecPend v })

/-- Raises a ring's vector under its coalescing interval (R380). -/
def raiseRing (d : Dev) (i q : Nat) : Dev :=
  let v := fget d (regMbxRingCfg i q) fldMbxRingCfgVector
  if fget d (regMbxRingCfg i q) fldMbxRingCfgCoalUs = 0 then raiseVector d i v
  else if (ringSt d i q).coalOpen then modRing d i q (fun r => { r with coalPend := true })
  else modRing (raiseVector d i v) i q (fun r => { r with coalOpen := true })

/-- The 24 bits of an entry that do not depend on the ring (R387): the completion of a command, or a notice. -/
def cplBytes (cmdId status sqHead flags retry step result : Nat) : List Byte :=
  natLe 4 cmdId ++ natLe 2 status ++ natLe 2 (sqHead % 4096) ++ natLe 1 (flags % 16) ++ natLe 1 0 ++ natLe 2 retry
    ++ natLe 4 0 ++ natLe 8 step ++ natLe 8 result

/-- Writes an entry at the completion tail with the phase, and advances the tail (R385, R387). -/
def writeEntry (d : Dev) (i q : Nat) (bs : List Byte) (irq : Bool) : Dev :=
  let k := regMbxRingState i q
  let tail := fget d k fldMbxRingStateCqTail
  let phase := fget d k fldMbxRingStateCqPhase
  let base := fget d (regMbxCqBase i q) fldMbxSqBaseBase * 4096
  let flags := fieldLe bs 8 1 % 128 + 128 * phase
  let d := hostWrite d (base + 32 * tail) (bs.take 8 ++ natLe 1 flags ++ bs.drop 9)
  let wrap := tail + 1 = ringEntries d i q
  let d := fset d k fldMbxRingStateCqTail (if wrap then 0 else tail + 1)
  let d := if wrap then fset d k fldMbxRingStateCqPhase (1 - phase) else d
  let d := modRing d i q (fun r => { r with used := r.used + 1 })
  let status := fieldLe bs 4 2
  let d := if status = 0 then d else fset d (regMbxStatus i) fldMbxStatusLastStatus status
  if irq then raiseRing d i q else d

/-- Writes a completion, or holds it while the ring is stopped on a fault or not enabled (R390). -/
def putCompletion (d : Dev) (i q : Nat) (bs : List Byte) (irq : Bool) : Dev :=
  let st := fget d (regMbxRingState i q) fldMbxRingStateState
  if st = 2 ∨ st = 0 then modRing d i q (fun r => { r with held := r.held ++ [(bs, irq)] })
  else writeEntry d i q bs irq

/-- All ones: the STEP of a completion without one (R387). -/
def noStep : Nat := 0xFFFFFFFFFFFFFFFF

/-- Removes the first element that has a property. -/
def dropFirst {α : Type} (p : α → Bool) : List α → List α
  | [] => []
  | x :: l => if p x then l else x :: dropFirst p l

/-- Completes a running command of a ring (R387); one that a ring fault or a teardown took off its ring is given no completion
(R390, R435). -/
def complete (d : Dev) (i q : Nat) (c : Cmd) (status : Nat) (result : Nat := 0) (step : Nat := noStep)
    (flags : Nat := 0) : Dev :=
  if (ringSt d i q).running.contains c then
    let d := modRing d i q (fun r => { r with running := dropFirst (· == c) r.running })
    putCompletion d i q (cplBytes c.cmdId status c.sqHead flags 0 step result) c.irq
  else d

/-- Answers a command busy, with a retry hint in us (R388, R410): it is not accepted. -/
def answerBusy (d : Dev) (i q : Nat) (c : Cmd) (retry : Nat) : Dev :=
  putCompletion d i q (cplBytes c.cmdId 0x1A02 c.sqHead 0 retry noStep 0) c.irq

/-- Gives an instance a notice (R389): written to completion ring 0 when an entry is free, else held, 256 at most. -/
def notice (d : Dev) (i status result : Nat) : Dev :=
  let st := fget d (regMbxRingState i 0) fldMbxRingStateState
  if (st = 1 ∨ st = 3) ∧ freeEntries d i 0 > 0 ∧ (instSt d i).notices = [] then
    let d := writeEntry d i 0 (cplBytes 0xFFFFFFFF status 0 0 0 noStep result) false
    raiseVector d i 0
  else if (instSt d i).notices.length < 256 then
    modInst d i (fun x => { x with notices := x.notices ++ [(status, result)] })
  else fset d (regMbxStatus i) fldMbxStatusNoticeLost 1

/-! ### Choices (R363) -/

/-- Counts a timing-dependent choice of a context at a step (R363). -/
def countChoice (d : Dev) (i c step : Nat) : Dev :=
  modCtx d i c (fun x =>
    { x with
      choices := satAdd 64 x.choices 1
      firstCh := some (x.firstCh.getD step) })

end Sys2Proof.Machine
end

