-- ==== Sys2Proof/Machine/Numeric.lean ====
section
/-!
DEFINITION. The arithmetic attribute word (R59), tensors in memory: elements with their poison, the layouts of ashlars
(R261, R262) and of row-major operands and outputs (R263), and the writing of rounded outputs (R54-R57).
-/

namespace Sys2Proof.Machine

/-- An arithmetic attribute word (R59). -/
structure Attr where
  shift  : Nat
  mxElem : Nat
  sr     : Bool
  ovfNan : Bool
  accFmt : Nat
  outFmt : Nat
  rsv    : Nat
  deriving DecidableEq, Repr

/-- The fields of an attribute word (R59). -/
def attrOf (v : Nat) : Attr :=
  { shift := bitsAt v 12 6, mxElem := bitsAt v 10 2, sr := bitOf v 9, ovfNan := bitOf v 8, accFmt := bitsAt v 4 4,
    outFmt := bitsAt v 0 4, rsv := bitsAt v 18 14 }

/-- Whether an `OUT_FMT` code is an MX format. -/
def outIsMx (o : Nat) : Bool := 5 ≤ o && o ≤ 8

/-- The element format of an `OUT_FMT` code with an `MX_ELEM` code (R59). -/
def outElem (o mx : Nat) : Fmt :=
  match o with
  | 0 => .fp32 | 1 => .bf16 | 2 => .fp16 | 3 => .e4m3 | 4 => .e5m2
  | 5 => if mx = 1 then .e5m2 else .e4m3
  | 6 => if mx = 1 then .e2m3 else .e3m2
  | 7 => .e2m1 | 8 => .int8 | 9 => .int8 | 10 => .int32 | 11 => .exa80 | 12 => .c16 | _ => .c40

/-- The format of an `ACC_FMT` code (R59). -/
def accElem (a : Nat) : Fmt :=
  match a with
  | 1 => .fp32 | 2 => .bf16 | 3 => .fp16 | 4 => .int32 | 5 => .exa80 | _ => .c40

/-- The output formats that may be rounded stochastically (R56). -/
def srAllowed (o : Nat) : Bool := [1, 2, 3, 4, 5, 6, 7].contains o

/-- Whether an attribute word is accepted for an operand class, C16 or another (R59). -/
def attrValid (a : Attr) (c16 : Bool) : Bool :=
  a.rsv == 0 && a.outFmt < 14 && a.accFmt < 7 && a.mxElem < 2 &&
    (a.mxElem == 0 || a.outFmt == 5 || a.outFmt == 6) && (!a.sr || srAllowed a.outFmt) &&
    (a.shift == 0 || a.outFmt == 12) && a.shift ≤ 47 &&
    (if c16 then (a.outFmt == 12 || a.outFmt == 13) && (a.accFmt == 0 || a.accFmt == 6)
     else a.outFmt ≤ 11 && a.accFmt != 6)

/-- The element format of an `FMT` code of the invocation descriptor (R79). -/
def operandFmt (c : Nat) : Fmt :=
  match c with
  | 0 => .e4m3 | 1 => .e5m2 | 2 => .e3m2 | 3 => .e2m3 | 4 => .e2m1 | 5 => .int8 | 6 => .int4 | 7 => .bf16 | 8 => .fp16
  | _ => .c16

/-- The class of an `FMT` code (R38): 0 the 8-bit class, 1 the 6/4-bit class, 2 BF16/FP16, 3 C16. -/
def fmtClass (c : Nat) : Nat :=
  if c ≤ 1 ∨ c = 5 then 0 else if (2 ≤ c ∧ c ≤ 4) ∨ c = 6 then 1 else if c = 7 ∨ c = 8 then 2 else 3

/-- Whether two `FMT` codes pair (R38): integers pair with themselves only. -/
def fmtPair (a b : Nat) : Bool :=
  a ≤ 9 && b ≤ 9 && fmtClass a == fmtClass b && (a == 5) == (b == 5) && (a == 6) == (b == 6)

/-! ### Elements in memory -/

/-- The element of `bits` bits at bit offset `off` of a plane, with its poison (R35, R109). -/
def elemAt (d : Dev) (base off bits : Nat) : Nat × Bool :=
  let a := base + off / 8
  let n := (off % 8 + bits + 7) / 8
  (leNat (devRead d a n) >>> (off % 8) % 2 ^ bits, isPoisoned d a n)

/-- Writes a run of `bits` bits at bit offset `off` of a plane, leaving its other bits. -/
def putBits (d : Dev) (base off bits v : Nat) : Dev :=
  if bits = 0 then d
  else
    let a := base + off / 8
    let n := (off % 8 + bits + 7) / 8
    devWrite d a (natLe n (setBits (leNat (devRead d a n)) (off % 8) bits v)) (isPoisoned d a n && (off % 8 != 0 || bits % 8 != 0))

/-- Marks every carrier unit that a run of bits touches as poisoned (R109). -/
def markPoison (d : Dev) (base off bits : Nat) : Dev :=
  let a := base + off / 8
  let n := (off % 8 + bits + 7) / 8
  if hostBase ≤ a then devWrite d a (devRead d a n) true
  else { d with poison := (unitsIn a n).foldl natPut d.poison }

/-- Copies bytes with their poison (R109, R110). -/
def copyBytes (d : Dev) (src dst n : Nat) : Dev :=
  (badParts d src n).foldl (fun d' b => markPoison d' (dst + b.1) 0 (8 * b.2)) (devWrite d dst (devRead d src n) false)

/-- A value of an element of an MX format under a scale byte (R36). -/
def mxVal (f : Fmt) (code scale : Nat) : Val :=
  if scale = 255 then .nan
  else (f.decode code).scale ((scale : Int) - 127 - (if f = .int8 then 6 else 0))

/-- The place after `a` rounded up to 64 bytes. -/
def up64 (a : Nat) : Nat := (a + 63) / 64 * 64

/-! ### Runs of units in ashlars (R261) -/

/-- One ashlar of a run: its first unit, its units, and the bytes of its element, scale and metadata planes. -/
structure AshRun where
  first : Nat
  count : Nat
  e     : Nat
  s     : Nat
  m     : Nat
  deriving DecidableEq, Repr

/-- Bytes an ashlar's planes take. -/
def AshRun.size (x : AshRun) : Nat := up64 (up64 x.e + x.s) + x.m

/-- Places units into ashlars of `cap` bytes, as many whole units in each as fit (R261). -/
def packRuns (cap : Nat) (unit : Nat → Nat × Nat × Nat) : Nat → Nat → List AshRun → List AshRun
  | 0, _, acc => acc
  | n + 1, u, acc =>
    let (e, s, m) := unit u
    match acc with
    | [] => packRuns cap unit n (u + 1) [⟨u, 1, e, s, m⟩]
    | x :: xs =>
      let y : AshRun := ⟨x.first, x.count + 1, x.e + e, x.s + s, x.m + m⟩
      if y.size ≤ cap then packRuns cap unit n (u + 1) (y :: xs)
      else packRuns cap unit n (u + 1) (⟨u, 1, e, s, m⟩ :: x :: xs)

/-- The size of the ashlars that an operand of an array runs in (R219, R261; log entry 21): 64 KiB for a brick; for a keystone 64 KiB when one
holds it, else 1 MiB. -/
def ashCap (key : Bool) (unit : Nat → Nat × Nat × Nat) (n : Nat) : Nat :=
  if key && !((packRuns 0x10000 unit n 0 []).length ≤ 1 && (packRuns 0x10000 unit n 0 []).all (·.size ≤ 0x10000)) then 0x100000 else 0x10000

/-- Whether each of `n` units fits in an ashlar of `cap` bytes (R261). -/
def unitsFit (cap : Nat) (unit : Nat → Nat × Nat × Nat) (n : Nat) : Bool :=
  (List.range n).all (fun u => decide ((⟨u, 1, (unit u).1, (unit u).2.1, (unit u).2.2⟩ : AshRun).size ≤ cap))

/-- Where unit `u` of a run of ashlars of `cap` bytes lies: the index of its ashlar in the run, and the offsets of its
elements, scales and metadata in that ashlar. -/
def unitPlaceIn (cap : Nat) (unit : Nat → Nat × Nat × Nat) (n u : Nat) : Nat × Nat × Nat × Nat :=
  let runs := (packRuns cap unit n 0 []).reverse
  match (List.range runs.length).find? (fun i =>
      let x := lget ⟨0, 0, 0, 0, 0⟩ runs i
      x.first ≤ u && u < x.first + x.count) with
  | none => (0, 0, 0, 0)
  | some i =>
    let x := lget ⟨0, 0, 0, 0, 0⟩ runs i
    let before := (List.range (u - x.first)).map (fun j => unit (x.first + j))
    let sum := fun (f : Nat × Nat × Nat → Nat) => before.foldl (fun a p => a + f p) 0
    (i, sum (fun p => p.1), up64 x.e + sum (fun p => p.2.1), up64 (up64 x.e + x.s) + sum (fun p => p.2.2))

/-- Where unit `u` of an array's run lies, in ashlars of the size the run takes. -/
def unitPlace (key : Bool) (unit : Nat → Nat × Nat × Nat) (n u : Nat) : Nat × Nat × Nat × Nat := unitPlaceIn (ashCap key unit n) unit n u

/-! ### Outputs -/

/-- An accumulator of 2^-`W` on the grid of an EXA-80 output (log entry 123), with whether it is inexact. -/
def Exa.onGrid (W : Nat) (x : Exa) (u : Option Nat) : Exa × Bool :=
  let (q, ix) := roundAt W x.acc.natAbs (-(exaW : Int)) u
  ({ x with acc := if x.acc < 0 then -(q : Int) else q }, ix)

/-- What an output is written as: its encoding, or the two components of a C16 or C40 element, with its flags. An EXA-80 output of
MOE_COMBINE whose sum has bits below its grid of 2^-288 is rounded and raises INEXACT, which R59 does not list for EXA-80 outputs (R496;
DESIGN CHOICE, log entry 123). -/
def roundCell (a : Attr) (W : Nat) (c : Cell) (u : Option Nat) : Nat × Flags :=
  match a.outFmt with
  | 11 => if W = exaW then (c.x.toNat, {}) else ((c.x.onGrid W u).1.toNat, { inexact := (c.x.onGrid W u).2 })
  | 12 =>
    let (i, oi) := roundHalfUp c.i a.shift 16
    let (q, oq) := roundHalfUp c.q a.shift 16
    (ofSigned 16 i + 2 ^ 16 * ofSigned 16 q, { overflow := oi || oq })
  | 13 =>
    let (i, oi) := satSigned 40 c.i
    let (q, oq) := satSigned 40 c.q
    (ofSigned 64 i + 2 ^ 64 * ofSigned 64 q, { overflow := oi || oq })
  | o => roundOnce (outElem o a.mxElem) W c.x a.ovfNan u

/-- The draws of a run of outputs when rounding is stochastic (R56, R367). -/
def drawFor (a : Attr) (seed step tensor : Nat) (index : Nat) : Option Nat :=
  if a.sr then some (wordAt (draw seed step tensor index) 0) else none

/-- The blocks of 32 of a list. -/
def blocksOf {α : Type} : Nat → List α → List (List α)
  | 0, _ => []
  | n + 1, l => if l.isEmpty then [] else l.take 32 :: blocksOf n (l.drop 32)

/-- Writes a run of outputs that starts at column `n0` of row `m` of an output of `N` columns and `M` rows (R263), and
gives its flags (R45). Under an MX output the run starts at a block and a block with a poisoned element is poisoned
(R88, R109). -/
def putOutputs (d : Dev) (a : Attr) (W base M N m n0 : Nat) (cells : List Cell) (u : Nat → Option Nat) : Dev × Flags :=
  let f := outElem a.outFmt a.mxElem
  let idx := m * N + n0
  if outIsMx a.outFmt then
    let scales := base + up64 ((M * N * f.bits + 7) / 8)
    (blocksOf cells.length cells).zipIdx.foldl (fun (st : Dev × Flags) (p : List Cell × Nat) =>
      let (blk, b) := p
      let i0 := idx + 32 * b
      let us := if a.sr then some ((List.range blk.length).map (fun j => (u (i0 + j)).getD 0)) else none
      let (sc, codes, fl) := mxBlock f (blk.map (fun c => c.x.value W)) a.ovfNan us
      let fl := fl.or { invalid := blk.any (fun c => c.x.invalid) }
      let d := putBits st.1 base (f.bits * i0) (f.bits * blk.length) (packNat f.bits codes)
      let sa := scales + m * ceilDiv N 32 + n0 / 32 + b
      let d := devWrite d sa [BitVec.ofNat 8 sc] (isPoisoned d sa 1)
      let d := if blk.any (fun c => c.poison) then markPoison (markPoison d base (f.bits * i0) (f.bits * blk.length)) sa 0 8 else d
      (d, st.2.or fl)) (d, {})
  else
    let rs := cells.zipIdx.map (fun p => roundCell a W p.1 (u (idx + p.2)))
    let d := putBits d base (f.bits * idx) (f.bits * cells.length) (packNat f.bits (rs.map (fun r => r.1)))
    let d := (cells.zipIdx.filter (fun p => p.1.poison)).foldl (fun d p => markPoison d base (f.bits * (idx + p.2)) f.bits) d
    (d, Flags.union (rs.map (fun r => r.2)))

/-- Bytes an output of M × N elements takes with its scale plane (R263). -/
def outBytes (a : Attr) (M N : Nat) : Nat :=
  let e := (M * N * (outElem a.outFmt a.mxElem).bits + 7) / 8
  if outIsMx a.outFmt then up64 e + M * ceilDiv N 32 else e

/-- An accumulate-in element (R66, R263) as an accumulator, with its poison. -/
def accIn (d : Dev) (a : Attr) (W base idx : Nat) : Cell :=
  if a.accFmt = 0 then {}
  else
    let f := accElem a.accFmt
    let (v, p) := elemAt d base (f.bits * idx) f.bits
    match f with
    | .exa80 => { x := Exa.ofNat v, poison := p }
    | .c40 => { i := toSigned 40 (bitsAt v 0 40), q := toSigned 40 (bitsAt v 64 40), poison := p }
    | f => { x := Exa.ofVal W (f.decode v), poison := p }

end Sys2Proof.Machine
end

