-- ==== Sys2Proof/Machine/ArrOps.lean ====
section
/-!
DEFINITION. Brick and keystone arrays: geometry, operands in their engine-ready layouts, ranges and wide passes, the
streaming of columns into windows and accumulators, outputs, saves and resumes (R63-R90).
-/

namespace Sys2Proof.Machine

/-- Whether array `a` is a keystone: bricks are 0-383, keystone n is 384 + n. -/
def arrIsKey (a : Nat) : Bool := 384 ≤ a

/-- The core of a brick. -/
def arrCore (a : Nat) : Nat := a / 4

/-- The island of an array (R469). -/
def arrIsland (a : Nat) : Nat := if arrIsKey a then a - 384 + 96 else arrCore a

/-- Whether an array is enabled by the fuses and its unit is not fenced. -/
def arrOn (d : Dev) (a : Nat) : Bool :=
  if arrIsKey a then keyOn d (a - 384) && !keyFenced d (a - 384) else coreOn d (arrCore a) && !coreFenced d (arrCore a)

/-- The block detail of an array's records (R428): kind, core, index, position. -/
def arrDetail (d : Dev) (a : Nat) : Nat :=
  (if arrIsKey a then 1 + 0x7F * 2 ^ 8 + (a - 384) * 2 ^ 16 else arrCore a * 2 ^ 8 + a % 4 * 2 ^ 16)
    + getReg d (regArrPos a) % 2 ^ 64 * 2 ^ 32

/-- An operand address as array `a` reads it (R64): an offset in a core store is read at that offset of the brick's own core's store,
and one in a keystone's staging in the keystone's own, wherever the invocation runs or is resumed (R82, R118; log entry 119). -/
def ownAddr (a x : Nat) : Nat :=
  if !arrIsKey a && storeBase ≤ x && x < storeEnd then storeAddr (arrCore a) ((x - storeBase) % 0x400000)
  else if arrIsKey a && stagingBase ≤ x && x < stagingEnd then stagingAddr (a - 384) ((x - stagingBase) % 0x800000)
  else x

/-- The state of an array. -/
def arrSt (d : Dev) (a : Nat) : ArrSt := tget {} d.arrs a

/-- Changes the state of an array. -/
def modArr (d : Dev) (a : Nat) (f : ArrSt → ArrSt) : Dev := { d with arrs := tmod {} d.arrs a f }

/-- The invocation descriptor (R79). -/
structure ArrDesc where
  attr  : Attr
  cls   : Nat
  pack  : Nat
  flags : Nat
  fa    : Nat
  fb    : Nat
  n     : Nat
  k     : Nat
  acc   : Nat
  probs : List (Nat × Nat × Nat × Nat × Nat)
  clean : Bool
  deriving DecidableEq, Repr

/-- The fields of a descriptor; a problem is its M, STAT, STREAM, ACC_IN and OUT (R79). -/
def descFields (bs : List Byte) : ArrDesc :=
  let f := fieldLe bs
  { attr := attrOf (f 0 4), cls := f 4 1, pack := f 5 1, flags := f 6 1, fa := f 7 1 % 16, fb := f 7 1 / 16,
    n := f 8 4, k := f 12 4, acc := f 16 8,
    probs := (List.range 4).map (fun p =>
      (f (0x20 + 40 * p) 4, f (0x28 + 40 * p) 8, f (0x30 + 40 * p) 8, f (0x38 + 40 * p) 8, f (0x40 + 40 * p) 8)),
    clean := f 24 8 == 0 && (List.range 4).all (fun p => f (0x24 + 40 * p) 4 == 0) }

/-- A descriptor as array `a` runs it: its operands as the array reads them, a keystone's accumulator region in its staging (R64, R66,
R74). -/
def arrDesc (a : Nat) (bs : List Byte) : ArrDesc :=
  let e := descFields bs
  { e with
    acc := if arrIsKey a then stagingAddr (a - 384) 0x300000 else e.acc
    probs := e.probs.map (fun p => (p.1, ownAddr a p.2.1, ownAddr a p.2.2.1, p.2.2.2.1, p.2.2.2.2)) }

/-- The `SPARSE` flag. -/
def ArrDesc.sparse (e : ArrDesc) : Bool := bitOf e.flags 0
/-- The `MX` flag. -/
def ArrDesc.mx (e : ArrDesc) : Bool := bitOf e.flags 1
/-- The stationary element format. -/
def ArrDesc.fmtA (e : ArrDesc) : Fmt := operandFmt e.fa
/-- The streaming element format. -/
def ArrDesc.fmtB (e : ArrDesc) : Fmt := operandFmt e.fb

/-- Rows of a tile (R63). -/
def ArrDesc.rows (e : ArrDesc) (key : Bool) : Nat := if key then 256 else if e.cls = 3 then 16 else 32

/-- Depth of a tile (R63). -/
def ArrDesc.depth (e : ArrDesc) (key : Bool) : Nat :=
  let m := if key then 8 else 1
  match e.cls with
  | 0 => 32 * m
  | 1 => (if e.sparse then 128 else 64) * m
  | 2 => 16 * m
  | _ => 4

/-- Columns of a column group (R66). -/
def groupCols (key : Bool) : Nat := if key then 128 else 32

/-- Length of a chunk (R46). -/
def ArrDesc.chunk (e : ArrDesc) : Nat := if e.mx then 32 else 256

/-- Depth tiles of a row tile. -/
def ArrDesc.tiles (e : ArrDesc) (key : Bool) : Nat := ceilDiv e.k (e.depth key)

/-- Column groups. -/
def ArrDesc.groups (e : ArrDesc) (key : Bool) : Nat := ceilDiv e.n (groupCols key)

/-- Columns of group `g`. -/
def ArrDesc.cols (e : ArrDesc) (key : Bool) (g : Nat) : Nat := min (groupCols key) (e.n - g * groupCols key)

/-- The rows of one packed problem's slice (R71). -/
def ArrDesc.slice (e : ArrDesc) (key : Bool) : Nat := e.rows key / 2 ^ e.pack

/-- Whether a descriptor is accepted (R21, R38, R59, R71, R73, R75, R79, R80): a keystone takes one problem of 128 rows or more and
two columns or more, no C16 and no slot work. -/
def arrDescOk (e : ArrDesc) (key : Bool) (wcls : Nat) : Bool :=
  attrValid e.attr (e.cls == 3) && e.cls ≤ 3 && e.pack ≤ 2 && e.flags < 16 && fmtPair e.fa e.fb &&
    fmtClass e.fa == e.cls && e.clean && 1 ≤ e.n && e.n ≤ 2 ^ 28 && 1 ≤ e.k && e.k ≤ 2 ^ 28 && e.acc % 64 == 0 &&
    (e.flags / 4 % 4 == 0 || e.mx) && e.flags / 4 % 4 != 3 &&
    (!e.mx || (e.cls ≤ 1 && e.fa != 6)) && (!e.sparse || (e.cls == 1 && e.fmtA.bits == 4 && e.fmtB.bits == 4)) &&
    (!e.sparse || e.flags / 4 % 4 == 0) && (e.cls != 3 || wcls == 0) &&
    (!key || (e.pack == 0 && e.cls != 3 && wcls != 0 && 128 ≤ (lget (0, 0, 0, 0, 0) e.probs 0).1 && e.n != 1)) &&
    (lget (0, 0, 0, 0, 0) e.probs 0).1 ≥ 1 &&
    e.probs.zipIdx.all (fun p => p.1.1 ≤ e.slice key && (p.1.1 == 0 || p.2 < 2 ^ e.pack))

/-! ### Operands -/

/-- The neutral scale byte beside a format (R38). -/
def neutralScale (f : Nat) : Nat := if f = 5 then 0x85 else 0x7F

/-- Unit sizes of a stationary operand: elements and scales of a depth tile (R262). -/
def statUnit (e : ArrDesc) (key : Bool) (_ : Nat) : Nat × Nat × Nat :=
  let n := e.rows key * e.depth key
  (n * e.fmtA.bits / 8, if e.mx && !bitOf e.flags 2 then n / 32 else 0, 0)

/-- Positions of K in segment `s` and the positions it holds, rounded up to 32 (R262). -/
def segLen (k s : Nat) : Nat := min 256 (k - 256 * s)

/-- Bytes, scales and metadata of one column of segment `s` (R262; a column's elements are rounded up to 64 bytes, log
entry 22). -/
def colBytes (e : ArrDesc) (s : Nat) : Nat × Nat × Nat :=
  let held := (segLen e.k s + 31) / 32 * 32
  let stored := if e.sparse then held / 2 else held
  (up64 (stored * e.fmtB.bits / 8), if e.mx && !bitOf e.flags 3 then held / 32 else 0, if e.sparse then held / 8 else 0)

/-- Segments of a streaming operand. -/
def ArrDesc.segs (e : ArrDesc) : Nat := ceilDiv e.k 256

/-- Unit sizes of a streaming operand: one segment of one column group (R262). -/
def strmUnit (e : ArrDesc) (key : Bool) (u : Nat) : Nat × Nat × Nat :=
  let (b, s, m) := colBytes e (u % e.segs)
  let c := e.cols key (u / e.segs)
  (b * c, s * c, m * c)

/-- Where unit `u` of a run with a base address lies, or of one ashlar-sized piece of it: element, scale and metadata
addresses. -/
def placeAddr (key : Bool) (base : Nat) (unit : Nat → Nat × Nat × Nat) (n u : Nat) : Nat × Nat × Nat :=
  let (i, x, s, m) := unitPlace key unit n u
  let b := base + i * ashCap key unit n
  (b + x, b + s, b + m)

/-- The code, scale byte and poison of the stationary element of row `m` at position `k` of a problem (R262). -/
def statCode (d : Dev) (e : ArrDesc) (key : Bool) (base m k : Nat) : Nat × Nat × Bool :=
  let dep := e.depth key
  let (ea, sa, _) := placeAddr key base (statUnit e key) (e.tiles key) (k / dep)
  let idx := m * dep + k % dep
  let (c, p) := elemAt d ea (e.fmtA.bits * idx) e.fmtA.bits
  if e.mx then
    if bitOf e.flags 2 then (c, neutralScale e.fa, p)
    else
      let (s, ps) := elemAt d sa (8 * (idx / 32)) 8
      (c, s, p || ps)
  else (c, 0, p)

/-- The value of a stationary element (R36, R262). -/
def statVal (e : ArrDesc) (x : Nat × Nat × Bool) : Val := if e.mx then mxVal e.fmtA x.1 x.2.1 else e.fmtA.decode x.1

/-- The I and Q components of a C16 code (R57). -/
def c16Of (c : Nat) : Int × Int := (toSigned 16 (bitsAt c 0 16), toSigned 16 (bitsAt c 16 16))

/-- The addresses of the segment of column `n` that holds position `k`: elements, scales, metadata of the column. -/
def colAddr (e : ArrDesc) (key : Bool) (base n k : Nat) : Nat × Nat × Nat :=
  let g := n / groupCols key
  let s := k / 256
  let (ea, sa, ma) := placeAddr key base (strmUnit e key) (e.segs * e.groups key) (g * e.segs + s)
  let (b, sc, mt) := colBytes e s
  let c := n % groupCols key
  (ea + b * c, sa + sc * c, ma + mt * c)

/-- The two positions a metadata field selects within its group of four (R76): for the group that holds `k`. -/
def metaField (d : Dev) (e : ArrDesc) (key : Bool) (base n k : Nat) : Nat × Nat × Bool :=
  let (_, _, ma) := colAddr e key base n k
  let (v, p) := elemAt d ma (4 * (k % 256 / 4)) 4
  (v % 4, v / 4, p)

/-- The streaming element of column `n` at position `k`, or none where the metadata selects no element (R76, R77). -/
def strmElem (d : Dev) (e : ArrDesc) (key : Bool) (base n k : Nat) : Option (Val × Bool) :=
  let (ea, sa, _) := colAddr e key base n k
  let o := k % 256
  let scaled := fun (c : Nat) (p : Bool) =>
    if e.mx then
      if bitOf e.flags 3 then (mxVal e.fmtB c (neutralScale e.fb), p)
      else
        let (s, ps) := elemAt d sa (8 * (o / 32)) 8
        (mxVal e.fmtB c s, p || ps)
    else (e.fmtB.decode c, p)
  if e.sparse then
    let (i0, i1, pm) := metaField d e key base n k
    let pick := if k % 4 = i0 then some 0 else if k % 4 = i1 then some 1 else none
    pick.map (fun j =>
      let (c, p) := elemAt d ea (e.fmtB.bits * (o / 4 * 2 + j)) e.fmtB.bits
      scaled c (p || pm))
  else
    let (c, p) := elemAt d ea (e.fmtB.bits * o) e.fmtB.bits
    some (scaled c p)

/-- The raw C16 element of a streaming operand. -/
def strmC16 (d : Dev) (e : ArrDesc) (base n k : Nat) : Int × Int × Bool :=
  let (ea, _, _) := colAddr e false base n k
  let (c, p) := elemAt d ea (32 * (k % 256)) 32
  ((c16Of c).1, (c16Of c).2, p)

/-- Whether column `n` holds an invalid sparse group in positions `k0` to `k1` (R78). -/
def sparseBad (d : Dev) (e : ArrDesc) (key : Bool) (base n k0 k1 : Nat) : Bool :=
  e.sparse && (List.range ((k1 - k0 + 3) / 4)).any (fun j =>
    let k := k0 / 4 * 4 + 4 * j
    let (i0, i1, _) := metaField d e key base n k
    k < e.k && (i1 ≤ i0 || e.k ≤ k + i1))

/-! ### Ranges and anchors (R69) -/

/-- The range of an element: its lowest-bit weight plus the significand width, and its lowest-bit weight. -/
def rangeOf (f : Fmt) : Val → Option (Int × Int)
  | .fin _ m q => if m = 0 then none else some (q + f.sigWidth, q)
  | _ => none

/-- The union of two ranges. -/
def rangeJoin : Option (Int × Int) → Option (Int × Int) → Option (Int × Int)
  | none, b => b
  | a, none => a
  | some (h, l), some (h', l') => some (max h h', min l l')

/-- The positions of a chunk. -/
def chunkPos (e : ArrDesc) (c : Nat) : List Nat := rangeFrom (c * e.chunk) (min e.chunk (e.k - c * e.chunk))

/-- hS and lS of a row in a chunk (R69). -/
def statRange (d : Dev) (e : ArrDesc) (key : Bool) (base m c : Nat) : Option (Int × Int) :=
  (chunkPos e c).foldl (fun a k => rangeJoin a (rangeOf e.fmtA (statVal e (statCode d e key base m k)))) none

/-- hW and lW of a column in a chunk (R69). -/
def strmRange (d : Dev) (e : ArrDesc) (key : Bool) (base n c : Nat) : Option (Int × Int) :=
  (chunkPos e c).foldl (fun a k =>
    match strmElem d e key base n k with
    | some (v, _) => rangeJoin a (rangeOf e.fmtB v)
    | none => a) none

/-- The anchor a₀ of an output element in a chunk (R69); where its row or column has no non-zero finite element, T is none and the anchor
is -288 (DESIGN CHOICE, log entry 139). -/
def anchorOf (s w : Option (Int × Int)) : Int :=
  match s, w with
  | some (hs, _), some (hw, _) => max (hs + hw - 151) (-288)
  | _, _ => -288

/-- The procedure pass_count of R69; at most four passes (R48). -/
def passCount (l : Int) : Nat → Int → Nat
  | 0, _ => 1
  | n + 1, a => if a > l ∧ a > -288 then passCount l n (max (a - 128) (-288)) + 1 else 1

/-- The anchor of pass `p` (R48). -/
def passAnchor (a0 : Int) (p : Nat) : Int := max (a0 - 128 * p) (-288)

/-- The problems in use with their slots. -/
def ArrDesc.used (e : ArrDesc) : List ((Nat × Nat × Nat × Nat × Nat) × Nat) := e.probs.zipIdx.filter (fun p => p.1.1 != 0)

/-- The chunk that a tile's first position lies in. -/
def ArrDesc.chunkOf (e : ArrDesc) (key : Bool) (t : Nat) : Nat := t * e.depth key / e.chunk

/-- The key of a row's entry in the range table: chunk, problem, row. -/
def rangeKey (c p m : Nat) : Nat := (c * 4 + p) * 256 + m

/-- The range scanner (R69): before the first column of a chunk of a group enters, the rows' ranges of the chunk are recorded in the range
table, once for the row tile, and the columns' ranges of the group as they fill the stream buffer. -/
def scanChunk (d : Dev) (e : ArrDesc) (key : Bool) (r : ArrRun) : ArrRun :=
  let c := e.chunkOf key r.dtile
  if e.cls = 3 ∨ r.scanOf = some (r.group, c) then r
  else
    { r with
      ranges := e.used.foldl (fun t p => (List.range p.1.1).foldl (fun t m =>
        if (tget? t (rangeKey c p.2 m)).isSome then t else tset t (rangeKey c p.2 m) (statRange d e key p.1.2.1 m c)) t) r.ranges
      scan := e.used.flatMap (fun p => (List.range (e.cols key r.group)).map (fun n =>
        (p.2 * 256 + n, strmRange d e key p.1.2.2.1 (r.group * groupCols key + n) c)))
      scanOf := some (r.group, c) }

/-- Pₙ of column `col` of the group in the chunk that was scanned, over every row of every packed problem (R69, R71). -/
def colPasses (e : ArrDesc) (key : Bool) (r : ArrRun) (col : Nat) : Nat :=
  let c := e.chunkOf key r.dtile
  if e.cls != 2 then 1
  else e.used.foldl (fun a p =>
    let w := tget none r.scan (p.2 * 256 + col)
    (List.range p.1.1).foldl (fun a m =>
      let s := tget none r.ranges (rangeKey c p.2 m)
      match s, w with
      | some (_, ls), some (_, lw) => max a (passCount (ls + lw) 8 (anchorOf s w))
      | _, _ => a) a) 1

/-! ### One column slot -/

/-- Whether a chunk is held whole in one tile (R67). -/
def ArrDesc.whole (e : ArrDesc) (key : Bool) : Bool := e.cls == 3 || e.chunk ≤ e.depth key

/-- The positions of depth tile `t`. -/
def tilePos (e : ArrDesc) (key : Bool) (t : Nat) : List Nat :=
  rangeFrom (t * e.depth key) (min (e.depth key) (e.k - t * e.depth key))

/-- The contents of a register set for depth tile `t` (R65): each used problem's rows with the code, scale and poison of the tile's
positions. -/
def loadTile (d : Dev) (e : ArrDesc) (key : Bool) (t : Nat) : RegSet :=
  ⟨t, e.used.map (fun p => (List.range p.1.1).map (fun m => (tilePos e key t).map (fun k => statCode d e key p.1.2.1 m k)))⟩

/-- The terms of one output element in a tile that belong to pass `p` under anchor `a0` (R48), from the row of the active register
set and the streamed column: the sum, and whether a term came from a poisoned element. Specials and zeros belong to the first pass. -/
def passSum (d : Dev) (e : ArrDesc) (key : Bool) (row : List (Nat × Nat × Bool)) (strm n t p : Nat) (a0 : Int) : Cell :=
  ((tilePos e key t).zip row).foldl (fun c kx =>
    match strmElem d e key strm n kx.1 with
    | none => c
    | some (y, py) =>
      let x := statVal e kx.2
      let v := x.mul y
      let inPass := match v with
        | .fin _ mm q =>
          if mm = 0 ∨ e.cls ≠ 2 then p == 0
          else decide (passAnchor a0 p ≤ q) && (p == 0 || decide (q < passAnchor a0 (p - 1)))
        | _ => p == 0
      if inPass then
        { c with
          x := c.x.add exaBits (Exa.ofProduct exaW x y)
          poison := c.poison || kx.2.2.2 || py }
      else c) {}

/-- The C16 sums of one output element in a tile (R57). -/
def c16Sum (d : Dev) (e : ArrDesc) (row : List (Nat × Nat × Bool)) (strm n t : Nat) : Cell :=
  ((tilePos e false t).zip row).foldl (fun c kx =>
    let (ai, aq) := c16Of kx.2.1
    let (bi, bq, pb) := strmC16 d e strm n kx.1
    { c with
      i := c.i + (ai * bi - aq * bq)
      q := c.q + (ai * bq + aq * bi)
      poison := c.poison || kx.2.2.2 || pb }) {}

/-- The combination of two accumulators (R52, R57). -/
def Cell.add (a b : Cell) : Cell :=
  { x := a.x.add exaBits b.x, poison := a.poison || b.poison, i := a.i + b.i, q := a.q + b.q }

/-- The key of an accumulator: column within the group and row of the tile. -/
def accKey (col row : Nat) : Nat := col * 512 + row

/-- The key of a window. -/
def winKey (pass col row : Nat) : Nat := (pass * 256 + col) * 512 + row

/-- The first value of a group's accumulators: the accumulate-in operand (R66). -/
def groupAcc (d : Dev) (e : ArrDesc) (key : Bool) (g : Nat) : Tbl Cell :=
  e.used.flatMap (fun p => (List.range p.1.1).flatMap (fun m =>
    (List.range (e.cols key g)).map (fun c =>
      (accKey c (p.2 * e.slice key + m), accIn d e.attr exaW p.1.2.2.2.1 (m * e.n + g * groupCols key + c)))))

/-- The depth tile whose load follows the current visit's (R65, R66): the next of the group, else the first of the next group. -/
def nextTile (e : ArrDesc) (key : Bool) (r : ArrRun) : Option Nat :=
  if r.dtile + 1 < e.tiles key then some (r.dtile + 1) else if r.group + 1 < e.groups key then some 0 else none

/-- A swap (R65): the background set, loaded by then, becomes active for the current visit, and the load of the next tile fills the
other set. -/
def swapTile (d : Dev) (e : ArrDesc) (key : Bool) (r : ArrRun) : ArrRun :=
  { r with
    active := some (match r.back with
      | some x => if x.tile = r.dtile then x else loadTile d e key r.dtile
      | none => loadTile d e key r.dtile)
    back := (nextTile e key r).map (loadTile d e key) }

/-- Enters one column of the current visit and pass into the windows or accumulators (R64, R67, R69, R70). -/
def enterColumn (d : Dev) (e : ArrDesc) (key : Bool) (r : ArrRun) : ArrRun :=
  let n := r.group * groupCols key + r.column
  let c := e.chunkOf key r.dtile
  let tile := (r.active.map (fun x => x.codes)).getD []
  (e.used.zipIdx).foldl (fun r pj =>
    let p := pj.1
    let (m0, _, sm, _, _) := p.1
    let w := tget none r.scan (p.2 * 256 + r.column)
    (List.range m0).foldl (fun r m =>
      let row := p.2 * e.slice key + m
      let codes := lget [] (lget [] tile pj.2) m
      if e.cls = 3 then
        { r with acc := tmod {} r.acc (accKey r.column row) (Cell.add (c16Sum d e codes sm n r.dtile)) }
      else
        let a0 := anchorOf (tget none r.ranges (rangeKey c p.2 m)) w
        let x := passSum d e key codes sm n r.dtile r.pass a0
        if e.whole key then { r with acc := tmod {} r.acc (accKey r.column row) (Cell.add x) }
        else
          { r with win := tmod (passAnchor a0 r.pass, {}) r.win (winKey r.pass r.column row)
                      (fun y => (passAnchor a0 r.pass, y.2.add x)) }) r) r

/-- Folds the windows into the accumulators (R66, R82). -/
def foldWindows (r : ArrRun) : ArrRun :=
  { r with acc := r.win.foldl (fun acc p => tmod {} acc (accKey (p.1 / 512 % 256) (p.1 % 512)) (Cell.add p.2.2)) r.acc
           win := [] }

/-- The seed, step and tensor whose draws an invocation's stochastic rounding uses (R56, R367): those of the operator that the
context runs, by itself or as the current step of its plan, or free values when the context runs none. The index counts within each
problem's output (log entry 61). -/
def runDraw (d : Dev) (i c : Nat) : Nat × Nat × Nat :=
  let x := ctxSt d i c
  match x.queue with
  | v :: _ =>
    if v.isPlan then
      match v.plan.head? with
      | some s => (x.seed, v.next, bitsAt (s.f0 + bitsAt s.f1 32 32 * 65536) 16 32)
      | none => (x.seed, v.next, v.tensor)
    else (x.seed, v.step, v.tensor)
  | [] => (x.seed, x.lastStep.getD (Config.freeNat d.freeCtr % 2 ^ 64), Config.freeNat (d.freeCtr + 1) % 2 ^ 32)

/-- The 80 bytes of an accumulator in its buffer: EXA-80, or the 64-bit I and Q sums of a C16 one (R57, R66; log entry 75). -/
def accBuf (e : ArrDesc) (x : Cell) : List Byte :=
  if e.cls = 3 then natLe 8 (ofSigned 64 x.i) ++ natLe 8 (ofSigned 64 x.q) ++ natLe 64 0 else natLe 80 x.x.toNat

/-- Shows the accumulators of one column of group `g` in the group's accumulator buffer (R66, R74), by column and row as a save orders
them (log entry 75). -/
def showCol (d : Dev) (e : ArrDesc) (key : Bool) (r : ArrRun) (g c : Nat) : Dev :=
  let base := e.acc + g % 2 * (if key then 0x280000 else 0x14000)
  e.used.foldl (fun d p => (List.range p.1.1).foldl (fun d m =>
    let row := p.2 * e.slice key + m
    let x := tget {} r.acc (accKey c row)
    devWrite d (base + 80 * (c * e.rows key + row)) (accBuf e x) x.poison) d) d

/-- Shows the accumulators of a group in its accumulator buffer. -/
def showAcc (d : Dev) (e : ArrDesc) (key : Bool) (r : ArrRun) (g : Nat) : Dev :=
  (List.range (e.cols key g)).foldl (fun d c => showCol d e key r g c) d

/-- Rounds and writes a group's outputs from its accumulator buffer (R66). -/
def writeGroup (d : Dev) (e : ArrDesc) (key : Bool) (r : ArrRun) (g : Nat) : Dev × ArrRun :=
  let (seed, step, tensor) := runDraw d r.inst r.ctx
  let n0 := g * groupCols key
  e.used.foldl (fun (st : Dev × ArrRun) p =>
    (List.range p.1.1).foldl (fun (st : Dev × ArrRun) m =>
      let cells := (List.range (e.cols key g)).map (fun c => tget {} st.2.acc (accKey c (p.2 * e.slice key + m)))
      let (d, fl) := putOutputs st.1 e.attr exaW p.1.2.2.2.2 p.1.1 e.n m n0 cells (drawFor e.attr seed step tensor)
      (d, { st.2 with flags := st.2.flags.or fl
                      poison := st.2.poison || cells.any (fun c => c.poison) })) st) (d, r)

/-! ### Streaming -/

/-- The position after the current column's slot: the next column of the pass that needs it, else the next pass, else the
next depth tile, else the next group (R66, R70). -/
def nextSlot (e : ArrDesc) (key : Bool) (r : ArrRun) : Nat × Nat × Nat × Nat :=
  let g := r.group
  let wants := fun (col p : Nat) => p == 0 || decide (p < colPasses e key r col)
  let rest := rangeFrom (r.column + 1) (e.cols key g - (r.column + 1))
  match rest.find? (fun col => wants col r.pass) with
  | some col => (g, r.dtile, col, r.pass)
  | none =>
    match (List.range (e.cols key g)).find? (fun col => wants col (r.pass + 1)) with
    | some col => (g, r.dtile, col, r.pass + 1)
    | none => if r.dtile + 1 < e.tiles key then (g, r.dtile + 1, 0, 0) else (g + 1, 0, 0, 0)

/-- Whether every column has entered. -/
def allEntered (e : ArrDesc) (key : Bool) (r : ArrRun) : Bool := e.groups key ≤ r.group

/-- The positions that are checked before the current column enters (R78): those of its tile, and of the whole chunk that starts with
the tile. -/
def checkSpan (e : ArrDesc) (key : Bool) (r : ArrRun) : Nat × Nat :=
  let k0 := r.dtile * e.depth key
  let c0 := e.chunkOf key r.dtile * e.chunk
  (k0, min e.k (if c0 = k0 then max (k0 + e.depth key) (c0 + e.chunk) else k0 + e.depth key))

/-- Wide-pass increments charged to a context, in its count and its telemetry (R70, R446). -/
def countWideOf (d : Dev) (i c n : Nat) : Dev :=
  modCtx d i c (fun x => { x with wide := satAdd 64 x.wide n, tele := { x.tele with wide := satAdd 64 x.tele.wide n } })

/-- One column slot (R64-R70, R78): before its chunk streams the column's metadata are checked and its ranges are known; the first column of a
visit swaps its tile in; the column enters, a wide pass counts once per chunk, windows fold at the end of their chunk, the accumulators that changed
show in their buffer, and at the end of a group but the last its outputs are written and the next group's accumulators set. -/
def oneSlot (d : Dev) (a : Nat) (e : ArrDesc) (r : ArrRun) : Dev × ArrRun :=
  let key := arrIsKey a
  let n := r.group * groupCols key + r.column
  let (k0, k1) := checkSpan e key r
  if r.bad then (d, r)
  else if e.used.any (fun p => sparseBad d e key p.1.2.2.1 n k0 k1) then (d, { r with bad := true })
  else
    let r := scanChunk d e key (if r.active.map (fun x => x.tile) = some r.dtile then r else swapTile d e key r)
    let r' := enterColumn d e key r
    let first := r.dtile == 0 || e.chunkOf key r.dtile != e.chunkOf key (r.dtile - 1)
    let inc := r.pass != 0 && first
    let r' := if inc then { r' with wide := r'.wide + 1 } else r'
    let d := if inc then
        let d := setReg d (regArrWideCount a) (getReg d (regArrWideCount a) + 1)
        countWideOf d r.inst r.ctx 1
      else d
    let d := setReg d (regArrBusyCycles a) (getReg d (regArrBusyCycles a) + 1)
    let (g, t, c, p) := nextSlot e key r
    let ends := g != r.group || (t != r.dtile && e.chunkOf key t != e.chunkOf key r.dtile)
    let r' := if ends then foldWindows r' else r'
    let d := if ends && !e.whole key then showAcc d e key r' r.group else if e.whole key then showCol d e key r' r.group r.column else d
    let (d, r') := if g != r.group && g < e.groups key then
        let (d, r') := writeGroup d e key r' r.group
        let r' := { r' with acc := groupAcc d e key g }
        (showAcc d e key r' g, r')
      else (d, r')
    let r' := { r' with
      group := g
      dtile := t
      column := c
      pass := p }
    -- R65: the swap to the next visit's tile takes place in the cycle in which the last column of the outgoing tile enters.
    (d, if (g != r.group || t != r.dtile) && g < e.groups key then swapTile d e key r' else r')

/-- Column slots while a condition on the position holds, at most `fuel`. -/
def slotsWhile (a : Nat) (e : ArrDesc) (go : ArrRun → Bool) : Nat → Dev → ArrRun → Dev × ArrRun
  | 0, d, r => (d, r)
  | n + 1, d, r =>
    if allEntered e (arrIsKey a) r || r.bad || !go r then (d, r)
    else
      let (d, r) := oneSlot d a e r
      slotsWhile a e go n d r

/-- A bound on the column slots of an invocation. -/
def slotBound (e : ArrDesc) (key : Bool) : Nat := 5 * (e.n + groupCols key) * (e.tiles key + 1)

/-- Shows a position in `ARR_POS` (R90). -/
def showPos (d : Dev) (a : Nat) (r : ArrRun) : Dev :=
  setReg d (regArrPos a) (r.group % 2 ^ 24 * 2 ^ 40 + r.dtile % 2 ^ 24 * 2 ^ 16 + r.column % 256 * 2 ^ 8 + r.pass % 4 * 2 ^ 6)

/-- Sets a bit of `ARR_STATUS`. -/
def setArr (d : Dev) (a : Nat) (f : Fld) (v : Nat) : Dev := fset d (regArrStatus a) f v

/-- Keeps a running invocation's state after streaming. -/
def keepRun (d : Dev) (a : Nat) (r : ArrRun) : Dev := modArr (showPos d a r) a (fun x => { x with run := some r })

/-- The end of the running invocation with a status: `BUSY` and `STOPPING` are cleared, `LAST_STATUS` set. -/
def endRun (d : Dev) (a status : Nat) : Dev :=
  let d := modArr d a (fun x => { x with run := none })
  setArr (setArr (setArr d a fldArrStatusBusy 0) a fldArrStatusStopping 0) a fldArrStatusLastStatus status

/-- The bytes of an operand of `n` units, from its first address to its last. -/
def operandExt (key : Bool) (unit : Nat → Nat × Nat × Nat) (n : Nat) : Nat :=
  match packRuns (ashCap key unit n) unit n 0 [] with
  | [] => 0
  | x :: xs => xs.length * ashCap key unit n + x.size

/-- Bytes of an accumulator region (R66, R74). -/
def accBytes (key : Bool) : Nat := if key then 0x500000 else 0x28000

/-- Whether a range lies in a span of the device space. -/
def inSpan (lo hi x n : Nat) : Bool := lo ≤ x && x + n ≤ hi

/-- Whether a descriptor's operands and accumulators lie where its array reaches them (R64, R66, R74; log entry 119): a brick's in its
core's store and its accumulator region in one core store; a keystone's stationary operand in the stationary region of its staging, or in the mortar when it does not fit there,
and its streaming operand in the mortar. A stationary operand fits when its tiles fit with their scales and range tables (R74). -/
def operandsPlaced (a : Nat) (e : ArrDesc) : Bool :=
  let key := arrIsKey a
  let tables := 4 * e.rows key * ceilDiv e.k e.chunk
  let lo := if key then stagingAddr (a - 384) 0 else storeAddr (arrCore a) 0
  e.used.all (fun p =>
    let st := operandExt key (statUnit e key) (e.tiles key)
    let sm := operandExt key (strmUnit e key) (e.segs * e.groups key)
    if key then
      (if st + tables ≤ 0x300000 then inSpan lo (lo + 0x300000) p.1.2.1 st else inSpan mortarBase mortarEnd p.1.2.1 st) &&
        inSpan mortarBase mortarEnd p.1.2.2.1 sm
    else inSpan lo (lo + 0x400000) p.1.2.1 st && inSpan lo (lo + 0x400000) p.1.2.2.1 sm) &&
    (key || inSpan (e.acc / 0x400000 * 0x400000) (e.acc / 0x400000 * 0x400000 + 0x400000) e.acc (accBytes key) &&
      inSpan storeBase storeEnd e.acc (accBytes key))

/-- The status a descriptor's accesses end the context with: every operand and output of every problem, and the accumulator region
(R231, R294). -/
def arrAccess (d : Dev) (e : ArrDesc) (key : Bool) (w : Who) : Option Nat :=
  (accessErr d w true e.acc (accBytes key)).or
  (e.used.findSome? (fun p =>
    let (m, st, sm, ai, out) := p.1
    (accessErr d w false st (operandExt key (statUnit e key) (e.tiles key))).or
      ((accessErr d w false sm (operandExt key (strmUnit e key) (e.segs * e.groups key))).or
        (((if e.attr.accFmt = 0 then none else accessErr d w false ai ((m * e.n * (accElem e.attr.accFmt).bits + 7) / 8))).or
          (accessErr d w true out (outBytes e.attr m e.n))))))

/-- Who the work of `ARR_CTX` acts for. -/
def arrWho (cls inst ctx : Nat) : Who := if cls = 0 then .slot else .ctx inst ctx

/-- The status with which an invocation's request or context ends at an array: request-ended or context-fatal
(R431). -/
def arrFail (d : Dev) (a inst ctx cls status : Nat) (addr : Nat) : Dev :=
  if cls = 0 then record d { status := status, inst := inst, ctx := ctx, addr := addr, detail := arrDetail d a }
  else if status / 4096 = 4 then endCtx d inst ctx status addr (arrDetail d a)
  else endRequest d inst ctx status addr (arrDetail d a)

/-- Reads the shadowed registers that a GO commits and the descriptor, and forms an invocation (R79, R90); the class of a context's work is the
context's (R202). -/
def newRun (d : Dev) (a : Nat) (addr : Nat) : ArrRun :=
  let i := fget d (regArrCtx a) fldArrCtxInstance
  let c := fget d (regArrCtx a) fldArrCtxContext
  let k := fget d (regArrCtx a) fldArrCtxWorkClass
  { addr := addr, desc := devRead d addr 192, inst := i, ctx := c, cls := if k = 0 ∨ !(ctxSt d i c).live then k else (ctxSt d i c).cls,
    step := (ctxSt d i c).lastStep.getD 0, save := getReg d (regArrSaveBase a) }

/-- Why an invocation is turned away at its submission (R21, R79, R231): its descriptor cannot be read, or breaks a rule, or slot work is
given to a brick of a core that is not reserved. -/
def submitErr (d : Dev) (a : Nat) (r : ArrRun) : Option Nat :=
  match accessErr d (arrWho r.cls r.inst r.ctx) false r.addr 192 with
  | some st => some st
  | none =>
    let e := arrDesc a r.desc
    if arrDescOk e (arrIsKey a) r.cls && operandsPlaced a e && (r.cls != 0 || slotHeld d (arrCore a)) then none else some 0x3A07

/-- An invocation that ends before it starts: its status is recorded and stands in `LAST_STATUS`. -/
def refuseRun (d : Dev) (a : Nat) (r : ArrRun) (status addr : Nat) : Dev :=
  setArr (arrFail d a r.inst r.ctx r.cls status addr) a fldArrStatusLastStatus status

/-- Starts an invocation on an idle array (R65, R90): a bad descriptor does no work and ends with 0x3A07, a refused access ends the
context; else the load of its first tile begins. `SAVED` returns to 0 here (DESIGN CHOICE, log entry 67). -/
def startRun (d : Dev) (a : Nat) (r : ArrRun) : Dev :=
  let key := arrIsKey a
  let e := arrDesc a r.desc
  let d := setArr (setArr d a fldArrStatusFault 0) a fldArrStatusSaved 0
  match submitErr d a r with
  | some st => refuseRun d a r st r.addr
  | none =>
    match arrAccess d e key (arrWho r.cls r.inst r.ctx) with
    | some st => refuseRun d a r st r.addr
    | none =>
      let r := { r with acc := groupAcc d e key 0, active := none, back := some (loadTile d e key 0), since := tb2 d }
      islandWork (showPos (setArr (modArr (showAcc d e key r 0) a (fun x => { x with run := some r })) a fldArrStatusBusy 1) a r) (arrIsland a)

/-- A symbol error corrected in an array's memories (R88): recorded, with no other effect. -/
def arrCorrected (d : Dev) (a : Nat) (fixed : Bool) : Dev :=
  if fixed then
    match (arrSt d a).run with
    | none => d
    | some r => record d { status := 0x2202, inst := r.inst, ctx := r.ctx, addr := r.addr, detail := arrDetail d a }
  else d

/-- The completion of the running invocation (R66, R68, R78, R88): the rest streams, the last group rounds and writes;
invalid metadata ends it with 0x3203, poison with 0x3204. -/
def arrComplete (d : Dev) (a : Nat) : Dev :=
  match (arrSt d a).run with
  | none => d
  | some r =>
    let key := arrIsKey a
    let e := arrDesc a r.desc
    let (d, r) := slotsWhile a e (fun _ => true) (slotBound e key) d r
    if r.bad then endRun (arrFail (showPos d a r) a r.inst r.ctx r.cls 0x3203 r.addr) a 0x3203
    else
      let (d, r) := writeGroup d e key (foldWindows r) (e.groups key - 1)
      let d := showPos d a r
      if r.poison then endRun (arrFail d a r.inst r.ctx r.cls 0x3204 r.addr) a 0x3204
      else endRun d a 0

/-- The swap of the register sets (R65): the columns of the current visit that have not entered enter, and with the last of them the
background tile becomes active and the next load starts. The first swap of an invocation only makes its first tile active. -/
def arrSwap (d : Dev) (a : Nat) : Dev :=
  match (arrSt d a).run with
  | none => d
  | some r =>
    let key := arrIsKey a
    let e := arrDesc a r.desc
    if r.active.isNone then keepRun d a (if allEntered e key r then r else swapTile d e key r)
    else
      let (d, r') := slotsWhile a e (fun x => x.group == r.group && x.dtile == r.dtile) (5 * groupCols key) d r
      let d := keepRun d a r'
      if r'.bad then arrComplete d a else d

/-! ### Saves and resumes (R81-R85) -/

/-- Whether the chunk of the current depth tile goes on beyond it (R82). -/
def chunkGoesOn (e : ArrDesc) (key : Bool) (r : ArrRun) : Bool :=
  !e.whole key && r.dtile + 1 < e.tiles key && e.chunkOf key (r.dtile + 1) == e.chunkOf key r.dtile

/-- Passes saved (R82): those of the current chunk, over the columns of the group, when it goes on beyond the current depth tile. -/
def savedPasses (e : ArrDesc) (key : Bool) (r : ArrRun) : Nat :=
  if chunkGoesOn e key r then (List.range (e.cols key r.group)).foldl (fun m c => max m (colPasses e key r c)) 1 else 0

/-- The bytes of a save area (R82, R84): header, windows by pass, column and row, accumulators by column and row. -/
def saveBytes (e : ArrDesc) (key : Bool) (r : ArrRun) : List Byte :=
  let rows := e.rows key
  let cols := e.cols key r.group
  let np := savedPasses e key r
  let hdr := natLe 2 1 ++ natLe 1 (b2n key) ++ natLe 1 np ++ natLe 4 (e.chunkOf key r.dtile) ++ natLe 8 r.addr
    ++ natLe 4 r.group ++ natLe 4 r.dtile ++ natLe 1 r.column ++ natLe 1 r.pass ++ natLe 6 0 ++ natLe 8 r.step
    ++ natLe 8 r.wide ++ natLe 16 0
  let wins := (List.range np).flatMap (fun p => (List.range cols).flatMap (fun c =>
    (List.range rows).flatMap (fun m =>
      let (an, x) := tget (-288, {}) r.win (winKey p c m)
      natLe 24 (partialNat (x.x.acc / 2 ^ (an + 288).toNat) an x.x))))
  let accs := (List.range cols).flatMap (fun c => (List.range rows).flatMap (fun m =>
    natLe 80 (tget {} r.acc (accKey c m)).x.toNat))
  hdr ++ wins ++ accs

/-- The places in a save area of its poisoned windows and accumulators, each with its bytes (R109). -/
def savePoison (e : ArrDesc) (key : Bool) (r : ArrRun) : List (Nat × Nat) :=
  let rows := e.rows key
  let cols := e.cols key r.group
  let at_ := fun (c m n : Nat) => (c * rows + m) * n
  let acc0 := 64 + savedPasses e key r * cols * rows * 24
  (r.win.filter (fun p => p.2.2.poison)).map (fun p =>
    (64 + p.1 / 131072 * cols * rows * 24 + at_ (p.1 / 512 % 256) (p.1 % 512) 24, 24)) ++
  (r.acc.filter (fun p => p.2.poison)).map (fun p => (acc0 + at_ (p.1 / 512) (p.1 % 512) 80, 80))

/-- The index in its run of the ashlar that holds the segment being streamed. -/
def strmAshlar (e : ArrDesc) (key : Bool) (r : ArrRun) : Nat :=
  (unitPlace key (strmUnit e key) (e.segs * e.groups key) (r.group * e.segs + r.dtile * e.depth key / 256)).1

/-- The write of a save area (R82 steps 3 and 4): the invocation ends with `SAVED` set, or, when its save area may not be written, with
the status of that access. A poisoned window or accumulator is written poisoned (R109). -/
def writeSave (d : Dev) (a : Nat) (r : ArrRun) : Dev :=
  let e := arrDesc a r.desc
  let bs := saveBytes e (arrIsKey a) r
  let base := getAct d (regArrSaveBase a)
  match accessErr d (arrWho r.cls r.inst r.ctx) true base bs.length with
  | some st => endRun (arrFail d a r.inst r.ctx r.cls st base) a st
  | none =>
    let d := devWrite d base bs false
    let d := (savePoison e (arrIsKey a) r).foldl (fun d p => markPoison d (base + p.1) 0 (8 * p.2)) d
    setArr (endRun d a 0) a fldArrStatusSaved 1

/-- A write of STOP (R81, R82, R89): `n` more columns enter up to a column boundary, or the rest of the streaming ashlar's with
`STOP_AT` = 1; then the save area is written. A C16 invocation goes on to its completion, where the held stop lapses (R80; DESIGN
CHOICE, log entry 68), and so does one whose last column has entered. `err` 1 is a corrected error meanwhile, 2 an uncorrectable one
during the save, which ends the context with 0x4205 and leaves no valid save. -/
def arrStop (d : Dev) (a stopAt n : Nat) (err : Nat := 0) : Dev :=
  let d := fset d (regArrCtrl a) fldArrCtrlStopAt stopAt
  match (arrSt d a).run with
  | none => d
  | some r =>
    let key := arrIsKey a
    let e := arrDesc a r.desc
    if fget d (regArrStatus a) fldArrStatusStopping = 1 then d
    else if e.cls = 3 then setArr d a fldArrStatusStopping 1
    else
      let ash := strmAshlar e key r
      let d := arrCorrected d a (err == 1)
      let (d, r) := if stopAt = 1 then
          slotsWhile a e (fun x => strmAshlar e key x == ash) (slotBound e key) d r
        else slotsWhile a e (fun _ => true) n d r
      if allEntered e key r || r.bad then keepRun d a r
      else
        let r := if chunkGoesOn e key r then scanChunk d e key r else foldWindows r
        let r := { r with step := (ctxSt d r.inst r.ctx).step }
        let d := setArr (modArr (showPos d a r) a (fun x => { x with queued := none })) a fldArrStatusQueued 0
        if err = 2 then setArr (arrFail (endRun d a 0x4205) a r.inst r.ctx r.cls 0x4205 r.addr) a fldArrStatusFault 1
        else writeSave (showAcc d e key r r.group) a r

/-- Whether an output of the groups before `g` was written poisoned: the invocation had consumed poison by then (R88). -/
def earlierPoison (d : Dev) (e : ArrDesc) (key : Bool) (g : Nat) : Bool :=
  let n := g * groupCols key
  let bits := (outElem e.attr.outFmt e.attr.mxElem).bits
  n != 0 && e.used.any (fun p => (List.range p.1.1).any (fun m => (elemAt d p.1.2.2.2.2 (bits * (m * e.n)) (bits * n)).2))

/-- The invocation that the save area of `r0` at `base` continues, or none when it is unusable, as one whose descriptor is invalid or
may not be read (R85; log entry 65). A share that moves off a fenced core takes the descriptor of `r0`, `own`, in place of the header's (R86). -/
def loadSave (d : Dev) (a : Nat) (r0 : ArrRun) (base : Nat) (own : Bool := false) : Option ArrRun :=
  let key := arrIsKey a
  let w := arrWho r0.cls r0.inst r0.ctx
  if (accessErr d w false base 64).isSome || isPoisoned d base 64 then none
  else if devNat d base 2 ≠ 1 ∨ devNat d (base + 2) 1 ≠ b2n key then none
  else
    let r := if own then { r0 with from_ := some base } else
      { r0 with addr := devNat d (base + 8) 8, desc := devRead d (devNat d (base + 8) 8) 192, from_ := some base }
    let e := arrDesc a r.desc
    if (submitErr d a r).isSome then none
    else
      let g := devNat d (base + 16) 4
      let np := devNat d (base + 3) 1
      let rows := e.rows key
      let cols := e.cols key g
      let acc0 := base + 64 + np * cols * rows * 24
      if (accessErr d w false base (acc0 + cols * rows * 80 - base)).isSome || e.groups key ≤ g then none
      else
        let cells := (List.range cols).flatMap (fun c => (List.range rows).map (fun m => (c, m)))
        let at_ := fun (c m n : Nat) => (c * rows + m) * n
        let dt := devNat d (base + 20) 4
        some { r with
          group := g
          dtile := dt
          column := devNat d (base + 24) 1
          pass := devNat d (base + 25) 1
          step := devNat d (base + 32) 8
          wide := devNat d (base + 40) 8
          poison := earlierPoison d e key g
          active := none
          back := some (loadTile d e key dt)
          win := (List.range np).flatMap (fun p => cells.map (fun x =>
            let o := base + 64 + p * cols * rows * 24 + at_ x.1 x.2 24
            let v := devNat d o 24
            (winKey p x.1 x.2, toSigned 16 (bitsAt v 160 16), { x := Exa.ofPartial v, poison := isPoisoned d o 24 })))
          acc := cells.map (fun x =>
            let o := acc0 + at_ x.1 x.2 80
            (accKey x.1 x.2, { x := Exa.ofNat (devNat d o 80), poison := isPoisoned d o 80 })) }

/-- Starts a resume on an idle array (R85): the invocation goes on from its save area with its saved depth tile loading again (R82), or
the context ends with 0x4206. -/
def resumeRun (d : Dev) (a : Nat) (r0 : ArrRun) (base : Nat) (own : Bool := false) : Dev :=
  let d := setArr (setArr d a fldArrStatusFault 0) a fldArrStatusSaved 0
  match loadSave d a r0 base own with
  | none => refuseRun d a r0 0x4206 base
  | some r =>
    match arrAccess d (arrDesc a r.desc) (arrIsKey a) (arrWho r.cls r.inst r.ctx) with
    | some st => refuseRun d a r st base
    | none =>
      islandWork (showPos (setArr (modArr d a (fun x => { x with run := some { r with since := tb2 d } })) a fldArrStatusBusy 1) a r) (arrIsland a)

/-- Starts an invocation, fresh or from a save area. -/
def beginRun (d : Dev) (a : Nat) (r : ArrRun) : Dev :=
  match r.from_ with
  | none => startRun d a r
  | some base => resumeRun d a r base

/-- Puts the values that an invocation was committed with in force (R10, R90). -/
def forceRun (d : Dev) (a : Nat) (r : ArrRun) : Dev :=
  setAct (setAct (setAct d (regArrDescBase a) r.addr) (regArrSaveBase a) r.save) (regArrCtx a)
    (r.cls * 2048 + r.inst * 16 + r.ctx)

/-! ### Shares of a fenced unit (R86, R438) -/

/-- Copies bytes with their poison to another place. -/
def devCopy (d : Dev) (src dst n : Nat) : Dev := if src = dst then d else copyBytes d src dst n

/-- The unit of an array: core c, or 96 + n for keystone n. -/
def arrUnit (a : Nat) : Nat := if arrIsKey a then 96 + (a - 384) else arrCore a

/-- Whether a unit is left to a context: no prompt context occupies it, or this one does (R218). -/
def unitLeft (d : Dev) (i x u : Nat) : Bool := (tget? d.taken u).all (· == (i, x))

/-- Whether an array is idle and serves a context's work. -/
def arrFree (d : Dev) (i x a : Nat) : Bool :=
  arrOn d a && (arrSt d a).run.isNone && (arrSt d a).queued.isNone && unitLeft d i x (arrUnit a) &&
    (if arrIsKey a then keyPlaced d i x (a - 384) else coreServes d i x (arrCore a))

/-- The array that takes a share: the lowest idle one of its kind that serves its context (DESIGN CHOICE, log entry 120). -/
def arrFor (d : Dev) (key : Bool) (i x : Nat) : Option Nat :=
  (if key then [384, 385, 386, 387] else List.range 384).find? (arrFree d i x)

/-- Whether a device offset lies in the memory that went with the unit of array `o`: its core's store, or its keystone's staging. -/
def wentWith (o x : Nat) : Bool :=
  if arrIsKey o then inSpan (stagingAddr (o - 384) 0) (stagingAddr (o - 384) 0x800000) x 1
  else inSpan (storeAddr (arrCore o) 0) (storeAddr (arrCore o) 0x400000) x 1

/-- Where what lay in the memory of array `o` lies when its share runs on array `a`: at the same offset of that array's (log entry 120). -/
def moveAddr (o a x : Nat) : Nat := if wentWith o x then ownAddr a x else x

/-- The descriptor of a share of array `o` for array `a`: its addresses moved. -/
def moveDesc (o a : Nat) (bs : List Byte) : List Byte :=
  [0x10, 0x28, 0x30, 0x38, 0x40, 0x50, 0x58, 0x60, 0x68, 0x78, 0x80, 0x88, 0x90, 0xA0, 0xA8, 0xB0, 0xB8].foldl (fun bs f =>
    bs.take f ++ natLe 8 (moveAddr o a (fieldLe bs f 8)) ++ bs.drop (f + 8)) bs

/-- Runs a share of array `o` on array `a` (R86): what lay in the fenced unit's memory, its operands, accumulate-in, outputs and descriptor, is
placed again at the same offsets there, and it resumes from its last save when that and its accumulator region did not go with a fenced
core, else it starts from its first column group. -/
def runShare (d : Dev) (o a : Nat) (r : ArrRun) : Dev :=
  let key := arrIsKey a
  let eo := arrDesc o r.desc
  let desc := moveDesc o a r.desc
  let en := arrDesc a desc
  let d := (eo.used.zip en.used).foldl (fun d p =>
    let (m, st, sm, ai, out) := p.1.1
    let (_, st', sm', ai', out') := p.2.1
    let d := devCopy d st st' (operandExt key (statUnit eo key) (eo.tiles key))
    let d := devCopy d sm sm' (operandExt key (strmUnit eo key) (eo.segs * eo.groups key))
    let d := if eo.attr.accFmt = 0 then d else devCopy d ai ai' ((m * eo.n * (accElem eo.attr.accFmt).bits + 7) / 8)
    devCopy d out out' (outBytes eo.attr m eo.n)) d
  let d := if desc = r.desc ∧ !wentWith o r.addr then d else devWrite d (moveAddr o a r.addr) desc false
  let fresh : ArrRun := { addr := moveAddr o a r.addr, desc := desc, inst := r.inst, ctx := r.ctx, cls := r.cls, save := moveAddr o a r.save, step := r.step }
  let d := forceRun d a fresh
  match r.from_ with
  | some base =>
    if !arrOn d o && (wentWith o base || (!key && wentWith o eo.acc)) then startRun d a fresh
    else resumeRun d a { fresh with from_ := some base } base true
  | none => startRun d a fresh

/-- Places the shares of fenced and of pre-empted arrays that wait, as far as arrays are idle (R86, R219). -/
def placeShares : List (Nat × ArrRun) → Dev → Dev
  | [], d => d
  | (o, r) :: rest, d =>
    match arrFor d (arrIsKey o) r.inst r.ctx with
    | none => placeShares rest { d with shares := d.shares ++ [(o, r)] }
    | some a => placeShares rest (runShare d o a r)

/-- Takes what an array ran and had queued off it at the fence of its unit (R86, R438): invocations of contexts are placed again on
other arrays. -/
def arrFence (d : Dev) (a : Nat) : Dev :=
  let x := arrSt d a
  let rs := (x.run.toList ++ x.queued.toList).filter (fun r => r.cls != 0 && (ctxSt d r.inst r.ctx).ending.isNone)
  let d := modArr d a (fun _ => {})
  let d := setArr (setArr (setArr d a fldArrStatusBusy 0) a fldArrStatusQueued 0) a fldArrStatusStopping 0
  { d with shares := d.shares ++ rs.map (fun r => (a, r)) }

/-! ### Commands -/

/-- The write of GO, with or without RESUME (R79, R85, R90). An idle array puts the shadowed fields in force and starts. A busy one
keeps those in force and queues the commit with its values; its descriptor is checked now. A GO while one is queued is discarded. -/
def arrGo (d : Dev) (a : Nat) (resume : Bool) : Dev :=
  if !arrOn d a then d
  else if (arrSt d a).queued.isSome then
    cfgReject d (regArrStatus a) fldArrStatusCfgReject 0x1201 (regArrCtrl a) (arrDetail d a)
  else
    let r := newRun d a (getReg d (regArrDescBase a))
    let r := if resume then { r with from_ := some r.save } else r
    if (arrSt d a).run.isSome then
      match (if resume then none else submitErr d a r) with
      | some st => refuseRun d a r st r.addr
      | none => setArr (modArr d a (fun x => { x with queued := some r })) a fldArrStatusQueued 1
    else beginRun (forceRun d a r) a r

/-- The start of a queued invocation once the running one's last column has entered (R90): its committed values come into force. -/
def arrQueuedStart (d : Dev) (a : Nat) : Dev :=
  match (arrSt d a).queued with
  | none => d
  | some r =>
    let d := setArr (modArr (arrComplete d a) a (fun x => { x with queued := none })) a fldArrStatusQueued 0
    beginRun (forceRun d a r) a r

/-- A parity or uncorrectable error in array state (R88): the pass is abandoned and the context torn down. -/
def arrStateLost (d : Dev) (a : Nat) : Dev :=
  match (arrSt d a).run with
  | none => d
  | some r =>
    let d := endRun d a 0x4205
    setArr (arrFail d a r.inst r.ctx r.cls 0x4205 r.addr) a fldArrStatusFault 1

end Sys2Proof.Machine
end

