-- ==== Sys2Proof/Machine/SlotTimer.lean ====
section
/-!
DEFINITION. The slot timer (R348, R349). Slot times are TB0 in 125 ps units plus a whole number of SFN cycles, so that they are natural
numbers before the GPS epoch too.
-/

namespace Sys2Proof.Machine

/-- The whole SFN cycles added to TB0, in 125 ps units. -/
def cycleBase : Nat := 2 ^ 40 * 1024 * 80000000

/-- TB0 as a slot time. -/
def slotNow (d : Dev) : Nat := tbTime d 0 + cycleBase

/-- The numerology of a `MU` code (R176). -/
def muOf (code : Nat) : Nat := if code = 2 then 3 else code

/-- The slot time at which frame 0 starts (R348). -/
def frameZero (d : Dev) : Nat := 315964819 * subPerSec + fget d regTimeFrame fldTimeFrameFrameOff

/-- The frame that holds a slot time; its SFN is the number modulo 1,024 (R348). -/
def frameOf (d : Dev) (t : Nat) : Nat := (t - frameZero d) / 80000000

/-- The slot of numerology `mu` in its frame that holds a slot time (R348). -/
def slotOf (d : Dev) (mu t : Nat) : Nat := (t - frameZero d) % 80000000 * 2 ^ mu / 8000000

/-- When a slot starts (R348). -/
def slotStart (d : Dev) (mu frame slot : Nat) : Nat := frameZero d + frame * 80000000 + slot * 8000000 / 2 ^ mu

/-- When symbol `i` of a half-subframe starts in it, in 125 ps units (R349). -/
def symbolStart (mu i : Nat) : Nat :=
  if i = 0 then 0 else ((1024 + i * 140288 / 2 ^ mu) * 3125 * 2 + 768) / (2 * 768)

/-- When symbol `k` of a slot starts (R349); symbol 14 is the first of the next slot. -/
def symTime (d : Dev) (mu frame slot k : Nat) : Nat :=
  let n := slot * 14 + k
  frameZero d + frame * 80000000 + n / (7 * 2 ^ mu) * 4000000 + symbolStart mu (n % (7 * 2 ^ mu))

/-- The frame nearest to the present one that has an SFN (R348). -/
def frameNear (d : Dev) (sfn : Nat) : Nat :=
  let f := frameOf d (slotNow d)
  let up := (sfn + 1024 - f % 1024) % 1024
  if up < 512 then f + up else f + up - 1024

/-- Slots in a frame. -/
def slotsPerFrame (mu : Nat) : Nat := 10 * 2 ^ mu

end Sys2Proof.Machine
end

