-- ==== Sys2Proof/Machine/Fapi.lean ====
section
/-!
DEFINITION. FAPI channels and indications (R190-R198), what is known of each slot of a carrier, soft-buffer slots (R168-R171) and the
reports of lost work (R173). Message types are those of SCF FAPI (PRESUMED, log entry 57); bodies are opaque (log entry 58).
-/

namespace Sys2Proof.Machine

/-- Changes the slot planner's state. -/
def modSp (d : Dev) (f : Planner → Planner) : Dev := { d with sp := f d.sp }

/-! ### Message types and error kinds of SCF FAPI -/

/-- The type of each message of Table: FAPI messages. -/
def msgParamReq : Nat := 0x00
/-- PARAM.response. -/
def msgParamRsp : Nat := 0x01
/-- CONFIG.request. -/
def msgConfigReq : Nat := 0x02
/-- CONFIG.response. -/
def msgConfigRsp : Nat := 0x03
/-- START.request. -/
def msgStartReq : Nat := 0x04
/-- STOP.request. -/
def msgStopReq : Nat := 0x05
/-- STOP.indication. -/
def msgStopInd : Nat := 0x06
/-- ERROR.indication. -/
def msgErrorInd : Nat := 0x07
/-- DL_TTI.request. -/
def msgDlTti : Nat := 0x80
/-- UL_TTI.request. -/
def msgUlTti : Nat := 0x81
/-- UL_DCI.request. -/
def msgUlDci : Nat := 0x83
/-- TX_Data.request. -/
def msgTxData : Nat := 0x84
/-- RX_Data.indication. -/
def msgRxData : Nat := 0x85
/-- CRC.indication. -/
def msgCrc : Nat := 0x86
/-- UCI.indication. -/
def msgUci : Nat := 0x87
/-- SRS.indication. -/
def msgSrs : Nat := 0x88
/-- RACH.indication. -/
def msgRach : Nat := 0x89

/-- The error kinds that the device answers with: MSG_OK, MSG_INVALID_STATE, MSG_INVALID_CONFIG, MSG_INVALID_SFN, MSG_TX_ERR. -/
def errOk : Nat := 0
/-- MSG_INVALID_STATE. -/
def errState : Nat := 1
/-- MSG_INVALID_CONFIG. -/
def errConfig : Nat := 2
/-- MSG_INVALID_SFN. -/
def errSfn : Nat := 6
/-- MSG_TX_ERR. -/
def errTx : Nat := 8

/-- The indication that reports an uplink PDU of a kind. -/
def indOf (kind : Nat) : Nat := if kind = 0 then msgCrc else if kind = 1 then msgUci else if kind = 2 then msgRach else msgSrs

/-! ### Carriers -/

/-- The carrier as admitted, if it is. -/
def carOf (d : Dev) (n : Nat) : Option AdmCar := d.sp.cars.find? (fun c => c.carrier == n)

/-- `STATE` of a carrier. -/
def carState (d : Dev) (n : Nat) : Nat := fget d (regRadioCarStatus n) fldRadioCarStatusState

/-- The numerology of a carrier. -/
def carMu (d : Dev) (n : Nat) : Nat := muOf (fget d (regRadioCarCfg n) fldRadioCarCfgMu)

/-- Antennas of a carrier kind (R146). -/
def kindAnts (k : Nat) : Nat := if k = 1 then 64 else if k = 3 then 2 else 4

/-- Load units of a carrier kind (R146). -/
def kindUnits (k : Nat) : Nat := if k = 0 then 30 else if k = 1 then 240 else if k = 2 then 15 else 120

/-- Soft-buffer slot size of a carrier kind in MiB (R146). -/
def kindSlotMib (k : Nat) : Nat := if k = 0 then 4 else if k = 1 then 8 else 2

/-! ### Channels and their rings in host memory (R193-R197) -/

/-- The channel that names a carrier. -/
def chanOf (d : Dev) (n : Nat) : Option Nat := (d.sp.chans.find? (fun p => bitOf p.2.cars n)).map (fun p => p.1)

/-- Changes a channel. -/
def modChan (d : Dev) (ch : Nat) (f : FapiCh → FapiCh) : Dev :=
  match tget? d.sp.chans ch with
  | none => d
  | some c => modSp d (fun s => { s with chans := tset s.chans ch (f c) })

/-- Writes a 32-bit count of a ring header. -/
def hdrPut (d : Dev) (base off v : Nat) : Dev := hostWrite d (base + off) (natLe 4 v)

/-- The radio detail of a record (R428). -/
def radioDetail (carrier frame slot core : Nat) : Nat := carrier + frame % 1024 * 2 ^ 16 + slot * 2 ^ 32 + core * 2 ^ 40

/-- The fronthaul detail of a record (R428). -/
def fhuDetail (d : Dev) (carrier chan : Nat) : Nat :=
  carrier + fget d (regFhuCarNet carrier) fldFhuCarNetPort * 2 ^ 16 + chan * 2 ^ 32

/-- Raises a channel's vector, at most once per symbol tick (R195). -/
def chanIrq (d : Dev) (ch : Nat) (c : FapiCh) : Dev :=
  if c.raised then modChan d ch (fun x => { x with waits := true })
  else modChan (raiseVector d 0 c.vector) ch (fun x => { x with raised := true })

/-- Whether two byte ranges of the arena meet. -/
def overlaps (a n b m : Nat) : Bool := decide (a < b + m) && decide (b < a + n)

/-- Where a body of `n` bytes goes in a channel's arena, if it has room (R195): after the last one, else at its start. -/
def arenaPlace (c : FapiCh) (n : Nat) : Option Nat :=
  let p := if c.pos + n ≤ c.arenaLen then c.pos else 0
  if c.arenaLen < n ∨ c.held.any (fun h => overlaps p n h.2.1 h.2.2) then none else some p

/-- A vendor TLV (R191, R192): tag, length in bytes, value. -/
structure Tlv where
  tag : Nat
  len : Nat
  val : Int
  deriving DecidableEq, Repr

/-- The bytes of a TLV: 16-bit tag and length, and the value padded to 4 bytes (R191). -/
def Tlv.bytes (t : Tlv) : List Byte := natLe 2 t.tag ++ natLe 2 t.len ++ natLe 4 (ofSigned (8 * t.len) t.val)

/-- The TLV of the device status (R192). -/
def tlvStatus (status : Nat) : Tlv := { tag := 0xA001, len := 2, val := status }

/-- Whether a range of host memory lies in a page of a FAPI region that is not resident: an access to it faults (R193). -/
def hostAway (d : Dev) (a n : Nat) : Bool := d.sp.away.any (fun p => decide (p * 4096 < a + n) && decide (a < p * 4096 + 4096))

/-- An indication is dropped (R193, R197): `DROPPED` counts it, with one record for each channel and slot. -/
def dropInd (d : Dev) (ch : Nat) (c : FapiCh) (carrier frame slot : Nat) : Dev :=
  let d := hdrPut d c.ind 8 (hostNat d (c.ind + 8) 4 + 1)
  let key := (frameNear d (frame % 1024), slot)
  if c.dropAt.contains key then d
  else record (modChan d ch (fun x => { x with dropAt := key :: x.dropAt })) { status := 0x1808, inst := 0, detail := fhuDetail d carrier ch }

/-- Writes an indication (R191, R195): its body, which begins with the message count of 1 and ends with its vendor TLVs, its entry, `TAIL` and
vector; a full ring or arena, or an access that faults, drops it, with one record for each channel and slot (R193, R197). -/
def indicate (d : Dev) (ch msg carrier frame slot status : Nat) (content : List Nat) (tlvs : List Tlv) : Dev :=
  match tget? d.sp.chans ch with
  | none => d
  | some c =>
    let body := 1 :: Config.fapiBody (msg :: carrier :: frame % 1024 :: slot :: status :: content) ++ tlvs.flatMap Tlv.bytes
    let place := fun (c : FapiCh) => c.ind + 128 + 64 * (c.prod % 2 ^ c.indLog)
    let head := hostNat d (c.ind + 0x40) 4
    let used := (c.prod + 2 ^ 32 - head) % 2 ^ 32
    let c := { c with held := c.held.filter (fun h => decide ((c.prod + 2 ^ 32 - h.1) % 2 ^ 32 ≤ used)) }
    let room := (if 2 ^ c.indLog ≤ used then none else arenaPlace c body.length).filter (fun p =>
      !hostAway d (c.arena + p) body.length && !hostAway d (place c) 64 && !hostAway d c.ind 128)
    match room with
    | none => dropInd d ch c carrier frame slot
    | some p =>
      let d := hostWrite d (c.arena + p) body
      let entry := natLe 2 msg ++ natLe 2 carrier ++ natLe 2 (frame % 1024) ++ natLe 1 slot ++ natLe 1 0 ++ natLe 4 body.length
        ++ natLe 2 status ++ natLe 2 0 ++ natLe 8 (c.arena + p) ++ natLe 40 0
      let d := hostWrite d (place c) entry
      let prod := (c.prod + 1) % 2 ^ 32
      let d := hdrPut d c.ind 0 prod
      let c := { c with prod := prod, pos := p + body.length, held := c.held ++ [(c.prod, p, body.length)] }
      let d := modChan d ch (fun _ => c)
      chanIrq (emit d (.indication ch msg carrier (frame % 1024) slot status (content ++ tlvs.flatMap (fun t => [t.tag, ofSigned (8 * t.len) t.val])))) ch c

/-- An ERROR.indication with its vendor TLV 0xA001 (R192), and its record when `rec`. -/
def fapiErr (d : Dev) (ch carrier frame slot err status : Nat) (rec : Bool) : Dev :=
  let d := if rec then record d { status := status, inst := 0, detail := fhuDetail d carrier ch } else d
  indicate d ch msgErrorInd carrier frame slot status [err] [tlvStatus status]

/-- An indication on the channel of a carrier, if it has one. -/
def tellL2 (d : Dev) (msg carrier frame slot status : Nat) (content : List Nat) (tlvs : List Tlv) : Dev :=
  match chanOf d carrier with
  | none => d
  | some ch => indicate d ch msg carrier frame slot status content tlvs

/-! ### Measurements in indications (R161, R192) -/

/-- The standard field of a measurement: rounded to its resolution, ties towards +∞, and clamped; its invalid value where there is none. -/
def stdField (k : Nat) (m : Option Int) : Nat :=
  let (res, lo, hi, bad) := Config.scfField k
  match m with
  | none => bad
  | some v => ofSigned 32 (max lo (min hi ((2 * v + (res + 1)) / (2 * (res + 1)))))

/-- The standard fields of a set of measurements; an SRS has no carrier-frequency offset. -/
def Meas.fields (m : Meas) (srs : Bool) : List Nat :=
  [stdField 0 m.rsrp, stdField 1 m.sinr] ++ (if srs then [] else [stdField 2 m.cfo]) ++ [stdField 3 m.ns, stdField 4 m.ta]

/-- The vendor TLVs of a set of measurements: an unavailable one is omitted. -/
def Meas.tlvs (m : Meas) (srs : Bool) : List Tlv :=
  let one := fun (tag : Nat) (v : Option Int) => (v.map (fun x => ({ tag := tag, len := 2, val := x } : Tlv))).toList
  one 0xA002 m.rsrp ++ one 0xA003 m.sinr ++ (if srs then [] else one 0xA004 m.cfo) ++ one 0xA005 m.ns

/-- The UCI of a PDU (R154): the HARQ-ACK, SR and CSI values, each where it was detected. -/
structure Uci where
  ack  : Option Nat := none
  sr   : Option Nat := none
  csi  : Option Nat := none
  csi2 : Option Nat := none
  deriving DecidableEq, Repr

/-- A UCI field: its bits, whether it was not detected (for a HARQ-ACK: DTX), its value. -/
def uciField (bits : Nat) (v : Option Nat) : List Nat := if bits = 0 then [] else [bits, b2n v.isNone, v.getD 0]

/-- The contents of the UCI.indication of a PDU. -/
def uciContent (p : UlPdu) (u : Uci) : List Nat :=
  [p.idx, p.rnti] ++ uciField p.rx.ack u.ack ++ uciField p.rx.sr u.sr ++ uciField p.rx.csi u.csi ++ uciField p.rx.csi2 u.csi2
    ++ p.meas.fields false

/-- The contents of the CRC.indication of a transport block. -/
def crcContent (p : UlPdu) (fail : Bool) : List Nat := [p.idx, p.rnti, p.harq, b2n fail] ++ p.meas.fields false

/-! ### Slots -/

/-- Whether an entry is of a slot. -/
def SlotW.is (w : SlotW) (carrier frame slot : Nat) : Bool := w.carrier == carrier && w.frame == frame && w.slot == slot

/-- What is known of a slot. -/
def slotW (d : Dev) (carrier frame slot : Nat) : SlotW :=
  (d.sp.slots.find? (fun w => w.is carrier frame slot)).getD { carrier := carrier, frame := frame, slot := slot }

/-- Changes what is known of a slot. -/
def modSlot (d : Dev) (carrier frame slot : Nat) (f : SlotW → SlotW) : Dev :=
  modSp d (fun s => { s with slots := f (slotW d carrier frame slot) :: s.slots.filter (fun w => !(w.is carrier frame slot)) })

/-! ### Soft-buffer slots (R168-R171) -/

/-- The pages of a soft-buffer slot. -/
def softPages (d : Dev) (carrier s : Nat) : List Nat := tget [] d.sp.softPg (carrier * 64 + s)

/-- The binding of a triple. -/
def softBind (d : Dev) (carrier rnti harq : Nat) : Option SoftBind :=
  (tget [] d.sp.bound carrier).find? (fun b => b.rnti == rnti && b.harq == harq)

/-- Changes the bindings of a carrier. -/
def modBound (d : Dev) (carrier : Nat) (f : List SoftBind → List SoftBind) : Dev :=
  modSp d (fun s => { s with bound := tset s.bound carrier (f (tget [] s.bound carrier)) })

/-- Frees the slot of a triple. -/
def softFree (d : Dev) (carrier rnti harq : Nat) : Dev :=
  modBound d carrier (fun l => l.filter (fun b => !(b.rnti == rnti && b.harq == harq)))

/-- Sets the values of the slot of a triple to 0 (R171). -/
def softClear (d : Dev) (carrier rnti harq : Nat) : Dev :=
  match softBind d carrier rnti harq with
  | none => d
  | some b => (softPages d carrier b.slot).foldl (fun d p => modPage (devZero d p 2097152) p (fun e => { e with dirty := true })) d

/-- The binding with the oldest last write, the lowest slot on ties (R170). -/
def oldestBind : List SoftBind → Option SoftBind
  | [] => none
  | b :: l => match oldestBind l with
    | none => some b
    | some x => if b.last < x.last ∨ (b.last = x.last ∧ b.slot < x.slot) then some b else some x

/-- The slot that a triple's soft bits of a PUSCH in a slot use (R170): its own; for new data else a free one, or the oldest with 0x1706; none
for a retransmission without a binding. -/
def softTake (d : Dev) (carrier frame slot rnti harq : Nat) (newData : Bool) : Option Nat × Dev :=
  let now := tb2 d
  let l := tget [] d.sp.bound carrier
  match softBind d carrier rnti harq with
  | some b =>
    (some b.slot, modBound d carrier (fun l => l.map (fun x => if x.slot == b.slot then { x with last := now } else x)))
  | none =>
    if !newData then (none, d)
    else
      let n := fget d (regRadioCarCfg carrier) fldRadioCarCfgSoftSlots
      let bind := fun (d : Dev) (s : Nat) => modBound d carrier (fun l =>
        { slot := s, rnti := rnti, harq := harq, last := now } :: l.filter (fun x => x.slot != s))
      match (List.range n).find? (fun s => l.all (fun b => b.slot != s)) with
      | some s => (some s, bind d s)
      | none =>
        match oldestBind l with
        | none => (none, d)
        | some b => (some b.slot, bind (record d { status := 0x1706, inst := 0, detail := radioDetail carrier frame slot 0 }) b.slot)

/-- The pieces, as address and bytes, of `n` bytes from an offset of a soft-buffer slot, which may cross into its next page. -/
def softPieces (d : Dev) (carrier s off n : Nat) : List (Nat × Nat) :=
  let at_ := fun (o : Nat) => lget 0 (softPages d carrier s) (o / 2097152) + o % 2097152
  let first := min n (2097152 - off % 2097152)
  if first = n then [(at_ off, n)] else [(at_ off, first), (at_ (off + first), n - first)]

/-! ### Reports (R161, R173, R195, R198) -/

/-- Removes a reported PDU from its slot. -/
def dropPdu (d : Dev) (w : SlotW) (p : UlPdu) : Dev :=
  modSlot d w.carrier w.frame w.slot (fun w => { w with pdus := w.pdus.filter (fun x => x.idx != p.idx) })

/-- Reports an uplink PDU that failed for another reason than its CRC, with a status (R171, R173): a transport block as CRC failure, its soft
values cleared; UCI as DTX and CSI not detected; an SRS without a report, a PRACH occasion without preambles; measurements invalid. A
lost one carries vendor TLV 0xA007. -/
def reportLost (d : Dev) (w : SlotW) (p : UlPdu) (status : Nat) : Dev :=
  let d := if p.kind = 0 then softClear d w.carrier p.rnti p.harq else d
  let d := dropPdu d w p
  let p := { p with meas := {} }
  let tlvs := tlvStatus status :: (if status = 0x3704 then [{ tag := 0xA007, len := 1, val := 1 }] else [])
  let tell := fun (d : Dev) (msg : Nat) (body : List Nat) => tellL2 d msg w.carrier w.frame w.slot status body tlvs
  if p.kind = 0 then
    let d := tell d msgCrc (crcContent p true)
    if p.uci then tell d msgUci (uciContent p {}) else d
  else if p.kind = 1 then tell d msgUci (uciContent p {})
  else if p.kind = 2 then tell d msgRach [p.idx, 0]
  else tell d msgSrs (p.idx :: p.rnti :: p.meas.fields true)

/-- A slot miss (R173, R198): 0x3704 once per carrier and slot; the uplink PDUs whose work was lost are reported; a lost downlink is told
once. -/
def slotMiss (d : Dev) (carrier frame slot : Nat) (lost : UlPdu → Bool) (dl : Bool) : Dev :=
  let w := slotW d carrier frame slot
  let d := if w.missed then d
    else
      let d := modSlot d carrier frame slot (fun w => { w with missed := true })
      let d := fsat d regRadioMiss fldRadioMissMiss 1
      let d := fsat d (regRadioCarStatus carrier) fldRadioCarStatusMisses 1
      record d { status := 0x3704, inst := 0, detail := radioDetail carrier frame slot 0 }
  let d := (w.pdus.filter lost).foldl (fun d p => reportLost d w p 0x3704) d
  if dl && !w.dead then
    let d := modSlot d carrier frame slot (fun w => { w with dead := true })
    match chanOf d carrier with
    | none => d
    | some ch => fapiErr d ch carrier frame slot errTx 0x3704 false
  else d

/-- A task of the slot planner is lost (R173, R216): its uplink PDUs miss their slot; the symbols of a downlink task will not be ready at the
close of their windows, which is where their miss is found (R30). -/
def taskMiss (d : Dev) (t : Task) : Dev :=
  if t.uplink then slotMiss d t.carrier t.frame t.slot (fun p => t.pdus.contains p.idx) false
  else modSlot d t.carrier t.frame t.slot (fun w => { w with lost := true })

/-! ### Landing and mirror rings (R149, R189) -/

/-- The core-store offset and bytes of a reserved core's landing ring, in the twin-access region. -/
def landRing (c : Nat) : Nat × Nat := (64 * (Config.ringPlace c 0 % 2048), 64 * (Config.ringPlace c 1 % 2048 + 1))

/-- Those of its transmit ring, in the twin-access region. -/
def txRing (c : Nat) : Nat × Nat := (0x48000 + 64 * (Config.ringPlace c 4 % 1024), 64 * (Config.ringPlace c 5 % 1024 + 1))

/-- Those of its mirror ring, outside the twin-access region and below `LEND_BASE` (R149). -/
def mirrorRing (d : Dev) (c : Nat) : Nat × Nat :=
  let units := fget d (regCorePart c) fldCorePartLendBase * 4096 - 0x2000
  let first := Config.ringPlace c 2 % units
  if units = 0 then (0x80000, 0) else (0x80000 + 64 * first, 64 * (Config.ringPlace c 3 % (units - first) + 1))

/-- The records of a core's rings. -/
def ringsOf (d : Dev) (c : Nat) : CoreRings := tget {} d.sp.rings c

/-- Changes the records of a core's rings. -/
def modRings (d : Dev) (c : Nat) (f : CoreRings → CoreRings) : Dev := modSp d (fun s => { s with rings := tmod {} s.rings c f })

/-- The bytes that a list of records takes. -/
def recsLen (l : List LandRec) : Nat := (l.map (fun r => r.len)).sum

/-- Where the next record of a ring of `size` bytes goes: after its last one. -/
def ringNext (l : List LandRec) (size : Nat) : Nat :=
  match l.getLast? with
  | none => 0
  | some r => (r.off + r.len) % size

/-- Writes a record into a ring of a core, wrapping at its end. -/
def ringWrite (d : Dev) (c : Nat) (ring : Nat × Nat) (off : Nat) (bs : List Byte) : Dev :=
  let n := ring.2 - off
  let d := devWrite d (storeAddr c (ring.1 + off)) (bs.take n) false
  devWrite d (storeAddr c ring.1) (bs.drop n) false

/-- The bytes of a record in a ring of a core, and whether they hold poison. -/
def ringRead (d : Dev) (c : Nat) (ring : Nat × Nat) (r : LandRec) : List Byte × Bool :=
  let n := min r.len (ring.2 - r.off)
  let a := storeAddr c (ring.1 + r.off)
  let b := storeAddr c ring.1
  (devRead d a n ++ devRead d b (r.len - n), isPoisoned d a n || isPoisoned d b (r.len - n))

/-- Drops released records from the head of a ring. -/
def dropFree : List LandRec → List LandRec
  | [] => []
  | r :: l => if r.free then dropFree l else r :: l

/-- Poisons the words that a range of a ring of a core touches (R142, R172). -/
def ringMark (d : Dev) (c : Nat) (ring : Nat × Nat) (off n : Nat) : Dev :=
  let k := min n (ring.2 - off)
  { d with poison := (unitsIn (storeAddr c (ring.1 + off)) k ++ unitsIn (storeAddr c ring.1) (n - k)).foldl natPut d.poison }

/-- Copies records of a ring of one core into a ring of another, as far as that has room; a poisoned record stays poisoned. `sel` reads the
records of the second ring and `upd` changes them. -/
def copyRing (o : Nat) (oring : Nat × Nat) (s : Nat) (sring : Nat × Nat) (sel : CoreRings → List LandRec)
    (upd : CoreRings → List LandRec → CoreRings) (recs : List LandRec) (d : Dev) : Dev :=
  recs.foldl (fun d r =>
    let l := sel (ringsOf d s)
    if sring.2 < recsLen l + r.len then d
    else
      let off := ringNext l sring.2
      let (bs, p) := ringRead d o oring r
      let d := ringWrite d s sring off bs
      let d := if p then ringMark d s sring off r.len else d
      modRings d s (fun x => upd x (sel x ++ [{ r with off := off, free := false }]))) d

/-- A spare copies its uplink inputs from the pair partner (R149, R214): the symbols that it processes from the partner's mirror ring into its own
landing ring, and the partner's symbols from the partner's landing ring into its own mirror ring. -/
def copyMirror (d : Dev) (partner s : Nat) : Dev :=
  let x := ringsOf d partner
  copyRing partner (landRing partner) s (mirrorRing d s) (fun x => x.mirror) (fun x l => { x with mirror := l }) x.land
    (copyRing partner (mirrorRing d partner) s (landRing s) (fun x => x.land) (fun x l => { x with land := l }) x.mirror d)

end Sys2Proof.Machine
end

