-- ==== Sys2Proof/Machine/Trans.lean ====
section
/-!
DEFINITION. Correctly rounded FP32 functions of the vector and plinth units: sum, product, fused multiply-add,
quotient, reciprocal, reciprocal square root, exp, log, tanh and 2^f (R92, R239, R413, R414). The irrational ones
are formed in fixed point with 256 fraction bits and a sticky bit (log entry 14).
-/

namespace Sys2Proof.Machine

/-- Fraction bits of the fixed-point forms. -/
def fxP : Nat := 256

/-- The FP32 value with its flags, from an exact value. -/
def fp32 (v : Val) : Nat × Flags := roundVal .fp32 v

/-- A quotient of naturals times 2^`q` as a value that rounds as the exact quotient does: a sticky bit stands for
what the division cuts. -/
def ratVal (s : Bool) (num den : Nat) (q : Int) : Val :=
  let G := 96 + Nat.log2 den
  let t := num * 2 ^ G / den
  .fin s (2 * t + b2n (num * 2 ^ G % den != 0)) (q - G - 1)

/-- The exact sum of two values, resolved by R41 and R42. -/
def Val.add (a b : Val) : Val :=
  ((Exa.ofVal sqW a).add 2048 (Exa.ofVal sqW b)).value sqW

/-- The quotient of two values; 0/0 and ∞/∞ are NaN, x/0 is an infinity. -/
def Val.div : Val → Val → Val
  | .nan, _ => .nan
  | _, .nan => .nan
  | .inf _, .inf _ => .nan
  | .inf a, .fin b _ _ => .inf (a != b)
  | .fin a _ _, .inf b => .fin (a != b) 0 0
  | .fin a m q, .fin b n r =>
    if n = 0 then (if m = 0 then .nan else .inf (a != b)) else ratVal (a != b) m n (q - r)

/-- The integer square root, by `fuel` binary digits from the top. -/
def isqrtAux (n : Nat) : Nat → Nat → Nat
  | 0, r => r
  | k + 1, r => let c := r + 2 ^ k; if c * c ≤ n then isqrtAux n k c else isqrtAux n k r

/-- The integer square root. -/
def isqrt (n : Nat) : Nat := isqrtAux n (Nat.log2 n / 2 + 1) 0

/-- The reciprocal square root: NaN below zero, infinity at zero (R92). -/
def Val.rsqrt : Val → Val
  | .nan => .nan
  | .inf true => .nan
  | .inf false => .fin false 0 0
  | .fin s m q =>
    if m = 0 then .inf s else if s then .nan
    else
      let odd := q % 2 = 1
      let m' := if odd then 2 * m else m
      let h : Int := (if odd then q - 1 else q) / 2
      let G := 128 + Nat.log2 m'
      let n := 2 ^ (2 * G) / m'
      let r := isqrt n
      let exact := r * r == n && 2 ^ (2 * G) % m' == 0
      .fin false (2 * r + b2n (!exact)) (-h - G - 1)

/-- The sum over odd k below 2·`n` of z^k/k in fixed point, for z in fixed point: the series of atanh. -/
def atanhFx (z : Nat) : Nat → Nat → Nat → Nat
  | 0, _, _ => 0
  | n + 1, k, zk => zk / k + atanhFx z n (k + 2) (zk * z / 2 ^ fxP * z / 2 ^ fxP)

/-- ln 2 in fixed point: 2·atanh(1/3). -/
def ln2Fx : Nat := 2 * atanhFx (2 ^ fxP / 3) 84 1 (2 ^ fxP / 3)

/-- The Taylor sum of e^r in fixed point, from term `k` on. -/
def expTaylor (r : Nat) : Nat → Nat → Nat → Nat
  | 0, _, _ => 0
  | n + 1, k, t => t + expTaylor r n (k + 1) (t * r / 2 ^ fxP / k)

/-- e^x for x = `X`·2^-256 as mantissa and exponent: e^x = M·2^(n-256). -/
def expFx (X : Int) : Nat × Int :=
  let n := X / (ln2Fx : Int)
  let r := (X - n * ln2Fx).toNat
  (expTaylor r 64 1 (2 ^ fxP), n)

/-- A finite value as a signed multiple of 2^-256. -/
def Val.fx : Val → Int
  | .fin s m q => if s then -(scaled fxP m q : Int) else scaled fxP m q
  | _ => 0

/-- Whether a finite value has magnitude at least 2^`k`. -/
def Val.atLeastPow (k : Int) : Val → Bool
  | .fin _ m q => m != 0 && (Nat.log2 m : Int) + q ≥ k
  | _ => false

/-- A fixed-point value with its sticky bit set: the function values it stands for are irrational. -/
def stickyFx (s : Bool) (m : Nat) (e : Int) : Val := .fin s (2 * m + 1) (e - fxP - 1)

/-- The exact exponential, up to rounding to FP32 (R92). -/
def Val.exp : Val → Val
  | .nan => .nan
  | .inf true => .fin false 0 0
  | .inf false => .inf false
  | .fin s m q =>
    let v := Val.fin s m q
    if m = 0 then .fin false 1 0
    else if v.atLeastPow 8 then (if s then .fin false 1 (-300) else .fin false 1 200)
    else let r := expFx v.fx; stickyFx false r.1 r.2

/-- 2^v, up to rounding to FP32 (R239 step 4). -/
def Val.exp2 : Val → Val
  | .nan => .nan
  | .inf true => .fin false 0 0
  | .inf false => .inf false
  | .fin s m q =>
    let v := Val.fin s m q
    if m = 0 then .fin false 1 0
    else if v.atLeastPow 9 then (if s then .fin false 1 (-600) else .fin false 1 600)
    else if 0 ≤ q then .fin false 1 (if s then -((m * 2 ^ q.toNat : Nat) : Int) else ((m * 2 ^ q.toNat : Nat) : Int))
    else
      let X := v.fx
      let n := X / 2 ^ fxP
      let f := (X % 2 ^ fxP).toNat
      if f = 0 then .fin false 1 n
      else let r := expFx ((f * ln2Fx / 2 ^ fxP : Nat) : Int); stickyFx false r.1 (r.2 + n)
/-- The natural logarithm, up to rounding to FP32 (R92). -/
def Val.log : Val → Val
  | .nan => .nan
  | .inf true => .nan
  | .inf false => .inf false
  | .fin s m q =>
    if m = 0 then .inf true else if s then .nan
    else
      let k := (Nat.log2 m : Int) + q
      let f := m * 2 ^ fxP / 2 ^ Nat.log2 m
      let z := (f - 2 ^ fxP) * 2 ^ fxP / (f + 2 ^ fxP)
      let L : Int := k * ln2Fx + 2 * atanhFx z 84 1 z
      if z = 0 ∧ k = 0 then .fin false 0 0 else stickyFx (L < 0) L.natAbs 0

/-- The hyperbolic tangent, up to rounding to FP32 (R92). -/
def Val.tanh : Val → Val
  | .nan => .nan
  | .inf s => .fin s 1 0
  | .fin s m q =>
    let v := Val.fin false m q
    if m = 0 then .fin s 0 0
    else if v.atLeastPow 5 then .fin s (2 ^ 64 - 1) (-64)
    else
      let r := expFx (2 * v.fx)
      let E := r.1 * 2 ^ r.2.toNat
      stickyFx s ((E - 2 ^ fxP) * 2 ^ fxP / (E + 2 ^ fxP)) 0

end Sys2Proof.Machine
end

