-- ==== Sys2Proof/Machine/TreanHome.lean ====
section
/-!
DEFINITION. The home side of Trean: the address hash, the export check, the operations of Table: Trean operations
on a line, the reply cache and the line queues (R306-R309, R313, R317-R321, R326).
-/

namespace Sys2Proof.Machine

/-- The home agent of the line at an offset (R308). -/
def treanHash (a : Nat) : Nat := (List.range 14).foldl (fun h i => h ^^^ bitsAt (a / 128) (3 * i) 3) 0

/-- The state code of a Trean port (R297). -/
def portState (d : Dev) (p : Nat) : Nat := fget d (regTrnPortState p) fldTrnPortStateState

/-- Whether a port is up or degraded. -/
def portLive (d : Dev) (p : Nat) : Bool := portState d p == 5 || portState d p == 6

/-- The largest `AGE`: 40 µs in 10 ns units (R313, R315). -/
def maxAge : Nat := 4000

/-- The bits of a right in an export entry (R321): read, write, atomic. -/
def opRight (op : Nat) : Nat := if op = 1 then 0 else if op = 2 ∨ op = 0x0C then 1 else 2

/-- Whether an operation acts on 64-bit words (R306). -/
def isWordOp (op : Nat) : Bool := (3 ≤ op && op ≤ 9) || op == 0x0C || op == 0x0D

/-- Whether a channel-0 operation is write-type (R306). -/
def isWriteType (op : Nat) : Bool := 2 ≤ op && op ≤ 0x0D

/-- Whether an address has the alignment its operation needs (R306). -/
def opAligned (op a : Nat) : Bool := if isWordOp op then a % 8 == 0 else a % 128 == 0

/-- The bytes a request touches. -/
def opBytes (op : Nat) : Nat := if isWordOp op then 8 else 128

/-- The export entry that serves a request: its range holds the access, its job and rights match (R321). -/
def exportFor (d : Dev) (op : Nat) (r : TrnReq) : Option Export :=
  (d.trn.exports.map (fun p => p.2)).find? (fun e =>
    e.base ≤ r.addr && r.addr + opBytes op ≤ e.base + e.len && e.job == r.job && bitOf e.rights (opRight op))

/-- Why a request is refused, or none (R293, R294, R321, R328, R497; log entry 17). -/
def homeRefusal (d : Dev) (op : Nat) (r : TrnReq) : Option Nat :=
  if d.trn.deadJobs.contains r.job then some 0x4506
  else if !(tget {} d.jobs r.job).live then some 0x4507
  else
    match exportFor d op r with
    | none => some 0x4507
    | some e =>
      match accessErr d (.ctx e.inst 16) (op != 1) r.addr (opBytes op) with
      | none => none
      | some st => some (if st = 0x4606 ∨ st = 0x4414 then st else 0x4507)

/-- The pod of an endpoint (R290). -/
def podOf (e : Nat) : Nat := e / 512

/-- The gateway of a path to an endpoint in another pod (R322). -/
def viaFor (d : Dev) (src dst : Nat) : Option Nat :=
  if podOf dst = podOf (ownEndpoint d) then none
  else
    let l := tget [] d.trn.routes (podOf dst)
    if l.isEmpty then none else l[(src ^^^ dst) % l.length]?

/-- The reply header to a request (R305), by way of a gateway where the requester is in another pod (R322). -/
def replyTo (d : Dev) (r : TrnReq) (status : Nat := 0) (poison : Bool := false) (value : Nat := 0)
    (data : List Byte := []) : TrnRsp :=
  { poison := poison, dst := r.src, src := ownEndpoint d, status := status, tag := r.tag, value := value, data := data
    viaValid := (viaFor d (ownEndpoint d) r.src).isSome, via := (viaFor d (ownEndpoint d) r.src).getD 0 }

/-- The new 64-bit value of a word operation (R306). -/
def wordOp (op m a b : Nat) : Nat :=
  let s (v : Nat) := toSigned 64 v
  match op with
  | 0x03 => (m + a) % 2 ^ 64
  | 0x04 => if m = b then a else m
  | 0x05 => if s a < s m then a else m
  | 0x06 => if s m < s a then a else m
  | 0x07 => min m a
  | 0x08 => max m a
  | 0x09 => m ||| a
  | 0x0C => a
  | 0x0D => (m + a) % 2 ^ 64
  | _ => m

/-- Marks the units of a line poisoned (R307). -/
def poisonLine (d : Dev) (line : Nat) : Dev :=
  let d := (unitsIn line 128).foldl healRow d
  { d with poison := (unitsIn line 128).foldl natPut d.poison }

/-- A masked line write (R306, R307): the enabled bytes are written; a unit keeps its poison unless all of it is
enabled. -/
def maskedWrite (d : Dev) (line mask : Nat) (data : List Byte) (p : Bool) : Dev :=
  let old := devRead d line 128
  let new := (List.range 128).map (fun i => if bitOf mask i then lget 0 data i else lget 0 old i)
  let keep := (unitsIn line 128).filter (fun u =>
    unitPoisoned d u && !(rangeFrom (u - line) (unitSize u)).all (bitOf mask ·))
  if mask % 2 ^ 128 = 0 ∧ !p then d
  else
    let d := devWrite d line new p
    { d with poison := keep.foldl natPut d.poison }

/-- FFADD on a line: 32 FP32 lanes added with one rounding (R306). -/
def ffaddLine (old operand : List Byte) : List Byte :=
  packElems 32 ((List.range 32).map (fun i =>
    (roundVal .fp32 ((Fmt.decode .fp32 (packedElem old 32 i)).add (Fmt.decode .fp32 (packedElem operand 32 i)))).1))

/-- EXADD on a line: bytes 0-79 combined under R52, bytes 80-127 kept (R306). -/
def exaddLine (old operand : List Byte) : List Byte :=
  natLe 80 ((Exa.ofNat (fieldLe old 0 80)).add exaBits (Exa.ofNat (fieldLe operand 0 80))).toNat ++ old.drop 80

/-- Counts a choice of a job at this device's homes (R319). -/
def countJobChoice (d : Dev) (job : Nat) : Dev :=
  { d with jobs := tmod {} d.jobs job (fun j => { j with choice := satAdd 64 j.choice 1 }) }

/-- A write-type request applied to its line (R306, R307, R319): the new state and the reply. -/
def applyWriteType (d : Dev) (op : Nat) (r : TrnReq) : Dev × TrnPkt :=
  let line := r.addr / 128 * 128
  let bad := r.poison || isPoisoned d line 128
  if op = 2 then (maskedWrite d line r.mask r.data r.poison, .rsp 0x82 (replyTo d r))
  else if isWordOp op then
    let m := devNat d r.addr 8
    let kind := if op = 0x0C then 0x82 else 0x84
    let reply (p : Bool) := replyTo d r 0 p (if op = 0x0C then 0 else m)
    if bad then (poisonLine d line, .rsp kind (reply true))
    else (devPut d r.addr 8 (wordOp op m r.a r.b), .rsp kind (reply false))
  else
    let old := devRead d line 128
    let d' :=
      if bad then poisonLine d line
      else if op = 0x0A then devWrite d line (exaddLine old r.data) false
      else devWrite d line (ffaddLine old r.data) false
    let d' := if op = 0x0B then
        countJobChoice (fsat d' regTrnChoice fldTrnChoiceFfaddApplied 1) r.job else d'
    (d', .rsp 0x82 (replyTo d r 0 bad))

/-- The key of a reply-cache entry (R309, R313). -/
def cacheKey (r : TrnReq) : Nat := treanHash r.addr * 2 ^ 48 + r.src % 2 ^ 16 * 2 ^ 32 + r.seq % 2 ^ 32

/-- How long a request occupies its line, in 125 ps units: 4 ns for a WR, 8 ns for others (R318). -/
def lineTime (op : Nat) : Nat := if op = 2 then 32 else 64

/-- The bytes of a packet (R306). -/
def pktBytes : TrnPkt → Nat
  | .req op _ => if op = 1 then 32 else if op = 2 then 176 else if op = 0x0A then 112 else if op = 0x0B then 160 else 48
  | .rsp op _ => if op = 0x81 then 144 else if op = 0x84 then 32 else 16

/-- The virtual channel of a packet (R302). -/
def pktChan : TrnPkt → Nat
  | .req _ _ => 0
  | .rsp _ _ => 1

/-- The state of a port beside its registers. -/
def portSt (d : Dev) (p : Nat) : PortSt := tget {} d.trn.ports p

/-- Changes the state of a port. -/
def modPort (d : Dev) (p : Nat) (f : PortSt → PortSt) : Dev :=
  { d with trn := { d.trn with ports := tmod {} d.trn.ports p f } }

/-- The credit units a port holds on a channel (R302). -/
def portCredit (s : PortSt) (chan : Nat) : Nat := if chan = 0 then s.credReq else s.credRsp

/-- A packet with its `AGE` raised by a wait in 125 ps units, saturating (R304, R315). -/
def agePkt (wait : Nat) : TrnPkt → TrnPkt
  | .req op r => .req op { r with age := min 65535 (r.age + wait / 80) }
  | .rsp op r => .rsp op { r with age := min 65535 (r.age + wait / 80) }

/-- The `AGE` of a packet. -/
def pktAge : TrnPkt → Nat
  | .req _ r => r.age
  | .rsp _ r => r.age

/-- A hop's share of `AGE`, 100 ns, in 125 ps units (R315). -/
def hopTime : Nat := 800

/-- The endpoint a packet goes to. -/
def pktDst : TrnPkt → Nat
  | .req _ r => r.dst
  | .rsp _ r => r.dst

/-- The order of a packet among those of its channel at a port: prompt requests before soak requests (R302). -/
def pktPrio : TrnPkt → Nat
  | .req _ r => if r.cls = 2 then 1 else 0
  | .rsp _ _ => 0

/-- Counts a packet discarded at a port by its age (R315). -/
def dropAged (d : Dev) (port : Nat) : Dev := fsat d (regTrnPortRetry port) fldTrnPortRetryAged 1

/-- Drives a packet that waited so long on a port: its units of credit are spent, its flits enter the replay buffer and `AGE` counts the wait
and the hop (R299, R301, R302, R315). -/
def drivePkt (d : Dev) (port : Nat) (p : TrnPkt) (wait : Nat) : Dev :=
  let u := ceilDiv (pktBytes p) 16
  let n := ceilDiv u 15
  let d := modPort d port (fun s =>
    { s with
      credReq := if pktChan p = 0 then s.credReq - u else s.credReq
      credRsp := if pktChan p = 0 then s.credRsp else s.credRsp - u
      nextSend := (s.nextSend + n) % 4096
      replay := s.replay ++ (List.range n).map (fun i => (s.nextSend + i) % 4096) })
  emit (fset d (regTrnPortTx port) fldTrnPortTxFlits (fget d (regTrnPortTx port) fldTrnPortTxFlits + n)) (.trean port (agePkt (wait + hopTime) p))

/-- Whether a port may send a packet now: credit for all of its units, and room in the replay buffer (R301, R302). -/
def maySend (s : PortSt) (p : TrnPkt) : Bool :=
  ceilDiv (pktBytes p) 16 ≤ portCredit s (pktChan p) && s.replay.length + 2 ≤ 512

/-- Sends a packet on a live port; without credit it waits there, and on a port that is not live it is lost (R297,
R302, R305). -/
def sendPkt (d : Dev) (port : Nat) (p : TrnPkt) : Dev :=
  if !portLive d port then d
  else
    let s := portSt d port
    if maySend s p && s.wait.all (fun w => pktChan w.2 != pktChan p || pktPrio p < pktPrio w.2) then drivePkt d port p 0
    else modPort d port (fun s => { s with wait := s.wait ++ [(tb2 d, p)] })

/-- The order at a port of the packets of a channel: the prompt ones first where any waits (R302). -/
def firstPrio (s : PortSt) (chan : Nat) : Nat := if s.wait.any (fun w => pktChan w.2 == chan && pktPrio w.2 == 0) then 0 else 1

/-- Sends the packets of a channel that wait at a port, prompt ones first and then oldest first, while credit lasts; one that waited to an
`AGE` of 40 µs is discarded (R302, R315). -/
def pumpPort (port chan : Nat) : Nat → Dev → Dev
  | 0, d => d
  | n + 1, d =>
    let mine := fun (w : Nat × TrnPkt) => pktChan w.2 == chan && pktPrio w.2 == firstPrio (portSt d port) chan
    match (portSt d port).wait.find? mine with
    | none => d
    | some (at_, p) =>
      if maySend (portSt d port) p then
        let d := modPort d port (fun s => { s with wait := dropFirst mine s.wait })
        let k := regTrnPortStall port
        let d := fsat d k fldTrnPortStallCreditStall ((tb2 d - at_) / 8)
        let w := tb2 d - at_
        pumpPort port chan n (if maxAge ≤ pktAge (agePkt w p) then dropAged d port else drivePkt d port p w)
      else d

/-- Sends a reply by the port its request copy arrived at (R305). -/
def sendReply (d : Dev) (port : Nat) (p : TrnPkt) : Dev := sendPkt d port p

/-- Whether a WR of another source waits on the line behind a WR (R319). -/
def raceWaits (l : LineSt) (src : Nat) : Bool := l.waiting.any (fun w => w.1 == 2 && w.2.1.src != src)

/-- Applies one queued request to its line: its entry gets the reply, the line is occupied, a race is counted. -/
def applyOnLine (d : Dev) (op : Nat) (r : TrnReq) (port : Nat) : Dev :=
  let line := r.addr / 128
  let l := tget {} d.trn.lines line
  let race := op == 2 && raceWaits l r.src
  let (d, reply) := applyWriteType d op r
  let d := if race then countJobChoice (fsat d regTrnChoice fldTrnChoiceStoreRaces 1) r.job else d
  let l := { l with until_ := tb2 d + lineTime op, isWr := op == 2, src := r.src, job := r.job, counted := race }
  let ent : CacheEnt := { reply := some reply, job := r.job, at_ := tb2 d }
  let t := { d.trn with lines := tset d.trn.lines line l, cache := tset d.trn.cache (cacheKey r) ent }
  sendReply { d with trn := t } port reply

/-- Queues a request behind its line's work (R318) and counts the race it makes for the WR in progress (R319). -/
def queueOnLine (d : Dev) (op : Nat) (r : TrnReq) (port : Nat) : Dev :=
  let line := r.addr / 128
  let l := tget {} d.trn.lines line
  let race := op == 2 && l.isWr && l.waiting.isEmpty && decide (tb2 d < l.until_) && !l.counted && l.src != r.src
  let d := if race then countJobChoice (fsat d regTrnChoice fldTrnChoiceStoreRaces 1) l.job else d
  let l := { l with waiting := l.waiting ++ [(op, r, port)], counted := l.counted || race }
  let ent : CacheEnt := { reply := none, job := r.job, at_ := 0 }
  let t := { d.trn with lines := tset d.trn.lines line l, cache := tset d.trn.cache (cacheKey r) ent }
  let d := fsat { d with trn := t } regTrnHomeCnt fldTrnHomeCntAccepts 1
  sendReply d port (.rsp 0x83 (replyTo d r))

/-- Entries of a home agent's reply cache in use (R309). -/
def cacheUsed (d : Dev) (h : Nat) : Nat := (d.trn.cache.filter (fun p => p.1 / 2 ^ 48 == h)).length

/-- A write-type request at its home agent (R313, R317, R318, R321). -/
def homeWrite (d : Dev) (op : Nat) (r : TrnReq) (port : Nat) : Dev :=
  match tget? d.trn.cache (cacheKey r) with
  | some { reply := some p, .. } => sendReply (fsat d regTrnHomeCnt fldTrnHomeCntCacheHits 1) port p
  | some { reply := none, .. } =>
    sendReply (fsat d regTrnHomeCnt fldTrnHomeCntAccepts 1) port (.rsp 0x83 (replyTo d r))
  | none =>
    if maxAge ≤ r.age then fsat d (regTrnPortRetry port) fldTrnPortRetryAged 1
    else
      match homeRefusal d op r with
      | some st => sendReply d port (.rsp 0x85 (replyTo d r st))
      | none =>
        if 65536 ≤ cacheUsed d (treanHash r.addr) then
          { d with trn := { d.trn with portWait := d.trn.portWait ++ [{ op := op, req := r, port := port, at_ := tb2 d }] } }
        else
          let l := tget {} d.trn.lines (r.addr / 128)
          if l.waiting.isEmpty ∧ l.until_ ≤ tb2 d then applyOnLine d op r port else queueOnLine d op r port

/-- A read at its home agent (R306, R307, R321). -/
def homeRead (d : Dev) (r : TrnReq) : TrnPkt :=
  match homeRefusal d 1 r with
  | some st => .rsp 0x85 (replyTo d r st)
  | none => .rsp 0x81 (replyTo d r 0 (isPoisoned d r.addr 128) 0 (devRead d r.addr 128))

/-- Whether a packet of a source is dropped by the fence map (R326). -/
def fenceDrops (d : Dev) (src epoch : Nat) : Bool :=
  let (f, adm) := tget (false, 0) d.trn.fence src
  f || epoch < adm

/-- The lines whose next queued request may be applied now, one request each (R318). -/
def drainLines (d : Dev) : Dev :=
  (d.trn.lines.map (fun p => p.1)).foldl (fun d k =>
    let l := tget {} d.trn.lines k
    if l.until_ ≤ tb2 d then
      match l.waiting with
      | [] => d
      | (op, r, port) :: w =>
        applyOnLine { d with trn := { d.trn with lines := tset d.trn.lines k { l with waiting := w } } } op r port
    else d) d

end Sys2Proof.Machine
end

