-- ==== Sys2Proof/Machine/TreanReq.lean ====
section
/-!
DEFINITION. The requester side of Trean, its ports and the fence state: routes, issue and order of requests,
resends, port states and modes, fencing (R290-R292, R296-R298, R308, R310-R312, R314, R316, R322, R326-R329).
-/

namespace Sys2Proof.Machine

/-- The first live port of a list. -/
def firstLive (d : Dev) (ps : List Nat) : Option Nat := ps.find? (portLive d)

/-- The port a request to an offset of an endpoint is sent on: the line's agent, or the next live port (R308). -/
def routePort (d : Dev) (dst addr : Nat) : Option Nat :=
  let h := treanHash addr
  if fget d regTrnTopo fldTrnTopoMesh = 1 then
    let n := fget d regTrnTopo fldTrnTopoMeshN
    let k := 8 / (n - 1)
    let q := (dst % 512 + 2 * n - ownEndpoint d % 512 - 1) % n
    firstLive d ((List.range k).map (fun t => q * k + (h % k + t) % k))
  else firstLive d ((List.range 8).map (fun t => (h + t) % 8))

/-- The block detail of a Trean record (R428). -/
def trnDetail (remote port seq op : Nat) : Nat :=
  remote % 2 ^ 16 + port % 256 * 2 ^ 16 + seq % 2 ^ 32 * 2 ^ 32 + op % 256 * 2 ^ 64

/-- A context's outstanding requests. -/
def ctxReqs (d : Dev) (i c : Nat) : List (Nat × OutReq) := d.trn.reqs.filter (fun p => p.2.inst == i && p.2.ctx == c)

/-- The issue order at which a fence step of a context began, if its plan stands at one (R312). -/
def fenceAt (d : Dev) (i c : Nat) : Option Nat :=
  match (ctxSt d i c).queue.head? with
  | some v => match v.plan.head? with
    | some s => if v.isPlan && s.kind == 7 && v.started then some v.pos else none
    | none => none
  | none => none

/-- Whether a request must wait at the source: a release behind earlier write-type requests (R311), a request to a
line with an earlier one of the context on a different port (R310), one to an endpoint with an earlier one by another gateway
that is not fenced (R310, R324), a request behind a fence (R312). -/
def mustHold (d : Dev) (o : OutReq) : Bool :=
  (ctxReqs d o.inst o.ctx).any (fun p =>
    p.2.order < o.order &&
      (((o.op == 0x0C || o.op == 0x0D) && isWriteType p.2.op) ||
       (p.2.pkt.dst == o.pkt.dst &&
         ((p.2.pkt.addr / 128 == o.pkt.addr / 128 && p.2.port != o.port) ||
          ((p.2.pkt.viaValid != o.pkt.viaValid || p.2.pkt.via != o.pkt.via) && !(tget (false, 0) d.trn.fence p.2.pkt.via).1))) ||
       (match fenceAt d o.inst o.ctx with
        | some n => p.2.order < n && n ≤ o.order
        | none => false)))

/-- Sends a request's packet. -/
def sendReq (d : Dev) (o : OutReq) : Dev := sendPkt d o.port (.req o.op o.pkt)

/-- A request that starts on its way now (R314). -/
def OutReq.go (o : OutReq) (now : Nat) : OutReq := { o with held := false, moved := now, sent := now }

/-- The first free request tag from a number on, of 4,096 (R304). -/
def freeTag (d : Dev) (t : Nat) : Option Nat := ((List.range 4096).map (fun i => (t + i) % 4096)).find? (fun x => (tget? d.trn.reqs x).isNone)

/-- Why a context may not issue a request, or none: no job (R499), misaligned or reserved (R307), FFADD in determinism
mode (R319). The Boolean tells whether the context ends. -/
def issueRefusal (d : Dev) (i c op addr : Nat) : Option (Nat × Bool) :=
  if (ctxSt d i c).job = 0 then some (0x4507, true)
  else if !(op == 1 || isWriteType op) || !opAligned op addr then some (0x350D, false)
  else if op = 0x0B ∧ !(ctxSt d i c).detOff then some (0x3509, false)
  else none

/-- Issues a request of a context to a global address (R290, R304, R308, R310, R311): it is entered in the request
table, and sent unless it must be held or no tag is free. -/
def issue (d : Dev) (i c op : Nat) (ga : Nat) (pkt : TrnReq) (use : ReqUse) : Dev :=
  let dst := ga / 2 ^ 48
  let addr := ga % 2 ^ 48
  let free := freeTag d d.trn.nextTag
  let tag := free.getD (4096 + d.trn.order)
  let seq := if isWriteType op then d.trn.nextSeq else 0
  let via := viaFor d (ownEndpoint d) dst
  let port := (routePort d dst addr).getD (treanHash addr)
  let p := { pkt with
    dst := dst
    src := ownEndpoint d
    viaValid := via.isSome
    via := via.getD 0
    tag := tag
    job := (ctxSt d i c).job
    epoch := fget d regTrnEpoch fldTrnEpochEpoch
    seq := seq
    addr := addr
    sctx := i * 16 + c
    cls := (ctxSt d i c).cls }
  let o : OutReq := { op := op, pkt := p, port := port, inst := i, ctx := c, use := use, order := d.trn.order }
  let o := { o with held := free.isNone || mustHold d o, moved := tb2 d, sent := tb2 d, limit := fact d regTrnTiming fldTrnTimingLoadLimit }
  let t := { d.trn with
    reqs := tset d.trn.reqs tag o
    nextTag := if free.isSome then (tag + 1) % 4096 else d.trn.nextTag
    nextSeq := if isWriteType op then (d.trn.nextSeq + 1) % 2 ^ 32 else d.trn.nextSeq
    order := d.trn.order + 1 }
  let d := modCtx { d with trn := t } i c (fun x =>
    { x with tele := { x.tele with trnReqs := satAdd 64 x.tele.trnReqs 1 } })
  if o.held then d else sendReq d o

/-- Sends a held request that has its tag, on the port that its route has now (R308), unless it must still be held. -/
def unhold (d : Dev) (tag : Nat) (o : OutReq) : Dev :=
  let o := { o with port := (routePort d o.pkt.dst o.pkt.addr).getD o.port }
  if mustHold d o then d
  else
    let o := o.go (tb2 d)
    sendReq { d with trn := { d.trn with reqs := tset d.trn.reqs tag o } } o

/-- Requests that wait for a tag take the free ones in the order of their issue (R304). -/
def giveTags (d : Dev) : Dev :=
  (d.trn.reqs.filter (fun p => decide (4096 ≤ p.1))).foldl (fun d p =>
    match freeTag d d.trn.nextTag with
    | none => d
    | some tag =>
      let o := { p.2 with pkt := { p.2.pkt with tag := tag } }
      unhold { d with trn := { d.trn with reqs := tset (tdel d.trn.reqs p.1) tag o, nextTag := (tag + 1) % 4096 } } tag o) d

/-- The requests of a context that nothing holds back any more are sent (R310, R311). -/
def sendHeld (d : Dev) (i c : Nat) : Dev :=
  (ctxReqs d i c).foldl (fun d p => if p.2.held && decide (p.1 < 4096) then unhold d p.1 p.2 else d) d

/-- Removes an outstanding request and sends what it held back (R304, R310, R311). -/
def retire (d : Dev) (tag : Nat) : Dev :=
  match tget? d.trn.reqs tag with
  | none => d
  | some o => giveTags (sendHeld { d with trn := { d.trn with reqs := tdel d.trn.reqs tag } } o.inst o.ctx)

/-- Sends a copy of an outstanding request again with `RETRY` set, on a live port (R314, R329); its gateway changes only
when the old one is fenced (R324). -/
def resend (d : Dev) (tag : Nat) : Dev :=
  match tget? d.trn.reqs tag with
  | none => d
  | some o =>
    let gone := o.pkt.viaValid && (tget (false, 0) d.trn.fence o.pkt.via).1
    let via := if gone then viaFor d (ownEndpoint d) o.pkt.dst else if o.pkt.viaValid then some o.pkt.via else none
    let o := { o with
      pkt := { o.pkt with retry := true, viaValid := via.isSome, via := via.getD 0 }
      port := (routePort d o.pkt.dst o.pkt.addr).getD o.port
      sent := tb2 d }
    let d := { d with trn := { d.trn with reqs := tset d.trn.reqs tag o } }
    let d := fsat d regTrnReqCnt fldTrnReqCntRetries 1
    let d := modCtx d o.inst o.ctx (fun x =>
      { x with tele := { x.tele with trnRetries := satAdd 64 x.tele.trnRetries 1 } })
    sendReq d o

/-- Sends a message to the fabric manager (R325). -/
def toFm (d : Dev) (op : Nat) (body : List Nat) : Dev := emit d (.fmMessage op body)

/-- Ends the context of an outstanding request with a status (R316, R321, R329). -/
def failReq (d : Dev) (tag status : Nat) : Dev :=
  match tget? d.trn.reqs tag with
  | none => d
  | some o =>
    let d := retire d tag
    let ga := o.pkt.dst * 2 ^ 48 + o.pkt.addr
    let det := trnDetail o.pkt.dst o.port o.pkt.seq o.op
    if status / 4096 = 3 then endRequest d o.inst o.ctx status ga det else endCtx d o.inst o.ctx status ga det

/-! ### Port states and modes (R295-R298) -/

/-- Whether a mode is in Table: Trean modes (R295). -/
def modeAllowed (m : TrnMode) : Bool := m.fec == 0 || (m.fec == 1 && m.rate ≤ 1) || (m.fec == 2 && m.rate == 0)

/-- Every mode in the order of preference of R296: the highest data rate, the lower lane rate, the FEC order. -/
def modesByPreference : List TrnMode :=
  [4, 3, 2, 1, 0].flatMap (fun total => [0, 1, 2].flatMap (fun rate => [0, 1, 2].flatMap (fun fec =>
    if rate ≤ total && total - rate ≤ 2 && modeAllowed ⟨rate, total - rate, fec⟩ then [⟨rate, total - rate, fec⟩] else [])))

/-- Whether both partners can use a mode (R296): advertised by both, lanes 0 to n − 1 trained on both sides. -/
def modeCommon (cfg : Nat) (a : Ability) (m : TrnMode) : Bool :=
  bitOf (bitsAt cfg 0 3) m.rate && bitOf (bitsAt cfg 4 3) m.lanes && bitOf (bitsAt cfg 8 3) m.fec &&
    bitOf a.rates m.rate && bitOf a.lanes m.lanes && bitOf a.fec m.fec &&
    (List.range (2 ^ m.lanes)).all (bitOf a.usable ·)

/-- The best common mode that is not struck (R296, R297). -/
def bestMode (cfg : Nat) (a : Ability) (struck : List TrnMode) : Option TrnMode :=
  modesByPreference.find? (fun m => modeCommon cfg a m && !struck.contains m)

/-- Puts a port into a state: 0x1504 is recorded and DEV_PORT sent, and `PORTS_UP` follows (R297). -/
def setPortState (d : Dev) (p st : Nat) : Dev :=
  let old := portState d p
  if old = st then d
  else
    let d := fset d (regTrnPortState p) fldTrnPortStateState st
    let ups := bitMap ((List.range 8).filter (portLive d))
    let d := fset d regTrnStatus fldTrnStatusPortsUp ups
    let d := if st = 5 ∨ st = 6 ∨ st = 7 then d else fset d (regTrnPortState p) fldTrnPortStateLanesActive 0
    let d := if st = 5 ∨ st = 6 then d else modPort d p (fun s => { s with wait := [], replay := [] })
    let peer := fget d (regTrnPortState p) fldTrnPortStatePeer
    let d := record d { status := 0x1504, detail := trnDetail peer p 0 0 }
    toFm d 0xD2 [p, old, st]

/-- The lanes of a mode as a mask. -/
def laneMask (m : TrnMode) : Nat := 2 ^ (2 ^ m.lanes) - 1

/-- Shows a trained mode in the port's state register. -/
def showMode (d : Dev) (p : Nat) (m : TrnMode) : Dev :=
  let k := regTrnPortState p
  fset (fset (fset d k fldTrnPortStateRate m.rate) k fldTrnPortStateLanes m.lanes) k fldTrnPortStateFec m.fec

/-- The mesh member that port `p` of member `i` must reach among `n` (R292), or none when the port is unused. -/
def meshPartner (n i p : Nat) : Option Nat :=
  let k := 8 / (n - 1)
  if p < k * (n - 1) then some ((i + 1 + p / k) % n) else none

/-- Whether the partner a port reaches is the one its topology asks for (R292). -/
def partnerFits (d : Dev) (p : Nat) (a : Ability) : Bool :=
  if fget d regTrnTopo fldTrnTopoMesh = 1 then
    meshPartner (fget d regTrnTopo fldTrnTopoMeshN) (ownEndpoint d % 512) p == some (a.endpoint % 512) && !a.isSwitch
  else true

/-- Retrains a port that failed (R301): 0x2503 is recorded and its mode is trained again. -/
def retrainPort (d : Dev) (p : Nat) : Dev :=
  let d := fsat d (regTrnPortRetry p) fldTrnPortRetryRetrains 1
  let peer := fget d (regTrnPortState p) fldTrnPortStatePeer
  let lanes := bitList 4 (fget d (regTrnPortState p) fldTrnPortStateLanesActive)
  let d := lanes.foldl (fun d l => charge d (partTrn p l) (50 * wUnit)) d
  record d { status := 0x2503, detail := trnDetail peer p 0 0 }

/-! ### Fencing (R326-R328) -/

/-- The contexts that exist, as (instance, context). -/
def liveCtxs (d : Dev) : List (Nat × Nat) :=
  ((d.ctxs.filter (fun p => p.2.live)).map (fun p => (p.1 / 16, p.1 % 16)))

/-- Ends every context of the device that belongs to one of the jobs. -/
def endJobs (d : Dev) (jobs : List Nat) (status : Nat) : Dev :=
  (liveCtxs d).foldl (fun d p => if jobs.contains (ctxSt d p.1 p.2).job then endCtx d p.1 p.2 status else d) d

/-- The jobs with Trean work on the device: outstanding requests or exports (R327; log entry 18). -/
def treanJobs (d : Dev) : List Nat :=
  ((d.trn.reqs.map (fun p => p.2.pkt.job)) ++ (d.trn.exports.map (fun p => p.2.job))).eraseDups

/-- The device's own endpoint is fenced (R327): every port that is initialised goes to the fenced state, a gateway's
buffered packets are lost (R324), and the contexts of the jobs named, or of every job with Trean work, end with 0x4508. -/
def fenceDevice (d : Dev) (jobs : List Nat) : Dev :=
  let d := fset d regTrnStatus fldTrnStatusFenced 1
  let d := { d with trn := { d.trn with gwOpen := [], gwSent := [], gwEarly := [] } }
  let d := (List.range 8).foldl (fun d p =>
    if portState d p = 4 ∨ portLive d p then setPortState d p 7 else d) d
  endJobs d (if jobs.isEmpty then treanJobs d else jobs) 0x4508

end Sys2Proof.Machine
end

