-- ==== Sys2Proof/Machine/StreamOps.lean ====
section
/-!
DEFINITION. The fetch engine: stream descriptors, rings and queues, delivery of elements in increasing linear index,
indices, failed requests (R96-R111).
-/

namespace Sys2Proof.Machine

/-- A stream descriptor (R100). -/
structure Desc where
  kind    : Nat
  esize   : Nat
  sspace  : Nat
  dspace  : Nat
  last    : Bool
  commit  : Bool
  pasid   : Nat
  src     : Nat
  dst     : Nat
  counts  : List Nat
  sstr    : List Int
  dstr    : List Int
  idx     : Nat
  limit   : Nat
  resume  : List Nat
  pstate  : Nat
  clean   : Bool
  deriving DecidableEq, Repr

/-- A stream's number in the state's tables. -/
def strmKey (c s : Nat) : Nat := c * 16 + s

/-- A stream's fetch-engine state. -/
def strmSt (d : Dev) (c s : Nat) : StrmSt := tget {} d.strms (strmKey c s)

/-- Changes a stream's fetch-engine state. -/
def modStrm (d : Dev) (c s : Nat) (f : StrmSt → StrmSt) : Dev := { d with strms := tmod {} d.strms (strmKey c s) f }

/-- A field of `CORE_STRM_CFG`. -/
def cfgOf (d : Dev) (c s : Nat) (f : Fld) : Nat := fget d (regCoreStrmCfg c s) f

/-- The state code of a stream. -/
def strmState (d : Dev) (c s : Nat) : Nat := fget d (regCoreStrmState c s) fldCoreStrmStateState

/-- Sets the state code of a stream. -/
def setStrmState (d : Dev) (c s v : Nat) : Dev := fset d (regCoreStrmState c s) fldCoreStrmStateState v

/-- Who a stream's accesses are made for. -/
def strmWho (d : Dev) (c s : Nat) : Who :=
  let t := strmSt d c s
  if t.slot then .slot else .ctx t.inst t.ctx

/-- The core-store offset of the descriptor in progress. -/
def descOff (d : Dev) (c s : Nat) : Nat :=
  fact d (regCoreStrmDesc c s) fldCoreStrmDescDescBase + 128 * fget d (regCoreStrmPtr c s) fldCoreStrmPtrDescNext

/-- The descriptor of 128 bytes (R100). -/
def parseDesc (bs : List Byte) : Desc :=
  let f := fieldLe bs
  let flags := f 3 1
  { kind := f 0 1, esize := f 1 1, sspace := f 2 1 % 16, dspace := f 2 1 / 16, last := bitOf flags 0,
    commit := bitOf flags 1, pasid := f 4 4, src := f 8 8, dst := f 0x10 8,
    counts := [f 0x18 4, f 0x1C 4, f 0x20 4, f 0x24 4],
    sstr := [toSigned 64 (f 0x28 8), toSigned 64 (f 0x30 8), toSigned 64 (f 0x38 8)],
    dstr := [toSigned 64 (f 0x40 8), toSigned 64 (f 0x48 8), toSigned 64 (f 0x50 8)],
    idx := f 0x58 1, limit := f 0x5C 4, resume := [f 0x60 4, f 0x64 4, f 0x68 4, f 0x6C 4], pstate := f 0x78 1,
    clean := flags / 4 = 0 && f 4 4 < 2 ^ 20 && f 0x59 3 == 0 && f 0x79 1 == 0 && f 0x7C 4 == 0 && f 0x58 1 < 16 }

/-- Whether a space code is defined (R101). -/
def spaceOk (s : Nat) : Bool := s ≤ 4 || s == 0xF

/-- Whether an integer is a multiple of `m`. -/
def alignedTo (m : Nat) (x : Int) : Bool := x % (m : Int) == 0

/-- Whether a descriptor is valid for its stream (R100). -/
def descValid (d : Dev) (c s : Nat) (e : Desc) : Bool :=
  let m := min (2 ^ e.esize) 64
  let sideOk := fun (sp : Nat) => sp != 0xF || cfgOf d c s fldCoreStrmCfgMode == 1 || cfgOf d c s fldCoreStrmCfgMode == 2
  let srcUsed := e.kind != 3 && e.sspace != 0xF && e.sspace != 4
  let dstUsed := e.dspace != 0xF && e.dspace != 4
  e.kind ≤ 3 && e.esize ≤ 20 && e.clean && spaceOk e.sspace && spaceOk e.dspace && e.pstate ≤ 5 &&
    e.counts.all (· ≥ 1) && sideOk e.sspace && sideOk e.dspace &&
    (!srcUsed || (e.src % m == 0 && e.sstr.all (alignedTo m))) &&
    (!dstUsed || (e.dst % m == 0 && e.dstr.all (alignedTo m)))

/-- Elements of a descriptor. -/
def descTotal (e : Desc) : Nat := e.counts.foldl (· * ·) 1

/-- The coordinate of a linear index (R102). -/
def coordOf (e : Desc) (l : Nat) : List Nat :=
  let c0 := lget 1 e.counts 0; let c1 := lget 1 e.counts 1; let c2 := lget 1 e.counts 2
  [l % c0, l / c0 % c1, l / (c0 * c1) % c2, l / (c0 * c1 * c2)]

/-- The linear index of a coordinate (R102). -/
def linearOf (e : Desc) (i : List Nat) : Nat :=
  lget 0 i 0 + lget 1 e.counts 0 * (lget 0 i 1 + lget 1 e.counts 1 * (lget 0 i 2 + lget 1 e.counts 2 * lget 0 i 3))

/-- The address of an element on a side: base, strides, and for an indexed side the row index in place of the row
coordinates (R102). -/
def sideAddr (base : Nat) (strides : List Int) (esize : Nat) (i : List Nat) (row : Option Nat) : Int :=
  let e0 : Int := (lget 0 i 0 * 2 ^ esize : Nat)
  match row with
  | some x => (base : Int) + x * lget 0 strides 0 + e0
  | none => (base : Int) + e0 + ((lget 0 i 1 : Nat) : Int) * lget 0 strides 0 + ((lget 0 i 2 : Nat) : Int) * lget 0 strides 1
      + ((lget 0 i 3 : Nat) : Int) * lget 0 strides 2

/-- The size of a slot or queue buffer. -/
def bufSize (d : Dev) (c s : Nat) : Nat := 2 ^ cfgOf d c s fldCoreStrmCfgSizeLog2

/-- Whether a stream's buffer is a ring of slots. -/
def isRing (d : Dev) (c s : Nat) : Bool := cfgOf d c s fldCoreStrmCfgMode == 2

/-- Slots of a ring. -/
def ringSlots (d : Dev) (c s : Nat) : Nat := cfgOf d c s fldCoreStrmCfgSlots

/-- `HEAD` of a stream. -/
def strmHead (d : Dev) (c s : Nat) : Nat := fget d (regCoreStrmPtr c s) fldCoreStrmPtrHead

/-- `TAIL` of a stream. -/
def strmTail (d : Dev) (c s : Nat) : Nat := fget d (regCoreStrmPtr c s) fldCoreStrmPtrTail

/-- The modulus of a stream's counts: twice the slots or twice the buffer (R97, R98). -/
def countMod (d : Dev) (c s : Nat) : Nat := 2 * (if isRing d c s then ringSlots d c s else bufSize d c s)

/-- Slots or bytes between `HEAD` and `TAIL` (R97, R98). -/
def strmUsed (d : Dev) (c s : Nat) : Nat :=
  (strmTail d c s + countMod d c s - strmHead d c s) % (max 1 (countMod d c s))

/-- Bytes a producer may still write: free slots of a ring, or the fetch-ahead room of a queue (R97, R98). -/
def freeBytes (d : Dev) (c s : Nat) : Nat :=
  if isRing d c s then (ringSlots d c s - strmUsed d c s) * bufSize d c s - (strmSt d c s).fill
  else min (cfgOf d c s fldCoreStrmCfgAhead * 4096) (bufSize d c s) - strmUsed d c s

/-- Bytes a consumer may read: committed slots from the reading position, or the queue's bytes. -/
def availBytes (d : Dev) (c s : Nat) : Nat :=
  if isRing d c s then strmUsed d c s * bufSize d c s - (strmSt d c s).rdPos else strmUsed d c s

/-- The device offset of byte `i` from the writing position of a buffer. -/
def tailAddr (d : Dev) (c s i : Nat) : Nat :=
  let base := cfgOf d c s fldCoreStrmCfgBase
  if isRing d c s then
    let p := (strmSt d c s).fill + i
    let slot := (strmTail d c s + p / bufSize d c s) % ringSlots d c s
    storeAddr c (base + slot * bufSize d c s + p % bufSize d c s)
  else storeAddr c (base + (strmTail d c s + i) % bufSize d c s)

/-- The device offset of byte `i` from the reading position of a buffer. -/
def headAddr (d : Dev) (c s i : Nat) : Nat :=
  let base := cfgOf d c s fldCoreStrmCfgBase
  if isRing d c s then
    let p := (strmSt d c s).rdPos + i
    let slot := (strmHead d c s + p / bufSize d c s) % ringSlots d c s
    storeAddr c (base + slot * bufSize d c s + p % bufSize d c s)
  else storeAddr c (base + (strmHead d c s + i) % bufSize d c s)

/-- The first piece of a run of `n` bytes of a buffer that does not cross its end or a slot's end. -/
def pieceLen (d : Dev) (c s pos n : Nat) : Nat := min n (bufSize d c s - pos % bufSize d c s)

/-- Writes bytes at the writing position, in pieces, and returns the device (R97, R98). -/
def bufWrite (d : Dev) (c s : Nat) : Nat → Nat → List Byte → Bool → Dev
  | 0, _, _, _ => d
  | fuel + 1, i, bs, p =>
    if bs.isEmpty then d
    else
      let pos := if isRing d c s then (strmSt d c s).fill + i else strmTail d c s + i
      let n := pieceLen d c s pos bs.length
      bufWrite (devWrite d (tailAddr d c s i) (bs.take n) p) c s fuel (i + n) (bs.drop n) p

/-- Reads `n` bytes at the reading position, in pieces, with their poison. -/
def bufRead (d : Dev) (c s : Nat) : Nat → Nat → Nat → List Byte × Bool
  | 0, _, _ => ([], false)
  | fuel + 1, i, n =>
    if n = 0 then ([], false)
    else
      let pos := if isRing d c s then (strmSt d c s).rdPos + i else strmHead d c s + i
      let k := pieceLen d c s pos n
      let a := headAddr d c s i
      let (rest, p) := bufRead d c s fuel (i + k) (n - k)
      (devRead d a k ++ rest, isPoisoned d a k || p)

/-- Advances the writing position by `n` bytes: whole slots are committed (R97). -/
def advanceTail (d : Dev) (c s n : Nat) : Dev :=
  if isRing d c s then
    let p := (strmSt d c s).fill + n
    let d := fset d (regCoreStrmPtr c s) fldCoreStrmPtrTail
      ((strmTail d c s + p / bufSize d c s) % (max 1 (countMod d c s)))
    modStrm d c s (fun t => { t with fill := p % bufSize d c s })
  else fset d (regCoreStrmPtr c s) fldCoreStrmPtrTail ((strmTail d c s + n) % (max 1 (countMod d c s)))

/-- Commits a partly filled slot (R97). -/
def commitSlot (d : Dev) (c s : Nat) : Dev :=
  if isRing d c s ∧ (strmSt d c s).fill > 0 then
    let d := fset d (regCoreStrmPtr c s) fldCoreStrmPtrTail ((strmTail d c s + 1) % (max 1 (countMod d c s)))
    modStrm d c s (fun t => { t with fill := 0 })
  else d

/-- Advances the reading position by `n` bytes (R97, R98). -/
def advanceHead (d : Dev) (c s n : Nat) : Dev :=
  if isRing d c s then
    let p := (strmSt d c s).rdPos + n
    let d := fset d (regCoreStrmPtr c s) fldCoreStrmPtrHead
      ((strmHead d c s + p / bufSize d c s) % (max 1 (countMod d c s)))
    modStrm d c s (fun t => { t with rdPos := p % bufSize d c s })
  else fset d (regCoreStrmPtr c s) fldCoreStrmPtrHead ((strmHead d c s + n) % (max 1 (countMod d c s)))

/-- The block detail of a core record: core, stream, resume coordinate (R428). -/
def coreDetail (c s : Nat) (i : List Nat) : Nat :=
  c + s * 2 ^ 16 + lget 0 i 0 * 2 ^ 32 + lget 0 i 1 * 2 ^ 64 + lget 0 i 2 * 2 ^ 96 + lget 0 i 3 * 2 ^ 128

/-- Writes the progress fields of the descriptor in progress (R105): `l` elements were delivered. -/
def writeProgress (d : Dev) (c s : Nat) (e : Desc) (l pstate pstatus : Nat) : Dev :=
  let i := coordOf e l
  let bs := natLe 4 (lget 0 i 0) ++ natLe 4 (lget 0 i 1) ++ natLe 4 (lget 0 i 2) ++ natLe 4 (lget 0 i 3) ++ natLe 8 l
    ++ natLe 1 pstate ++ natLe 1 0 ++ natLe 2 pstatus
  devWrite d (storeAddr c (descOff d c s + 0x60)) bs false

/-- Ends the context of a stream, whose state becomes ended; the record's detail is that of the status's block (R428). -/
def strmEndCtx (d : Dev) (c s status addr : Nat) (i : List Nat) (pasid : Nat := 0) : Dev :=
  let t := strmSt d c s
  let det := match status / 256 % 16 with
    | 1 => coreDetail c s i
    | 5 => trnDetail (addr / 2 ^ 48) 0 0 0
    | 6 => pasid
    | _ => 0
  setStrmState (endCtx d t.inst t.ctx status addr det) c s 7

/-- A progress event of a stream's context on its core (R112): the stall watch restarts and takes the `STALL_LIMIT` that stands now
(R123). -/
def noteProgress (d : Dev) (c s : Nat) : Dev :=
  let t := strmSt d c s
  { d with cores := tmod {} d.cores c (fun k =>
      { k with watch := tset k.watch (ctxKey t.inst t.ctx) (fget d (regCoreStall c) fldCoreStallStallLimit) }) }

/-- The progress of a delivered element (R112): for the stream's context on its core, and for that of a peer ring it was delivered into on
the ring's core. -/
def noteDelivery (d : Dev) (c s : Nat) (e : Desc) : Dev :=
  let d := noteProgress d c s
  if e.dspace = 4 then noteProgress d (e.dst / 256 % 128) (e.dst % 16) else d

/-- The ranges of core store that a stream's descriptor in progress uses beside the addresses it names (R94): the descriptor, its own
buffer, the index stream's, the peer ring. -/
def strmRanges (d : Dev) (c s : Nat) (e : Desc) : List (Nat × Nat) :=
  let buf := fun (c s : Nat) => (storeAddr c (cfgOf d c s fldCoreStrmCfgBase), if isRing d c s then ringSlots d c s * bufSize d c s else bufSize d c s)
  (storeAddr c (descOff d c s), 128) :: ((if e.sspace = 0xF ∨ e.dspace = 0xF then [buf c s] else [])
    ++ (if e.kind = 1 ∨ e.kind = 2 then [buf c e.idx] else [])
    ++ (if e.dspace = 4 then [buf (e.dst / 256 % 128) (e.dst % 16)] else []))

/-- The first of those ranges that the stream may not use, with its status (R94, R231). -/
def strmGuard (d : Dev) (c s : Nat) (e : Desc) : Option (Nat × Nat) :=
  (strmRanges d c s e).findSome? (fun r => (accessErr d (strmWho d c s) false r.1 r.2).map (fun st => (st, r.1)))

/-- What an attempt to deliver one element gives: delivered, blocked in a stream state, or the context ended. -/
inductive Deliver where
  | ok (d : Dev)
  | blocked (d : Dev) (state : Nat)
  | ended (d : Dev)

/-- The host window of a stream's access, which the PASID and the whole element must lie within (R381). -/
def hostWindowKey (d : Dev) (c s pasid iova n : Nat) : Option Nat :=
  ((instSt d (strmSt d c s).inst).windows.find? (fun p =>
    p.2.pasid == pasid && p.2.base ≤ iova && iova + n ≤ p.2.base + p.2.len)).map (fun _ => pasidKey pasid iova)

/-- What a source side gives: bytes with their poison, a wait, or an end. -/
inductive Fetched where
  | data (d : Dev) (bs : List Byte) (p : Bool)
  | wait (d : Dev) (state : Nat)
  | ended (d : Dev)

/-- The lines of 128 bytes a range touches. -/
def linesIn (a n : Nat) : List Nat := (List.range ((a + n - 1) / 128 - a / 128 + 1)).map (fun i => (a / 128 + i) * 128)

/-- Bytes of an element read over Trean once all its lines are here. -/
def gatherLines (ls : List (Nat × List Byte × Bool)) (a n : Nat) : List Byte × Bool :=
  let all := (linesIn a n).map (fun l => (ls.find? (fun x => x.1 == l)).getD (l, [], false))
  ((all.flatMap (fun x => padTo 128 x.2.1)).drop (a % 128) |>.take n, all.any (fun x => x.2.2))

/-- Reads lines of the device's own endpoint at its home agents (R290). -/
def ownLine (d : Dev) (i c ga : Nat) : TrnPkt :=
  homeRead d { dst := ownEndpoint d, src := ownEndpoint d, job := (ctxSt d i c).job, addr := ga % 2 ^ 48 }

/-- Asks for the lines of an element that are neither here nor asked for (R101, R307). -/
def askLines (d : Dev) (c s : Nat) (lines : List Nat) : Dev :=
  lines.foldl (fun d l =>
    let t := strmSt d c s
    if t.lines.any (fun x => x.1 == l) || t.asked.contains l then d
    else if l / 2 ^ 48 = ownEndpoint d then
      match ownLine d t.inst t.ctx l with
      | .rsp 0x81 r => modStrm d c s (fun t => { t with lines := t.lines ++ [(l, r.data, r.poison)] })
      | .rsp _ r => setStrmState (endCtx d t.inst t.ctx r.status l (trnDetail (ownEndpoint d) 0 0 1)) c s 7
      | .req _ _ => d
    else
      issue (modStrm d c s (fun t => { t with asked := l :: t.asked })) t.inst t.ctx 1 l
        { dst := 0, src := 0, job := 0, addr := 0 } (.strmRead (strmKey c s) l)) d

/-- Reads an element from its source side (R101). -/
def fetchElem (d : Dev) (c s : Nat) (e : Desc) (l : Nat) (row : Option Nat) : Fetched :=
  let n := 2 ^ e.esize
  let i := coordOf e l
  let ai := sideAddr e.src e.sstr e.esize i row
  let t := strmSt d c s
  if e.kind = 3 then
    .data d ((List.range n).map (fun j => lget 0 (natLe 8 e.src) (j % 8))) false
  else if e.sspace = 0xF then
    if n ≤ availBytes d c s then
      let (bs, p) := bufRead d c s (n + 1) 0 n
      .data d bs p
    else .wait d 4
  else if ai < 0 then .ended (strmEndCtx d c s 0x4507 0 i)
  else
    let a := ai.toNat
    match e.sspace with
    | 0 =>
      if 0x400000 < a + n then .ended (strmEndCtx d c s 0x4106 a i)
      else
        match accessErr d (strmWho d c s) false (storeAddr c a) n with
        | some st => .ended (strmEndCtx d c s st (storeAddr c a) i)
        | none => .data d (devRead d (storeAddr c a) n) (isPoisoned d (storeAddr c a) n)
    | 1 =>
      match accessErr d (strmWho d c s) false a n with
      | some st => .ended (strmEndCtx d c s st a i)
      | none => .data d (devRead d a n) (isPoisoned d a n)
    | 2 =>
      if t.slot || (ctxSt d t.inst t.ctx).job = 0 then .ended (strmEndCtx d c s 0x4507 a i)
      else
        let d := askLines d c s (linesIn a n)
        let t := strmSt d c s
        if strmState d c s = 7 then .ended d
        else if (linesIn a n).all (fun x => t.lines.any (fun y => y.1 == x)) then
          let (bs, p) := gatherLines t.lines a n
          .data d bs p
        else .wait d 2
    | 3 =>
      match hostWindowKey d c s e.pasid a n with
      | none => .ended (strmEndCtx d c s 0x4606 a i e.pasid)
      | some _ =>
        if n ≤ t.inBytes.length then .data d ((t.inBytes.take n).map (fun b => b.1)) ((t.inBytes.take n).any (fun b => b.2))
        else if t.asked.contains a then .wait d 2
        else
          let d := modStrm d c s (fun t => { t with asked := a :: t.asked })
          .wait (emit d (.hostRead c s (pasidKey e.pasid a) n)) 2
    | _ => .ended (strmEndCtx d c s 0x4106 a i)

/-- Releases what the source side of a delivered element held. -/
def releaseSource (d : Dev) (c s : Nat) (e : Desc) (l : Nat) (row : Option Nat) : Dev :=
  let n := 2 ^ e.esize
  let a := (sideAddr e.src e.sstr e.esize (coordOf e l) row).toNat
  if e.kind = 3 then d
  else if e.sspace = 0xF then advanceHead d c s n
  else if e.sspace = 3 then
    modStrm d c s (fun t =>
      { t with
        inBytes := t.inBytes.drop n
        asked := t.asked.filter (· != a) })
  else if e.sspace = 2 then
    let done := linesIn a n
    modStrm d c s (fun t =>
      { t with
        lines := t.lines.filter (fun x => !done.contains x.1 || x.1 + 128 > a + n)
        asked := t.asked.filter (fun x => !done.contains x) })
  else d

/-- The credits a producer holds for a peer ring: all its free slots unless counted otherwise (R99). -/
def peerCredits (d : Dev) (c s : Nat) : Nat :=
  ((strmSt d c s).credits).getD (ringSlots d c s - strmUsed d c s)

/-- A credit returns to the producer of a peer ring (R99), when a slot is free for which it holds none. -/
def peerCredit (d : Dev) (c s : Nat) : Dev :=
  let taken := strmUsed d c s + (if (strmSt d c s).fill = 0 then 0 else 1)
  if cfgOf d c s fldCoreStrmCfgDir = 2 ∧ isRing d c s ∧ peerCredits d c s + taken < ringSlots d c s then
    modStrm d c s (fun t => { t with credits := some (peerCredits d c s + 1) })
  else d

/-- Sends an element's line writes, one WR per line with its byte mask (R306); lines of the device's own endpoint are
written at once by its home agents (R290). -/
def writeLines (d : Dev) (c s a : Nat) (bs : List Byte) (p : Bool) : Dev :=
  let t := strmSt d c s
  (linesIn a bs.length).foldl (fun d l =>
    let lo := max a l
    let hi := min (a + bs.length) (l + 128)
    let mask := (2 ^ (hi - lo) - 1) * 2 ^ (lo - l)
    let data := List.replicate (lo - l) (0 : Byte) ++ (bs.drop (lo - a)).take (hi - lo) ++
      List.replicate (l + 128 - hi) (0 : Byte)
    let r : TrnReq := { poison := p, dst := l / 2 ^ 48, src := ownEndpoint d, job := (ctxSt d t.inst t.ctx).job,
                        addr := l % 2 ^ 48, mask := mask, data := data }
    if l / 2 ^ 48 = ownEndpoint d then
      match homeRefusal d 2 r with
      | some st => setStrmState (endCtx d t.inst t.ctx st l (trnDetail (ownEndpoint d) 0 0 2)) c s 7
      | none => (applyWriteType d 2 r).1
    else
      issue (modStrm d c s (fun t => { t with asked := l :: t.asked })) t.inst t.ctx 2 l r (.strmWrite (strmKey c s))) d

/-- Writes an element to its destination side and counts it delivered (R101, R104, R109). -/
def putElem (d : Dev) (c s : Nat) (e : Desc) (l : Nat) (row : Option Nat) (bs : List Byte) (p : Bool) : Deliver :=
  let n := 2 ^ e.esize
  let i := coordOf e l
  let ai := sideAddr e.dst e.dstr e.esize i row
  let t := strmSt d c s
  if e.dspace = 0xF then
    if n ≤ freeBytes d c s then .ok (advanceTail (bufWrite d c s (n + 1) 0 bs p) c s n) else .blocked d 3
  else if e.dspace = 4 then
    let pc := e.dst / 256 % 128
    let ps := e.dst % 16
    if cfgOf d pc ps fldCoreStrmCfgDir ≠ 2 ∨ !isRing d pc ps then .ended (strmEndCtx d c s 0x4106 e.dst i)
    else
      let slots := ((strmSt d pc ps).fill + n + bufSize d pc ps - 1) / bufSize d pc ps
        - ((strmSt d pc ps).fill + bufSize d pc ps - 1) / bufSize d pc ps
      if peerCredits d pc ps < slots ∨ freeBytes d pc ps < n then .blocked d 3
      else
      let d := modStrm d pc ps (fun t => { t with credits := some (peerCredits d pc ps - slots) })
      .ok (advanceTail (bufWrite d pc ps (n + 1) 0 bs p) pc ps n)
  else if ai < 0 then .ended (strmEndCtx d c s 0x4507 0 i)
  else
    let a := ai.toNat
    match e.dspace with
    | 0 =>
      if 0x400000 < a + n then .ended (strmEndCtx d c s 0x4106 a i)
      else
        match accessErr d (strmWho d c s) true (storeAddr c a) n with
        | some st => .ended (strmEndCtx d c s st (storeAddr c a) i)
        | none => .ok (devWrite d (storeAddr c a) bs p)
    | 1 =>
      match accessErr d (strmWho d c s) true a n with
      | some st => .ended (strmEndCtx d c s st a i)
      | none => .ok (devWrite d a bs p)
    | 2 =>
      if t.slot || (ctxSt d t.inst t.ctx).job = 0 then .ended (strmEndCtx d c s 0x4507 a i)
      else
        let d := if t.wrElem = some l then d
          else modStrm (writeLines d c s a bs p) c s (fun t => { t with wrElem := some l })
        if strmState d c s = 7 then .ended d
        else if (linesIn a n).any ((strmSt d c s).asked.contains ·) then .blocked d 2
        else .ok (modStrm d c s (fun t => { t with wrElem := none }))
    | 3 =>
      match hostWindowKey d c s e.pasid a n with
      | none => .ended (strmEndCtx d c s 0x4606 a i e.pasid)
      | some k => .ok (hostPut d k bs p)
    | _ => .ended (strmEndCtx d c s 0x4106 a i)

/-- What the index stream gives for a row (R102, R103): the index with its poison, or a wait. -/
def readIndex (d : Dev) (c x : Nat) : Option (Nat × Bool) :=
  if 4 ≤ availBytes d c x then
    let (bs, p) := bufRead d c x 8 0 4
    some (leNat bs, p)
  else none

/-- Delivers element `l` of a descriptor (R102-R104, R108). `fail` is the status of a failed request: then an inbound
or peer element is delivered as poisoned zeros and an outbound one is only consumed; a scattered row without a usable index is not
written (R103). -/
def deliverOne (d : Dev) (c s : Nat) (e : Desc) (l fail : Nat) (row : Option Nat) : Deliver :=
  let n := 2 ^ e.esize
  if fail ≠ 0 then
    if cfgOf d c s fldCoreStrmCfgDir = 1 then
      if e.sspace = 0xF ∧ availBytes d c s < n then .blocked d 4 else .ok (releaseSource d c s e l row)
    else if e.kind = 2 ∧ e.dspace ≠ 0xF ∧ e.dspace ≠ 4 ∧ row.isNone then .ok d
    else putElem d c s e l (if e.kind = 2 then row else none) (List.replicate n 0) true
  else
    let srcRow := if e.kind = 1 then row else none
    let dstRow := if e.kind = 2 then row else none
    match fetchElem d c s e l srcRow with
    | .wait d st => .blocked d st
    | .ended d => .ended d
    | .data d bs p =>
      match putElem d c s e l dstRow bs p with
      | .ok d => .ok (releaseSource d c s e l srcRow)
      | .blocked d st => .blocked d st
      | .ended d => .ended d

/-- The end of the descriptor in progress (R97, R105, R108, R109): progress, a committed slot, the request's end. -/
def endDesc (d : Dev) (c s : Nat) (e : Desc) (fail : Nat) : Dev :=
  let t := strmSt d c s
  let fail := if fail = 0 ∧ t.inErr then 0x3109 else fail
  let d := writeProgress d c s e (descTotal e) (if fail = 0 then 4 else 5) fail
  let d := if e.commit ∨ fail ≠ 0 then
      (if e.dspace = 4 then commitSlot d (e.dst / 256 % 128) (e.dst % 16) else commitSlot d c s) else d
  let d := if fail = 0 then d else fset d (regCoreStrmState c s) fldCoreStrmStateLastStatus fail
  let ends := fail ≠ 0 ∧ (e.last ∨ fail = 0x3109)
  let d := if ends then
      endRequest d t.inst t.ctx fail (descTotal e) (coreDetail c s (coordOf e (descTotal e))) else d
  let d := modStrm d c s (fun t =>
    { t with failing := if e.last ∨ fail = 0x3109 then 0 else fail, inErr := false, left := 0, asked := [], lines := [] })
  let next := fget d (regCoreStrmPtr c s) fldCoreStrmPtrDescNext + 1
  let d := fset d (regCoreStrmPtr c s) fldCoreStrmPtrDescNext next
  setStrmState d c s 1

/-- Whether element delivery needs an index (R102, R103): of a gather or scatter; a failed request passes its rows' indices as well, so that
the index stream stands at the next request's. -/
def needsIndex (e : Desc) : Bool := e.kind == 1 || e.kind == 2

/-- Runs elements from `l` on, as many as `fuel`, until the descriptor ends or blocks (R104). `left` of the stream's
state holds the elements delivered. The index stream's `HEAD` passes an index once its row has been delivered (R102). -/
def runElems (c s : Nat) (e : Desc) : Nat → Nat → Dev → Dev
  | 0, _, d => d
  | fuel + 1, l, d =>
    if descTotal e ≤ l then endDesc d c s e (strmSt d c s).failing
    else
      let t := strmSt d c s
      let idx := if needsIndex e then readIndex d c e.idx else none
      if needsIndex e ∧ idx = none then setStrmState d c s 4
      else
        let bad := match idx with
          | some (x, p) => if p then 0x3104 else if e.limit ≤ x then 0x3105 else 0
          | none => 0
        let d := if bad ≠ 0 ∧ t.failing = 0 then modStrm d c s (fun t => { t with failing := bad }) else d
        match deliverOne d c s e l (strmSt d c s).failing (if bad = 0 then idx.map (fun p => p.1) else none) with
        | .ok d =>
          let d := if idx.isSome ∧ (l + 1) % lget 1 e.counts 0 = 0 then advanceHead d c e.idx 4 else d
          runElems c s e fuel (l + 1) (noteDelivery (modStrm d c s (fun t => { t with left := l + 1 })) c s e)
        | .blocked d st => setStrmState d c s st
        | .ended d => d

/-- The element at which a descriptor starts or goes on (R105). -/
def startElem (d : Dev) (c s : Nat) (e : Desc) : Nat :=
  if (strmSt d c s).left > 0 then (strmSt d c s).left else if e.pstate = 0 then 0 else linearOf e e.resume

/-- Whether a stream may run: enabled, and not in page wait, stopped or ended, its core not fenced. -/
def strmRuns (d : Dev) (c s : Nat) : Bool :=
  coreOn d c && !coreFenced d c && cfgOf d c s fldCoreStrmCfgEnable == 1 &&
    (strmState d c s == 1 || strmState d c s == 2 || strmState d c s == 3 || strmState d c s == 4) &&
    fget d (regCoreStrmPtr c s) fldCoreStrmPtrDescNext < fact d (regCoreStrmDesc c s) fldCoreStrmDescDescCount

/-- Runs the stream's descriptor in progress if it is of one of the kinds (R100, R104, R105): descriptors already
done or ended are skipped one at a time, an invalid one ends the context with 0x4106, one beyond the lend window with 0x410B (R94). -/
def runStream (d : Dev) (c s : Nat) (kinds : List Nat) : Dev :=
  if !strmRuns d c s then d
  else
    let e := parseDesc (devRead d (storeAddr c (descOff d c s)) 128)
    if !(kinds.contains e.kind || (4 ≤ e.kind && kinds.contains 0)) then d
    else match strmGuard d c s e with
    | some (st, a) => strmEndCtx d c s st a []
    | none =>
    if !descValid d c s e then strmEndCtx d c s 0x4106 (storeAddr c (descOff d c s)) []
    else if e.pstate = 4 ∨ e.pstate = 5 then
      let next := fget d (regCoreStrmPtr c s) fldCoreStrmPtrDescNext + 1
      fset d (regCoreStrmPtr c s) fldCoreStrmPtrDescNext next
    else
      let l := startElem d c s e
      runElems c s e (descTotal e - l + 1) l (setStrmState d c s 2)

end Sys2Proof.Machine
end

