-- ==== Sys2Proof/Machine/Attn.lean ====
section
/-!
DEFINITION. The exponent method and the exact sums of attention (R239-R241, R414).
-/

namespace Sys2Proof.Machine

/-- A finite value as an integer multiple of 2^-320. -/
def Val.int320 : Val → Int
  | .fin s m q => if s then -(scaled 320 m q : Int) else scaled 320 m q
  | _ => 0

/-- Whether `a` is below `b`; false with a NaN. -/
def Val.lt : Val → Val → Bool
  | .nan, _ => false
  | _, .nan => false
  | .inf a, .inf b => a && !b
  | .inf a, _ => a
  | _, .inf b => !b
  | a, b => a.int320 < b.int320

/-- The value of an FP32 encoding. -/
def f32 (c : Nat) : Val := Fmt.fp32.decode c

/-- The exponent method of one value (R239 steps 2 to 5): the FP32 encoding of t, the exact p, and whether the product
was an infinity times a zero. A NaN t gives a NaN p. -/
def expMethod (x scale : Val) : Nat × Val × Bool :=
  let inv := Val.mulInvalid x scale
  let t := (fp32 (x.mul scale)).1
  match f32 t with
  | .nan => (t, .nan, inv)
  | v =>
    let t := if v.lt (.fin true 96 0) then 0xC2C00000 else if Val.lt (.fin false 96 0) v then 0x42C00000 else t
    let v := f32 t
    let n := v.int320 / 2 ^ 320
    let f := Val.fin false (v.int320 % 2 ^ 320).toNat (-320)
    let e := f32 (fp32 f.exp2).1
    (t, e.scale n, inv)

/-- The sums of one query head (R239): S, the V_d, the encoding of the largest t, the attended positions, poison. -/
structure AttnAcc where
  s      : Exa := {}
  v      : List Exa
  max    : Nat := 0xFF800000
  count  : Nat := 0
  poison : Bool := false
  deriving DecidableEq, Repr

/-- Adds one attended position to a head's sums: key and value of position τ of the page at `page` (R237, R239). -/
def attnPos (d : Dev) (f : Fmt) (D page tau : Nat) (q : List Val) (scale : Val) (a : AttnAcc) : AttnAcc :=
  let b := f.bits / 8
  let elem := fun (half i : Nat) => elemAt d (page + half + (tau * D + i) * b) 0 f.bits
  let ks := (List.range D).map (elem 0)
  let vs := (List.range D).map (elem 0x8000)
  let dot := Exa.sum exaBits ((ks.zip q).map (fun p => Exa.ofProduct exaW (f.decode p.1.1) p.2))
  let s := f32 (roundOnce .fp32 exaW dot).1
  let (t, p, inv) := expMethod s scale
  let inv := inv || dot.invalid
  { s := a.s.add exaBits (Exa.ofVal exaW p inv),
    v := (a.v.zip vs).map (fun x => x.1.add exaBits (Exa.ofVal exaW (p.mul (f.decode x.2.1)) (inv || Val.mulInvalid p (f.decode x.2.1)))),
    max := if (f32 a.max).lt (f32 t) then t else a.max,
    count := a.count + 1,
    poison := a.poison || ks.any (fun x => x.2) || vs.any (fun x => x.2) }

/-- Positions of a KV page (R237). -/
def kvPositions (f : Fmt) (D : Nat) : Nat := 32768 / (max 1 (D * (f.bits / 8)))

/-- The sums of one head over the pages of a run from sequence page `first`, for the positions that `attends` (R239). -/
def attnRun (d : Dev) (f : Fmt) (D first : Nat) (pages : List Nat) (q : List Val) (scale : Val) (attends : Nat → Bool) :
    AttnAcc :=
  let T := kvPositions f D
  pages.zipIdx.foldl (fun a p =>
    (List.range T).foldl (fun a tau =>
      if attends ((first + p.2) * T + tau) then attnPos d f D p.1 tau q scale a else a) a)
    { v := List.replicate D {} }

/-- The highest bit index at which an integer differs from its sign bit. -/
def topBit (a : Int) : Nat := Nat.log2 (if a < 0 then (-a - 1).toNat else a.toNat)

/-- The loop of the procedure emit of R240. -/
def emitParts : Nat → Int → Nat → List (Int × Int)
  | 0, _, _ => []
  | n + 1, a, k =>
    let sig := a / 2 ^ k
    let a' := a - sig * 2 ^ k
    if a' = 0 then [(sig, (k : Int) - 288)] else (sig, (k : Int) - 288) :: emitParts n a' (k - 128)

/-- The procedure emit of R240: the parts of an exact sum. -/
def emitSum (a : Int) : List (Int × Int) :=
  if a = 0 then [(0, -288)] else emitParts 6 a (topBit a - 151)

/-- The attention partial of R240: its bytes, and its byte ranges by head. -/
def attnPartial (G D pages first tag : Nat) (heads : List AttnAcc) : List Byte × Nat :=
  let parts := heads.foldl (fun m h => (h.s :: h.v).foldl (fun m x => max m (emitSum x.acc).length) m) 1
  let hdr := natLe 2 0x0301 ++ natLe 1 G ++ natLe 1 parts ++ natLe 2 D ++ natLe 2 pages ++ natLe 4 first ++ natLe 4 tag
    ++ natLe 48 0
  let body := heads.flatMap (fun h =>
    natLe 4 h.max ++ natLe 4 h.count ++ natLe 8 0 ++ (List.range parts).flatMap (fun k => (h.s :: h.v).flatMap (fun x =>
      match (emitSum x.acc)[k]? with
      | none => natLe 24 0
      | some (sig, an) => natLe 24 (partialNat sig an (if k = 0 then x else {})))))
  (hdr ++ body, 16 + parts * (D + 1) * 24)

end Sys2Proof.Machine
end

