-- ==== Sys2Proof/Machine/TierOps.lean ====
section
/-!
DEFINITION. The tiers manager and the flash controller (R264-R284, R497, R498): the ashlar map and the set table, references,
promotions, evictions, capacity, prefetch, flash repair and loss.
-/

namespace Sys2Proof.Machine

/-! ### The ashlar map and the set table -/

/-- An ashlar map entry (R265). -/
structure AshEnt where
  crc      : Nat := 0
  flash    : Nat := 0
  pier     : Nat := 0
  mortar   : Nat := 0
  set      : Nat := 0
  owner    : Nat := 0
  shared   : Bool := false
  mrefs    : Nat := 0
  prefs    : Nat := 0
  mpins    : Nat := 0
  ppins    : Nat := 0
  promo    : Nat := 0
  integ    : Nat := 0
  resident : Nat := 0
  layout   : Nat := 0
  size     : Nat := 0
  deriving DecidableEq, Repr

/-- The bits of a map entry (R265). -/
def ashBits (e : AshEnt) : Nat :=
  e.size % 2 * 2 ^ 59 + e.layout % 16 * 2 ^ 60 + e.resident % 8 * 2 ^ 64 + e.integ % 8 * 2 ^ 67
    + e.promo % 4 * 2 ^ 70 + e.ppins % 256 * 2 ^ 72 + e.mpins % 256 * 2 ^ 80 + e.prefs % 256 * 2 ^ 88
    + e.mrefs % 256 * 2 ^ 96 + b2n e.shared * 2 ^ 104 + e.owner % 128 * 2 ^ 105 + e.set % 4096 * 2 ^ 112
    + e.mortar % 4096 * 2 ^ 124 + e.pier % 2 ^ 24 * 2 ^ 136 + e.flash % 2 ^ 32 * 2 ^ 160 + e.crc % 2 ^ 64 * 2 ^ 192

/-- The map entry of its bits (R265). -/
def ashOfBits (v : Nat) : AshEnt where
  crc := bitsAt v 192 64
  flash := bitsAt v 160 32
  pier := bitsAt v 136 24
  mortar := bitsAt v 124 12
  set := bitsAt v 112 12
  owner := bitsAt v 105 7
  shared := bitOf v 104
  mrefs := bitsAt v 96 8
  prefs := bitsAt v 88 8
  mpins := bitsAt v 80 8
  ppins := bitsAt v 72 8
  promo := bitsAt v 70 2
  integ := bitsAt v 67 3
  resident := bitsAt v 64 3
  layout := bitsAt v 60 4
  size := bitsAt v 59 1

/-- The ashlars the map holds (R265). -/
def ashMax : Nat := 4194304

/-- The pier-window offset of a map entry (R265). -/
def ashAddr (d : Dev) (a : Nat) : Nat := fget d regTierMapBase fldTierMapBaseBase + 32 * a

/-- The map entry of an ashlar (R265). -/
def getAsh (d : Dev) (a : Nat) : AshEnt := ashOfBits (memNat d.mem (ashAddr d a) 32)

/-- Writes a map entry, and keeps `TIER_STATUS`.`STATE` (R265). -/
def putAsh (d : Dev) (a : Nat) (e : AshEnt) : Dev :=
  let d := touch { d with mem := memWrite d.mem (ashAddr d a) (natLe 32 (ashBits e)) } (ashAddr d a) 32
  let live := if e.integ = 0 then d.tier.live.filter (· != a) else natPut d.tier.live a
  let gone := if e.integ = 3 then d.tier.gone else tdel d.tier.gone a
  let d := { d with tier := { d.tier with live := live, gone := gone } }
  fset d regTierStatus fldTierStatusState (b2n !live.isEmpty)

/-- A set entry (R266). -/
structure SetEnt where
  count    : Nat := 0
  deleting : Bool := false
  lost     : Bool := false
  grant    : Nat := 0
  deriving DecidableEq, Repr

/-- The pier-window offset of a set entry (R266). -/
def setAddr (d : Dev) (s : Nat) : Nat := fget d regTierMapBase fldTierMapBaseBase + 0x08000000 + 16 * s

/-- The set entry of a set (R266). -/
def getSet (d : Dev) (s : Nat) : SetEnt :=
  let v := memNat d.mem (setAddr d s) 16
  { count := bitsAt v 96 32, deleting := bitOf v 66, lost := bitOf v 65, grant := v % 2 ^ 65 }

/-- Writes a set entry (R266). -/
def putSet (d : Dev) (s : Nat) (e : SetEnt) : Dev :=
  let v := e.grant % 2 ^ 65 + b2n e.lost * 2 ^ 65 + b2n e.deleting * 2 ^ 66 + e.count % 2 ^ 32 * 2 ^ 96
  touch { d with mem := memWrite d.mem (setAddr d s) (natLe 16 v) } (setAddr d s) 16

/-- Changes the tiers manager's state. -/
def modTier (d : Dev) (f : TierSt → TierSt) : Dev := { d with tier := f d.tier }

/-- Bytes of an ashlar (R261). -/
def ashBytes (e : AshEnt) : Nat := if e.size = 0 then 65536 else 1048576

/-- The size of an ashlar in 64 KiB units. -/
def ashUnits (e : AshEnt) : Nat := if e.size = 0 then 1 else 16

/-- Data pages of an ashlar (R275). -/
def ashPages (e : AshEnt) : Nat := if e.size = 0 then 4 else 64

/-- The device offset of a data page (R275, R293). -/
def flashPage (p : Nat) : Nat := flashBase + p * 16384

/-- The device offset of a copy at a location of a tier: 0 mortar, 1 pier. -/
def tierAddr (tier loc : Nat) : Nat := if tier = 0 then mortarBase + loc * 65536 else loc * 65536

/-- The location of an ashlar's copy in a tier. -/
def copyLoc (e : AshEnt) (tier : Nat) : Nat := if tier = 0 then e.mortar else e.pier

/-- The `RESIDENT` bit of a tier. -/
def resBit (tier : Nat) : Nat := if tier = 0 then 2 else 1

/-- Whether a usable copy lies in a tier. -/
def resident (e : AshEnt) (tier : Nat) : Bool := bitOf e.resident (resBit tier)

/-- Where an ashlar is read: its mortar copy, else its pier copy, else flash; which one shows in no result (R271). -/
def ashSource (e : AshEnt) : Nat :=
  if resident e 0 then tierAddr 0 e.mortar else if resident e 1 then tierAddr 1 e.pier else flashPage e.flash

/-- The promotion of an ashlar in flight in a tier. -/
def promoOf (d : Dev) (a tier : Nat) : Option Promo := d.tier.promos.find? (fun p => p.ash == a && p.tier == tier)

/-- The reference of an instance to a copy. -/
def refOf (d : Dev) (i a tier : Nat) : Option AshRef :=
  d.tier.refs.find? (fun r => r.inst == i && r.ash == a && r.tier == tier)

/-- The block detail of a tiers or flash record (R428). -/
def ashDetail (d : Dev) (a : Nat) (ch target block : Nat := 0) : Nat :=
  (getAsh d a).set + ch * 2 ^ 16 + target * 2 ^ 24 + block * 2 ^ 32

/-- Puts a map entry's reference and pin counts to those of the references held (R265). -/
def countRefs (d : Dev) (a : Nat) : Dev :=
  let n (tier : Nat) (pin : Bool) := (d.tier.refs.filter (fun r => r.ash == a && r.tier == tier && (!pin || r.pin))).length
  let e := getAsh d a
  putAsh d a { e with mrefs := n 0 false, prefs := n 1 false, mpins := n 0 true, ppins := n 1 true }

/-! ### Space -/

/-- The 64 KiB units of a tier that hold a copy or await one: first and count. -/
def unitsUsed (d : Dev) (tier : Nat) : List (Nat × Nat) :=
  (d.tier.live.filterMap (fun a =>
    let e := getAsh d a
    if resident e tier then some (copyLoc e tier, ashUnits e) else none))
  ++ (d.tier.promos.filter (fun p => p.tier == tier)).map (fun p => (p.dst, ashUnits (getAsh d p.ash)))

/-- The first run of `n` units, aligned to `n`, that no copy uses within a block of `len` units. -/
def fitIn (used : List (Nat × Nat)) (n start len : Nat) : Option Nat :=
  ((List.range (len / n)).map (fun k => start + k * n)).find?
    (fun s => used.all (fun u => s + n ≤ u.1 || u.1 + u.2 ≤ s))

/-- The first result of a list. -/
def firstFit (used : List (Nat × Nat)) (n len : Nat) : List Nat → Option Nat
  | [] => none
  | s :: l => match fitIn used n s len with
    | some x => some x
    | none => firstFit used n len l

/-- The pier-window offset of a page by its key (R230). -/
def pageOffset (key : Nat) : Nat :=
  let page := key % 32768
  (key / 32768 ^^^ page % 8) * 2 ^ 36 + page * 2097152

/-- The pier-window offsets of the pages with a property, highest first. -/
def pagesWhere (d : Dev) (f : PageEnt → Bool) : List Nat :=
  (((d.pier.pages.filter (fun p => f p.2)).map (fun p => pageOffset p.1)).foldl natPut []).reverse

/-- The lowest free page. -/
def freePage (d : Dev) : Option Nat :=
  ((List.range 262144).find? (fun n => (pageOf d (n * 2097152)).owner == 0x7F)).map (· * 2097152)

/-- Space for a copy of an ashlar in a tier (R268, R497): in the mortar in a region of the copy pool, else in a free region
that joins it; in the piers in the highest of the owner's pages for a private ashlar, or in a page with `OWNER` 0x7E for a
shared one, a free page joining that pool when none has room (log entry 27). -/
def allocCopy (d : Dev) (e : AshEnt) (tier : Nat) : Option (Nat × Dev) :=
  let n := ashUnits e
  let used := unitsUsed d tier
  if tier = 0 then
    let pool := (List.range 256).filter (fun r => tget 127 d.mortar r == 100)
    match firstFit used n 16 (pool.map (· * 16)) with
    | some s => some (s, d)
    | none =>
      match (List.range 256).find? (fun r => tget 127 d.mortar r == 127) with
      | none => none
      | some r => some (r * 16, { d with mortar := tset d.mortar r 100 })
  else
    let own := if e.shared then pagesWhere d (fun p => p.owner == 0x7E)
               else pagesWhere d (fun p => p.owner == e.owner && !p.slot)
    match firstFit used n 32 (own.map (· / 65536)) with
    | some s => some (s, d)
    | none =>
      if e.shared then (freePage d).map (fun o => (o / 65536, modPage d o (fun p => { p with owner := 0x7E })))
      else none

/-- Gives back pool regions and shared pages that hold no copy (R497, log entry 27). -/
def freeSpace (d : Dev) : Dev :=
  let mu := unitsUsed d 0
  let d := (List.range 256).foldl (fun d r =>
    if tget 127 d.mortar r = 100 ∧ mu.all (fun u => u.1 / 16 != r) then { d with mortar := tdel d.mortar r } else d) d
  let pu := unitsUsed d 1
  (pagesWhere d (fun p => p.owner == 0x7E)).foldl (fun d o =>
    if pu.all (fun u => u.1 * 65536 / 2097152 != o / 2097152) then modPage d o (fun p => { p with owner := 0x7F }) else d) d

/-! ### References -/

/-- Frees a copy when no reference to it and no promotion of its ashlar is left (R269). -/
def freeCopy (d : Dev) (a tier : Nat) : Dev :=
  let e := getAsh d a
  if resident e tier ∧ (d.tier.refs.all (fun r => !(r.ash == a && r.tier == tier))) ∧ d.tier.promos.all (fun p => p.ash != a) then
    let addr := tierAddr tier (copyLoc e tier)
    let d := putAsh d a { e with resident := setBits e.resident (resBit tier) 1 0 }
    freeSpace { d with poison := natDrop d.poison addr (ashBytes e) }
  else d

/-- The stripe rows that the flash copies of a set touch. -/
def setRows (d : Dev) (s : Nat) : List (Nat × Nat) :=
  d.tier.live.filterMap (fun a =>
    let e := getAsh d a
    if e.set = s ∧ bitOf e.resident 0 then some (e.flash / 30, (e.flash + ashPages e - 1) / 30) else none)

/-- The targets of a flash channel (R274). -/
def flashTargets (c : Nat) : Nat := Config.flashTargets c % 8 + 1

/-- The channel of a data page (R275). -/
def pageChannel (p : Nat) : Nat :=
  let r := p / 30
  (((List.range 32).filter (fun c => c != r % 32 && c != (r + 1) % 32))[p % 30]?).getD 0

/-- The channel of position 0-29, or of P (30) or Q (31), of a stripe row (R275). -/
def posChannel (row pos : Nat) : Nat :=
  if pos = 30 then row % 32 else if pos = 31 then (row + 1) % 32 else pageChannel (row * 30 + pos)

/-- The key of a flash block. -/
def blkKey (ch target block : Nat) : Nat := ch * 2 ^ 40 + target * 2 ^ 32 + block

/-- The target and the block of a channel that hold a stripe row, by the block remap table (R275). -/
def rowBlock (d : Dev) (ch row : Nat) : Nat × Nat :=
  let t := row % flashTargets ch
  let b := fget d regFlsWeights fldFlsWeightsFirstBlock + row / flashTargets ch / (Config.blockPages + 1)
  (t, tget b d.tier.remap (blkKey ch t b))

/-- The key of the block that holds a position of a stripe row. -/
def posBlk (d : Dev) (row pos : Nat) : Nat :=
  let ch := posChannel row pos
  blkKey ch (rowBlock d ch row).1 (rowBlock d ch row).2

/-- A block is erased once none of its pages belongs to a live set (R276): its retries count anew. -/
def eraseBlocks (d : Dev) : Dev :=
  let used := d.tier.rows.flatMap (fun r => (List.range 32).map (posBlk d r.1))
  modTier d (fun t => { t with
    blkSoft := t.blkSoft.filter (fun b => used.contains b.1)
    blkDue := t.blkDue.filter used.contains })

/-- Frees the stripe rows of a set that hold none of its pages (R276). -/
def freeRows (d : Dev) (s : Nat) : Dev :=
  let used := setRows d s
  let keep := fun (r : Nat × Nat) => r.2 != s || used.any (fun u => u.1 ≤ r.1 && r.1 ≤ u.2)
  let rows := d.tier.rows.filter keep
  eraseBlocks (modTier d (fun t => { t with rows := rows, parity := t.parity.filter (fun p => (tget? rows p.1).isSome) }))

/-- A set loses one of its entries; one being deleted goes with its last (R276). -/
def leaveSet (d : Dev) (s : Nat) : Dev :=
  let se := getSet d s
  if se.deleting ∧ se.count ≤ 1 then modTier (putSet d s {}) (fun t => { t with sets := tdel t.sets s })
  else putSet d s { se with count := se.count - 1 }

/-- An entry of a set being deleted is freed once no reference and no promotion holds it; the set with its last entry
(R276, R286). -/
def freeEntry (d : Dev) (a : Nat) : Dev :=
  let e := getAsh d a
  if e.integ ≠ 0 ∧ (getSet d e.set).deleting ∧ d.tier.refs.all (fun r => r.ash != a)
      ∧ d.tier.promos.all (fun p => p.ash != a) then
    freeRows (freeSpace (leaveSet (putAsh d a {}) e.set)) e.set
  else d

/-- A revoked grant takes effect once the instance holds no reference to the set (R267). -/
def settleRevoke (d : Dev) (s i : Nat) : Dev :=
  if d.tier.revoke.contains (s * 128 + i) ∧ d.tier.refs.all (fun r => !(r.inst == i && (getAsh d r.ash).set == s)) then
    let se := getSet d s
    let d := putSet d s { se with grant := setBits se.grant i 1 0 }
    modTier d (fun t => { t with revoke := t.revoke.filter (· != s * 128 + i) })
  else d

/-- Drops an instance's reference to a copy, and its pin (R269). -/
def dropRef (d : Dev) (i a tier : Nat) : Dev :=
  let s := (getAsh d a).set
  let d := modTier d (fun t =>
    { t with
      refs := t.refs.filter (fun r => !(r.inst == i && r.ash == a && r.tier == tier))
      promos := t.promos.map (fun p => if p.ash == a && p.tier == tier then { p with wants := p.wants.filter (·.inst != i) } else p)
      later := t.later.filter (fun r => !(r.inst == i && r.ash == a && r.tier == tier && !r.demand)) })
  let d := countRefs d a
  let d := freeCopy d a tier
  settleRevoke (freeEntry d a) s i

/-- Adds a reference of an instance, or its pin (R268, R270). -/
def addRef (d : Dev) (i a tier : Nat) (pin : Bool) : Dev :=
  let old := refOf d i a tier
  let p := pin || (old.map (fun r => r.pin)).getD false
  let d := modTier d (fun t =>
    { t with
      tick := t.tick + 1
      refs := { inst := i, ash := a, tier := tier, pin := p, used := t.tick } ::
        t.refs.filter (fun r => !(r.inst == i && r.ash == a && r.tier == tier)) })
  countRefs d a

/-- What stops a reference (R267): 0x3409 or 0x4408; an entry that rebuilds waits and stops nothing. -/
def refErr (d : Dev) (i a : Nat) : Option Nat :=
  let e := getAsh d a
  if ashMax ≤ a ∨ e.integ = 0 ∨ e.integ = 4 ∨ (getSet d e.set).deleting then some 0x3409
  else if (if e.shared then bitOf (getSet d e.set).grant i else e.owner == i) then none else some 0x4408

/-- An instance's references in a tier, those to copies in flight too (R268). -/
def heldRefs (d : Dev) (i tier : Nat) : List AshRef :=
  d.tier.refs.filter (fun r => r.inst == i && r.tier == tier)
    ++ (d.tier.promos.filter (fun p => p.tier == tier)).flatMap (fun p =>
      (p.wants.filter (fun w => w.inst == i)).map (fun w => { inst := i, ash := p.ash, tier := tier, pin := w.pin, used := w.used }))

/-- The bytes an instance's references in a tier count for, those in flight too (R268, R270, R497). -/
def refBytes (d : Dev) (i tier : Nat) (pinned : Bool) : Nat :=
  (((heldRefs d i tier).filter (fun r => !pinned || r.pin)).map (fun r => ashBytes (getAsh d r.ash))).foldl (· + ·) 0

/-- The unpinned reference of an instance least recently used, ties to the lower index (R270). -/
def lruRef (d : Dev) (i tier : Nat) : Option AshRef :=
  ((heldRefs d i tier).filter (fun r => !r.pin)).foldl
    (fun best r => match best with
      | none => some r
      | some b => if r.used < b.used ∨ (r.used = b.used ∧ r.ash < b.ash) then some r else some b) none

/-- Drops unpinned references until a test holds (R270). -/
def evictUntil (i tier : Nat) (ok : Dev → Bool) : Nat → Dev → Dev
  | 0, d => d
  | n + 1, d =>
    if ok d then d
    else match lruRef d i tier with
      | none => d
      | some r => evictUntil i tier ok n (dropRef d i r.ash tier)

/-- Brings an instance's mortar references under its ashlar cap (R270, R407). -/
def trimMortar (d : Dev) (i : Nat) : Dev :=
  let cap := (instSt d i).part.cap * 1048576
  evictUntil i 0 (fun d => refBytes d i 0 false ≤ cap) (heldRefs d i 0).length d

/-- The bytes of the pier pages that an ashlar's copy may take (R268, R270): the pool of shared pages with the free ones that may join it, or
the owner's pages. -/
def pierPool (d : Dev) (e : AshEnt) : Nat :=
  2097152 * (if e.shared then ((List.range 262144).filter (fun n => (pageOf d (n * 2097152)).owner ∈ [0x7E, 0x7F])).length
    else (pagesWhere d (fun p => p.owner == e.owner && !p.slot)).length)

/-- The bytes of an instance's pinned pier copies of one kind, shared or private (R270). -/
def pierPins (d : Dev) (i : Nat) (shared : Bool) : Nat :=
  (((heldRefs d i 1).filter (fun r => r.pin && (getAsh d r.ash).shared == shared)).map (fun r => ashBytes (getAsh d r.ash))).foldl (· + ·) 0

/-! ### Flash rows, parity and loss (R274-R276, R279, R280) -/

/-- The stripe rows that the weights region holds (R275): every channel's share of its blocks, without its spare and retired ones (log entry
153). -/
def flashRowsMax (d : Dev) : Nat :=
  (List.range 32).foldl (fun m c =>
    let k := regFlsChState c
    let blocks := fget d regFlsWeights fldFlsWeightsBlocks * flashTargets c - (fget d k fldFlsChStateSpares + fget d k fldFlsChStateRetired)
    min m (blocks * (Config.blockPages + 1))) (2 ^ 32 / 30)

/-- The lowest run of `n` stripe rows of the weights region that no set uses (R276). -/
def lowestRows (d : Dev) (n : Nat) : Option Nat :=
  let top := d.tier.rows.foldl (fun m r => max m (r.1 + 1)) 0
  match (List.range (top + 1)).find? (fun r => (List.range n).all (fun k => (tget? d.tier.rows (r + k)).isNone)) with
  | none => none
  | some r => if r + n ≤ flashRowsMax d then some r else none

/-- The bytes of a data page. -/
def pageBytes (d : Dev) (p : Nat) : List Byte := memRead d.mem (flashPage p) 16384

/-- The bytewise exclusive or of two pages. -/
def xorBytes (a b : List Byte) : List Byte := List.zipWith (· ^^^ ·) a b

/-- The bytes of a page times an element of GF(2⁸). -/
def mulBytes (g : Nat) (bs : List Byte) : List Byte := bs.map (fun b => BitVec.ofNat 8 (gfMul g b.toNat))

/-- The sums of pages with their positions (R275): P takes them as they are, Q times g^j. -/
def rowSums (pages : List (List Byte × Nat)) : List Byte × List Byte :=
  pages.foldl (fun a p => (xorBytes a.1 p.1, xorBytes a.2 (mulBytes (gfPow p.2) p.1))) (List.replicate 16384 0, List.replicate 16384 0)

/-- The P and Q pages of a stripe row (R275). -/
def rowParity (d : Dev) (row : Nat) : List Byte × List Byte :=
  rowSums ((List.range 30).map (fun j => (pageBytes d (row * 30 + j), j)))

/-- A data page of a stripe row rebuilt from the others, when at most two pages of the row have failed: positions 0-29, 30 for P and 31 for Q
(R275, R279). -/
def rebuildPage (d : Dev) (row : Nat) (failed : List Nat) (j : Nat) : List Byte :=
  let kept := (List.range 30).filter (fun k => k != j && !failed.contains k)
  let (sp, sq) := rowSums (kept.map (fun k => (pageBytes d (row * 30 + k), k)))
  let (p, q) := tget ([], []) d.tier.parity row
  let dp := xorBytes p sp
  let dq := xorBytes q sq
  match failed.find? (fun k => k != j) with
  | none => dp
  | some 31 => dp
  | some 30 => mulBytes (gfInv (gfPow j)) dq
  | some k => mulBytes (gfInv (gfPow j ^^^ gfPow k)) (xorBytes dq (mulBytes (gfPow k) dp))

/-- Writes bytes to the data pages of `n` stripe rows from the first on, the rest of the rows zero, then their P and Q pages (R276). -/
def writeRows (d : Dev) (s row n : Nat) (bs : List Byte) : Dev :=
  let o := flashPage (row * 30)
  let d := { d with mem := memWrite (memClear d.mem o (n * 30 * 16384)) o bs }
  modTier d (fun t => { t with
    rows := (rangeFrom row n).foldl (fun m r => tset m r s) t.rows
    parity := (rangeFrom row n).foldl (fun m r => tset m r (rowParity d r)) t.parity })

/-- Promotions of an ashlar that read flash start again (R280, R281, R284). -/
def restartPromos (d : Dev) (a : Nat) : Dev :=
  modTier d (fun t => { t with promos := t.promos.map (fun p =>
    if p.ash == a && !p.pier then { p with read := [], got := [], badCw := [] } else p) })

/-- Tells every instance whose reference or grant covers an ashlar of its loss (R280 step 4, R422). -/
def tellLost (d : Dev) (a : Nat) : Dev :=
  let e := getAsh d a
  let hit := (List.range 65).filter (fun i =>
    d.tier.refs.any (fun r => r.inst == i && r.ash == a) || (if e.shared then bitOf (getSet d e.set).grant i else e.owner == i))
  hit.foldl (fun d i =>
    let seq := fget d regMgtFhRecords fldMgtFhRecordsNextSeq
    let d := record d { status := 0x1405, flags := 8, inst := i, addr := a, detail := ashDetail d a }
    notice d i 0x1405 seq) d

/-- The offset of a pier or mortar copy of an ashlar that holds no poison and whose CRC-64 is the ashlar's (R280). -/
def validCopy (d : Dev) (e : AshEnt) : Option Nat :=
  ([1, 0].filter (resident e)).findSome? (fun tier =>
    let o := tierAddr tier (copyLoc e tier)
    if !isPoisoned d o (ashBytes e) && crc64 (memRead d.mem o (ashBytes e)) == e.crc then some o else none)

/-- The stripe rows of an ashlar's pages. -/
def ashRows (e : AshEnt) : Nat := ceilDiv (ashPages e) 30

/-- Codewords of an ashlar are given up (R280 step 3): its promotions deliver them poisoned. -/
def loseCws (d : Dev) (a : Nat) (cws : List Nat) : Dev :=
  modTier d (fun t => { t with promos := t.promos.map (fun p =>
    if p.ash == a && !p.pier then
      { p with
        lostCw := cws ++ p.lostCw
        read := cws.foldl natPut p.read
        badCw := p.badCw.filter (fun x => !cws.contains x) }
    else p) })

/-- A flash copy that cannot be recovered (R280): rewritten from a valid copy to new pages, or the ashlar is lost and the codewords are given
up. With no stripe rows left the flash copy goes and the valid copy stays (log entry 153). -/
def ashFailed (d : Dev) (a : Nat) (cws : List Nat) : Dev :=
  let e := getAsh d a
  if e.integ = 3 then loseCws d a cws
  else match validCopy d e with
  | some src =>
    match lowestRows d (ashRows e) with
    | none => putAsh (restartPromos d a) a { e with integ := 1, resident := setBits e.resident 0 1 0 }
    | some row =>
      let d := writeRows d e.set row (ashRows e) (memRead d.mem src (ashBytes e))
      let d := putAsh (restartPromos d a) a { e with flash := row * 30, integ := 1, resident := setBits e.resident 0 1 1 }
      fsat (record d { status := 0x2403, addr := a, detail := ashDetail d a }) regTierLost fldTierLostRewrites 1
  | none =>
    let d := putAsh d a { e with integ := 3, resident := setBits e.resident 0 1 0 }
    let d := if bitOf e.resident 0 then modTier d (fun t => { t with gone := tset t.gone a (e.flash, ashPages e) }) else d
    let se := getSet d e.set
    let d := putSet d e.set { se with lost := true }
    tellLost (fsat (loseCws d a cws) regTierLost fldTierLostLost 1) a

/-! ### Promotions (R268) -/

/-- Starts a promotion into space found (R268 step 3), from a pier copy into the mortar, else from flash. An ashlar without a flash copy
is written to flash first, as no route leads from the mortar to a pier (R260, R280). -/
def startPromo (d : Dev) (a tier dst i : Nat) (pin : Bool) : Dev :=
  let e := getAsh d a
  let fromPier := tier == 0 && resident e 1
  let d := if !fromPier && !bitOf e.resident 0 && e.integ != 3 then ashFailed d a [] else d
  let e := getAsh d a
  let d := putAsh d a { e with promo := e.promo + 1 }
  let d := modTier d (fun t =>
    { t with
      tick := t.tick + 1
      promos := { ash := a, tier := tier, dst := dst, pier := fromPier, wants := [{ inst := i, pin := pin, used := t.tick }]
                  allLost := !fromPier && !bitOf e.resident 0 } :: t.promos })
  fsat d regTierCount fldTierCountPromotions 1

/-- What became of a promotion's request: it holds the reference, it is in flight, it waits (for space or a rebuild), or it is
refused with a status. -/
inductive PromoAns where
  | done
  | flying
  | waits
  | refused (status : Nat)
  deriving DecidableEq, Repr

/-- Adds an instance's reference to a promotion in flight (R268 step 2). -/
def joinPromo (d : Dev) (i a tier : Nat) (pin : Bool) : Dev :=
  modTier d (fun t => { t with
    tick := t.tick + 1
    promos := t.promos.map (fun p =>
      if p.ash == a && p.tier == tier then { p with wants := { inst := i, pin := pin, used := t.tick } :: p.wants.filter (·.inst != i) } else p) })

/-- Promotes an ashlar into a tier for an instance (R267, R268, R270). -/
def promote (d : Dev) (i a tier : Nat) (pin : Bool) : Dev × PromoAns :=
  match refErr d i a with
  | some st => (d, .refused st)
  | none =>
    let e := getAsh d a
    if (refOf d i a tier).isSome then (addRef d i a tier pin, if resident e tier then .done else .flying)
    else if e.integ = 2 then (d, .waits)
    else
      let cap := (instSt d i).part.cap * 1048576
      let need := ashBytes e
      if tier = 0 ∧ cap < refBytes d i 0 true + need then (d, .refused 0x340F)
      else
        let d := if tier = 0 then evictUntil i 0 (fun d => refBytes d i 0 false + need ≤ cap) (heldRefs d i 0).length d else d
        if resident e tier then (addRef d i a tier pin, .done)
        else match promoOf d a tier with
          | some _ => (joinPromo d i a tier pin, .flying)
          | none =>
            match allocCopy d e tier with
            | some (dst, d) => (startPromo d a tier dst i pin, .flying)
            | none =>
              if tier = 0 then (d, .waits)
              else
                let d := evictUntil i 1 (fun d => (allocCopy d e 1).isSome) (heldRefs d i 1).length d
                match allocCopy d e 1 with
                | some (dst, d) => (startPromo d a tier dst i pin, .flying)
                | none => if pierPool d e < pierPins d i e.shared + need then (d, .refused 0x340F) else (d, .waits)

/-! ### Requests that wait (R267, R273, R497) -/

/-- The order of waiting requests: by class, on-demand promotions before the others of their class (R273), then as they came. -/
def AshAsk.rank (r : AshAsk) : Nat := 2 * r.cls + b2n !r.demand

/-- Whether a request is for the same reference as another and of the same context and kind. -/
def AshAsk.same (r q : AshAsk) : Bool := r.inst == q.inst && r.ash == q.ash && r.tier == q.tier && r.ctx == q.ctx && r.demand == q.demand

/-- Whether a request needs space for a new copy. -/
def needsCopy (d : Dev) (r : AshAsk) : Bool :=
  let e := getAsh d r.ash
  e.integ != 2 && !resident e r.tier && (promoOf d r.ash r.tier).isNone

/-- Adds a request to those that wait; the same one again stands for both. -/
def waitLater (d : Dev) (r : AshAsk) : Dev :=
  if d.tier.later.any r.same then
    modTier d (fun t => { t with later := t.later.map (fun q => if r.same q then
      { q with pin := q.pin || r.pin, cls := min q.cls r.cls } else q) })
  else modTier d (fun t => { t with later := t.later ++ [r] })

/-- Asks for a reference (R267, R268, R273): a request that waits is kept, and takes no space before one that goes before it. -/
def ask (d : Dev) (r : AshAsk) : Dev × PromoAns :=
  if (refErr d r.inst r.ash).isNone && needsCopy d r && d.tier.later.any (fun q => q.tier == r.tier && needsCopy d q && decide (q.rank ≤ r.rank) && !r.same q)
  then (waitLater d r, .waits)
  else
    let q := promote d r.inst r.ash r.tier r.pin
    (if q.2 = .waits then waitLater q.1 r else q.1, q.2)

/-- Inserts a request by its rank, behind those of the same rank. -/
def rankAsk (r : AshAsk) : List AshAsk → List AshAsk
  | [] => [r]
  | q :: l => if r.rank < q.rank then r :: q :: l else q :: rankAsk r l

/-- Decides the waiting requests again, in their order (R267, R273, R497); gives those refused, with the status. One that still waits for
space lets no later one of its tier take any. -/
def retryLater (d : Dev) : Dev × List (AshAsk × Nat) :=
  let go := (d.tier.later.foldl (fun l r => rankAsk r l) []).foldl (fun (s : Dev × List Nat × List (AshAsk × Nat)) r =>
    let (d, full, bad) := s
    if needsCopy d r && full.contains r.tier then s
    else
      let q := promote d r.inst r.ash r.tier r.pin
      if q.2 = .waits then (q.1, if needsCopy q.1 r then r.tier :: full else full, bad)
      else
        let d := modTier q.1 (fun t => { t with later := t.later.filter (fun x => !r.same x) })
        match q.2 with
        | .refused st => (d, full, (r, st) :: bad)
        | .done => (modTier d (fun t => { t with waits := t.waits.filter (fun w =>
            !(r.tier == 0 && w.inst == r.inst && w.ash == r.ash)) }), full, bad)
        | _ => (d, full, bad)) (d, [], [])
  (go.1, go.2.2)

/-- A promotion as its row commands it (R268): a request it ends leaves its record; an instance that no context names is not
torn down. -/
def promoteRow (d : Dev) (i a tier : Nat) : Dev :=
  let r := ask d { inst := i, ash := a, tier := tier }
  match r.2 with
  | .refused st => record r.1 { status := st, inst := i, addr := a, detail := ashDetail d a }
  | _ => r.1

/-- On-demand promotion of an operand of a context (R273): the context waits until the copy is usable, or the promotion is
refused with a status. -/
def demand (d : Dev) (i c a : Nat) : Dev × Option Nat :=
  let r := ask d { inst := i, ash := a, tier := 0, cls := (ctxSt d i c).cls, demand := true, ctx := some c }
  let d := fsat r.1 regTierCount fldTierCountOndemand 1
  let d := modCtx d i c (fun x => { x with tele := { x.tele with onDemand := satAdd 64 x.tele.onDemand 1 } })
  match r.2 with
  | .done => (d, none)
  | .refused st => (d, some st)
  | _ =>
    if d.tier.waits.any (fun w => w.inst == i && w.ctx == c && w.ash == a) then (d, none)
    else (modTier d (fun t => { t with waits := { inst := i, ctx := c, ash := a } :: t.waits }), none)

/-- On-demand promotions in order until one is refused, with its status and ashlar. -/
def demandAll (i c : Nat) : List Nat → Dev → Dev × Option (Nat × Nat)
  | [], d => (d, none)
  | a :: l, d =>
    let r := demand d i c a
    match r.2 with
    | some st => (r.1, some (st, a))
    | none => demandAll i c l r.1

/-- A request of a context waits for an ashlar no longer. -/
def stopWaits (d : Dev) (i c : Nat) : Dev :=
  modTier d (fun t => { t with waits := t.waits.filter (fun x => !(x.inst == i && x.ctx == c)) })

/-! ### The end of promotions (R264, R268, R281) -/

/-- The bytes that a promotion has read: of the pier copy, or of the flash pages with the codewords as they were delivered. -/
def promoBytes (d : Dev) (p : Promo) : List Byte :=
  let e := getAsh d p.ash
  if p.pier then memRead d.mem (tierAddr 1 e.pier) (ashBytes e)
  else p.got.foldl (fun bs g => bs.take (g.1 * 1024) ++ g.2 ++ bs.drop (g.1 * 1024 + 1024)) (memRead d.mem (flashPage e.flash) (ashBytes e))

/-- Writes a copy's bytes to their place (R232, R255): no poison is left there. -/
def putCopy (d : Dev) (dst n : Nat) (bs : List Byte) : Dev :=
  let d := devZero d dst n
  touch { d with mem := memWrite d.mem dst bs } dst n

/-- Writes a promotion's bytes to its destination with the poison of what was lost (R268, R280). -/
def landPromo (d : Dev) (p : Promo) : Dev :=
  let n := ashBytes (getAsh d p.ash)
  let dst := tierAddr p.tier p.dst
  let bs := promoBytes d p
  if p.allLost then
    let d := putCopy d dst n []
    { d with poison := (unitsIn dst n).foldl natPut d.poison }
  else p.lostCw.foldl (fun d cw =>
    let a := dst + cw * 1024
    { d with mem := memClear d.mem a 1024, poison := (unitsIn a 1024).foldl natPut d.poison }) (putCopy d dst n bs)

/-- Adds the references of a landed promotion and wakes the requests that waited for it (R268). -/
def settlePromo (d : Dev) (p : Promo) : Dev :=
  let e := getAsh d p.ash
  let loc := fun (e : AshEnt) => if p.tier = 0 then { e with mortar := p.dst } else { e with pier := p.dst }
  let d := modTier d (fun t => { t with promos := t.promos.filter (fun q => !(q.ash == p.ash && q.tier == p.tier)) })
  let d := putAsh d p.ash (loc { e with promo := e.promo - 1, resident := setBits e.resident (resBit p.tier) 1 1 })
  let d := p.wants.foldl (fun d w => addRef d w.inst p.ash p.tier w.pin) d
  let d := if p.tier = 0 then modTier d (fun t => { t with waits := t.waits.filter (fun w => w.ash != p.ash) }) else d
  freeEntry (freeCopy (freeCopy d p.ash 0) p.ash 1) p.ash

/-- Withdraws a damaged pier or mortar copy (R284): it leaves the map and its references move to a fresh copy, fetched from
the next valid source, as is a promotion that was reading it; an ashlar without a source is lost (R280). The poisoned copies of an ashlar
that is lost stay. -/
def withdraw (d : Dev) (a tier : Nat) : Dev :=
  let e := getAsh d a
  if resident e tier ∧ e.integ ≠ 3 then
    let holders := d.tier.refs.filter (fun r => r.ash == a && r.tier == tier)
    let d := record d { status := 0x2406, addr := a, detail := ashDetail d a }
    let d := modTier d (fun t => { t with refs := t.refs.filter (fun r => !(r.ash == a && r.tier == tier)) })
    let d := countRefs (putAsh d a { e with resident := setBits e.resident (resBit tier) 1 0 }) a
    let d := { d with poison := natDrop d.poison (tierAddr tier (copyLoc e tier)) (ashBytes e) }
    let d := freeSpace d
    let d := if bitOf (getAsh d a).resident 0 then d else ashFailed d a []
    let d := modTier d (fun t => { t with promos := t.promos.map (fun p =>
      if p.ash == a && p.pier && tier == 1 then { p with pier := false, allLost := !bitOf (getAsh d a).resident 0 } else p) })
    holders.foldl (fun d r => (ask d { inst := r.inst, ash := a, tier := tier, pin := r.pin }).1) d
  else d

/-- The ashlar whose copy in a tier holds a device offset. -/
def ashAt (d : Dev) (tier o : Nat) : Option Nat :=
  d.tier.live.find? (fun a =>
    let e := getAsh d a
    let s := tierAddr tier (copyLoc e tier)
    resident e tier && s ≤ o && o < s + ashBytes e)

/-- A poisoned word found at a device offset withdraws the ashlar copy that holds it (R284). -/
def poisonFound (d : Dev) (o : Nat) : Dev :=
  let tier := if o < pierEnd then 1 else 0
  match ashAt d tier o with
  | some a => withdraw d a tier
  | none => d

/-- A reader of an ashlar's usable copy finds the poison that it holds (R284; log entry 153). -/
def copyRead (d : Dev) (a : Nat) : Dev :=
  let e := getAsh d a
  let tier := if resident e 0 then 0 else 1
  if resident e tier ∧ isPoisoned d (tierAddr tier (copyLoc e tier)) (ashBytes e) then withdraw d a tier else d

/-- A lost pier channel withdraws every pier copy in that pier (R284): a copy of 64 KiB or 1 MiB lies in one page, hence in
one pier. -/
def pierLost (d : Dev) (pier : Nat) : Dev :=
  d.tier.live.foldl (fun d a =>
    let e := getAsh d a
    if resident e 1 ∧ (pierMap (e.pier * 65536)).1 = pier then withdraw d a 1 else d) d

/-- Whether a promotion has all its bytes: those of a lost ashlar are poison, a pier copy is there, and every codeword of a flash copy has
been delivered or given up (R277, R280). -/
def promoFull (d : Dev) (p : Promo) : Bool :=
  p.allLost || p.pier || (p.badCw.isEmpty && p.read.length == ashPages (getAsh d p.ash) * 16)

/-- A promotion's copy ends (R268, R281): `mismatches` tells how many of its reads fail their CRC-64 in transfer. Bytes of a flash copy that
do not match are read once more; a pier copy that holds poison or another CRC-64 is withdrawn. -/
def promoDone (d : Dev) (a tier mismatches : Nat) : Dev :=
  match promoOf d a tier with
  | none => d
  | some p =>
    if !promoFull d p then d
    else
      let e := getAsh d a
      let given := p.allLost || p.lostCw ≠ []
      let same := given || (!(p.pier && isPoisoned d (tierAddr 1 e.pier) (ashBytes e)) && crc64 (promoBytes d p) == e.crc)
      if same ∧ mismatches + b2n p.again ≤ 1 then
        let d := if mismatches + b2n p.again = 0 then d else record d { status := 0x2407, addr := a, detail := ashDetail d a }
        settlePromo (landPromo d p) p
      else if p.pier then withdraw d a 1
      else if !same ∧ !p.again then
        restartPromos (modTier d (fun t => { t with promos := t.promos.map (fun q =>
          if q.ash == a && q.tier == tier then { q with again := true } else q) })) a
      else
        let d := ashFailed d a []
        match promoOf d a tier with
        | none => d
        | some q =>
          if (getAsh d a).integ = 3 then
            let q := { q with allLost := true }
            settlePromo (landPromo d q) q
          else d

/-! ### Prefetch (R272) -/

/-- An entry of a prefetch schedule (R272). -/
structure PrefEnt where
  ash   : Nat
  layer : Nat
  dest  : Nat
  flags : Nat
  rest  : Nat
  deriving DecidableEq, Repr

/-- Entry `k` of the prefetch schedule at an offset (R272). -/
def prefetchEntry (d : Dev) (base k : Nat) : PrefEnt :=
  let a := base + 16 * k
  { ash := devNat d a 4, layer := devNat d (a + 4) 2, dest := devNat d (a + 6) 1, flags := devNat d (a + 7) 1, rest := devNat d (a + 8) 8 }

/-- Whether an entry breaks its layout (R272). -/
def prefetchBad (e : PrefEnt) : Bool := 1 < e.dest || 8 ≤ e.flags || e.rest != 0

/-- A pin of an instance ends, on a copy held, in flight or asked for (R270). -/
def unpin (d : Dev) (i a tier : Nat) : Dev :=
  countRefs (modTier d (fun t => { t with
    refs := t.refs.map (fun r => if r.inst == i && r.ash == a && r.tier == tier then { r with pin := false } else r)
    promos := t.promos.map (fun p => if p.ash == a && p.tier == tier then
      { p with wants := p.wants.map (fun w => if w.inst == i then { w with pin := false } else w) } else p)
    later := t.later.map (fun r => if r.inst == i && r.ash == a && r.tier == tier then { r with pin := false } else r) })) a

/-- Whether an instance holds, awaits or asks for a reference to a copy. -/
def holdsRef (d : Dev) (i a tier : Nat) : Bool :=
  (refOf d i a tier).isSome || (promoOf d a tier).any (fun p => p.wants.any (·.inst == i))
    || d.tier.later.any (fun r => r.inst == i && r.ash == a && r.tier == tier)

/-- A layer of a prefetch schedule ends for an instance (R272): its entries with `DROP` lose their reference, and its pins end. -/
def endLayer (i layer : Nat) (es : List PrefEnt) (d : Dev) : Dev :=
  (es.filter (fun e => e.layer == layer)).foldl (fun d e =>
    if bitOf e.flags 1 then dropRef d i e.ash e.dest
    else if bitOf e.flags 0 then unpin d i e.ash e.dest
    else d) d

/-! ### Flash reads and repair (R277-R283) -/

/-- The ashlar whose flash copy, kept or lost, holds a data page. -/
def ashOfPage (d : Dev) (p : Nat) : Option Nat :=
  match d.tier.live.find? (fun a => let e := getAsh d a; bitOf e.resident 0 && e.flash ≤ p && p < e.flash + ashPages e) with
  | some a => some a
  | none => (d.tier.gone.find? (fun g => g.2.1 ≤ p && p < g.2.1 + g.2.2)).map (·.1)

/-- Sends a data page to a rebuild (R279): its ashlar reads rebuilding, unless it is lost. -/
def toRebuild (d : Dev) (p : Nat) : Dev :=
  let d := modTier d (fun t => { t with rebuild := natPut t.rebuild p, soft := t.soft.filter (fun k => k / 16 != p) })
  match ashOfPage d p with
  | some a => if (getAsh d a).integ = 3 then d else putAsh d a { getAsh d a with integ := 2 }
  | none => d

/-- Whether a flash channel serves no reads: it is recalibrated, in loop-back or lost (R283, R475). -/
def chAway (d : Dev) (c : Nat) : Bool := fget d (regFlsChState c) fldFlsChStateState != 1

/-- The key of the block that holds a data page (R275). -/
def pageBlk (d : Dev) (p : Nat) : Nat := posBlk d (p / 30) (p % 30)

/-- Whether a data page is read from the other pages of its row: its channel serves no reads (R283), or its block's pages are marked failed
(R282). -/
def pageAway (d : Dev) (p : Nat) : Bool := chAway d (pageChannel p) || d.tier.blkFail.contains (pageBlk d p)

/-- The block detail of a record about a data page of an ashlar (R285, R428). -/
def pageDetail (d : Dev) (a p : Nat) : Nat :=
  let ch := pageChannel p
  ashDetail d a ch (rowBlock d ch (p / 30)).1 (rowBlock d ch (p / 30)).2

/-- The bits of bytes, the lowest of each first (log entry 154). -/
def bitsOf (bs : List Byte) : List Bool := bs.flatMap (fun b => (List.range 8).map (bitOf b.toNat))

/-- The bytes of bits. -/
def bytesOf (n : Nat) (l : List Bool) : List Byte :=
  (List.range n).map (fun k => BitVec.ofNat 8 ((List.range 8).foldl (fun v i => v + b2n (lget false l (8 * k + i)) * 2 ^ i) 0))

/-- The codeword of 1,024 data bytes (R274): with their CRC24B and 232 fillers they are 8,448 information bits, of which the first 768 are
punctured; the core graph's parity bits follow. -/
def flashCodeword (data : List Byte) : List Bool :=
  let info := bitsOf data ++ Config.flashCrc (bitsOf data) ++ List.replicate 232 false
  info.drop 768 ++ Config.flashParity info

/-- The data bytes of decoded information bits whose CRC24B agrees (R277, R278). -/
def flashData (info : List Bool) : Option (List Byte) :=
  if (info.drop 8192).take 24 == Config.flashCrc (info.take 8192) then some (bytesOf 1024 info) else none

/-- The bytes of a codeword of a data page. -/
def cwBytes (d : Dev) (p cw : Nat) : List Byte := memRead d.mem (flashPage p + cw * 1024) 1024

/-- A codeword of a data page as it is sensed, with the bits that read wrong. -/
def sensed (d : Dev) (p cw : Nat) (flips : List Nat) : List Bool :=
  flips.foldl (fun l k => l.modify k not) (flashCodeword (cwBytes d p cw))

/-- The bits of a codeword of 9,216 that a read senses wrong: those flipped an odd number of times. -/
def wrongBits (flips : List Nat) : List Nat :=
  ((flips.filter (· < 9216)).eraseDups).filter (fun k => flips.count k % 2 == 1)

/-- The hard-decision decode of a codeword, of at most 20 iterations (R277): one sensed as it was written satisfies every parity check, and no
bit of it is flipped. -/
def hardDecode (d : Dev) (p cw : Nat) (flips : List Nat) : Option (List Byte) :=
  if (wrongBits flips).isEmpty then some (cwBytes d p cw) else (Config.flashHard 20 (sensed d p cw flips)).bind flashData

/-- Applies a change to the promotions of an ashlar that read flash. -/
def modReads (d : Dev) (a : Nat) (f : Promo → Promo) : Dev :=
  modTier d (fun t => { t with promos := t.promos.map (fun q => if q.ash == a && !q.pier then f q else q) })

/-- A codeword of a data page is delivered with bytes (R277-R279). -/
def deliverCw (d : Dev) (a p cw : Nat) (bs : List Byte) : Dev :=
  let k := (p - (getAsh d a).flash) * 16 + cw
  let same := bs == cwBytes d p cw
  modReads d a (fun q =>
    { q with
      badCw := q.badCw.filter (· != k)
      read := natPut q.read k
      got := if same then tdel q.got k else tset q.got k bs })

/-- A flash codeword is read (R277, R278): decoded it is delivered; a hard failure waits for a retry on a darner, or goes to a rebuild while
flash sharing is off. A page of a channel that serves no reads, or of a failed block, is rebuilt (R282, R283). -/
def flashRead (d : Dev) (p cw : Nat) (flips : List Nat) : Dev :=
  match ashOfPage d p with
  | none => d
  | some a =>
    if d.tier.promos.any (fun q => q.ash == a && !q.pier) then
      let failed := modReads d a (fun q => { q with badCw := natPut q.badCw ((p - (getAsh d a).flash) * 16 + cw % 16) })
      if pageAway d p then toRebuild failed p
      else match hardDecode d p (cw % 16) flips with
        | some bs => deliverCw d a p (cw % 16) bs
        | none =>
          if fact d regRadioDarner fldRadioDarnerFlashShare = 1 then modTier failed (fun t => { t with soft := natPut t.soft (p * 16 + cw % 16) })
          else toRebuild failed p
    else d

/-- A soft-decision retry ends with the bytes it decoded, or none (R278, R282). -/
def flashRetry (d : Dev) (p cw : Nat) (out : Option (List Byte)) : Dev :=
  if d.tier.soft.contains (p * 16 + cw % 16) then
    let ch := pageChannel p
    let d := modTier d (fun t => { t with soft := t.soft.filter (· != p * 16 + cw % 16) })
    let d := fsat d (regFlsChState ch) fldFlsChStateSoftRetries 1
    let k := pageBlk d p
    let n := tget 0 d.tier.blkSoft k + 1
    let d := modTier d (fun t =>
      { t with
        blkSoft := tset t.blkSoft k n
        blkDue := if fact d regFlsRetire fldFlsRetireRetireSoft ≤ n then natPut t.blkDue k else t.blkDue })
    match out with
    | some bs =>
      let d := fsat d regFlsErr fldFlsErrSoftCorrected 1
      let a := (ashOfPage d p).getD 0
      deliverCw (record d { status := 0x2402, addr := a, detail := pageDetail d a p }) a p (cw % 16) bs
    | none => toRebuild d p
  else d

/-- A retry was not started within `SOFT_WAIT` (R278). -/
def softWait (d : Dev) (p cw : Nat) : Dev :=
  if d.tier.soft.contains (p * 16 + cw % 16) then
    let a := (ashOfPage d p).getD 0
    toRebuild (record d { status := 0x140D, addr := a, detail := pageDetail d a p }) p
  else d

/-- Flash sharing is turned off (R286): queued retries go to rebuild. -/
def shareOff (d : Dev) : Dev := d.tier.soft.foldl (fun d k => toRebuild d (k / 16)) d

/-- The codewords of a data page that the promotions of its ashlar wait for. -/
def badOf (d : Dev) (a p : Nat) : List Nat :=
  ((d.tier.promos.filter (fun q => q.ash == a && !q.pier)).flatMap (fun q =>
    q.badCw.filter (fun x => x / 16 == p - (getAsh d a).flash))).eraseDups

/-- A failed data page of a stripe row is rebuilt (R279): its failed codewords are delivered with the rebuilt bytes, it is counted and
recorded, its block is due for retirement (R282), and its ashlar is no longer rebuilding once no page of it is. -/
def rebuiltPage (failed : List Nat) (d : Dev) (p : Nat) : Dev :=
  match ashOfPage d p with
  | none => d
  | some a =>
    let e := getAsh d a
    let page := rebuildPage d (p / 30) failed (p % 30)
    let d := if chAway d (pageChannel p) then d else modTier d (fun t => { t with blkDue := natPut t.blkDue (pageBlk d p) })
    let d := fsat d regFlsErr fldFlsErrRebuilt 1
    let d := record d { status := 0x2403, addr := a, detail := pageDetail d a p }
    let d := (badOf d a p).foldl (fun d x => deliverCw d a p (x % 16) ((page.drop (x % 16 * 1024)).take 1024)) d
    if e.integ = 2 ∧ d.tier.rebuild.all (fun q => !(e.flash ≤ q && q < e.flash + ashPages e)) then putAsh d a { getAsh d a with integ := 1 }
    else d

/-- A data page of a stripe row that cannot be rebuilt (R279, R280). -/
def lostPage (d : Dev) (p : Nat) : Dev :=
  match ashOfPage d p with
  | none => d
  | some a =>
    let d := if chAway d (pageChannel p) then d else modTier d (fun t => { t with blkDue := natPut t.blkDue (pageBlk d p) })
    ashFailed d a (badOf d a p)

/-- Rebuilds the failed data pages of a stripe row (R279, R280): `also` lists further positions whose read fails, 30 for P and
31 for Q. Up to two missing pages of the 32 are rebuilt (R275; log entry 28). -/
def stripeRebuild (d : Dev) (row : Nat) (also : List Nat) : Dev :=
  let mine := d.tier.rebuild.filter (fun p => p / 30 == row)
  if mine = [] then d
  else
    let lostPos := (List.range 32).filter (fun q => chAway d (posChannel row q) || d.tier.blkFail.contains (posBlk d row q))
    let failed := ((mine.map (· % 30)) ++ also.map (· % 32) ++ lostPos).eraseDups
    let pages := (mine ++ ((also.map (· % 32)).filter (· < 30)).map (fun q => row * 30 + q)).eraseDups
    let d := modTier d (fun t => { t with rebuild := t.rebuild.filter (fun p => p / 30 != row) })
    if failed.length ≤ 2 then pages.foldl (rebuiltPage failed) d else pages.foldl lostPage d

/-- A flash block is retired (R282): `failed` tells that a program or erase in it failed. The failed pages of live sets in it are rebuilt, its
pages go to a spare block of its target, and the remap table takes the spare's number. -/
def retireBlock (d : Dev) (ch target block : Nat) (failed : Bool) : Dev :=
  let k := blkKey ch target block
  if failed || d.tier.blkDue.contains k then
    let bad := d.tier.rebuild.filter (fun p => pageBlk d p == k)
    let d := (bad.map (· / 30)).eraseDups.foldl (fun d row => stripeRebuild d row []) d
    let d := modTier d (fun t => { t with blkDue := t.blkDue.filter (· != k), blkSoft := tdel t.blkSoft k })
    let sp := fget d (regFlsChState ch) fldFlsChStateSpares
    if sp = 0 then modTier d (fun t => { t with blkFail := natPut t.blkFail k })
    else
      let home := ((d.tier.remap.find? (fun m => m.1 / 2 ^ 32 == k / 2 ^ 32 && m.2 == block)).map (·.1)).getD k
      let d := modTier d (fun t => { t with
        remap := tset t.remap home (Config.spareBlock ch target (fget d (regFlsChState ch) fldFlsChStateRetired))
        blkFail := t.blkFail.filter (· != k) })
      let d := fset d (regFlsChState ch) fldFlsChStateSpares (sp - 1)
      let d := fsat d (regFlsChState ch) fldFlsChStateRetired 1
      let det := ch * 2 ^ 16 + target * 2 ^ 24 + block * 2 ^ 32
      let d := record d { status := 0x1404, detail := det }
      if sp - 1 ≤ fact d regFlsRetire fldFlsRetireSpareLow ∧ !d.tier.lowDone.contains ch then
        record (modTier d (fun t => { t with lowDone := natPut t.lowDone ch })) { status := 0x140A, detail := ch * 2 ^ 16 }
      else d
  else d

/-- The codewords of an ashlar's pages on lost channels (R283). -/
def lostCws (d : Dev) (e : AshEnt) : List Nat :=
  ((List.range (ashPages e)).filter (fun k => fget d (regFlsChState (pageChannel (e.flash + k))) fldFlsChStateState == 3)).flatMap (fun k =>
    rangeFrom (16 * k) 16)

/-- A third lost channel (R283): every ashlar with a page on a lost one goes to R280. -/
def thirdLoss (d : Dev) : Dev :=
  (d.tier.live.filter (fun a => bitOf (getAsh d a).resident 0)).foldl (fun d a =>
    let cws := lostCws d (getAsh d a)
    if cws.isEmpty then d else ashFailed d a cws) d

/-- Whether a flash channel is in loop-back (R475). -/
def chLooped (d : Dev) (ch : Nat) : Bool :=
  match d.tst.looped with
  | some (i, u, _) => i == 3 && u == ch
  | none => false

/-- A flash channel recalibrates (R283); in loop-back it serves no reads whatever comes of that, and a channel lost leaves the
loop-back (R475). -/
def flsRecal (d : Dev) (ch : Nat) (ok : Bool) : Dev :=
  let st := fget d (regFlsChState ch) fldFlsChStateState
  if st ≠ 1 ∧ st ≠ 2 then d
  else if ok then
    let d := if chLooped d ch then d else fset d (regFlsChState ch) fldFlsChStateState 1
    let d := modTier d (fun t => { t with recFails := tdel t.recFails ch })
    record d { status := 0x240C, detail := ch * 2 ^ 16 }
  else
    let n := tget 0 d.tier.recFails ch + 1
    let d := modTier d (fun t => { t with recFails := tset t.recFails ch n })
    if n < 3 then fset d (regFlsChState ch) fldFlsChStateState 2
    else
      let d := if chLooped d ch then
          record (fset { d with tst := { d.tst with looped := none } } regTstStatus fldTstStatusLbState 0) { status := 0x1411, detail := ch * 2 ^ 16 }
        else d
      let d := fset d (regFlsChState ch) fldFlsChStateState 3
      let lost := fget d regFlsStatus fldFlsStatusLostCh
      let d := record (fset d regFlsStatus fldFlsStatusLostCh (min 3 (lost + 1))) { status := 0x140B, detail := ch * 2 ^ 16 }
      if 2 ≤ lost then thirdLoss d else d

/-- The mortar scrubber reads a word (R498): outcome 0 good, 1 corrected, 2 uncorrectable. -/
def mortarScrub (d : Dev) (word outcome : Nat) : Dev :=
  let a := mortarBase + word * 32
  if mortarEnd ≤ a then d
  else if outcome = 1 then record d { status := 0x2412, addr := a }
  else if outcome = 2 ∧ !d.poison.contains a then
    let d := { d with poison := natPut d.poison a }
    poisonFound (record d { status := 0x1413, addr := a }) a
  else d

/-- Drops every reference of an instance (R286, R435). -/
def dropInstRefs (d : Dev) (i : Nat) : Dev :=
  (d.tier.refs.filter (fun r => r.inst == i)).foldl (fun d r => dropRef d i r.ash r.tier)
    (modTier d (fun t => { t with
      promos := t.promos.map (fun p => { p with wants := p.wants.filter (·.inst != i) })
      waits := t.waits.filter (fun w => w.inst != i)
      later := t.later.filter (fun r => r.inst != i) }))

end Sys2Proof.Machine
end

