-- ==== Sys2Proof/Machine/CoreOps.lean ====
section
/-!
DEFINITION. Cores: commits, streams' enabling, page faults, the stall watch, stops, saves and restores (R91-R123); the
slot planner's reserve (R212-R217); fences (R437-R439).
-/

namespace Sys2Proof.Machine

/-- The state of a core beside its registers. -/
def coreSt (d : Dev) (c : Nat) : CoreSt := tget {} d.cores c

/-- Changes the state of a core. -/
def modCore (d : Dev) (c : Nat) (f : CoreSt → CoreSt) : Dev := { d with cores := tmod {} d.cores c f }

/-- `STATE` of `CORE_STATUS`. -/
def coreState (d : Dev) (c : Nat) : Nat := fget d (regCoreStatus c) fldCoreStatusState

/-- Sets `STATE` of `CORE_STATUS`. -/
def setCoreState (d : Dev) (c v : Nat) : Dev := fset d (regCoreStatus c) fldCoreStatusState v

/-- Work class, instance and context in force in `CORE_CTX`. -/
def coreCtx (d : Dev) (c : Nat) : Nat × Nat × Nat :=
  (fact d (regCoreCtx c) fldCoreCtxWorkClass, fact d (regCoreCtx c) fldCoreCtxInstance,
   fact d (regCoreCtx c) fldCoreCtxContext)

/-- A core begins to run a context. -/
def startCore (d : Dev) (c : Nat) : Dev := islandWork (modCore (setCoreState d c 1) c (fun k => { k with since := tb2 d })) c

/-- The reject of a write to a core's block (R11, R123). -/
def coreReject (d : Dev) (c key : Nat) : Dev :=
  cfgReject d (regCoreStatus c) fldCoreStatusCfgReject 0x1101 key c

/-- The reject of a write to a stream's registers: its record names core and stream (R428). -/
def strmReject (d : Dev) (c s key : Nat) : Dev :=
  cfgReject d (regCoreStatus c) fldCoreStatusCfgReject 0x1101 key (coreDetail c s [])

/-- A write of COMMIT (R10, R123): the shadowed fields take effect together, and with no write since the last commit nothing does. A
list with a new base starts at its first descriptor (log entry 23); a core whose `CORE_CTX` names a live context runs it (log entry
24), and the class of that work is the context's, as slot work runs on reserved cores alone (R21, R202). -/
def coreCommit (d : Dev) (c : Nat) : Dev :=
  if !coreOn d c || !d.unput.contains c then d
  else
    let d := { d with unput := d.unput.filter (· != c) }
    let d := (List.range 16).foldl (fun d s =>
      let k := regCoreStrmDesc c s
      if fget d k fldCoreStrmDescDescBase = fact d k fldCoreStrmDescDescBase then commitReg d k
      else fset (commitReg d k) (regCoreStrmPtr c s) fldCoreStrmPtrDescNext 0) d
    let d := commitRegs d [regCoreSaveBase c, regCoreCtx c]
    let (cls, i, x) := coreCtx d c
    if (ctxSt d i x).live then
      let d := if cls = 0 ∧ slotHeld d c then d else setAct d (regCoreCtx c) ((ctxSt d i x).cls * 2048 + i * 16 + x)
      if coreState d c = 0 then startCore d c else d
    else d

/-- Whether a stream's configuration may be enabled (R96, R123). A `BASE` whose bits [37:32] are not 0 is one of those turned away (DESIGN
CHOICE, log entry 141). -/
def strmCfgOk (v : Nat) (slot : Bool) : Bool :=
  let f := fun (x : Fld) => bitsAt v x.lo x.w
  let mode := f fldCoreStrmCfgMode
  let size := f fldCoreStrmCfgSizeLog2
  let base := f fldCoreStrmCfgBase
  let slots := f fldCoreStrmCfgSlots
  let len := if mode = 2 then slots * 2 ^ size else 2 ^ size
  (mode == 1 || mode == 2) &&
    (if mode = 2 then 3 ≤ slots && slots ≤ 16 && 6 ≤ size && size ≤ 20
     else 12 ≤ size && size ≤ 21 && 1 ≤ f fldCoreStrmCfgAhead) &&
    base % 64 == 0 && ((slot && base + len ≤ 0x80000) || (0x80000 ≤ base && base + len ≤ 0x400000))

/-- A write to `CORE_STRM_CFG` (R8, R11, R96, R123): the stream starts with empty counts and belongs to the context in
`CORE_CTX`, or the write is discarded, as for a stream of slot work on a core that is not reserved (R21; log entry 140); a discarded
configuration leaves it off. -/
def strmEnable (d : Dev) (c s v : Nat) : Dev :=
  let k := regCoreStrmCfg c s
  let st := strmState d c s
  let (cls, i, x) := coreCtx d c
  if !coreOn d c then d
  else if st ≠ 0 ∧ st ≠ 1 ∧ st ≠ 6 ∧ st ≠ 7 then strmReject d c s k
  else if !bitOf v 0 then setStrmState (setReg d k v) c s 0
  else if !strmCfgOk v (cls == 0) || (cls == 0 && !slotHeld d c) then strmReject (setStrmState (fset d k fldCoreStrmCfgEnable 0) c s 0) c s k
  else
    let d := commitReg (setReg d k v) k
    let d := fset (fset d (regCoreStrmPtr c s) fldCoreStrmPtrHead 0) (regCoreStrmPtr c s) fldCoreStrmPtrTail 0
    let d := modStrm d c s (fun _ => { inst := i, ctx := x, slot := cls == 0 })
    islandWork (setStrmState d c s 1) c

/-! ### Page faults (R106-R108, R383) -/

/-- The context saved on a core whose page request for a stream is outstanding while the stream serves other work (R122). -/
def savedAsk (d : Dev) (c s : Nat) : Option StrmSt :=
  d.ctxs.findSome? (fun p =>
    if p.2.away.contains c then
      match p.2.saved.find? (fun e => e.1 == c) with
      | some e =>
        let t := lget {} e.2.2 s
        let u := strmSt d c s
        if t.pageReq.isSome ∧ (u.slot ∨ u.inst ≠ t.inst ∨ u.ctx ≠ t.ctx) then some t else none
      | none => none
    else none)

/-- Page requests outstanding on the device (R383). -/
def pageReqs (d : Dev) : Nat :=
  (d.strms.filter (fun p => p.2.pageReq.isSome)).length + (d.strms.filter (fun p => (savedAsk d (p.1 / 16) (p.1 % 16)).isSome)).length

/-- Sends the page request of a stream, or leaves it waiting while 512 are outstanding (R383). -/
def sendPageReq (d : Dev) (c s pasid addr : Nat) : Dev :=
  if 512 ≤ pageReqs d then modStrm d c s (fun t => { t with pageWant := some addr })
  else
    let d := modStrm d c s (fun t =>
      { t with
        pageReq := some (addr, tb2 d)
        pageLim := max 1 (fget d (regCoreStall c) fldCoreStallPageLimit)
        pageWant := none })
    emit d (.pageRequest c s pasid addr)

/-- Sends a page request that waits, once one has completed (R383). -/
def nextPageReq (d : Dev) : Dev :=
  match d.strms.find? (fun p => p.2.pageWant.isSome) with
  | some (k, t) =>
    let e := parseDesc (devRead d (storeAddr (k / 16) (descOff d (k / 16) (k % 16))) 128)
    sendPageReq d (k / 16) (k % 16) e.pasid (t.pageWant.getD 0)
  | none => d

/-- The side of a descriptor on which a host page faults: its source when only that is host memory, its destination when only that is,
and as `dest` says when both are. -/
def faultsDest (e : Desc) (dest : Bool) : Bool := e.dspace == 3 && (dest || e.sspace != 3 || e.kind == 3)

/-- A fault on the host page of element `at_` of the descriptor in progress (R106): every element before it is delivered, progress is
written with `PSTATE` = 2, read data beyond is discarded and the stream waits for its page request. An element that is not reached, or
whose row has no usable index, faults on no page. -/
def pageFault (d : Dev) (c s at_ : Nat) (dest : Bool) : Dev :=
  let e := parseDesc (devRead d (storeAddr c (descOff d c s)) 128)
  if !strmRuns d c s || (strmGuard d c s e).isSome || !descValid d c s e || 4 ≤ e.pstate || descTotal e ≤ at_ then d
  else if (e.sspace != 3 || e.kind == 3) && e.dspace != 3 then d
  else
    let l := max at_ (startElem d c s e)
    let d := runElems c s e (l - startElem d c s e) (startElem d c s e) (setStrmState d c s 2)
    let byRow := e.kind = (if faultsDest e dest then 2 else 1)
    let idx := if byRow then readIndex d c e.idx else some (0, false)
    match idx with
    | none => d
    | some (x, p) =>
      if startElem d c s e ≠ l ∨ (strmSt d c s).failing ≠ 0 ∨ strmState d c s = 7 ∨ p ∨ (byRow ∧ e.limit ≤ x) then d
      else
        let row := if byRow then some x else none
        let i := coordOf e l
        let a := if faultsDest e dest then sideAddr e.dst e.dstr e.esize i row else sideAddr e.src e.sstr e.esize i row
        let d := writeProgress d c s e l 2 0
        let d := modStrm d c s (fun t => { t with inBytes := [], asked := [], lines := [], wrElem := none })
        sendPageReq (setStrmState d c s 5) c s e.pasid a.toNat

/-- Whether a stream waits for a page longer than the limit of its page request (R108). -/
def pageLate (d : Dev) (t : StrmSt) : Bool :=
  match t.pageReq with
  | some (_, since) => decide (since + t.pageLim * 8000000 < tb2 d)
  | none => false

/-- Whether a stream's context is being torn down. -/
def strmEnding (d : Dev) (t : StrmSt) : Bool :=
  !t.slot && ((ctxSt d t.inst t.ctx).ending.isSome || (instSt d t.inst).ending.isSome)

/-- The answer to the page request of a stream of a saved context is kept for its restore (R122). -/
def keepResp (d : Dev) (c s : Nat) (t : StrmSt) (ok : Bool) : Dev :=
  modCtx d t.inst t.ctx (fun x => { x with saved := x.saved.map (fun e =>
    if e.1 == c then (c, e.2.1, e.2.2.set s { (lget {} e.2.2 s) with resp := some ok, pageReq := none }) else e) })

/-- A page response (R107, R108, R122): the descriptor goes on at its resume coordinate and the stall watch starts again, or its request
fails with 0x3103; the response of a stopped stream is kept for its restore, also where slot work has taken the stream since, and is a failure
when it comes after its limit; a response to an ended stream, or for a context that is torn down, is discarded, a failure then attaching to the
teardown's record. -/
def pageResponse (d : Dev) (c s : Nat) (ok : Bool) : Dev :=
  match savedAsk d c s with
  | some t =>
    let d := nextPageReq (keepResp d c s t (ok && !pageLate d t))
    if strmEnding d t ∧ !ok then endCtx d t.inst t.ctx 0x3103 0 (coreDetail c s []) else d
  | none =>
  let t := strmSt d c s
  if t.pageReq.isNone then d
  else
    let d := modStrm d c s (fun t => { t with pageReq := none })
    let d := nextPageReq d
    if strmEnding d t then
      (if ok then d else endCtx d t.inst t.ctx 0x3103 0 (coreDetail c s []))
    else match strmState d c s with
    | 5 =>
      let d := modStrm d c s (fun t => { t with failing := if ok then 0 else 0x3103 })
      runStream (noteProgress (setStrmState d c s 1) c s) c s [0, 1, 2, 3]
    | 6 =>
      let good := ok && !pageLate d t
      keepResp (modStrm d c s (fun t => { t with resp := some good })) c s t good
    | _ => d

/-! ### The stall watch (R112-R114) -/

/-- Whether a stream is enabled and belongs to a context. -/
def strmOf (d : Dev) (c s i x : Nat) : Bool :=
  cfgOf d c s fldCoreStrmCfgEnable == 1 && (strmSt d c s).inst == i && (strmSt d c s).ctx == x && !(strmSt d c s).slot

/-- The streams of a context on a core. -/
def strmsOf (d : Dev) (c i x : Nat) : List Nat := (List.range 16).filter (fun s => strmOf d c s i x)

/-- The core that runs the plan of a context: the lowest of the partition that is enabled, not fenced and not reserved (R418). -/
def planCore (d : Dev) (i x : Nat) : Option Nat :=
  (List.range 96).find? (fun c => coreOn d c && !coreFenced d c && corePlaced d i x c)

/-- The stream at whose head a plan step of a context waits on a core (R112, R418). -/
def headWait (d : Dev) (c i x : Nat) : Option Nat :=
  match (ctxSt d i x).queue with
  | v :: _ =>
    match v.plan with
    | p :: _ => if v.isPlan ∧ v.started ∧ p.kind = 3 ∧ planCore d i x = some c then some (p.f0 % 16) else none
    | [] => none
  | [] => none

/-- Whether a core holds back the plan of a context: the context is stopping, saved or being restored there (R113, R115, R116). -/
def planHeld (d : Dev) (i x : Nat) : Bool :=
  match planCore d i x with
  | some c => (ctxSt d i x).away.contains c || ((coreState d c == 2 || coreState d c == 3) && (coreCtx d c).2 == (i, x))
  | none => false

/-- The expiry of a stall watch (R112-R114): armed by a blocked stream or a step that waits at a stream's head, suspended by a page wait
and while the context is stopping, saved, being restored or torn down, disabled when its last restart took a `STALL_LIMIT` of 0. -/
def stallExpiry (d : Dev) (c i x : Nat) : Dev :=
  let ss := strmsOf d c i x
  let blocked := ss.filter (fun s => strmState d c s == 3 || strmState d c s == 4 || headWait d c i x == some s)
  let lim := tget (fget d (regCoreStall c) fldCoreStallStallLimit) (coreSt d c).watch (ctxKey i x)
  if lim = 0 || blocked.isEmpty || ss.any (fun s => strmState d c s == 5) || coreFenced d c || coreState d c = 2 || coreState d c = 3
      || (openTeardown d i x).isSome || (ctxSt d i x).away.contains c || d.tier.waits.any (fun w => w.inst == i && w.ctx == x) then d
  else
    let k := regCoreStallLast c
    let d := fset (fset (fset d k fldCoreStallLastBlocked (bitMap blocked)) k fldCoreStallLastInstance i) k fldCoreStallLastContext x
    let d := endCtx d i x 0x4107 0 (c + bitMap blocked * 2 ^ 32)
    ss.foldl (fun d s => setStrmState d c s 7) d

/-! ### Stops, saves and restores (R115-R119) -/

/-- The ashlar copy that the next element of a descriptor lies in: on its source side, else on its destination side (R116). -/
def elemAshlar (d : Dev) (c : Nat) (e : Desc) (l : Nat) : Option Nat :=
  let i := coordOf e l
  let row := if e.kind = 1 ∨ e.kind = 2 then (readIndex d c e.idx).map (·.1) else none
  let o := if (e.kind = 1 ∨ e.kind = 2) ∧ row.isNone then none
    else if e.sspace = 1 ∧ e.kind ≠ 3 then some (sideAddr e.src e.sstr e.esize i (if e.kind = 1 then row else none))
    else if e.dspace = 1 then some (sideAddr e.dst e.dstr e.esize i (if e.kind = 2 then row else none)) else none
  match o with
  | some o => if o < 0 then none else ashAt d (if o.toNat < pierEnd then 1 else 0) o.toNat
  | none => none

/-- Delivers the elements of a stream up to the one that ends the current ashlar, as far as nothing blocks (R116). -/
def toAshlarEnd (c s : Nat) (e : Desc) : Nat → Dev → Dev
  | 0, d => d
  | n + 1, d =>
    let l := startElem d c s e
    let here := elemAshlar d c e l
    if here.isNone || descTotal e ≤ l then d
    else
      let d := runElems c s e 1 l d
      if startElem d c s e = l + 1 ∧ l + 1 < descTotal e ∧ elemAshlar d c e (l + 1) = here then toAshlarEnd c s e n d else d

/-- Stops the streams of a context at the delivery point (R115), or with `stopAt` 1 after the element that ends the current ashlar
(R116): progress is written with `PSTATE` 3, or 2 in page wait, data beyond it is discarded, and an element written but not acknowledged is
written again (R104). An ended stream stays ended. -/
def stopStreams (d : Dev) (c i x stopAt : Nat) : Dev :=
  (strmsOf d c i x).foldl (fun d s =>
    let st := strmState d c s
    if 1 ≤ st ∧ st ≤ 5 then
      let e := parseDesc (devRead d (storeAddr c (descOff d c s)) 128)
      let busy := 2 ≤ st && st ≤ 4 && e.pstate != 4 && e.pstate != 5 &&
        fget d (regCoreStrmPtr c s) fldCoreStrmPtrDescNext < fact d (regCoreStrmDesc c s) fldCoreStrmDescDescCount
      let d := if busy && stopAt = 1 then toAshlarEnd c s e (descTotal e) d else d
      let d := if busy then writeProgress d c s e (startElem d c s e) 3 0 else d
      let d := modStrm d c s (fun t => { t with inBytes := [], asked := [], lines := [], wrElem := none })
      if strmState d c s = 7 then d else setStrmState d c s 6
    else d) d

/-- Stops the bricks of a core that run a context (R115, R116), and gives the save areas written (R117). -/
def stopBricks (d : Dev) (c i x stopAt : Nat) : Dev × List Nat :=
  (List.range 4).foldl (fun (st : Dev × List Nat) b =>
    let a := 4 * c + b
    match (arrSt st.1 a).run with
    | some r =>
      if r.inst = i ∧ r.ctx = x ∧ r.cls ≠ 0 then
        let d := arrStop st.1 a stopAt 0
        let d := if (arrSt d a).run.isSome then arrComplete d a else d
        (d, st.2 ++ [if fget d (regArrStatus a) fldArrStatusSaved = 1 then getAct d (regArrSaveBase a) else 0])
      else (st.1, st.2 ++ [0])
    | none => (st.1, st.2 ++ [0])) (d, [])

/-- The execute engine's state of a context on a core (R117): of a plan that runs there its pointer, the steps completed, the number of its next
step, whether one is in progress, and the stream at whose head it waits; else what the engine held (layout: log entry 37). -/
def engineOf (d : Dev) (c i x : Nat) : Nat :=
  match (ctxSt d i x).queue with
  | v :: _ =>
    if v.isPlan ∧ planCore d i x = some c then
      leNat (natLe 8 (lget 0 v.a 0) ++ natLe 8 v.done ++ natLe 8 v.next ++ natLe 1 (b2n v.started)
        ++ natLe 1 ((headWait d c i x).map (· + 1) |>.getD 0))
    else (coreSt d c).engine
  | [] => (coreSt d c).engine

/-- The bytes of a core save area (R117). -/
def coreSaveBytes (d : Dev) (c i x : Nat) (arrs : List Nat) (valid : Nat) : List Byte :=
  let t := coreSt d c
  let hdr := natLe 2 0x0101 ++ natLe 1 valid ++ natLe 1 0 ++ natLe 4 (i * 16 + x) ++ natLe 8 (ctxSt d i x).step
    ++ (List.range 4).flatMap (fun b => natLe 8 (lget 0 arrs b)) ++ natLe 16 0
  let scal := (List.range 31).flatMap (fun n => natLe 8 (tget 0 t.scalar n)) ++ natLe 8 t.sPoison
  let vp := (List.range 32).flatMap (fun n => natLe 8 (tget 0 t.vPoison n))
  let recs := (List.range 16).flatMap (fun s =>
    natLe 8 (getReg d (regCoreStrmCfg c s)) ++ natLe 8 (getAct d (regCoreStrmDesc c s)) ++ natLe 8 (getReg d (regCoreStrmPtr c s))
      ++ natLe 8 (getReg d (regCoreStrmState c s)) ++ natLe 32 0)
  let vec := (List.range 32).flatMap (fun n => natLe 256 (tget 0 t.vector n))
  hdr ++ scal ++ natLe 256 (engineOf d c i x) ++ vp ++ recs ++ natLe 192 0 ++ vec ++ natLe 6144 0

/-- A corrected core-store error (R95, R121): counted and recorded. -/
def storeCorrected (d : Dev) (c a : Nat) : Dev :=
  record (fsat d (regCoreSramErr c) fldCoreSramErrCorrected 1) { status := 0x2102, addr := a, detail := c }

/-- Stops a context on a core and saves it (R115-R117, R122); a refused save area ends the context. `err` 1 is a core-store error
corrected meanwhile; 2 an uncorrectable one in the save area, with which `VALID` stays 0 and the context ends with 0x410C. -/
def saveCore (d : Dev) (c i x stopAt err : Nat) : Dev :=
  let base := getAct d (regCoreSaveBase c)
  let (d, arrs) := stopBricks d c i x stopAt
  let d := stopStreams d c i x stopAt
  let d := if err = 1 then storeCorrected d c base else d
  match accessErr d (.ctx i x) true base 16384 with
  | some st => endCtx d i x st base c
  | none =>
    let d := devWrite d base (coreSaveBytes d c i x arrs (if err = 2 then 0 else 1)) false
    let d := if err = 2 then endCtx d i x 0x410C base c
      else
        let saved := (List.range 16).map (fun s => strmSt d c s)
        modCtx d i x (fun t => { t with saved := (c, base, saved) :: t.saved.filter (fun e => e.1 != c), away := natPut t.away c })
    modCore d c (fun k => { watch := k.watch, scrubBad := k.scrubBad, scrubAt := k.scrubAt, borrowed := k.borrowed, since := k.since })

/-- The end of a stop on a lent core: a context that was saved awaits its restore (R115, R123). -/
def lentSaved (d : Dev) (c i x : Nat) : Dev :=
  let d := fset d (regCoreStatus c) fldCoreStatusLent 0
  if (ctxSt d i x).away.contains c then fset d (regCoreStatus c) fldCoreStatusLentSaved 1 else d

/-- A write of RECLAIM (R115, R119, R122, R205): the borrowed context, also one whose pre-emption has begun, is stopped at column
boundaries and saved, and slot work may issue; `ns` is the time from the planner's decision to the slot task's start. A restore that has
begun is abandoned. Without a borrowed context there is nothing to stop. -/
def reclaim (d : Dev) (c ns err : Nat) : Dev :=
  if coreState d c = 3 then
    setCoreState (modCore d c (fun k => { watch := k.watch, scrubBad := k.scrubBad, scrubAt := k.scrubAt })) c 0
  else match (coreSt d c).borrowed with
  | none => d
  | some (i, x) =>
    let d := saveCore d c i x 0 err
    let d := setCoreState (lentSaved d c i x) c 0
    let d := modCore d c (fun t => { t with borrowed := none })
    let d := fsat d regTimeSpCount fldTimeSpCountReclaims 1
    let d := fset d regTimeSpReclaimMax fldTimeSpReclaimMaxReclaimMax
      (max (fget d regTimeSpReclaimMax fldTimeSpReclaimMaxReclaimMax) (min ns 65535))
    if (ctxSt d i x).away.contains c then { d with sp := { d.sp with saved := d.sp.saved ++ [(c, i, x)] } } else d

/-- The context that a core runs: the borrowed one, else that of `CORE_CTX`. -/
def runningCtx (d : Dev) (c : Nat) : Nat × Nat :=
  match (coreSt d c).borrowed with
  | some p => p
  | none => (coreCtx d c).2

/-- A write of PREEMPT (R116, R122): the running context is stopped at the next ashlar boundary and saved; until the boundary is
`reached` the core is stopping. -/
def preempt (d : Dev) (c : Nat) (reached : Bool := true) (err : Nat := 0) : Dev :=
  let (i, x) := runningCtx d c
  if (coreState d c ≠ 1 ∧ coreState d c ≠ 2) ∨ coreFenced d c then d
  else if !reached then setCoreState d c 2
  else
    let lent := (coreSt d c).borrowed.isSome
    let d := saveCore d c i x 1 err
    let d := modCore d c (fun k => { k with borrowed := none })
    setCoreState (if lent then lentSaved d c i x else d) c 0

/-- The save of a context that a restore takes up (R117, R118): of this core, else of the core that saved at the same offset of its
store. -/
def savedEntry (d : Dev) (i x c base : Nat) : Option (Nat × Nat × List StrmSt) :=
  let l := (ctxSt d i x).saved
  (l.find? (fun e => e.1 == c)).or (l.find? (fun e => e.2.1 % 0x400000 == base % 0x400000))

/-- The streams of a context as a save left them. -/
def savedStreams (d : Dev) (i x c base : Nat) : List StrmSt := ((savedEntry d i x c base).map (fun e => e.2.2)).getD []

/-- A context is back on a core (R113, R118): it is no longer saved, and its stall watch starts again from zero. -/
def ctxBack (d : Dev) (i x c base : Nat) : Dev :=
  let from_ := ((savedEntry d i x c base).map (fun e => e.1)).getD c
  let d := modCtx d i x (fun t => { t with away := t.away.filter (fun k => k != c && k != from_) })
  modCore d c (fun k => { k with watch := tset k.watch (ctxKey i x) (fget d (regCoreStall c) fldCoreStallStallLimit) })

/-- The registers of a core as a save area holds them (R117). -/
def savedRegs (d : Dev) (base : Nat) : CoreSt :=
  { scalar := (List.range 31).map (fun r => (r, devNat d (base + 64 + 8 * r) 8))
    sPoison := devNat d (base + 312) 8
    engine := devNat d (base + 320) 256
    vPoison := (List.range 32).map (fun r => (r, devNat d (base + 576 + 8 * r) 8))
    vector := (List.range 32).map (fun r => (r, devNat d (base + 2048 + 256 * r) 256)) }

/-- A stream reloaded from its record in the save area at `base` (R117, R118), when it was saved for this context and was not idle: one
whose page answer failed, or that has waited too long, fails. -/
def restoreStream (base c si sx : Nat) (strms : List StrmSt) (d : Dev) (s : Nat) : Dev :=
  let o := base + 832 + 64 * s
  let t := lget {} strms s
  let cfg := devNat d o 8
  let st := devNat d (o + 24) 4
  if bitOf cfg 0 ∧ t.slot = false ∧ t.inst = si ∧ t.ctx = sx ∧ st % 16 ≠ 0 then
    let desc := devNat d (o + 8) 8
    let ptr := devNat d (o + 16) 8
    let d := commitReg (setReg d (regCoreStrmCfg c s) cfg) (regCoreStrmCfg c s)
    let d := commitReg (setReg d (regCoreStrmDesc c s) desc) (regCoreStrmDesc c s)
    let d := setReg (setReg d (regCoreStrmPtr c s) ptr) (regCoreStrmState c s) st
    let late := pageLate d t
    let d := modStrm d c s (fun _ =>
      { t with
        left := 0
        failing := if t.resp = some false || late then 0x3103 else t.failing
        pageReq := if late then none else t.pageReq
        resp := none })
    if st % 16 = 7 then d else setStrmState d c s (if t.pageReq.isSome && !late then 5 else 1)
  else d

/-- A brick resumed from its save area, if the save area of the core at `base` names one (R85, R117). -/
def restoreBrick (base c ctx : Nat) (d : Dev) (b : Nat) : Dev :=
  let sv := devNat d (base + 16 + 8 * b) 8
  let a := 4 * c + b
  if sv = 0 then d
  else arrGo (setReg (setReg d (regArrSaveBase a) sv) (regArrCtx a) ctx) a true

/-- A write of RESTORE (R118): a usable save area reloads registers, streams and bricks, else the context ends with
0x410A. It takes effect on an idle core; while it has not got `whole`, the core is restoring, and a RECLAIM abandons it (R119). -/
def restoreCore (d : Dev) (c : Nat) (whole : Bool := true) : Dev :=
  let base := getAct d (regCoreSaveBase c)
  let (cls, i, x) := coreCtx d c
  let who : Who := .ctx i x
  if !coreOn d c || (coreState d c ≠ 0 && coreState d c ≠ 3) || coreFenced d c then d
  else if (accessErr d who false base 16384).isSome || isPoisoned d base 64 || devNat d base 2 ≠ 0x0101
      || devNat d (base + 2) 1 ≠ 1 then setCoreState (endCtx d i x 0x410A base c) c 0
  else
    let si := devNat d (base + 4) 4 / 16 % 128
    let sx := devNat d (base + 4) 4 % 16
    let regs := savedRegs d base
    let d := modCore d c (fun k => { regs with watch := k.watch, scrubBad := k.scrubBad, scrubAt := k.scrubAt })
    if !whole then setCoreState d c 3
    else
      let reserved := fget d (regCorePart c) fldCorePartSlotReserved = 1
      let d := modCore d c (fun k => { k with borrowed := if reserved then some (si, sx) else none })
      let d := if reserved then
          fset (fset d (regCoreStatus c) fldCoreStatusLent 1) (regCoreStatus c) fldCoreStatusLentSaved 0 else d
      let d := { d with sp := { d.sp with saved := d.sp.saved.filter (fun p => p.2 != (si, sx)) } }
      let strms := savedStreams d si sx c base
      let d := startCore (ctxBack d si sx c base) c
      let d := (List.range 16).foldl (restoreStream base c si sx strms) d
      (List.range 4).foldl (restoreBrick base c (cls * 2048 + si * 16 + sx)) d

/-- An uncorrectable error in a core's registers or engine state (R121): its context ends with 0x410C. -/
def coreStateLost (d : Dev) (c : Nat) : Dev :=
  let (i, x) := runningCtx d c
  endCtx d i x 0x410C 0 c

/-! ### The slot planner's reserve (R214-R217) -/

/-- A bit of a pair of LO and HI registers. -/
def bit96 (d : Dev) (lo hi c : Nat) : Bool := if c < 64 then bitOf (getReg d lo) c else bitOf (getReg d hi) (c - 64)

/-- Sets a bit of a pair of LO and HI registers. -/
def setBit96 (d : Dev) (lo hi c : Nat) (v : Bool) : Dev :=
  if c < 64 then setReg d lo (setBits (getReg d lo) c 1 (b2n v)) else setReg d hi (setBits (getReg d hi) (c - 64) 1 (b2n v))

/-- Whether a core is in the reserve. -/
def inReserve (d : Dev) (c : Nat) : Bool := bit96 d regTimeSpResLo regTimeSpResHi c
/-- Whether a core is a free spare. -/
def isSpare (d : Dev) (c : Nat) : Bool := bit96 d regTimeSpSpareLo regTimeSpSpareHi c
/-- Puts a core into the reserve or out of it. -/
def setReserve (d : Dev) (c : Nat) (v : Bool) : Dev := setBit96 d regTimeSpResLo regTimeSpResHi c v
/-- Makes a core a free spare or takes that from it. -/
def setSpare (d : Dev) (c : Nat) (v : Bool) : Dev := setBit96 d regTimeSpSpareLo regTimeSpSpareHi c v
/-- The free spares, lowest first. -/
def spares (d : Dev) : List Nat := (List.range 96).filter (isSpare d)

/-- Whether an admission is in force. -/
def admitted (d : Dev) : Bool := !d.sp.cars.isEmpty

/-- Shows the spares and the state of the reserve (R226). -/
def showSpares (d : Dev) : Dev :=
  let n := min 2 (spares d).length
  let d := fset d regTimeSpStatus fldTimeSpStatusSpares n
  fset d regTimeSpStatus fldTimeSpStatusState (if admitted d then (if n = 2 then 1 else 2) else 0)

/-- The lowest idle core of the replacement pool (R215, R226). -/
def poolCore (d : Dev) : Option Nat :=
  (List.range 96).find? (fun c => bit96 d regTimeSpPoolLo regTimeSpPoolHi c && coreOn d c && !inReserve d c
    && d.sp.adding.all (fun x => x.1 != c) && !d.sp.returning.contains c && !coreFenced d c && fget d (regCorePart c) fldCorePartOwner == 0 && coreState d c == 0)

/-- The number that stands for a role of a pair that no core holds. -/
def noCore : Nat := 0xFFFF

/-- The pair and side that a core serves (R149): side 0 takes the even symbols, side 1 the odd ones (R189). -/
def roleOf (d : Dev) (c : Nat) : Option (Nat × Nat) :=
  d.sp.pairs.findSome? (fun p => if p.2.1 = c then some (p.1, 0) else if p.2.2 = c then some (p.1, 1) else none)

/-- The core of a side of a pair. -/
def pairCore (d : Dev) (p side : Nat) : Nat :=
  match tget? d.sp.pairs p with
  | none => noCore
  | some x => if side = 0 then x.1 else x.2

/-- Gives a role to a core, or to none. -/
def setPair (d : Dev) (p side c : Nat) : Dev :=
  modSp d (fun s => { s with pairs := tmod (noCore, noCore) s.pairs p (fun x => if side = 0 then (c, x.2) else (x.1, c)) })

/-- The queue key of a role that no core holds. -/
def holeKey (p side : Nat) : Nat := 96 + 2 * p + side

/-- The first role that no core holds. -/
def holeOf (d : Dev) : Option (Nat × Nat) :=
  d.sp.pairs.findSome? (fun p => if p.2.1 = noCore then some (p.1, 0) else if p.2.2 = noCore then some (p.1, 1) else none)

/-- The tasks a core holds: the running one first, then the urgent ones. -/
def coreTasks (d : Dev) (c : Nat) : List Task := (tget? d.sp.running c).toList ++ tget [] d.sp.urgent c ++ tget [] d.sp.queue c

/-- The time of a reclaim for a re-dispatch or a change of role (R205): no command reports it, so it is free within the bound. -/
def reclaimTime (d : Dev) (c : Nat) : Nat := Config.reclaimNs c (tb2 d) % 2001

/-- Gives a free spare the role that a failed core left (R214): a lent spare is reclaimed, the spare copies its uplink inputs from the
pair partner and takes over the tasks, and 0x2702 is recorded. -/
def assignSpare (d : Dev) (p side s : Nat) : Dev :=
  let d := setSpare (reclaim d s (reclaimTime d s) 0) s false
  let partner := pairCore d p (1 - side)
  let d := if partner = noCore then d else copyMirror d partner s
  let ts := tget [] d.sp.queue (holeKey p side)
  let d := modSp (setPair d p side s) (fun x => { x with queue := tset (tdel x.queue (holeKey p side)) s ts })
  let d := fsat d regRadioMiss fldRadioMissRedispatch 1
  let first := ((d.sp.cars.find? (fun x => x.pair == p)).map (fun x => x.carrier)).getD 0
  let now := slotNow d
  let t0 := lget { carrier := first, index := 0, frame := frameOf d now, slot := slotOf d (carMu d first) now } ts 0
  record d { status := 0x2702, inst := 0, detail := radioDetail t0.carrier t0.frame t0.slot s }

/-- A core joins the reserve as a free spare. -/
def joinReserve (d : Dev) (c : Nat) : Dev :=
  fset (setSpare (setReserve d c true) c true) (regCorePart c) fldCorePartSlotReserved 1

/-- Balances the reserve (R214, R215): free spares take roles that no core holds, and pool cores join while fewer than two spares
are free, with 0x1942 each; `fault` tells that 0x1941 is recorded when the pool has no idle core left. -/
def rebalance (fault : Bool) : Nat → Dev → Dev
  | 0, d => showSpares d
  | n + 1, d =>
    match (if admitted d then some (holeOf d, spares d) else none) with
    | none => showSpares d
    | some (some (p, side), s :: _) => rebalance fault n (assignSpare d p side s)
    | some (_, l) =>
      if 2 ≤ l.length then showSpares d
      else
        match poolCore d with
        | some c => rebalance fault n (record (joinReserve d c) { status := 0x1942 })
        | none => if fault then record (showSpares d) { status := 0x1941 } else showSpares d

/-- The tasks of roles that no core holds miss their slots (R216, route "no spare"). -/
def missHoles (d : Dev) : Dev :=
  d.sp.pairs.foldl (fun d p => [0, 1].foldl (fun d side =>
    let k := holeKey p.1 side
    let ts := tget [] d.sp.queue k
    ts.foldl taskMiss (modSp d (fun s => { s with queue := tdel s.queue k }))) d) d

/-- Whether two records hold the same PRBs. -/
def sameRec (a b : LandRec) : Bool :=
  a.carrier == b.carrier && a.frame == b.frame && a.slot == b.slot && a.sym == b.sym && a.stream == b.stream && a.first == b.first

/-- The rings of a core are lost: uplink inputs of which no ring of its partner holds a copy are gone, for the side of the pair that
processes them (R149, R216). -/
def loseRings (d : Dev) (c mate side : Nat) : Dev :=
  let mine := ringsOf d c
  let theirs := if mate = noCore then {} else ringsOf d mate
  let lost := (mine.land.filter (fun r => !r.free && !theirs.mirror.any (sameRec r))).map (fun r => (r, side))
    ++ (mine.mirror.filter (fun r => !r.free && !theirs.land.any (sameRec r))).map (fun r => (r, 1 - side))
  lost.foldl (fun d x => modSlot d x.1.carrier x.1.frame x.1.slot (fun w => { w with gone := natPut w.gone x.2 })) (modRings d c (fun _ => {}))

/-- Whether the uplink inputs of a task of a side are gone. -/
def inputsGone (d : Dev) (t : Task) (side : Nat) : Bool := t.uplink && (slotW d t.carrier t.frame t.slot).gone.contains side

/-- A core of the reserve fails (R214-R216): on a fence it leaves the reserve with its rings; after a task's fatal status it leaves until the
next slot boundary. Its role goes to a spare with its tasks, the interrupted one to start first, but for those whose uplink inputs are gone
(R216, route "pair lost"). -/
def loseRole (d : Dev) (c : Nat) (fenced : Bool) : Dev :=
  let d := if fenced then d else modSp (setReserve d c false) (fun s => { s with returning := natPut s.returning c })
  match roleOf d c with
  | none => rebalance true 8 d
  | some (p, side) =>
    let mate := pairCore d p (1 - side)
    let ts := ((tget? d.sp.running c).map (fun t => { t with again := true })).toList ++ tget [] d.sp.urgent c ++ tget [] d.sp.queue c
    let d := if fenced then loseRings d c mate side else d
    let (gone, kept) := ts.partition (fun t => inputsGone d t side)
    let d := modSp (setPair d p side noCore) (fun s => { s with
      queue := tset (tdel s.queue c) (holeKey p side) kept
      urgent := tdel s.urgent c
      running := tdel s.running c })
    missHoles (rebalance true 8 (gone.foldl taskMiss d))

/-! ### Fences (R437-R439) -/

/-- The number of fenced cores. -/
def fencedCount (d : Dev) : Nat := ((List.range 96).filter (coreFenced d)).length

/-- The advice of the management part when the ninth core is fenced, or when fenced cores fall to 8 (R443). -/
def fenceAdvice (d : Dev) (was now : Nat) : Dev :=
  let score := 1000 - min 1000 (tget 0 d.flt.bad partMgt / 2 ^ 16)
  if was ≤ 8 ∧ 8 < now ∧ tget 0 d.flt.advice partMgt = 0 then
    let d := { d with flt := { d.flt with advice := tset d.flt.advice partMgt 5 } }
    record d { status := 0x1A4A, addr := partMgt, detail := 5 + 5 * 2 ^ 8 + score * 2 ^ 16 }
  else if 8 < was ∧ now ≤ 8 ∧ tget 0 d.flt.advice partMgt ≠ 0 ∧ fget d regMgtFhScore fldMgtFhScoreAdviseLo ≤ score then
    let d := { d with flt := { d.flt with advice := tset d.flt.advice partMgt 0 } }
    record d { status := 0x1A4A, addr := partMgt, detail := 5 * 2 ^ 8 + score * 2 ^ 16 }
  else d

/-- Sets back the ring of a peer stream to the slot at which a fenced core's descriptor began, and stops it (R120). -/
def rewindPeer (d : Dev) (c s : Nat) : Dev :=
  let e := parseDesc (devRead d (storeAddr c (descOff d c s)) 128)
  if e.dspace = 4 ∧ e.pstate < 4 ∧
      fget d (regCoreStrmPtr c s) fldCoreStrmPtrDescNext < fact d (regCoreStrmDesc c s) fldCoreStrmDescDescCount then
    let pc := e.dst / 256 % 128
    let ps := e.dst % 16
    let sz := bufSize d pc ps
    let done := startElem d c s e * 2 ^ e.esize
    let fill := (strmSt d pc ps).fill
    let slots := (done - fill + sz - 1) / sz
    let tail := (strmTail d pc ps + countMod d pc ps - slots % max 1 (countMod d pc ps)) % max 1 (countMod d pc ps)
    let d := fset d (regCoreStrmPtr pc ps) fldCoreStrmPtrTail tail
    let d := modStrm d pc ps (fun t =>
      { t with
        fill := (fill + slots * sz - done) % sz
        credits := t.credits.map (· + slots) })
    setStrmState d pc ps 6
  else d

/-- What a fence takes of a context's streams on a core (R120). -/
def rerunOf (d : Dev) (c i x : Nat) : Rerun :=
  { core := c, inst := i, ctx := x,
    strms := ((strmsOf d c i x).filter (fun s => decide (1 ≤ strmState d c s ∧ strmState d c s ≤ 6))).map (fun s =>
      { strm := s, cfg := getReg d (regCoreStrmCfg c s), desc := getAct d (regCoreStrmDesc c s),
        ptr := fget d (regCoreStrmPtr c s) fldCoreStrmPtrDescNext }) }

/-- Whether a core stands idle: it runs no context, no stream and no brick. -/
def coreStands (d : Dev) (c : Nat) : Bool :=
  coreOn d c && !coreFenced d c && coreState d c == 0 && (List.range 16).all (fun s => [0, 6, 7].contains (strmState d c s))
    && (List.range 4).all (fun b => (arrSt d (4 * c + b)).run.isNone)

/-- Whether a core that stands idle may take a context's work (R218, R220). -/
def coreIdle (d : Dev) (i x c : Nat) : Bool := coreStands d c && coreServes d i x c && unitLeft d i x c

/-- Starts a stream of a fenced core again on core `n` (R120): its descriptors as the catalogue rebuilds them, the one in progress and
those after it from their first element, into empty buffers; a peer ring that it feeds runs again (log entry 120). -/
def rerunStrm (o n i x : Nat) (d : Dev) (r : RerunStrm) : Dev :=
  let base := bitsAt r.desc fldCoreStrmDescDescBase.lo fldCoreStrmDescDescBase.w
  let count := bitsAt r.desc fldCoreStrmDescDescCount.lo fldCoreStrmDescDescCount.w
  let d := devCopy d (storeAddr o base) (storeAddr n base) (128 * count)
  let d := (rangeFrom r.ptr (count - r.ptr)).foldl (fun d k => devWrite d (storeAddr n (base + 128 * k + 0x60)) (natLe 28 0) false) d
  let d := commitReg (setReg d (regCoreStrmCfg n r.strm) r.cfg) (regCoreStrmCfg n r.strm)
  let d := commitReg (setReg d (regCoreStrmDesc n r.strm) r.desc) (regCoreStrmDesc n r.strm)
  let d := fset (setReg d (regCoreStrmPtr n r.strm) 0) (regCoreStrmPtr n r.strm) fldCoreStrmPtrDescNext r.ptr
  let d := modStrm d n r.strm (fun _ => { inst := i, ctx := x })
  let e := parseDesc (devRead d (storeAddr n (base + 128 * r.ptr)) 128)
  let d := if e.dspace = 4 ∧ r.ptr < count ∧ strmState d (e.dst / 256 % 128) (e.dst % 16) = 6 then
      setStrmState d (e.dst / 256 % 128) (e.dst % 16) 1 else d
  setStrmState d n r.strm 1

/-- Runs a context that a fence took off its core on core `n` (R120, R438). -/
def rerunOn (d : Dev) (n : Nat) (r : Rerun) : Dev :=
  let ctx := (ctxSt d r.inst r.ctx).cls % 4 * 2048 + r.inst * 16 + r.ctx
  let d := commitReg (setReg d (regCoreCtx n) ctx) (regCoreCtx n)
  let d := modCtx d r.inst r.ctx (fun t => { t with away := t.away.filter (· != r.core) })
  startCore (r.strms.foldl (rerunStrm r.core n r.inst r.ctx) d) n

/-- Places the contexts that wait for a core after a fence, as far as cores of their partitions are idle, the lowest first
(R438). -/
def placeReruns : List Rerun → Dev → Dev
  | [], d => d
  | r :: rest, d =>
    if (openTeardown d r.inst r.ctx).isSome || !(ctxSt d r.inst r.ctx).live then placeReruns rest d
    else match (List.range 96).find? (coreIdle d r.inst r.ctx) with
    | some n => placeReruns rest (rerunOn d n r)
    | none => placeReruns rest { d with reruns := d.reruns ++ [r] }

/-! ### Prompt over soak (R218, R219, R225) -/

/-- Whether a unit of its partition serves a context: core c, or 96 + n for keystone n. -/
def unitServes (d : Dev) (i x u : Nat) : Bool :=
  if u < 96 then coreOn d u && !coreFenced d u && corePlaced d i x u else keyOn d (u - 96) && !keyFenced d (u - 96) && keyPlaced d i x (u - 96)

/-- Whether a unit of its partition is free for a context. -/
def unitFree (d : Dev) (i x u : Nat) : Bool :=
  unitServes d i x u && (tget? d.taken u).isNone && (if u < 96 then coreStands d u else (arrSt d (384 + (u - 96))).run.isNone)

/-- Whether a unit runs a context's work or is occupied for it. -/
def hasUnit (d : Dev) (i x : Nat) : Bool :=
  d.taken.any (·.2 == (i, x)) || (List.range 96).any (fun c => (coreState d c == 1 || coreState d c == 2) && runningCtx d c == (i, x))

/-- When the soak work of a unit of a partition started; none where it runs no soak work. -/
def soakSince (d : Dev) (i x u : Nat) : Option Nat :=
  if !unitServes d i x u then none
  else if u < 96 then
    let (j, y) := runningCtx d u
    if coreState d u == 1 && (ctxSt d j y).live && (ctxSt d j y).cls == 2 then
      some ((List.range 4).foldl (fun t b => max t (((arrSt d (4 * u + b)).run.map (fun r => r.since)).getD 0)) (coreSt d u).since)
    else none
  else
    match (arrSt d (384 + (u - 96))).run with
    | some r => if r.cls = 2 ∧ (tget? d.taken u).isNone then some r.since else none
    | none => none

/-- The victim of a prompt request: the unit whose soak work started last, ties to the lowest core and then to K0 to K3. -/
def victim (d : Dev) (i x : Nat) : Option Nat :=
  ((List.range 100).foldl (fun (best : Option (Nat × Nat)) u =>
    match soakSince d i x u, best with
    | some t, some (_, s) => if s < t then some (u, t) else best
    | some t, none => some (u, t)
    | none, _ => best) none).map (·.1)

/-- Pre-empts the soak work of a core, which is parked for its resume (R116, R219). -/
def parkCore (d : Dev) (c : Nat) : Dev :=
  let (j, y) := runningCtx d c
  let d := preempt d c
  if (ctxSt d j y).away.contains c then { d with parked := d.parked ++ [(c, j, y)] } else d

/-- Stops the soak work of an array, which waits with what was queued behind it for an array of its kind (R81, R219). -/
def parkArray (d : Dev) (a : Nat) : Dev :=
  let t := arrSt d a
  let d := arrStop d a 1 0
  if (arrSt d a).run.isSome then d
  else
    let saved := fget d (regArrStatus a) fldArrStatusSaved = 1
    let run := (t.run.filter (fun _ => saved)).map (fun r => { r with from_ := some (getAct d (regArrSaveBase a)) })
    { d with shares := d.shares ++ (run.toList ++ t.queued.toList).map (fun r => (a, r)) }

/-- An accepted request of a prompt context takes a free core or keystone of its partition, else the one of a victim among the soak work there;
while prompt work holds them all, it waits (R202, R218, R225; log entry 155). -/
def makeRoom (d : Dev) (i x : Nat) : Dev :=
  let give := fun (d : Dev) (u : Nat) => { d with taken := tset d.taken u (i, x) }
  if (ctxSt d i x).cls ≠ 1 || hasUnit d i x || d.waiting.contains (i, x) then d
  else match (List.range 100).find? (unitFree d i x) with
  | some u => give d u
  | none => match victim d i x with
    | some u => give (if u < 96 then parkCore d u else parkArray d (384 + (u - 96))) u
    | none => if (List.range 100).any (unitServes d i x) then { d with waiting := d.waiting ++ [(i, x)] } else d

/-- A context occupies no unit any more, and waits for none. -/
def dropUnit (d : Dev) (i x : Nat) : Dev :=
  { d with taken := d.taken.filter (·.2 != (i, x)), waiting := d.waiting.filter (· != (i, x)) }

/-- Whether work of a context is placed now. -/
def ctxActive (d : Dev) (i x : Nat) : Bool :=
  (ctxSt d i x).live && (ctxSt d i x).ending.isNone && instState d i == 2 && (instSt d i).freezing.isNone

/-- The prompt contexts that wait take units in the order of their acceptance, those first whose unit was fenced or went to a task (R218, R225). -/
def placePrompt (d : Dev) : Dev :=
  let (kept, lost) := d.taken.partition (fun p => unitServes d p.2.1 p.2.2 p.1)
  (lost.map (·.2) ++ d.waiting).foldl (fun d w =>
    if ctxActive d w.1 w.2 then makeRoom d w.1 w.2
    else if (ctxSt d w.1 w.2).live then { d with waiting := d.waiting ++ [w] } else d) { d with taken := kept, waiting := [] }

/-- A parked context is restored from its save on its core (R118, R219). -/
def unpark (d : Dev) (c i x : Nat) : Dev :=
  match (ctxSt d i x).saved.find? (fun e => e.1 == c) with
  | none => d
  | some e =>
    let d := setReg (setReg d (regCoreSaveBase c) e.2.1) (regCoreCtx c) ((ctxSt d i x).cls % 4 * 2048 + i * 16 + x)
    restoreCore (commitRegs d [regCoreSaveBase c, regCoreCtx c]) c

/-- The parked contexts whose core is free again go on there (R219); one that was restored or that a fence moved is parked no more. -/
def resumeParked (d : Dev) : Dev :=
  d.parked.foldl (fun d p =>
    if !(ctxSt d p.2.1 p.2.2).live || !(ctxSt d p.2.1 p.2.2).away.contains p.1 then d
    else if ctxActive d p.2.1 p.2.2 && coreIdle d p.2.1 p.2.2 p.1 then unpark d p.1 p.2.1 p.2.2
    else { d with parked := d.parked ++ [p] }) { d with parked := [] }

/-- Places what waits for units: prompt contexts, then parked soak contexts, then what fences and pre-emptions took off their units (R86, R120,
R218, R219, R438). -/
def placeWork (d : Dev) : Dev :=
  let d := resumeParked (placePrompt d)
  let d := placeReruns d.reruns { d with reruns := [] }
  placeShares d.shares { d with shares := [] }

/-- Ends what a fence ends on a core itself (R438): its streams, its registers, its signal datapath. -/
def stopCore (d : Dev) (c : Nat) : Dev :=
  let d := (List.range 16).foldl (fun d s =>
    if strmState d c s = 0 then d
    else setStrmState (modStrm (rewindPeer d c s) c s (fun _ => {})) c s 7) d
  let d := modCore d c (fun _ => {})
  if fget d (regSigStatus c) fldSigStatusState = 1 then
    fset (fset (fset d (regSigStatus c) fldSigStatusState 0) (regSigStatus c) fldSigStatusInHandler 0) (regSigStatus c)
      fldSigStatusIrqPending 0
  else d

/-- The contexts that run or hold streams on a core. -/
def coreUsers (d : Dev) (c : Nat) : List (Nat × Nat) :=
  let strms := (List.range 16).filterMap (fun s =>
    if 1 ≤ strmState d c s ∧ strmState d c s ≤ 6 ∧ !(strmSt d c s).slot then some ((strmSt d c s).inst, (strmSt d c s).ctx) else none)
  (strms ++ (if coreState d c = 1 ∨ coreState d c = 2 then [runningCtx d c] else [])).eraseDups.filter (fun u => (ctxSt d u.1 u.2).live)

/-- The fence of a core (R438, R120, R86, R439): its streams end, its bricks stop and their shares run elsewhere, contexts that left
stream state on it end with 0x4114 and the others run again on another core, a reserved core leaves the reserve with its tasks handed
to a spare. -/
def fenceCore (d : Dev) (c : Nat) : Dev :=
  if coreFenced d c || !coreOn d c then d
  else
    let was := fencedCount d
    let users := coreUsers d c
    let again := (users.filter (fun u => !(ctxSt d u.1 u.2).hand.contains c && (openTeardown d u.1 u.2).isNone)).map (fun u =>
      rerunOf d c u.1 u.2)
    let d := setBit96 d regMgtFhFencedLo regMgtFhFencedHi c true
    let d := fset (setCoreState d c 4) (regCoreStatus c) fldCoreStatusLent 0
    let d := record d { status := 0x2111, detail := c }
    let d := users.foldl (fun d u => if (ctxSt d u.1 u.2).hand.contains c then endCtx d u.1 u.2 0x4114 0 c else d) d
    let d := (List.range 4).foldl (fun d b => arrFence d (4 * c + b)) d
    let d := stopCore d c
    let d := if inReserve d c then
        let d := { d with flt := { d.flt with wasRes := natPut d.flt.wasRes c } }
        loseRole (setSpare (setReserve d c false) c false) c true
      else d
    let d := placeWork { d with reruns := d.reruns ++ again }
    fenceAdvice d was (was + 1)

/-- The fence of a keystone (R86, R438): its invocations are placed again on other keystones. -/
def fenceKey (d : Dev) (n : Nat) : Dev :=
  if keyFenced d n || !keyOn d n then d
  else
    let d := setReg d regMgtFhFencedHi (setBits (getReg d regMgtFhFencedHi) (32 + n) 1 1)
    let d := record d { status := 0x2207, detail := 1 + 0x7F * 2 ^ 8 + n * 2 ^ 16 }
    placeWork (arrFence d (384 + n))

/-- The kind of a radio accelerator by its bit of `RADIO_ACCEL_FENCE`: 0 darner, 1 encoder, 2 polar unit, 3 transform unit, 4 preamble
detector. -/
def accelKind (n : Nat) : Nat := if n < 16 then 0 else if n < 24 then 1 else if n < 28 then 2 else if n < 36 then 3 else 4

/-- Fenced accelerators of a kind. -/
def kindFenced (d : Dev) (k : Nat) : Nat :=
  ((List.range 44).filter (fun n => accelKind n == k && bitOf (getReg d regRadioAccelFence) n)).length

/-- The fence of radio accelerator `n`, numbered as the bits of `RADIO_ACCEL_FENCE` (R167, R438). -/
def fenceAccel (d : Dev) (n : Nat) : Dev :=
  if bitOf (getReg d regRadioAccelFence) n then d
  else
    let kind := accelKind n
    let first := lget 0 [0, 16, 24, 28, 36] kind
    let d := setReg d regRadioAccelFence (setBits (getReg d regRadioAccelFence) n 1 1)
    record d { status := 0x2703, inst := 0, detail := kind * 2 ^ 48 + (n - first) * 2 ^ 56 }

/-- Counts a state-lost error of a unit (core c, or 96 + n for keystone n) and fences it at the limit (R437). -/
def noteStateLost (d : Dev) (u : Nat) : Dev :=
  let lim := fget d regMgtFhFence fldMgtFhFenceStateLostFence
  let win := fget d regMgtFhFence fldMgtFhFenceFenceWindow * 3600 * subPerSec
  let times := (tb2 d :: tget [] d.flt.lostAt u).filter (fun t => decide (tb2 d < t + win))
  let d := { d with flt := { d.flt with lostAt := tset d.flt.lostAt u times } }
  if lim ≠ 0 ∧ lim ≤ times.length then (if u < 96 then fenceCore d u else fenceKey d (u - 96)) else d

/-- The bank of a core-store offset (R93). -/
def storeBank (off : Nat) : Nat := if off < 0x80000 then off / 64 % 4 else 4 + off / 64 % 28

/-- The scrub period (R95): consecutive intervals of 500 ms of TB2. -/
def scrubPeriod (d : Dev) : Nat := tb2 d / (subPerSec / 2)

/-- A scrub read of a core-store word (R95, R437): corrected, or poisoned; a second newly poisoned word in another bank in
one scrub period fences the core. -/
def storeScrub (d : Dev) (c word : Nat) (outcome : Nat) : Dev :=
  let a := storeAddr c (32 * word)
  if !coreOn d c then d
  else if outcome = 1 then
    storeCorrected d c a
  else if outcome = 2 ∧ !d.poison.contains a then
    let d := { d with poison := natPut d.poison a }
    let d := record (fsat d (regCoreSramErr c) fldCoreSramErrPoisoned 1) { status := 0x1108, addr := a, detail := c }
    let t := coreSt d c
    let seen := if t.scrubAt = scrubPeriod d then t.scrubBad else []
    let d := modCore d c (fun t =>
      { t with
        scrubAt := scrubPeriod d
        scrubBad := storeBank (32 * word) :: seen })
    if seen.any (· != storeBank (32 * word)) then fenceCore d c else d
  else d

end Sys2Proof.Machine
end

