-- ==== Sys2Proof/Machine/Mailbox.lean ====
section
/-!
DEFINITION. The mailboxes (R384-R390, R404, R405, R410): fetching with admission credits and busy answers, and the common
checks under which a fetched command starts and ends.
-/

namespace Sys2Proof.Machine

/-- Who may submit a command (R405). -/
inductive Issuer where
  | own | pf | both
  deriving DecidableEq, Repr

/-- A row of the command tables (R405, R448, R470): level, issuer, cost, whether it names a context, whether it acts on the
device as a whole, the arguments it lists. -/
structure OpInfo where
  level  : Nat
  issuer : Issuer
  cost   : Nat
  isCtx  : Bool := false
  dev    : Bool := false
  args   : List Nat
  deriving DecidableEq, Repr

/-- The commands of an instance's life and of its resources (R405). -/
def opInfoBase : Nat → Option OpInfo
  | 0x0001 => some ⟨1, .own, 5, false, false, [0]⟩
  | 0x0002 => some ⟨1, .both, 5, false, false, [0]⟩
  | 0x0003 => some ⟨1, .pf, 2, false, true, [0, 1]⟩
  | 0x0004 => some ⟨1, .pf, 2, false, true, [0, 1, 2, 3]⟩
  | 0x0010 => some ⟨1, .pf, 200, false, false, [0, 1, 2, 3, 4, 5, 6]⟩
  | 0x0011 => some ⟨1, .pf, 200, false, false, []⟩
  | 0x0012 => some ⟨1, .pf, 20, false, false, [0, 1, 2, 3]⟩
  | 0x0013 => some ⟨1, .pf, 20, false, false, [0, 1, 2]⟩
  | 0x0014 => some ⟨1, .pf, 10, false, true, [0, 1]⟩
  | 0x0015 => some ⟨1, .pf, 10, false, true, [0, 1, 2]⟩
  | 0x0016 => some ⟨1, .pf, 10, false, true, [0, 1, 2, 3]⟩
  | 0x0017 => some ⟨1, .pf, 10, false, true, [0]⟩
  | 0x0018 => some ⟨1, .both, 10, false, false, [0, 1, 2, 3, 4, 5]⟩
  | 0x0019 => some ⟨1, .own, 5, false, false, [0, 1, 2, 3]⟩
  | 0x0030 => some ⟨2, .pf, 2000, false, true, [0, 1, 2, 3]⟩
  | 0x0031 => some ⟨2, .pf, 50, false, true, [0, 1, 2, 3, 4, 5, 6]⟩
  | 0x0032 => some ⟨2, .pf, 50, false, true, [0]⟩
  | 0x0033 => some ⟨2, .pf, 2, false, true, [0, 1]⟩
  | 0x0034 => some ⟨2, .both, 50, false, false, []⟩
  | 0x0035 => some ⟨2, .both, 50, false, false, []⟩
  | 0x0036 => some ⟨2, .both, 20, false, false, [0]⟩
  | 0x0037 => some ⟨2, .both, 100, false, false, [0, 1, 2]⟩
  | 0x0038 => some ⟨2, .both, 500, false, false, [0, 1, 2, 3]⟩
  | 0x0039 => some ⟨1, .pf, 50, false, false, []⟩
  | 0x0040 => some ⟨3, .pf, 20, false, true, [0, 1, 2]⟩
  | 0x0041 => some ⟨3, .pf, 20, false, true, [0]⟩
  | 0x0042 => some ⟨3, .pf, 20, false, true, [0, 1, 2, 3]⟩
  | 0x0043 => some ⟨3, .both, 2, false, false, [0]⟩
  | _ => none

/-- The commands that name a context (R384, R405). -/
def opInfoCtx : Nat → Option OpInfo
  | 0x0020 => some ⟨1, .own, 50, true, false, [0, 1, 2, 3, 4, 5]⟩
  | 0x0021 => some ⟨1, .own, 20, true, false, []⟩
  | 0x0022 => some ⟨1, .own, 10, true, false, [0, 1, 2, 3, 4, 5, 6]⟩
  | 0x0023 => some ⟨1, .own, 4, true, false, [0, 1, 2, 3, 4, 5, 6]⟩
  | 0x0024 => some ⟨1, .own, 4, true, false, [0]⟩
  | 0x0025 => some ⟨1, .own, 4, true, false, [0, 1, 2, 3, 4, 5, 6]⟩
  | 0x0026 => some ⟨1, .own, 4, true, false, [2, 3]⟩
  | 0x0027 => some ⟨1, .own, 2, true, false, [0]⟩
  | 0x0044 => some ⟨3, .own, 4, true, false, [0]⟩
  | _ => none

/-- The management and the fault commands (R448, R470). -/
def opInfoMgt : Nat → Option OpInfo
  | 0x0080 => some ⟨1, .pf, 100, false, true, [0, 1]⟩
  | 0x0081 => some ⟨1, .pf, 200, false, true, []⟩
  | 0x0082 => some ⟨1, .pf, 200, false, true, []⟩
  | 0x0083 => some ⟨1, .pf, 0, false, true, [0, 1]⟩
  | 0x0084 => some ⟨1, .pf, 2, false, true, [0, 1, 2]⟩
  | 0x0085 => some ⟨1, .pf, 50, false, true, []⟩
  | 0x0086 => some ⟨1, .pf, 2, false, true, [0]⟩
  | 0x00C0 => some ⟨1, .both, 2, false, false, [0, 1, 2, 3]⟩
  | 0x00C1 => some ⟨1, .pf, 20, false, true, [0, 1]⟩
  | 0x00C2 => some ⟨1, .pf, 100, false, true, [0, 1]⟩
  | 0x00C3 => some ⟨1, .pf, 20, false, true, [0]⟩
  | _ => none

/-- The command of an opcode; a reserved opcode has none. -/
def opInfo (op : Nat) : Option OpInfo :=
  match opInfoBase op with
  | some x => some x
  | none => match opInfoCtx op with
    | some x => some x
    | none => opInfoMgt op

/-- Argument `k` of a command. -/
def Cmd.arg (c : Cmd) (k : Nat) : Nat := lget 0 c.args k

/-- The cost of a command (R405, R448, R470): the part that grows with a count is charged for a count in range, "1 per n"
rounded up. -/
def cmdCost (c : Cmd) : Nat :=
  match opInfo c.opcode with
  | none => 0
  | some x =>
    let per (n lo hi k : Nat) := if lo ≤ n ∧ n ≤ hi then ceilDiv n k else 0
    x.cost + match c.opcode with
      | 0x0018 => per (c.arg 2) 1 65536 1
      | 0x0019 => per (c.arg 1) 1 4096 16
      | 0x0026 => per (c.arg 3) 1 4096 16
      | 0x0084 => per (c.arg 1) 1 64 8
      | 0x00C0 => per (c.arg 1) 1 64 8
      | _ => 0

/-- What an instance accrues at each tick (R410). -/
def accrual (d : Dev) (i : Nat) : Nat := if i = 0 then 500 else (instSt d i).part.rate

/-- The credit an instance holds (R410). -/
def credit (d : Dev) (i : Nat) : Nat := fget d (regMbxCredit i) fldMbxCreditCredit

/-- Sets an instance's credit. -/
def setCredit (d : Dev) (i v : Nat) : Dev := fset d (regMbxCredit i) fldMbxCreditCredit v

/-- The retry hint of a busy answer (R410): µs from now, rounded up, to the first tick at which the credit reaches the cost,
and at least to the next tick. -/
def retryHint (d : Dev) (i cost : Nat) : Nat :=
  let a := accrual d i
  if a = 0 ∨ 10 * a < cost then 65535
  else
    let k := max 1 (ceilDiv (cost - credit d i) a)
    min 65535 (ceilDiv (8000000 - tb2 d % 8000000) 8000 + (k - 1) * 1000)

/-- Whether the command cores fetch from a ring (R390, R391, R393, R401, R455, R458). -/
def fetches (d : Dev) (i q : Nat) : Bool :=
  let st := instState d i
  let ringOk := fget d (regMbxRingState i q) fldMbxRingStateState == 1
  let up := d.env.boot == 1 || (d.env.boot == 3 && i == 0 && q == 0)
  up && ringOk && !d.env.pcieLoop && (st == 2 && ((instSt d i).freezing.isNone || q == 0) || (st != 0 && st != 5 && q == 0))

/-- A command from its 64 bytes (R386); `head` is the submission head after its fetch. -/
def parseCmd (bs : List Byte) (head : Nat) : Cmd where
  opcode := fieldLe bs 0 2
  irq := bitOf (fieldLe bs 2 1) 0
  order := bitOf (fieldLe bs 2 1) 1
  target := fieldLe bs 3 1
  cmdId := fieldLe bs 4 4
  args := (List.range 7).map (fun k => fieldLe bs (8 + 8 * k) 8)
  sqHead := head

/-- The ring's context, or none on ring 0 (R384). -/
def ringCtx (q : Nat) : Nat := if q = 0 then 0x80 else q - 1

/-- Ends a started command (R387, R408): statuses of class 3 and above of the Opgen, management and host blocks leave a
record (R423, R428, log entry 29). -/
def cmdEnd (d : Dev) (i q : Nat) (c : Cmd) (status : Nat) (result : Nat := 0) (arg : Nat := 0) (step : Nat := noStep) : Dev :=
  let b := status / 256 % 16
  let det := if b = 6 then q * 2 ^ 32 + c.cmdId * 2 ^ 64 else c.opcode + c.cmdId * 2 ^ 32
  let x := ringCtx q
  let live := x < 16 ∧ (ctxSt d i x).live ∧ (ctxSt d i x).ending.isNone
  let d := if 3 ≤ status / 4096 ∧ (b = 10 ∨ b = 6) then
      record d { status := status, inst := i, ctx := if live then x else 0x80, addr := arg, detail := det, step := step
                 job := if live then jobOf d i x else 0x80000000 }
    else d
  complete d i q c status result step

/-- The answer to a fetched command that is malformed or of no opcode (R386, R405). -/
def malformed (i q : Nat) (bs : List Byte) : Bool :=
  let c := parseCmd bs 0
  (opInfo c.opcode).isNone || fieldLe bs 2 1 ≥ 4 || c.cmdId == 0xFFFFFFFF ||
    (if i = 0 ∧ q = 0 then 64 < c.target else c.target != 0)

/-- Fetches commands while entries wait and the completion ring has room (R385), takes their cost, and answers every one
after a busy one busy too (R388, R410). -/
def fetchLoop (i q : Nat) : Nat → Bool → Dev → Dev
  | 0, _, d => d
  | n + 1, busy, d =>
    let k := regMbxRingState i q
    let head := fget d k fldMbxRingStateSqHead
    if !fetches d i q ∨ head = (ringSt d i q).sqTail ∨ freeEntries d i q = 0 then d
    else
      let bs := hostRead d (fget d (regMbxSqBase i q) fldMbxSqBaseBase * 4096 + 64 * head) 64
      let next := if head + 1 = ringEntries d i q then 0 else head + 1
      let c := parseCmd bs next
      let d := fset d k fldMbxRingStateSqHead next
      let cost := if instState d i = 1 ∨ d.env.boot = 3 then 0 else cmdCost c
      if busy ∨ credit d i < cost then
        fetchLoop i q n true (answerBusy d i q c (retryHint d i cost))
      else
        let d := setCredit d i (credit d i - cost)
        let run := modRing d i q (fun r => { r with running := r.running ++ [c] })
        if d.env.boot = 3 ∧ c.opcode ≠ 0x0083 then fetchLoop i q n false (cmdEnd run i q c 0x3A08)
        else if malformed i q bs then fetchLoop i q n false (cmdEnd run i q c 0x3A03)
        else fetchLoop i q n false (modRing d i q (fun r => { r with fetched := r.fetched ++ [c] }))

/-- Fetches from a ring as far as it may. -/
def fetchRing (d : Dev) (i q : Nat) : Dev := fetchLoop i q (ringEntries d i q) false d

/-- Fetches from every ring of an instance. -/
def fetchAll (d : Dev) (i : Nat) : Dev := (List.range 17).foldl (fun d q => fetchRing d i q) d

/-- Whether the fetched command at a position of a ring may start (R386): no earlier one is `ORDERED`, and one that is ordered
waits until every earlier one has completed. -/
def mayStart (r : RingSt) (n : Nat) : Bool :=
  (r.fetched.take n).all (fun c => !c.order) &&
    (match r.fetched[n]? with
     | none => false
     | some c => !c.order || (n == 0 && r.running.isEmpty))

/-- Operator commands of one ring are accepted in ring order (R364, R384). -/
def takesStep (op : Nat) : Bool := op == 0x0025 || op == 0x0026

/-- Moves the oldest fetched command of an opcode to the running ones, when it may start. -/
def takeCmd (d : Dev) (i q op : Nat) : Option (Cmd × Dev) :=
  let r := ringSt d i q
  match r.fetched.findIdx? (fun c => c.opcode == op) with
  | none => none
  | some n =>
    match r.fetched[n]? with
    | none => none
    | some c =>
      if !mayStart r n then none
      else if takesStep op && (r.fetched.take n).any (fun x => takesStep x.opcode) then none
      else some (c, modRing d i q (fun r => { r with fetched := r.fetched.eraseIdx n, running := r.running ++ [c] }))

/-- Commands that a frozen or freezing instance accepts (R391, R393). -/
def frozenOk (op : Nat) : Bool := [0x0001, 0x0002, 0x0011, 0x0035, 0x0037, 0x0039].contains op

/-- The commands that only read, which an ending instance still answers (log entry 30). -/
def readsOnly (op : Nat) : Bool := [0x0001, 0x0002, 0x0043, 0x00C0, 0x00C3].contains op

/-- The status that stops a command before its meaning (R391, R393, R404, R405, R458), with the argument at fault. -/
def cmdErr (d : Dev) (i q : Nat) (c : Cmd) : Option (Nat × Nat) :=
  match opInfo c.opcode with
  | none => some (0x3A03, 0)
  | some x =>
    let act := if x.issuer = .own then i else if i = 0 ∧ q = 0 then c.target else i
    if d.env.boot = 3 ∧ c.opcode ≠ 0x0083 then some (0x3A08, 0)
    else if (x.issuer = .pf ∧ i ≠ 0) ∨ (x.issuer = .own ∧ i = 0 ∧ q = 0 ∧ c.target ≠ 0) then some (0x3A04, 0)
    else if x.isCtx != (q != 0) then some (0x3A05, 0)
    else if x.dev ∧ c.target ≠ 0 then some (0x3A03, c.target)
    else match (List.range 7).find? (fun k => c.arg k != 0 && !x.args.contains k) with
      | some k => some (0x3A03, c.arg k)
      | none =>
        let st := instState d act
        let fz (j : Nat) := instState d j = 3 ∨ instState d j = 4 ∨ (instSt d j).freezing.isSome
        if d.env.boot ≠ 3 ∧ (st = 0 ∨ (st = 5 ∧ !readsOnly c.opcode)
            ∨ (st = 1 ∧ !x.dev ∧ !(c.opcode = 1 ∨ c.opcode = 2 ∨ (i = 0 ∧ (c.opcode = 0x0010 ∨ c.opcode = 0x00C0)))))
          then some (0x3A08, 0)
        else if (q = 0 ∧ fz i ∨ fz act) ∧ !frozenOk c.opcode then some (0x360B, 0)
        else if x.isCtx ∧ c.opcode ≠ 0x0020 ∧
            (!(ctxSt d i (q - 1)).live ∨ (ctxSt d i (q - 1)).ending.isSome ∨ (ctxSt d i (q - 1)).destroy.isSome) then
          some (0x3A08, 0)
        else if x.isCtx ∧ c.opcode ≠ 0x0020 ∧ (ctxSt d i (q - 1)).level < x.level then some (0x3A06, 0)
        else none

/-- The instance a command acts on (R386, R405). -/
def actor (i q : Nat) (c : Cmd) : Nat := if i = 0 ∧ q = 0 then c.target else i

/-- Runs the oldest fetched command of an opcode of a ring: its common checks, then its meaning, which completes it or
leaves it running. -/
def runCmd (d : Dev) (i q op : Nat) (body : Dev → Cmd → Dev) : Dev :=
  match takeCmd d i q op with
  | none => d
  | some (c, d) =>
    match cmdErr d i q c with
    | some (st, arg) => cmdEnd d i q c st 0 arg
    | none => body d c

/-- Runs an instance-scope command, which stands on ring 0 or is refused there. -/
def runOwn (d : Dev) (i q op : Nat) (body : Dev → Cmd → Nat → Dev) : Dev :=
  runCmd d i q op (fun d c => body d c (actor i q c))

/-! ### Doorbells and rings (R385, R390, R402) -/

/-- A submission doorbell (R385): the tail is recorded while frozen, and fetching follows. -/
def sqTail (d : Dev) (i q index : Nat) : Dev :=
  if ringEntries d i q ≤ index then
    cfgReject d (regMbxStatus i) fldMbxStatusCfgReject 0x1601 (0x1000 + 8 * q) (q * 2 ^ 32) i
  else fetchRing (modRing d i q (fun r => { r with sqTail := index })) i q

/-- Writes held notices while entries are free (R389). -/
def drainNotices (i : Nat) : Nat → Dev → Dev
  | 0, d => d
  | n + 1, d =>
    match (instSt d i).notices with
    | [] => d
    | (status, result) :: rest =>
      let st := fget d (regMbxRingState i 0) fldMbxRingStateState
      if (st = 1 ∨ st = 3) ∧ freeEntries d i 0 > 0 then
        let d := modInst d i (fun x => { x with notices := rest })
        let d := writeEntry d i 0 (cplBytes 0xFFFFFFFF status 0 0 0 noStep result) false
        drainNotices i n (raiseVector d i 0)
      else d

/-- A held notice is written when an entry is free (R389). -/
def noticeWrite (d : Dev) (i : Nat) : Dev := drainNotices i 1 d

/-- A completion doorbell (R385): the head may not pass the completion tail. -/
def cqHead (d : Dev) (i q index : Nat) : Dev :=
  let n := ringEntries d i q
  let r := ringSt d i q
  let steps := (index + n - r.cqHead) % n
  if n ≤ index ∨ r.used < steps then
    cfgReject d (regMbxStatus i) fldMbxStatusCfgReject 0x1601 (0x1004 + 8 * q) (q * 2 ^ 32) i
  else
    let d := modRing d i q (fun r => { r with cqHead := index, used := r.used - steps })
    let d := if q = 0 then drainNotices i 256 d else d
    fetchRing d i q

/-- Completions held over a ring fault are written once the ring runs again (R390). -/
def putHeld (i q : Nat) : List (List Byte × Bool) → Dev → Dev
  | [], d => d
  | (bs, irq) :: l, d => putHeld i q l (writeEntry d i q bs irq)

/-- A write to `ENABLE` (R385, R390): 1 starts the pair with head and tail at 0, 0 stops fetching. -/
def ringEnable (d : Dev) (i q : Nat) (on : Bool) : Dev :=
  let k := regMbxRingState i q
  let was := fget d (regMbxRingCfg i q) fldMbxRingCfgEnable
  let d := fset d (regMbxRingCfg i q) fldMbxRingCfgEnable (b2n on)
  if on then
    if was = 1 then d
    else
      let d := fset (fset (fset d k fldMbxRingStateSqHead 0) k fldMbxRingStateCqTail 0) k fldMbxRingStateCqPhase 1
      let frozen := instState d i = 3 ∧ q ≠ 0
      let d := fset d k fldMbxRingStateState (if frozen then 3 else 1)
      let held := (ringSt d i q).held
      let d := modRing d i q (fun r => { r with sqTail := 0, cqHead := 0, used := 0, fetched := [], held := [] })
      let d := putHeld i q held d
      if q = 0 then drainNotices i 256 d else d
  else fset d k fldMbxRingStateState 0

/-- A fetch or a completion write of a ring ended in UR, CA or a timeout (R390): no completion is written for the affected
command, named by its place among those fetched and running, if it was fetched. -/
def ringFault (d : Dev) (i q : Nat) (cmdId : Option Nat) : Dev :=
  if fget d (regMbxRingState i q) fldMbxRingStateState = 0 then d
  else
    let d := fset d (regMbxRingState i q) fldMbxRingStateState 2
    let d := match cmdId with
      | none => d
      | some id => modRing d i q (fun r =>
          { r with fetched := dropFirst (·.cmdId == id) r.fetched, running := dropFirst (·.cmdId == id) r.running })
    record d { status := 0x3605, inst := i, detail := q * 2 ^ 32 + cmdId.getD 0 * 2 ^ 64 }

/-- A coalescing interval ends (R380). -/
def coalesceEnd (d : Dev) (i q : Nat) : Dev :=
  let r := ringSt d i q
  if r.coalOpen then
    if r.coalPend then raiseVector (modRing d i q (fun r => { r with coalPend := false })) i (fget d (regMbxRingCfg i q) fldMbxRingCfgVector)
    else modRing d i q (fun r => { r with coalOpen := false })
  else d

/-- The 1 ms tick of TB2 (R410): every instance accrues credit up to its cap. -/
def creditTick (d : Dev) : Dev :=
  (List.range 65).foldl (fun d i =>
    let a := accrual d i
    if a = 0 then d else setCredit d i (max (min (credit d i) (10 * a)) (min (10 * a) (credit d i + a)))) d

end Sys2Proof.Machine
end

