-- ==== Sys2Proof/Machine/Opers.lean ====
section
/-!
DEFINITION. The operator catalogue (R411-R416): the checks of an entry, tensors, and what each operator writes, with its
status, flags and result. Operators are computed whole; the arrays, cores and plinths that dispatch spreads them over do not
show (R412, log entry 31).
-/

namespace Sys2Proof.Machine

/-- An invocation as it runs (R411): its context, the attribute word, the tensor ID of its first generating output, its step,
the tensors A2 to A5, the eight parameter fields, and the operand ashlars already found usable. -/
structure OpIn where
  i      : Nat
  x      : Nat
  word   : Nat
  tensor : Nat
  step   : Nat
  t      : List Nat
  p      : List Nat
  ready  : List Nat := []
  deriving DecidableEq, Repr

/-- What an operator leaves: the device, the status of its request, the address a status names, its flags and `RESULT`, and
whether it waits for ashlars (R273). -/
structure OpRes where
  dev    : Dev
  status : Nat := 0
  addr   : Nat := 0
  flags  : Flags := {}
  result : Nat := 0
  waits  : Bool := false
  deriving DecidableEq, Repr

/-- The attribute word of an invocation (R59). -/
def OpIn.attr (o : OpIn) : Attr := attrOf o.word
/-- Parameter field `k`. -/
def OpIn.fld (o : OpIn) (k : Nat) : Nat := lget 0 o.p k
/-- Tensor address `k`, 0 for A2. -/
def OpIn.ten (o : OpIn) (k : Nat) : Nat := lget 0 o.t k
/-- Who the invocation acts for. -/
def OpIn.who (o : OpIn) : Who := .ctx o.i o.x

/-- The draws of an output of an invocation (R367), `from` its first linear index. -/
def OpIn.draws (o : OpIn) (d : Dev) (k i0 : Nat) (i : Nat) : Option Nat :=
  drawFor o.attr (ctxSt d o.i o.x).seed o.step (o.tensor + k) (i0 + i)

/-! ### Formats of parameter fields -/

/-- Bits of a plane of `n` elements of an `OUT_FMT` code. -/
def fmtBits (f mx n : Nat) : Nat := (outElem f mx).bits * n

/-- Bytes of an input of rows × cols elements with its scale plane (R263). -/
def inBytes (f mx rows cols : Nat) : Nat :=
  let e := (fmtBits f mx (rows * cols) + 7) / 8
  if outIsMx f then up64 e + rows * ceilDiv cols 32 else e

/-- Whether an `MX_ELEM` code fits an input format (R411). -/
def mxElemOk (f mx : Nat) : Bool := mx < 2 && (mx == 0 || f == 5 || f == 6)

/-- Element (m, n) of a row-major input of rows × cols elements as an accumulator, with its poison (R263). -/
def inElem (d : Dev) (base f mx rows cols m n : Nat) : Cell :=
  let e := outElem f mx
  let idx := m * cols + n
  let (c, p) := elemAt d base (e.bits * idx) e.bits
  if outIsMx f then
    let sa := base + up64 ((e.bits * rows * cols + 7) / 8) + m * ceilDiv cols 32 + n / 32
    let (s, ps) := elemAt d sa 0 8
    { x := Exa.ofVal exaW (mxVal e c s), poison := p || ps }
  else if f = 11 then { x := Exa.ofNat c, poison := p }
  else { x := Exa.ofVal exaW (e.decode c), poison := p }

/-- An element of one dimension as a value, with its poison. -/
def inVal (d : Dev) (base f idx : Nat) : Val × Bool :=
  let e := outElem f 0
  let (c, p) := elemAt d base (e.bits * idx) e.bits
  (e.decode c, p)

/-- An FP32 operation: its exact value rounded once (R92). -/
def fop (v : Val) : Val := f32 (fp32 v).1

/-- A value as an output cell. -/
def cellOf (v : Val) (p : Bool) (inv : Bool := false) : Cell := { x := Exa.ofVal exaW v inv, poison := p }

/-! ### Checks of the entries (R59, R411) -/

/-- Whether a format code is one of 0x0 to 0x4. -/
def fmt5 (f : Nat) : Bool := f ≤ 4

/-- The bits a parameter field uses: the others must be 0. -/
def fieldOk (v w : Nat) : Bool := v < 2 ^ w

/-- Whether array dispatch converts an MX operand of format `f` to the format `g` of the other operand (R38, R244): the other is of another
class, and a float that `DEQUANT` writes; of two MX operands the one of the 6/4-bit class is converted, which then pairs with MXFP8 by
neutral scales. -/
def convertsTo (f g : Nat) (mx gmx : Bool) : Bool :=
  mx && fmtClass f ≤ 1 && f != 6 && fmtClass f != fmtClass g && (if gmx then fmtClass f == 1 && g ≤ 1 else g ≤ 1 || g == 7 || g == 8)

/-- Whether array dispatch converts one operand of a MATMUL first (R38, R244). -/
def crossPair (fa fb : Nat) (amx bmx : Bool) : Bool := convertsTo fa fb amx bmx || convertsTo fb fa bmx amx

/-- Whether a MATMUL breaks its entry (R38, R59, R75, R80). A RAW operand beside an MX one is refused (DESIGN CHOICE, log entry 62). -/
def matmulBad (o : OpIn) : Bool :=
  let w := o.fld 2
  let fa := bitsAt w 0 4; let fb := bitsAt w 4 4
  let la := bitsAt w 8 4; let lb := bitsAt w 12 4
  let amx := bitOf w 16; let sp := bitOf w 17; let bmx := bitOf w 18
  !(fieldOk (o.fld 0) 56 && fieldOk (o.fld 1) 44 && fieldOk w 19 && o.fld 7 == 0 && bitsAt (o.fld 1) 28 16 != 0
    && fa ≤ 8 && fb ≤ 8 && (fmtPair fa fb || crossPair fa fb amx bmx) && attrValid o.attr false
    && (la ≤ 4 || la == 15) && (lb ≤ 6 || lb == 15)
    && (!(amx || bmx) || (la != 0 && lb != 0 && (crossPair fa fb amx bmx || (fmtClass fa ≤ 1 && fa != 6))))
    && (lb == 5 || lb == 6) == sp
    && (!sp || (fa == fb && (fa == 4 || fa == 6) && amx == bmx && la != 3 && la != 4)))

/-- Whether an ATTENTION breaks its entry (R238, R411). -/
def attentionBad (o : OpIn) : Bool :=
  let f := o.fld 7
  let kf := bitsAt f 0 4; let qf := bitsAt f 4 4
  let D := o.fld 1; let G := o.fld 2
  !(attrValid o.attr false && o.attr.accFmt == 0 && fieldOk f 8 && fieldOk (o.fld 3) 32 && (D == 64 || D == 128 || D == 256)
    && 1 ≤ G && G ≤ 16 && [0, 1, 7, 8].contains kf && [0, 1, 7, 8].contains qf && (fmtClass kf == fmtClass qf)
    && G * D * ((operandFmt qf).bits / 8) ≤ 2048 && 1 ≤ o.fld 5 && o.fld 5 ≤ 4096 && o.fld 0 < 2 ^ 32 && o.fld 4 < 2 ^ 32)

/-- Whether an invocation of a catalogue operator breaks its entry: attribute word, formats, shapes, reserved bits (R59,
R411). Every operator but MATMUL takes no accumulate-in. -/
def opBad (op : Nat) (o : OpIn) : Bool :=
  let a := attrValid o.attr false
  match op with
  | 0x0100 => matmulBad o
  | 0x0101 => attentionBad o
  | 0x0102 => !(a && o.fld 1 ≤ 2 ^ 24 && fieldOk (o.fld 2) 32 && o.fld 3 ≤ 2)
  | 0x0103 => !(a && o.fld 1 ≤ 2 ^ 20 && fieldOk (o.fld 2) 32 && fieldOk (o.fld 3) 8 && fmt5 (bitsAt (o.fld 3) 0 4)
      && fmt5 (bitsAt (o.fld 3) 4 4))
  | 0x0104 => !(a && o.fld 1 ≤ 2 ^ 20 && fieldOk (o.fld 2) 32 && fieldOk (o.fld 3) 12 && fmt5 (bitsAt (o.fld 3) 0 4)
      && fmt5 (bitsAt (o.fld 3) 4 4) && fmt5 (bitsAt (o.fld 3) 8 4))
  | 0x0105 =>
    let f := o.fld 2
    let c := o.fld 1
    !(a && o.fld 0 ≤ 2 ^ 32 && c ≤ 9 && fieldOk f 12 && fmt5 (bitsAt f 0 4) && fmt5 (bitsAt f 4 4) && fmt5 (bitsAt f 8 4)
      && ([0, 1, 2, 6].contains c || bitsAt f 4 4 == 0) && ([2, 9].contains c || bitsAt f 8 4 == 0))
  | 0x0106 => !(a && o.fld 0 ≤ 2 ^ 32 && fieldOk (o.fld 1) 6 && bitsAt (o.fld 1) 0 4 ≤ 11
      && mxElemOk (bitsAt (o.fld 1) 0 4) (bitsAt (o.fld 1) 4 2))
  | 0x0107 =>
    let f := bitsAt (o.fld 3) 0 4
    !(a && o.fld 1 ≤ 2 ^ 33 && fieldOk (o.fld 3) 6 && (f ≤ 8 || f == 11) && mxElemOk f (bitsAt (o.fld 3) 4 2))
  | 0x0110 => !a
  | 0x0111 => !a
  | 0x0120 => !(a && o.fld 1 ≤ 1024 && 1 ≤ o.fld 2 && o.fld 2 ≤ 16 && o.fld 2 ≤ o.fld 1 && o.fld 4 &&& 0xFFFFFFFFFFFFFF0E == 0
      && fmt5 (bitsAt (o.fld 4) 4 4))
  | 0x0121 => !(a && fieldOk (o.fld 3) 8 && bitsAt (o.fld 3) 0 4 ≤ 2 && bitsAt (o.fld 3) 4 4 ≤ 2 && 1 ≤ o.fld 1 && o.fld 1 ≤ 16)
  | 0x0130 => !(a && o.fld 1 ≤ 2 ^ 24 && fieldOk (o.fld 2) 32 && fieldOk (o.fld 4) 4 && fmt5 (o.fld 4) && 1 ≤ o.fld 1)
  | 0x0140 =>
    let f := bitsAt (o.fld 2) 0 4
    !(a && fieldOk (o.fld 2) 6 && (f ≤ 8 || f == 11) && mxElemOk f (bitsAt (o.fld 2) 4 2))
  | 0x0141 =>
    let f := bitsAt (o.fld 2) 0 4
    !(a && fieldOk (o.fld 2) 6 && (f ≤ 8 || f == 11) && mxElemOk f (bitsAt (o.fld 2) 4 2))
  | 0x0142 => !a
  | 0x0143 => !a
  | _ => true

/-- Whether an operator is in the catalogue (R411). -/
def opKnown (op : Nat) : Bool :=
  (0x0100 ≤ op && op ≤ 0x0107) || op == 0x0110 || op == 0x0111 || op == 0x0120 || op == 0x0121 || op == 0x0130
    || (0x0140 ≤ op && op ≤ 0x0143)

/-- The first refused access of a list of (write, address, bytes), with its address (R294). -/
def firstAccess (d : Dev) (w : Who) : List (Bool × Nat × Nat) → Option (Nat × Nat)
  | [] => none
  | (wr, a, n) :: l =>
    match accessErr d w wr a n with
    | some st => some (st, a)
    | none => firstAccess d w l

/-- Runs an operator's work once its accesses are allowed; poisoned outputs end the request with the unit's status (R111). -/
def opWith (d : Dev) (o : OpIn) (rs : List (Bool × Nat × Nat)) (work : Dev → OpRes) : OpRes :=
  match firstAccess d o.who rs with
  | some (st, a) => { dev := d, status := st, addr := a }
  | none => work d

/-- Writes an output of rows × cols cells at `base` as output `k` of the invocation, its linear indices from `i0` on, and ends
with `bad` when an element is poisoned (R111, R263). -/
def opOut (d : Dev) (o : OpIn) (base rows cols k i0 : Nat) (bad : Nat) (inv : Bool) (cell : Nat → Nat → Cell) : OpRes :=
  let r := (List.range rows).foldl (fun (st : Dev × Flags × Bool) m =>
    let cells := (List.range cols).map (cell m)
    let (d', fl) := putOutputs st.1 o.attr exaW base rows cols m 0 cells (o.draws d k i0)
    (d', st.2.1.or fl, st.2.2 || cells.any (fun c => c.poison))) (d, { invalid := inv }, false)
  { dev := r.1, flags := r.2.1, status := if r.2.2 then bad else 0 }

/-! ### MATMUL -/

/-- An operand of MATMUL as it is read: its vectors along K, a row of A or a column of B; an operand that array dispatch converts first
names the format it is converted to (R38). -/
structure Opd where
  base   : Nat
  layout : Nat
  fmt    : Nat
  mx     : Bool
  sparse : Bool
  vecs   : Nat
  k      : Nat
  isB    : Bool
  conv   : Option Nat := none
  deriving DecidableEq, Repr

/-- The shape of an operand as an array sees it. -/
def Opd.desc (o : Opd) : ArrDesc :=
  { attr := attrOf 0, cls := fmtClass o.fmt, pack := 0, flags := b2n o.sparse + 2 * b2n o.mx, fa := o.fmt, fb := o.fmt,
    n := o.vecs, k := o.k, acc := 0, probs := [], clean := true }

/-- Whether a layout is one of the keystone. -/
def Opd.key (o : Opd) : Bool := o.layout == 2 || o.layout == 4 || o.layout == 6

/-- The units of an ashlar run and their sizes (R261, R262). -/
def Opd.units (o : Opd) : Nat × (Nat → Nat × Nat × Nat) :=
  let e := o.desc
  if o.layout = 0 then (ceilDiv ((o.vecs * o.k * e.fmtA.bits + 7) / 8) 64, fun _ => (64, 0, 0))
  else if o.layout ≤ 2 then (ceilDiv o.vecs (e.rows o.key) * e.tiles o.key, statUnit e o.key)
  else (e.segs * e.groups o.key, strmUnit e o.key)

/-- Bytes of the ashlars of an operand's run: the size of the first (R261). -/
def Opd.cap (d : Dev) (o : Opd) : Nat := ashBytes (getAsh d o.base)

/-- The ashlars an operand takes, none for a row-major one. -/
def Opd.ashlars (d : Dev) (o : Opd) : List Nat :=
  if o.layout = 15 then []
  else
    let (n, unit) := o.units
    rangeFrom o.base (packRuns (o.cap d) unit n 0 []).length

/-- Where unit `u` of an ashlar run lies in the mortar: element, scale and metadata addresses. -/
def Opd.place (d : Dev) (o : Opd) (u : Nat) : Nat × Nat × Nat :=
  let (n, unit) := o.units
  let (i, x, s, m) := unitPlaceIn (o.cap d) unit n u
  let b := ashSource (getAsh d (o.base + i))
  (b + x, b + s, b + m)

/-- Whether an operand's units fit in its ashlars, as no unit spans two (R261). -/
def Opd.fits (d : Dev) (o : Opd) : Bool := o.layout == 15 || unitsFit (o.cap d) o.units.2 o.units.1

/-- The bytes of a row-major operand with its scale plane (R263). -/
def Opd.bytes (o : Opd) : Nat :=
  let e := (o.vecs * o.k * (operandFmt o.fmt).bits + 7) / 8
  if o.mx then up64 e + o.vecs * ceilDiv o.k 32 else e

/-- A value of an operand with a scale byte when it is MX, rounded once when it is converted (R38, R244; log entry 123). -/
def Opd.val (o : Opd) (d : Dev) (c : Nat × Bool) (scaleAt : Nat) : Val × Bool :=
  let f := operandFmt o.fmt
  if o.mx then
    let (s, ps) := elemAt d scaleAt 0 8
    let v := mxVal f c.1 s
    let v := match o.conv with
      | some g => (operandFmt g).decode (roundVal (operandFmt g) v).1
      | none => v
    (v, c.2 || ps)
  else (f.decode c.1, c.2)

/-- Element `k` of vector `v` of an operand, or none where the metadata selects no element (R76, R262, R263). -/
def Opd.elem (o : Opd) (d : Dev) (v k : Nat) : Option (Val × Bool) :=
  let e := o.desc
  let f := operandFmt o.fmt
  if o.layout = 15 then
    let idx := if o.isB then k * o.vecs + v else v * o.k + k
    let sc := if o.isB then k / 32 * o.vecs + v else v * ceilDiv o.k 32 + k / 32
    some (o.val d (elemAt d o.base (f.bits * idx) f.bits) (o.base + up64 ((o.vecs * o.k * f.bits + 7) / 8) + sc))
  else if o.layout = 0 then
    let idx := if o.isB then k * o.vecs + v else v * o.k + k
    let off := f.bits * idx / 8
    let bs := (List.range ((f.bits * idx % 8 + f.bits + 7) / 8)).map (fun j => elemAt d ((o.place d ((off + j) / 64)).1 + (off + j) % 64) 0 8)
    let v := leNat (bs.map (fun b => BitVec.ofNat 8 b.1)) >>> (f.bits * idx % 8) % 2 ^ f.bits
    some (o.val d (v, bs.any (fun b => b.2)) 0)
  else if o.layout ≤ 2 then
    let dep := e.depth o.key
    let (ea, sa, _) := o.place d (v / e.rows o.key * e.tiles o.key + k / dep)
    let idx := v % e.rows o.key * dep + k % dep
    some (o.val d (elemAt d ea (f.bits * idx) f.bits) (sa + idx / 32))
  else
    let s := k / 256
    let (ea, sa, ma) := o.place d (v / groupCols o.key * e.segs + s)
    let (b, sc, mt) := colBytes e s
    let c := v % groupCols o.key
    let off := k % 256
    let sa := sa + sc * c + off / 32
    if o.sparse then
      let (m, pm) := elemAt d (ma + mt * c) (4 * (off / 4)) 4
      let pick := if k % 4 = m % 4 then some 0 else if k % 4 = m / 4 then some 1 else none
      pick.map (fun j =>
        let r := o.val d (elemAt d (ea + b * c) (f.bits * (off / 4 * 2 + j)) f.bits) sa
        (r.1, r.2 || pm))
    else some (o.val d (elemAt d (ea + b * c) (f.bits * off) f.bits) sa)

/-- Whether an operand holds an invalid sparse group (R78). -/
def Opd.badMeta (o : Opd) (d : Dev) : Bool :=
  o.sparse && 3 ≤ o.layout && (List.range o.vecs).any (fun v => (List.range (ceilDiv o.k 4)).any (fun g =>
    let k := 4 * g
    let (_, _, ma) := o.place d (v / groupCols o.key * o.desc.segs + k / 256)
    let (_, _, mt) := colBytes o.desc (k / 256)
    let (m, _) := elemAt d (ma + mt * (v % groupCols o.key)) (4 * (k % 256 / 4)) 4
    m / 4 ≤ m % 4 || o.k ≤ k + m / 4))

/-- The exact sum of one output element (R39): the accumulate-in element and the K products. -/
def dotCell (d : Dev) (a b : Opd) (acc : Cell) (m n : Nat) : Cell :=
  (List.range a.k).foldl (fun c k =>
    match a.elem d m k, b.elem d n k with
    | some (x, px), some (y, py) =>
      { c with
        x := c.x.add exaBits (Exa.ofProduct exaW x y)
        poison := c.poison || px || py }
    | _, _ => c) acc

/-- The range of exponents of an operand's vector in a chunk of 256 (R69). -/
def Opd.range (o : Opd) (d : Dev) (v c : Nat) : Option (Int × Int) :=
  (rangeFrom (256 * c) (min 256 (o.k - 256 * c))).foldl (fun a k =>
    match o.elem d v k with
    | some (x, _) => rangeJoin a (rangeOf (operandFmt (o.conv.getD o.fmt)) x)
    | none => a) none

/-- Whether the formats of a product's operands can call for a wide pass (R38). -/
def widePossible (a b : Opd) : Bool :=
  let fa := a.conv.getD a.fmt
  let fb := b.conv.getD b.fmt
  fmtClass fa == 2 && fmtClass fb == 2 && !(fa == 8 && fb == 8)

/-- Whether the ranges of the operands of a product call for a wide pass in any chunk (R69). -/
def wideNeeded (d : Dev) (a b : Opd) : Bool :=
  (List.range (ceilDiv a.k 256)).any (fun c =>
    let ra := (List.range a.vecs).map (fun m => a.range d m c)
    let rb := (List.range b.vecs).map (fun n => b.range d n c)
    ra.any (fun s => rb.any (fun w =>
      match s, w with
      | some (_, ls), some (_, lw) => 1 < passCount (ls + lw) 8 (anchorOf s w)
      | _, _ => false)))

/-- The arrays of its partition that a context's work is placed on. -/
def instArrays (d : Dev) (i x : Nat) : List Nat :=
  (List.range 388).filter (fun a => arrOn d a &&
    (if arrIsKey a then keyPlaced d i x (a - 384) else corePlaced d i x (arrCore a)))

/-- Wide passes of a product count against its arrays and its context (R49, R70): none where no pair of its formats or no range calls for
one; else at least one runs, on some array, and their number beyond it depends on the placement: each array's is a free value (log
entry 32). -/
def countWide (d : Dev) (o : OpIn) (a b : Opd) : Dev :=
  if !widePossible a b || !wideNeeded d a b then d
  else
    let (n, d) := takeFree d
    let on := instArrays d o.i o.x
    let sure := lget 0 on (Config.freeNat n >>> (32 * 388) % on.length)
    on.foldl (fun d r =>
      let w := Config.freeNat n >>> (32 * r) % 2 ^ 32 + b2n (r == sure)
      let d := setReg d (regArrWideCount r) (getReg d (regArrWideCount r) + w)
      countWideOf d o.i o.x w) d

/-- A tensor address plus a signed 64-bit stride of batch `b`. -/
def batchAddr (base stride b : Nat) : Nat := ((base : Int) + toSigned 64 stride * b).toNat

/-- MATMUL of one batch (R39, R60, R61): accesses first, then every row of D. -/
def matmulBatch (d : Dev) (o : OpIn) (b : Nat) : OpRes :=
  let w := o.fld 2
  let M := bitsAt (o.fld 0) 0 28; let N := bitsAt (o.fld 0) 28 28; let K := bitsAt (o.fld 1) 0 28
  let sp := bitOf w 17
  let cross := convertsTo (bitsAt w 0 4) (bitsAt w 4 4) (bitOf w 16) (bitOf w 18)
  let crossB := convertsTo (bitsAt w 4 4) (bitsAt w 0 4) (bitOf w 18) (bitOf w 16)
  let A : Opd := ⟨batchAddr (o.ten 0) (o.fld 3) b, bitsAt w 8 4, bitsAt w 0 4, bitOf w 16, sp, M, K, false,
    if cross then some (bitsAt w 4 4) else none⟩
  let B : Opd := ⟨batchAddr (o.ten 1) (o.fld 4) b, bitsAt w 12 4, bitsAt w 4 4, bitOf w 18, sp, N, K, true,
    if crossB then some (bitsAt w 0 4) else none⟩
  let ca := batchAddr (o.ten 2) (o.fld 5) b
  let da := batchAddr (o.ten 3) (o.fld 6) b
  let accBytes := (M * N * (accElem o.attr.accFmt).bits + 7) / 8
  opWith d o [(false, A.base, if A.layout = 15 then A.bytes else 0), (false, B.base, if B.layout = 15 then B.bytes else 0),
      (false, ca, if o.attr.accFmt = 0 then 0 else accBytes), (true, da, outBytes o.attr M N)] (fun d =>
    if B.badMeta d then { dev := d, status := 0x3203 }
    else
      let d := countWide d o A B
      let r := opOut d o da M N 0 (b * M * N) 0x3204 false (fun m n => dotCell d A B (accIn d o.attr exaW ca (m * N + n)) m n)
      if K = 0 then { r with flags := {} } else r)

/-- The operands of every batch of a MATMUL. -/
def matmulOpds (o : OpIn) : List Opd :=
  let w := o.fld 2
  let M := bitsAt (o.fld 0) 0 28; let N := bitsAt (o.fld 0) 28 28; let K := bitsAt (o.fld 1) 0 28
  (List.range (bitsAt (o.fld 1) 28 16)).flatMap (fun b =>
    [⟨batchAddr (o.ten 0) (o.fld 3) b, bitsAt w 8 4, bitsAt w 0 4, bitOf w 16, bitOf w 17, M, K, false, none⟩,
     ⟨batchAddr (o.ten 1) (o.fld 4) b, bitsAt w 12 4, bitsAt w 4 4, bitOf w 18, bitOf w 17, N, K, true, none⟩])

/-- The ashlars that every batch of a MATMUL reads. -/
def matmulAshlars (d : Dev) (o : OpIn) : List Nat := ((matmulOpds o).flatMap (Opd.ashlars d)).eraseDups

/-- Runs batches until one ends the request or the context. -/
def matmulLoop (o : OpIn) : Nat → Nat → OpRes → OpRes
  | 0, _, r => r
  | n + 1, b, r =>
    if r.status / 4096 = 4 ∨ r.status = 0x3203 then r
    else
      let q := matmulBatch r.dev o b
      matmulLoop o n (b + 1)
        { q with
          flags := r.flags.or q.flags
          status := if q.status ≠ 0 then q.status else r.status
          addr := if q.status ≠ 0 then q.addr else r.addr }

/-- MATMUL (R39, R60, R61, R261, R267, R273, R284): operands in ashlars wait for their mortar copies, and poison found in one withdraws it; an
operand whose units no ashlar holds ends it with 0x3A07 (log entry 21). -/
def opMatmul (d : Dev) (o : OpIn) : OpRes :=
  let M := bitsAt (o.fld 0) 0 28; let N := bitsAt (o.fld 0) 28 28
  if M * N = 0 then { dev := d }
  else if !(matmulOpds o).all (Opd.fits d) then { dev := d, status := 0x3A07 }
  else
    let as := matmulAshlars d o
    match as.findSome? (fun a => (refErr d o.i a).map (fun st => (st, a))) with
    | some (st, a) => { dev := d, status := st, addr := a }
    | none =>
      let miss := as.filter (fun a => !(resident (getAsh d a) 0 && (refOf d o.i a 0).isSome && (getAsh d a).integ != 2))
      let miss := miss.filter (fun a => !o.ready.contains a)
      if miss ≠ [] then
        let r := demandAll o.i o.x miss d
        match r.2 with
        | some (st, a) => { dev := stopWaits r.1 o.i o.x, status := st, addr := a }
        | none => { dev := r.1, waits := true }
      else
        let as := as.filter (fun a => (refOf d o.i a 0).isSome)
        let d := as.foldl (fun d a => addRef d o.i a 0 false) d
        let r := matmulLoop o (bitsAt (o.fld 1) 28 16) 0 { dev := d }
        { r with dev := as.foldl copyRead r.dev }

/-! ### ATTENTION (R237-R241) -/

/-- One head's output of a query row (R239, R241): the exact sums over the attended positions, merged in any order. -/
def opAttention (d : Dev) (o : OpIn) : OpRes :=
  let len := o.fld 0; let D := o.fld 1; let G := o.fld 2
  let scale := f32 (o.fld 3); let pos0 := o.fld 4; let rows := o.fld 5; let win := o.fld 6
  let kf := operandFmt (bitsAt (o.fld 7) 0 4); let qf := operandFmt (bitsAt (o.fld 7) 4 4)
  let T := kvPositions kf D
  let np := ceilDiv len T
  let list := o.ten 1
  if 2 ^ 20 < np then { dev := d, status := 0x3A07 }
  else opWith d o [(false, o.ten 0, rows * G * D * (qf.bits / 8)), (false, list, 8 * np), (true, o.ten 2, outBytes o.attr rows (G * D))] (fun d =>
    if isPoisoned d list (8 * np) then { dev := d, status := 0x3104, addr := list }
    else
      let pages := (List.range np).map (fun i => devNat d (list + 8 * i) 8)
      match firstAccess d o.who (pages.map (fun p => (false, p, 65536))) with
      | some (st, a) => { dev := d, status := st, addr := a }
      | none =>
        let heads := (List.range rows).map (fun r => (List.range G).map (fun g =>
          let q := (List.range D).map (fun e => elemAt d (o.ten 0) (qf.bits * ((r * G + g) * D + e)) qf.bits)
          let acc := attnRun d kf D 0 pages (q.map (fun c => qf.decode c.1)) scale
            (fun j => j < len && j ≤ pos0 + r && (win == 0 || pos0 + r < j + win))
          (acc, q.any (fun c => c.2))))
        opOut d o (o.ten 2) rows (G * D) 0 0 0x3104 false (fun r c =>
          let (acc, qp) := lget ({ v := [] }, false) (lget [] heads r) (c / D)
          if acc.count = 0 then cellOf (.fin false 0 0) false
          else
            let sg := roundOnce .fp32 exaW acc.s
            let nu := roundOnce .fp32 exaW (lget {} acc.v (c % D))
            let inv := acc.s.invalid || (lget {} acc.v (c % D)).invalid
            cellOf (fop ((f32 nu.1).div (f32 sg.1))) (acc.poison || qp) inv))

/-! ### Row operators (R413, R414) -/

/-- The softmax normalisation of a list of values (R414): quotients p/σ, and whether a product was an infinity times zero. -/
def softmaxRow (xs : List Val) (scale : Val) : List Val × Bool :=
  let es := xs.map (fun x => expMethod x scale)
  let sum := Exa.sum exaBits (es.map (fun e => Exa.ofVal exaW e.2.1 e.2.2))
  let sg := f32 (roundOnce .fp32 exaW sum).1
  (es.map (fun e => fop (e.2.1.div sg)), sum.invalid)

/-- SOFTMAX over each row (R414). -/
def opSoftmax (d : Dev) (o : OpIn) : OpRes :=
  let rows := o.fld 0; let cols := o.fld 1; let f := o.fld 3
  if rows * cols = 0 then { dev := d }
  else opWith d o [(false, o.ten 0, inBytes f 0 rows cols), (true, o.ten 1, outBytes o.attr rows cols)] (fun d =>
    let data := (List.range rows).map (fun m =>
      let xs := (List.range cols).map (fun n => inVal d (o.ten 0) f (m * cols + n))
      let r := softmaxRow (xs.map (fun x => x.1)) (f32 (o.fld 2))
      (r.1, r.2, xs.any (fun x => x.2)))
    opOut d o (o.ten 1) rows cols 0 0 0x3104 false (fun m n =>
      let r := lget ([], false, false) data m
      cellOf (lget .nan r.1 n) r.2.2 r.2.1))

/-- A value divided by a count and rounded once to FP32. -/
def divN (v : Val) (n : Nat) : Val := fop (v.div (.fin false n 0))

/-- One row of RMSNORM or LAYERNORM (R411, R496): its values before the last rounding, and whether a sum is invalid. -/
def normRow (xs ws bs : List Val) (eps : Val) (layer : Bool) : List Val × Bool :=
  let n := xs.length
  let s1 := Exa.sum sqBits (xs.map (fun x => Exa.ofVal sqW x))
  let mu := divN (s1.value sqW) n
  let ds := if layer then xs.map (fun x => fop (x.add mu.neg)) else xs
  let s2 := Exa.sum sqBits (ds.map (fun x => Exa.ofProduct sqW x x))
  let r := fop (fop ((divN (s2.value sqW) n).add eps)).rsqrt
  (ds.zipIdx.map (fun p =>
    let y := fop ((fop (p.1.mul r)).mul (lget .nan ws p.2))
    if layer then fop (y.add (lget .nan bs p.2)) else y), (layer && s1.invalid) || s2.invalid)

/-- RMSNORM and LAYERNORM (R411, R413, R496). -/
def opNorm (d : Dev) (o : OpIn) (layer : Bool) : OpRes :=
  let rows := o.fld 0; let n := o.fld 1
  let fx := bitsAt (o.fld 3) 0 4; let fw := bitsAt (o.fld 3) 4 4; let fb := bitsAt (o.fld 3) 8 4
  let y := if layer then o.ten 3 else o.ten 2
  if rows * n = 0 then { dev := d }
  else opWith d o [(false, o.ten 0, inBytes fx 0 rows n), (false, o.ten 1, inBytes fw 0 1 n),
      (false, o.ten 2, if layer then inBytes fb 0 1 n else 0), (true, y, outBytes o.attr rows n)] (fun d =>
    let ws := (List.range n).map (inVal d (o.ten 1) fw)
    let bs := if layer then (List.range n).map (inVal d (o.ten 2) fb) else []
    let data := (List.range rows).map (fun m =>
      let xs := (List.range n).map (fun k => inVal d (o.ten 0) fx (m * n + k))
      let r := normRow (xs.map (·.1)) (ws.map (·.1)) (bs.map (·.1)) (f32 (o.fld 2)) layer
      (r.1, r.2, xs.any (·.2)))
    opOut d o y rows n 0 0 0x3104 false (fun m k =>
      let r := lget ([], false, false) data m
      let p := r.2.2 || (lget (.nan, false) ws k).2 || (layer && (lget (.nan, false) bs k).2)
      cellOf (lget .nan r.1 k) p r.2.1))

/-! ### ELEMENTWISE, CONVERT, REDUCE_EXACT -/

/-- SiLU of a value (Table: elementwise functions). -/
def silu (a : Val) : Val := fop (a.mul (fop ((Val.fin false 1 0).div (fop ((Val.fin false 1 0).add (fop a.neg.exp))))))

/-- The tanh form of GELU (Table: elementwise functions). -/
def gelu (a : Val) : Val :=
  let c1 := f32 0x3F4C422A
  let c2 := f32 0x3D372713
  let cube := fop ((fop (a.mul a)).mul a)
  let t := fop (fop (c1.mul (fop (a.add (fop (c2.mul cube)))))).tanh
  fop ((fop ((Val.fin false 1 (-1)).mul a)).mul (fop ((Val.fin false 1 0).add t)))

/-- One elementwise function (Table: elementwise functions). -/
def elementFn (code : Nat) (a b c : Val) : Val :=
  match code with
  | 0 => fop (a.add b)
  | 1 => fop (a.mul b)
  | 2 => fop ((a.mul b).add c)
  | 3 => (match a with
    | .nan => .nan
    | v => if Val.lt (.fin false 0 0) v then v else .fin false 0 0)
  | 4 => silu a
  | 5 => gelu a
  | 6 => fop ((silu a).mul b)
  | 7 => fop a.exp
  | 8 => fop a.tanh
  | _ => fop (a.mul c)

/-- ELEMENTWISE (R413). -/
def opElementwise (d : Dev) (o : OpIn) : OpRes :=
  let count := o.fld 0; let code := o.fld 1; let f := o.fld 2
  let fa := bitsAt f 0 4; let fb := bitsAt f 4 4; let fc := bitsAt f 8 4
  let useB := [0, 1, 2, 6].contains code
  let nC := if code = 2 then count else if code = 9 then 1 else 0
  if count = 0 then { dev := d }
  else opWith d o [(false, o.ten 0, inBytes fa 0 1 count), (false, o.ten 1, if useB then inBytes fb 0 1 count else 0),
      (false, o.ten 2, inBytes fc 0 1 nC), (true, o.ten 3, outBytes o.attr 1 count)] (fun d =>
    opOut d o (o.ten 3) 1 count 0 0 0x3104 false (fun _ n =>
      let a := inVal d (o.ten 0) fa n
      let b := if useB then inVal d (o.ten 1) fb n else (.nan, false)
      let c := if nC = 0 then (.nan, false) else inVal d (o.ten 2) fc (if code = 9 then 0 else n)
      cellOf (elementFn code a.1 b.1 c.1) (a.2 || b.2 || c.2)))

/-- CONVERT (R54-R56, R110): poison moves and ends nothing. -/
def opConvert (d : Dev) (o : OpIn) : OpRes :=
  let count := o.fld 0
  let f := bitsAt (o.fld 1) 0 4; let mx := bitsAt (o.fld 1) 4 2
  if count = 0 then { dev := d }
  else opWith d o [(false, o.ten 0, inBytes f mx 1 count), (true, o.ten 1, outBytes o.attr 1 count)] (fun d =>
    opOut d o (o.ten 1) 1 count 0 0 0 false (fun _ n => inElem d (o.ten 0) f mx 1 count 0 n))

/-- REDUCE_EXACT (R39): L = 0 writes +0 without a flag. -/
def opReduce (d : Dev) (o : OpIn) : OpRes :=
  let outer := o.fld 0; let len := o.fld 1; let inner := o.fld 2
  let f := bitsAt (o.fld 3) 0 4; let mx := bitsAt (o.fld 3) 4 2
  if outer * inner = 0 then { dev := d }
  else opWith d o [(false, o.ten 0, inBytes f mx (outer * len) inner), (true, o.ten 1, outBytes o.attr outer inner)] (fun d =>
    let r := opOut d o (o.ten 1) outer inner 0 0 0x3104 false (fun m n =>
      (List.range len).foldl (fun c l => c.add (inElem d (o.ten 0) f mx (outer * len) inner (m * len + l) n)) {})
    if len = 0 then { r with flags := {} } else r)

/-! ### Gathers -/

/-- The rows of GATHER_ROWS from row `r` on (R103): a bad index ends the request, its row and every later one are written as
poisoned zero bytes. -/
def gatherLoop (o : OpIn) : Nat → Nat → Dev → OpRes
  | 0, _, d => { dev := d }
  | n + 1, r, d =>
    let rb := o.fld 1
    let ia := o.ten 1 + 4 * r
    let x := devNat d ia 4
    let bad := if isPoisoned d ia 4 then 0x3104 else if o.fld 2 ≤ x then 0x3105 else 0
    let y := o.ten 2 + r * rb
    if bad ≠ 0 then { dev := devWrite d y (List.replicate ((n + 1) * rb) 0) true, status := bad, addr := r }
    else match accessErr d o.who false (o.ten 0 + x * rb) rb with
      | some st => { dev := d, status := st, addr := o.ten 0 + x * rb }
      | none => gatherLoop o n (r + 1) (copyBytes d (o.ten 0 + x * rb) y rb)

/-- GATHER_ROWS (R103, R411). -/
def opGatherRows (d : Dev) (o : OpIn) : OpRes :=
  opWith d o [(false, o.ten 1, 4 * o.fld 0), (true, o.ten 2, o.fld 0 * o.fld 1)] (fun d => gatherLoop o (o.fld 0) 0 d)

/-- Takes rows of GATHER_FIRST in the order their reads complete, which is left free (R360). -/
def firstLoop (o : OpIn) : Nat → Nat → List Nat → Dev → OpRes
  | 0, _, _, d => { dev := d }
  | n + 1, k, left, d =>
    if left = [] then { dev := d }
    else
      let (c, d) := takeFree d
      let j := Config.freeNat c % left.length
      let x := devNat d (o.ten 1 + 4 * lget 0 left j) 4
      let rb := o.fld 2
      match accessErr d o.who false (o.ten 0 + x * rb) rb with
      | some st => { dev := d, status := st, addr := o.ten 0 + x * rb }
      | none =>
        let d := copyBytes d (o.ten 0 + x * rb) (o.ten 2 + k * rb) rb
        firstLoop o n (k + 1) (left.eraseIdx j) (devPut d (o.ten 3 + 4 * k) 4 x)

/-- GATHER_FIRST (R360): refused in determinism mode, else counted once. -/
def opGatherFirst (d : Dev) (o : OpIn) : OpRes :=
  let len := o.fld 0; let q := min (o.fld 1) len
  if !(ctxSt d o.i o.x).detOff then { dev := d, status := 0x3110 }
  else opWith d o [(false, o.ten 1, 4 * len), (true, o.ten 2, q * o.fld 2), (true, o.ten 3, 4 * q)] (fun d =>
    if isPoisoned d (o.ten 1) (4 * len) then { dev := d, status := 0x3104, addr := o.ten 1 }
    else firstLoop o q 0 (List.range len) (countChoice d o.i o.x o.step))

/-! ### Experts and sampling (R415, R416) -/

/-- Inserts an index into a list kept by rank: larger value first, ties to the lower index; a NaN ranks last. -/
def rankInsert (v : Nat → Val) (j : Nat) : List Nat → List Nat
  | [] => [j]
  | k :: l =>
    let before : Bool := match v j, v k with
      | .nan, .nan => decide (j < k)
      | .nan, _ => false
      | _, .nan => true
      | a, b => b.lt a || (!a.lt b && decide (j < k))
    if before then j :: k :: l else k :: rankInsert v j l

/-- The `k` indices below `n` with the largest values (R415, R416). -/
def topIdx (v : Nat → Val) (n k : Nat) : List Nat := ((List.range n).foldl (fun l j => rankInsert v j l) []).take k

/-- MOE_ROUTE (R415). Weights are T × k in rank order; the list of expert e is at e × CAPACITY × 4 of the lists, its count at
4 × e of the counts (log entry 33). -/
def opMoeRoute (d : Dev) (o : OpIn) : OpRes :=
  let T := o.fld 0; let E := o.fld 1; let k := o.fld 2; let cap := o.fld 3
  let renorm := bitOf (o.fld 4) 0; let f := bitsAt (o.fld 4) 4 4
  opWith d o [(false, o.ten 0, inBytes f 0 T E), (true, o.ten 1, outBytes o.attr T k), (true, o.ten 2, 4 * cap * E),
      (true, o.ten 3, 4 * E)] (fun d =>
    let scale := f32 0x3FB8AA3B
    let toks := (List.range T).map (fun t =>
      let xs := (List.range E).map (fun e => inVal d (o.ten 0) f (t * E + e))
      let pick := topIdx (fun j => (lget (.nan, false) xs j).1) E k
      let chosen := pick.map (fun j => (lget (.nan, false) xs j).1)
      let ws := if renorm then softmaxRow chosen scale
                else let all := softmaxRow (xs.map (·.1)) scale; (pick.map (lget .nan all.1), all.2)
      (pick, ws.1, ws.2 || xs.any (fun x => x.1 == .nan), xs.any (·.2)))
    let poisoned := toks.any (fun t => t.2.2.2)
    let lists := (List.range E).map (fun e => (List.range T).filter (fun t => (lget ([], [], false, false) toks t).1.contains e))
    let dropped := lists.foldl (fun n l => n + (l.length - cap)) 0
    let r := opOut d o (o.ten 1) T k 0 0 0x3104 (toks.any (fun t => t.2.2.1)) (fun t j =>
      let x := lget ([], [], false, false) toks t
      let e := lget 0 x.1 j
      if ((lget [] lists e).take cap).contains t then cellOf (lget .nan x.2.1 j) x.2.2.2 else cellOf (.fin false 0 0) x.2.2.2)
    let d := lists.zipIdx.foldl (fun d p =>
      devWrite d (o.ten 2 + 4 * cap * p.2) ((p.1.take cap).flatMap (natLe 4)) poisoned) r.dev
    let d := devWrite d (o.ten 3) (lists.flatMap (fun l => natLe 4 (min cap l.length))) poisoned
    { r with dev := d, result := dropped })

/-- MOE_COMBINE (R496): y = Σ w × e exact over the k experts; list entry t × k + j is the row of the expert outputs that weight
j of token t takes (log entry 33). -/
def opMoeCombine (d : Dev) (o : OpIn) : OpRes :=
  let T := o.fld 0; let k := o.fld 1; let w := o.fld 2
  let fe := bitsAt (o.fld 3) 0 4; let fw := bitsAt (o.fld 3) 4 4
  opWith d o [(false, o.ten 0, inBytes fw 0 T k), (false, o.ten 2, 4 * T * k), (true, o.ten 3, outBytes o.attr T w)] (fun d =>
    if isPoisoned d (o.ten 2) (4 * T * k) then { dev := d, status := 0x3104, addr := o.ten 2 }
    else
      let rowB := (w * (outElem fe 0).bits + 7) / 8
      let idx := (List.range (T * k)).map (fun j => devNat d (o.ten 2 + 4 * j) 4)
      match firstAccess d o.who (idx.map (fun x => (false, o.ten 1 + x * rowB, rowB))) with
      | some (st, a) => { dev := d, status := st, addr := a }
      | none =>
        let r := (List.range T).foldl (fun (st : Dev × Flags × Bool) t =>
          let cells := (List.range w).map (fun n => (List.range k).foldl (fun (c : Cell) j =>
            let a := inVal d (o.ten 0) fw (t * k + j)
            let e := inVal d (o.ten 1 + lget 0 idx (t * k + j) * rowB) fe n
            { c with x := c.x.add sqBits (Exa.ofProduct sqW a.1 e.1), poison := c.poison || a.2 || e.2 }) {})
          let (d', fl) := putOutputs st.1 o.attr sqW (o.ten 3) T w t 0 cells (o.draws d 0 0)
          (d', st.2.1.or fl, st.2.2 || cells.any (fun c => c.poison))) (d, {}, false)
        { dev := r.1, flags := r.2.1, status := if r.2.2 then 0x3104 else 0 })

/-- The scan of sample_row (R416): exact comparison of the running sum. -/
def sampleScan (ps : List (Nat × Int)) (us : Int) (acc : Int) : Nat :=
  match ps with
  | [] => 0
  | (j, p) :: l =>
    let acc := acc + p
    if us < acc * 2 ^ 32 ∨ l.isEmpty then j else sampleScan l us acc

/-- One row of SAMPLE (R416): the index, and whether it is invalid. -/
def sampleRow (xs : List Val) (scale : Val) (topk u : Nat) : Nat × Bool :=
  let es := xs.map (fun x => expMethod x scale)
  let ts := es.map (fun e => f32 e.1)
  if ts.any (· == .nan) then (0xFFFFFFFF, true)
  else
    let cand := if topk = 0 then List.range xs.length
                else (topIdx (fun j => lget .nan ts j) xs.length topk).foldl natPut []
    if topk = 1 then (lget 0 cand 0, false)
    else
      let ps := cand.map (fun j => (j, (lget (0, .nan, false) es j).2.1.int320))
      let s := ps.foldl (fun a p => a + p.2) 0
      (sampleScan ps (u * s) 0, false)

/-- SAMPLE (R416). -/
def opSample (d : Dev) (o : OpIn) : OpRes :=
  let rows := o.fld 0; let V := o.fld 1; let topk := o.fld 3; let f := o.fld 4
  opWith d o [(false, o.ten 0, inBytes f 0 rows V), (true, o.ten 1, 4 * rows)] (fun d =>
    let seed := (ctxSt d o.i o.x).seed
    let rs := (List.range rows).map (fun r =>
      let xs := (List.range V).map (fun j => inVal d (o.ten 0) f (r * V + j))
      (sampleRow (xs.map (·.1)) (f32 (o.fld 2)) topk (wordAt (draw seed o.step o.tensor r) 0), xs.any (·.2)))
    let d := rs.zipIdx.foldl (fun d p => devPut d (o.ten 1 + 4 * p.2) 4 p.1.1.1) d
    let d := rs.zipIdx.foldl (fun d p => if p.1.2 then markPoison d (o.ten 1 + 4 * p.2) 0 32 else d) d
    { dev := d, flags := { invalid := rs.any (fun r => r.1.2) }, status := if rs.any (fun r => r.2) then 0x3104 else 0 })

end Sys2Proof.Machine
end

