-- ==== Sys2Proof/Machine/PartOps.lean ====
section
/-!
DEFINITION. The end of a partition's resize (R221): what it takes and gives, and when it completes.
-/

namespace Sys2Proof.Machine

/-- The numbers set in `new` and not in `old`, below `n`. -/
def addedBits (n old new : Nat) : List Nat := (bitList n new).filter (fun b => !bitOf old b)

/-- Takes the units removed from an instance (R221). -/
def dropUnits (d : Dev) (old new : Part) : Dev :=
  let d := (addedBits 96 new.cores old.cores).foldl (fun d c => commitReg (fset d (regCorePart c) fldCorePartOwner 0) (regCorePart c)) d
  let d := (addedBits 4 new.keys old.keys).foldl (fun d n => { d with keyOwn := tdel d.keyOwn n }) d
  let d := (addedBits 256 new.regions old.regions).foldl (fun d r => { d with mortar := tdel d.mortar r }) d
  (old.pages.filter (fun n => !new.pages.contains n)).foldl (fun d n => modPage d (n * 2097152) (fun _ => {})) d

/-- Whether a range holds data: a byte that is not 0, or poison. -/
def holdsData (d : Dev) (a n : Nat) : Bool :=
  d.mem.any (fun c => decide (a ≤ c.1) && decide (c.1 < a + n)) || d.poison.any (fun b => decide (a ≤ b) && decide (b < a + n))

/-- Whether a core or keystone runs nothing. -/
def unitsIdle (d : Dev) (old new : Part) : Bool :=
  (addedBits 96 new.cores old.cores).all (fun c =>
    coreState d c != 1 && (coreSt d c).borrowed.isNone && (List.range 4).all (fun b => (arrSt d (4 * c + b)).run.isNone)) &&
  (addedBits 4 new.keys old.keys).all (fun n => (arrSt d (384 + n)).run.isNone)

/-- Whether the pages and mortar regions that a resize removes hold no data, and the ashlars that the instance pins fit its new cap (R221 step 5, R286). -/
def memFree (d : Dev) (i : Nat) (old new : Part) : Bool :=
  (old.pages.filter (fun n => !new.pages.contains n)).all (fun n =>
    !holdsData d (n * 2097152) 2097152 && (unitsUsed d 1).all (fun u => (u.1 + u.2) * 65536 ≤ n * 2097152 || (n + 1) * 2097152 ≤ u.1 * 65536)) &&
  (addedBits 256 new.regions old.regions).all (fun r => !holdsData d (mortarBase + r * 0x100000) 0x100000) &&
  refBytes d i 0 true ≤ new.cap * 1048576

/-- The new credit of an instance when its rate changes (R410). -/
def newRate (d : Dev) (i old new : Nat) (bare : Bool) : Dev :=
  if i = 0 then d
  else if bare ∨ (old = 0 ∧ new ≠ 0 ∧ credit d i = 0) then setCredit d i (10 * new)
  else setCredit d i (min (credit d i) (10 * new))

/-- Contexts that borrow a core being removed are pre-empted: of a reserved core, or soak contexts of other instances on a lendable one
(R221 step 3, R225). -/
def endLoans (d : Dev) (i : Nat) (old new : Part) : Dev :=
  (addedBits 96 new.cores old.cores).foldl (fun d c =>
    if (coreSt d c).borrowed.isSome || (coreState d c == 1 && (runningCtx d c).1 != i) then preempt d c else d) d

/-- Puts the new partition in effect whole (R221 step 6). -/
def takePart (d : Dev) (i : Nat) (new : Part) : Dev :=
  let old := (instSt d i).part
  let d := dropUnits d old new
  let d := newRate d i old.rate new.rate false
  trimMortar (modInst d i (fun s => { s with part := new, resize := none, due := [] })) i

/-- Whether a context has work that has not come to an iteration boundary: a request in progress, or sequences of the composer (R221). -/
def ctxBusy (d : Dev) (i x : Nat) : Bool :=
  (ctxSt d i x).live && !((ctxSt d i x).queue.isEmpty && (ctxSt d i x).seqs.isEmpty)

/-- Whether nothing holds a resize: every context has come to an iteration boundary, and what it removes is idle and empty (R221). -/
def resizeReady (d : Dev) (i : Nat) (new : Part) : Bool :=
  (instSt d i).due.all (fun x => !ctxBusy d i x) && unitsIdle d (instSt d i).part new && memFree d i (instSt d i).part new

/-- A resize in progress completes at an iteration boundary once what it removes is idle and empty (R221). -/
def tryResize (d : Dev) (i : Nat) : Dev :=
  match (instSt d i).resize with
  | none => d
  | some (new, _, c) => if resizeReady d i new then cmdEnd (takePart d i new) 0 0 c 0 else d

/-- A context comes to an iteration boundary (R221). -/
def passBoundary (d : Dev) (i x : Nat) : Dev :=
  if (instSt d i).resize.isSome then tryResize (modInst d i (fun s => { s with due := s.due.filter (· != x) })) i else d

end Sys2Proof.Machine
end

