-- ==== Sys2Proof/Machine/CtxOps.lean ====
section
/-!
DEFINITION. Contexts: the acceptance and the order of their operators and plans (R364, R411, R418, R500, R501), replay (R369,
R370, R421), their end (R419, R434) and the end of an instance (R435).
-/

namespace Sys2Proof.Machine

/-- The audit record of a context (R368). -/
def auditBytes (x : CtxSt) : List Byte :=
  natLe 16 x.seed ++ natLe 8 x.step ++ natLe 8 x.choices ++ natLe 8 (x.firstCh.getD noStep) ++ natLe 8 x.startAt
    ++ natLe 4 x.job ++ natLe 2 (x.level * 256) ++ natLe 1 (b2n (!x.detOff) + 2 * b2n x.replay) ++ natLe 9 0

/-- The operator steps a plan still holds. -/
def opsLeft (v : Inv) : Nat := (v.plan.filter (fun s => s.kind == 1)).length

/-- The step number that the current step of an invocation or plan belongs to (R418). -/
def stepOwner (v : Inv) : Nat :=
  if !v.isPlan || v.next = v.step && opsLeft v = 0 then v.step
  else if opsLeft v ≠ 0 then v.next
  else (v.next + (2 ^ 64 - 1)) % 2 ^ 64

/-- The head of a context's queue of accepted invocations, when it may run or go on (R369, R393, R419, R500): nothing new starts
behind CONTEXT_DESTROY, beyond a replay target, in an instance that is not ready, or while an operand is awaited (R273); a plan's steps wait
while its core is stopped (R116), and a prompt context's work while prompt work holds every unit of its partition (R202). -/
def headReady (d : Dev) (i x : Nat) : Option Inv :=
  let c := ctxSt d i x
  match c.queue.head? with
  | none => none
  | some v =>
    if c.live && c.ending.isNone && instState d i == 2 && (instSt d i).freezing.isNone && (c.destroy.isNone || v.started)
        && (!c.replay || stepOwner v < c.replayTo) && !d.tier.waits.any (fun w => w.inst == i && w.ctx == x) && !(v.isPlan && planHeld d i x)
        && !d.waiting.contains (i, x) then some v
    else none

/-- Changes the head of a context's queue. -/
def modHead (d : Dev) (i x : Nat) (f : Inv → Inv) : Dev :=
  modCtx d i x (fun c => { c with queue := match c.queue with
    | v :: l => f v :: l
    | [] => [] })

/-- Gives an invocation or plan its completion (R387, R418): a plan's `RESULT` counts the steps completed. -/
def endInv (d : Dev) (i x : Nat) (v : Inv) (status flags result : Nat) : Dev :=
  match v.cmd with
  | none => d
  | some c => complete d i (x + 1) c status (if v.isPlan then v.done else result) v.step (v.flags ||| flags)

/-! ### Replay (R370, R421) -/

/-- The first waiting REPLAY_TO_STEP sets the target, or is refused when its target has been run. -/
def activateReplay (i x : Nat) : Nat → Dev → Dev
  | 0, d => d
  | n + 1, d =>
    match (ctxSt d i x).waitRep with
    | [] => d
    | (t, c) :: rest =>
      if t < (ctxSt d i x).lastRun then
        activateReplay i x n (cmdEnd (modCtx d i x (fun y => { y with waitRep := rest })) i (x + 1) c 0x3A0E 0 t)
      else modCtx d i x (fun y => { y with replayTo := t + 1 })

/-- Completes the REPLAY_TO_STEP in force once its step has run. -/
def checkReplay (d : Dev) (i x : Nat) : Dev :=
  match (ctxSt d i x).waitRep with
  | [] => d
  | (t, c) :: rest =>
    if t < (ctxSt d i x).lastRun then
      activateReplay i x rest.length (complete (modCtx d i x (fun y => { y with waitRep := rest })) i (x + 1) c 0)
    else d

/-! ### The end of contexts (R419, R434, R435) -/

/-- Whether an invocation is a context's work. -/
def ownRun (i x : Nat) (r : ArrRun) : Bool := r.inst == i && r.ctx == x && r.cls != 0

/-- The arrays whose running or queued work belongs to a context. -/
def ctxArrays (d : Dev) (i x : Nat) : List Nat :=
  (d.arrs.filter (fun p => p.2.run.any (ownRun i x) || p.2.queued.any (ownRun i x))).map (fun p => p.1)

/-- Abandons the work of a context on an array (R434 step 2): a queued invocation of another context then starts. -/
def dropArray (d : Dev) (i x a : Nat) : Dev :=
  let q := (arrSt d a).queued.filter (fun r => !ownRun i x r)
  let d := if q.isNone then setArr (modArr d a (fun t => { t with queued := none })) a fldArrStatusQueued 0 else d
  if (arrSt d a).run.any (ownRun i x) then
    let d := modArr d a (fun _ => {})
    let d := setArr (setArr (setArr d a fldArrStatusBusy 0) a fldArrStatusQueued 0) a fldArrStatusStopping 0
    match q with
    | some r => beginRun (forceRun d a r) a r
    | none => d
  else d

/-- Ends the work of a context on a core: streams end with `STATE` 7 and their configuration, `CORE_CTX` and a borrowing are
cleared (R434 steps 2 and 5). -/
def dropCore (d : Dev) (i x c : Nat) : Dev :=
  let d := (strmsOf d c i x).foldl (fun d s =>
    let d := setStrmState d c s 7
    let d := modStrm d c s (fun t => { pageReq := t.pageReq })
    let d := commitReg (setReg d (regCoreStrmCfg c s) 0) (regCoreStrmCfg c s)
    commitReg (setReg d (regCoreStrmDesc c s) 0) (regCoreStrmDesc c s)) d
  let others := d.ctxs.any (fun p => p.1 != ctxKey i x && p.2.away.contains c)
  let d := if (ctxSt d i x).away.contains c ∧ !others then fset d (regCoreStatus c) fldCoreStatusLentSaved 0 else d
  let d := if (coreSt d c).borrowed = some (i, x) then
      let d := fset (fset d (regCoreStatus c) fldCoreStatusLent 0) (regCoreStatus c) fldCoreStatusLentSaved 0
      modCore (if 1 ≤ coreState d c ∧ coreState d c ≤ 3 then setCoreState d c 0 else d) c (fun _ => {})
    else d
  if (coreCtx d c).2 = (i, x) ∧ (coreCtx d c).1 ≠ 0 then
    let d := commitReg (setReg d (regCoreCtx c) 0) (regCoreCtx c)
    modCore (if 1 ≤ coreState d c ∧ coreState d c ≤ 3 then setCoreState d c 0 else d) c (fun _ => {})
  else d

/-- Ends a context's work on arrays and cores, its promotions' waits and its outstanding requests (R434 steps 2 to 5). -/
def dropCtxWork (d : Dev) (i x : Nat) : Dev :=
  let d := (ctxArrays d i x).foldl (fun d a => dropArray d i x a) d
  let d := (List.range 96).foldl (fun d c => dropCore d i x c) d
  let d := modTier (stopWaits (dropUnit d i x) i x) (fun t => { t with later := t.later.filter (fun r => !(r.inst == i && r.ctx == some x)) })
  giveTags <| placeWork { d with
    shares := d.shares.filter (fun p => !ownRun i x p.2)
    reruns := d.reruns.filter (fun r => !(r.inst == i && r.ctx == x))
    sp := { d.sp with saved := d.sp.saved.filter (fun s => s.2 != (i, x)) }
    trn := { d.trn with reqs := d.trn.reqs.filter (fun p => !(p.2.inst == i && p.2.ctx == x)) } }

/-- Frees a context number; the counters of its telemetry stay (R419, R434 step 7, R446). -/
def freeCtx (d : Dev) (i x : Nat) : Dev := modCtx d i x (fun c => { tele := c.tele })

/-- Ends every command of a context that has not completed: accepted invocations keep their steps (R419, R434 step 1). -/
def endCommands (d : Dev) (i x status : Nat) : Dev :=
  let c := ctxSt d i x
  let d := modCtx d i x (fun y => { y with queue := [], waitRep := [], destroy := none, seqs := [], batch := [] })
  let d := c.queue.foldl (fun d v => endInv d i x v status 0 0) d
  let d := c.waitRep.foldl (fun d w => complete d i (x + 1) w.2 status) d
  let d := c.seqs.foldl (fun d s => match s.cancel with
    | some m => complete d i (x + 1) m status s.produced
    | none => d) d
  match c.destroy with
  | some m => complete d i (x + 1) m status
  | none => d

/-- CONTEXT_DESTROY goes on once nothing of the context is in progress (R419). -/
def finishDestroy (d : Dev) (i x : Nat) : Dev :=
  let c := ctxSt d i x
  match c.destroy with
  | none => d
  | some m =>
    let busy := match c.queue.head? with
      | some v => v.started
      | none => false
    if busy then d
    else
      let d := modCtx d i x (fun y => { y with destroy := none })
      let d := endCommands d i x 0x3A0F
      freeCtx (dropCtxWork (complete d i (x + 1) m 0) i x) i x

/-- The record with a sequence number, wherever it is kept. -/
def findRec (d : Dev) (i seq : Nat) : Rec :=
  match (d.flt.queue ++ d.flt.log ++ (instSt d i).recs).find? (fun r => r.seq == seq) with
  | some r => r
  | none => { status := 0, seq := seq }

/-- The steps of a context teardown (R434), under the record that opened it. -/
def tearContext (d : Dev) (i x status seq : Nat) : Dev :=
  let c := ctxSt d i x
  let d := endCommands d i x status
  let d := dropCtxWork d i x
  let d := mapRec d seq (fun r => { r with flags := r.flags ||| 8 })
  let r := findRec d i seq
  let d := modInst d i (fun s => { s with slots := tset s.slots x (r, auditBytes c) })
  freeCtx (notice d i status seq) i x

/-- The row of a context teardown (R434): it completes with its opening record written again, `FINAL` set. -/
def contextTeardown (d : Dev) (i x : Nat) : Dev :=
  match (ctxSt d i x).ending with
  | none => d
  | some (status, seq) => mapRec (tearContext d i x status seq) seq (fun r => { r with flags := r.flags ||| 4 })

/-- Fills a page with zeros as a plinth does, keeping its owner (R435 step 2). -/
def zeroPage (d : Dev) (o : Nat) : Dev := modPage (devZero d o 2097152) o (fun p => { p with dirty := true })

/-- The pages an instance owns outside the soft buffers. -/
def instPages (d : Dev) (i : Nat) : List Nat := pagesWhere d (fun p => p.owner == i && !p.slot)

/-- The mortar data regions an instance owns (R497). -/
def instRegions (d : Dev) (i : Nat) : List Nat := (List.range 256).filter (fun r => tget 127 d.mortar r == i)

/-- The cores of an instance's partition (R220). -/
def instCores (d : Dev) (i : Nat) : List Nat := (List.range 96).filter (fun c => coreOn d c && coreHeld d i c)

/-- The keystones of an instance's partition (R220). -/
def instKeys (d : Dev) (i : Nat) : List Nat := (List.range 4).filter (fun n => tget 127 d.keyOwn n == i)

/-- Whether a page of instance 0 holds the ashlar map and set table, or is one of the 12 that the firmware keeps for its table
sections and for a staged image (R265, R453, R461). -/
def mapPage (d : Dev) (o : Nat) : Bool :=
  let b := fget d regTierMapBase fldTierMapBaseBase
  b ≤ o && o < b + 77 * 2097152

/-- Clears the data of an instance (R435 steps 2 and 3). The pages of the ashlar map, which only the tiers manager writes, are
kept (R265, R392). -/
def clearInstData (d : Dev) (i : Nat) : Dev :=
  let d := ((instPages d i).filter (fun o => !(i == 0 && mapPage d o))).foldl zeroPage d
  let d := (instRegions d i).foldl (fun d r => devZero d (mortarBase + r * 0x100000) 0x100000) d
  let d := ((instCores d i).filter (fun c => !inReserve d c)).foldl (fun d c => devZero d (storeAddr c 0) 0x400000) d
  (instKeys d i).foldl (fun d n => devZero d (stagingAddr n 0) 0x800000) d

/-- Stops a ring pair with `ENABLE` cleared and head and tail at 0; completions of its commands are discarded (R391, R435 step
1). -/
def resetRing (d : Dev) (i q : Nat) : Dev :=
  let k := regMbxRingState i q
  let d := fset d (regMbxRingCfg i q) fldMbxRingCfgEnable 0
  let d := fset (fset (fset (fset d k fldMbxRingStateState 0) k fldMbxRingStateSqHead 0) k fldMbxRingStateCqTail 0) k
    fldMbxRingStateCqPhase 1
  modRing d i q (fun _ => {})

/-- Drops the exports of an instance (R435 step 4). -/
def dropExports (d : Dev) (i : Nat) : Dev :=
  { d with trn := { d.trn with exports := d.trn.exports.filter (fun p => p.2.inst != i) } }

/-- A freeze in progress ends with the instance (R401): the host manager's command with 0x3A08. -/
def dropFreeze (d : Dev) (i : Nat) : Dev :=
  match (instSt d i).freezing with
  | none => d
  | some (a, c) =>
    let d := modInst d i (fun s => { s with freezing := none })
    if a = i then d else cmdEnd d a 0 c 0x3A08

/-- The row of an instance teardown (R435): its rings stop, every context ends, its data is cleared, its references and exports go,
and the instance is ready again, or bare without a partition. -/
def instanceTeardown (d : Dev) (i : Nat) : Dev :=
  match (instSt d i).ending with
  | none => d
  | some (status, seq) =>
    let d := (List.range 17).foldl (fun d q => resetRing d i q) d
    let d := (List.range 16).foldl (fun d x =>
      if (ctxSt d i x).ending.isSome then contextTeardown d i x
      else if (ctxSt d i x).live then tearContext d i x status seq else d) d
    let d := dropFreeze d i
    let d := clearInstData d i
    let d := dropExports (dropInstRefs d i) i
    let d := mapRec d seq (fun r => { r with flags := r.flags ||| 12 })
    let d := modInst d i (fun s => { s with ending := none, dirty := false })
    let d := setInstState d i (if i = 0 ∨ (instSt d i).held then 2 else 1)
    notice d 0 status seq

/-! ### Running invocations (R364, R411, R500) -/

/-- The block detail of a status that ends an invocation (R428): a core's status names the core that runs the context's plans. -/
def invDetail (d : Dev) (v : Inv) (i x status addr : Nat) : Nat :=
  match status / 256 % 16 with
  | 1 => (planCore d i x).getD 0
  | 4 => ashDetail d addr
  | 10 => match v.cmd with
    | some c => c.opcode + c.cmdId * 2 ^ 32
    | none => 0
  | _ => 0

/-- Checks of an operator that its submission or its step can see (R59, R404, R411): reserved bits, the alignment of the block, its
level, and its entry when the block is readable. -/
def preCheck (d : Dev) (i x a0 a1 : Nat) (t : List Nat) (blk : Nat) : Nat :=
  let op := a0 % 65536
  if 2 ^ 48 ≤ a0 ∨ 2 ^ 32 ≤ a1 ∨ blk % 8 ≠ 0 then 0x3A03
  else if 0x0140 ≤ op ∧ op ≤ 0x0143 ∧ (ctxSt d i x).level < 3 then 0x3A06
  else if !opKnown op then 0
  else if (accessErr d (.ctx i x) false blk 64).isSome ∨ isPoisoned d blk 64 then
    (if attrValid (attrOf a1) false then 0 else 0x3A07)
  else
    let p := (List.range 8).map (fun k => devNat d (blk + 8 * k) 8)
    if opBad op { i := i, x := x, word := a1, tensor := bitsAt a0 16 32, step := 0, t := t, p := p } then 0x3A07 else 0

/-- What follows a change of a context's queue: a REPLAY_TO_STEP may complete, an invocation of a reserved operator ID ends with
0x3A07, a CONTEXT_DESTROY may go on (R370, R411, R419). -/
def settleCtx (i x : Nat) : Nat → Dev → Dev
  | 0, d => d
  | n + 1, d =>
    let d := finishDestroy (checkReplay d i x) i x
    match headReady d i x with
    | some v =>
      if !v.isPlan && !opKnown v.op then
        let d := modCtx d i x (fun c =>
          { c with
            queue := c.queue.drop 1
            lastRun := v.step + 1
            lastStep := some v.step })
        let d := endRequest d i x 0x3A07 0 (invDetail d v i x 0x3A07 0)
        settleCtx i x n (endInv d i x v 0x3A07 0 0)
      else d
    | none => d

/-- Settles a context. -/
def settle (d : Dev) (i x : Nat) : Dev := settleCtx i x ((ctxSt d i x).queue.length + 1) d

/-- A prompt context whose requests have ended gives its unit back to what waits (R218, R219). -/
def giveBack (d : Dev) (i x : Nat) : Dev :=
  if (ctxSt d i x).queue.isEmpty && (ctxSt d i x).seqs.isEmpty && (d.taken.any (·.2 == (i, x)) || d.waiting.contains (i, x)) then
    placeWork (dropUnit d i x)
  else d

/-- A request of a context has ended: for a context without composer sequences that is an iteration boundary (R221). -/
def requestEnd (d : Dev) (i x : Nat) : Dev := giveBack (if (ctxSt d i x).seqs.isEmpty then passBoundary d i x else d) i x

/-- Takes the head off the queue with its completion; `upTo` counts the steps it ran or skipped. -/
def popHead (d : Dev) (i x upTo : Nat) (v : Inv) (status flags result : Nat) : Dev :=
  let d := modCtx d i x (fun c => { c with queue := c.queue.drop 1, lastRun := upTo })
  requestEnd (settle (endInv d i x v status flags result) i x) i x

/-- The current step of the head ends (R111, R418, R500): a context-fatal status opens the teardown, a request-fatal one is
recorded and ends the invocation, or the plan there; another one completes the invocation, or the plan's step. -/
def stepDone (d : Dev) (i x status : Nat) (addr : Nat := 0) (flags : Nat := 0) (result : Nat := 0) (isOp : Bool := false) : Dev :=
  match (ctxSt d i x).queue.head? with
  | none => d
  | some v =>
    if 4 ≤ status / 4096 then endCtx d i x status addr (invDetail d v i x status addr)
    else
      let bad := status / 4096 = 3
      let d := if bad then endRequest d i x status addr (invDetail d v i x status addr)
        else if isOp then modCtx d i x (fun c => { c with tele := { c.tele with invocations := satAdd 64 c.tele.invocations 1 } })
        else d
      if !v.isPlan then popHead d i x (v.step + 1) v status flags result
      else
        let left := v.plan.drop 1
        let v := { v with
          plan := left
          started := false
          flags := v.flags ||| flags
          next := if isOp then (v.next + 1) % 2 ^ 64 else v.next
          done := if bad then v.done else v.done + 1 }
        let all := if v.next = v.step ∧ opsLeft v = 0 then v.step + 1 else v.next + opsLeft v
        if bad || left.isEmpty then popHead d i x all v status 0 0
        else
          let d := modHead d i x (fun _ => v)
          let d := if isOp && opsLeft v ≠ 0 then modCtx d i x (fun c => { c with lastRun := v.next }) else d
          settle d i x

/-- Runs an operator on its prepared input. -/
def runOperator (d : Dev) (op : Nat) (o : OpIn) : OpRes :=
  match op with
  | 0x0100 => opMatmul d o
  | 0x0101 => opAttention d o
  | 0x0102 => opSoftmax d o
  | 0x0103 => opNorm d o false
  | 0x0104 => opNorm d o true
  | 0x0105 => opElementwise d o
  | 0x0106 => opConvert d o
  | 0x0107 => opReduce d o
  | 0x0110 => opGatherRows d o
  | 0x0111 => opGatherFirst d o
  | 0x0120 => opMoeRoute d o
  | 0x0121 => opMoeCombine d o
  | 0x0130 => opSample d o
  | _ => { dev := d, status := 0x3A07 }

/-- The operator that a head invocation, or the current step of its plan, names. -/
def headOp (v : Inv) : Option Nat :=
  if v.isPlan then
    match v.plan.head? with
    | some s => if s.kind = 1 then some (s.f0 % 65536) else none
    | none => none
  else some v.op

/-- The images A2 to A6 of the current operator (R411): of the command, or the 40 bytes its plan step names. -/
def headArgs (d : Dev) (v : Inv) : List Nat :=
  if v.isPlan then
    match v.plan.head? with
    | some s => (List.range 5).map (fun k => devNat d (s.f2 + 8 * k) 8)
    | none => []
  else v.a

/-- A0 and A1 of the current operator. -/
def headWords (v : Inv) : Nat × Nat :=
  if v.isPlan then
    match v.plan.head? with
    | some s => (s.f0 + bitsAt s.f1 32 32 * 65536, bitsAt s.f1 0 32)
    | none => (0, 0)
  else (v.op + v.tensor * 65536, v.attr)

/-- Why the current operator's images and parameter block cannot be read, with the address (R110, R294, R411). -/
def headErr (d : Dev) (i x : Nat) (v : Inv) : Option (Nat × Nat) :=
  let rd (a n : Nat) : Option (Nat × Nat) :=
    match accessErr d (.ctx i x) false a n with
    | some st => some (st, a)
    | none => if isPoisoned d a n then some (0x3104, a) else none
  let img := if v.isPlan then
      match v.plan.head? with
      | some s => rd s.f2 40
      | none => none
    else none
  if v.img.isSome then none
  else match img with
  | some e => some e
  | none =>
    let blk := lget 0 (headArgs d v) 4
    let (a0, a1) := headWords v
    let st := preCheck d i x a0 a1 ((headArgs d v).take 4) blk
    if st ≠ 0 then some (st, 0)
    else if opKnown (a0 % 65536) then rd blk 64 else some (0x3A07, 0)

/-- The input of the current operator. -/
def headIn (d : Dev) (i x : Nat) (v : Inv) : OpIn :=
  let (a0, a1) := headWords v
  let a := headArgs d v
  { i := i, x := x, word := a1, tensor := bitsAt a0 16 32, step := stepOwner v, t := a.take 4
    p := v.img.getD ((List.range 8).map (fun k => devNat d (lget 0 a 4 + 8 * k) 8)), ready := v.ready }

/-- Notes the operand ashlars of a MATMUL that have a usable copy now (R273). -/
def noteReady (d : Dev) (i op : Nat) (o : OpIn) : List Nat :=
  if op = 0x0100 ∧ bitsAt (o.fld 0) 0 28 * bitsAt (o.fld 0) 28 28 ≠ 0 then
    ((matmulAshlars d o).filter (fun a => resident (getAsh d a) 0 && (refOf d i a 0).isSome && (getAsh d a).integ != 2)
      ++ o.ready).eraseDups
  else []

/-- The start of the current step of a context: its number stands in the records that follow. -/
def beginStep (d : Dev) (i x : Nat) (v : Inv) : Dev :=
  modHead (modCtx d i x (fun c => { c with lastStep := some (stepOwner v) })) i x (fun w => { w with started := true })

/-- The row of an operator (R411, R412, R500): the oldest invocation of the context, when it names this operator, runs and
completes; it waits while an operand ashlar has no usable mortar copy. -/
def operRow (d : Dev) (i x op : Nat) : Dev :=
  match headReady d i x with
  | none => d
  | some v =>
    if headOp v != some op then d
    else
      let d := beginStep d i x v
      match headErr d i x v with
      | some (st, a) => stepDone d i x st a 0 0 true
      | none =>
        let o := headIn d i x v
        let o := { o with ready := noteReady d i op o }
        let r := runOperator d op o
        if r.waits then modHead r.dev i x (fun w => { w with ready := o.ready })
        else stepDone (modHead r.dev i x (fun w => { w with ready := [] })) i x r.status r.addr r.flags.toNat r.result true

/-- A request of a context for an ashlar is refused with a status: the context or its request ends (R267, R272). -/
def ashRefused (d : Dev) (i x a st : Nat) : Dev :=
  if st / 4096 = 4 then endCtx d i x st a (ashDetail d a) else endRequest d i x st a (ashDetail d a)

/-- The promotion that an operand of a context needs is refused (R267, R273): the waiting invocation ends with the status. -/
def operandRefused (d : Dev) (i x a st : Nat) : Dev :=
  if (ctxSt d i x).queue.isEmpty then ashRefused d i x a st else stepDone d i x st a 0 0 true

/-- An on-demand promotion as its row commands it (R273): a refusal ends the waiting invocation. -/
def onDemand (d : Dev) (i x a : Nat) : Dev :=
  if !(ctxSt d i x).live || (ctxSt d i x).ending.isSome then d
  else
    let r := demand d i x a
    match r.2 with
    | none => r.1
    | some st => operandRefused r.1 i x a st

/-- A request that waited for space or for a rebuild is refused (R267, R270). -/
def laterRefused (d : Dev) (r : AshAsk) (st : Nat) : Dev :=
  match r.ctx with
  | none => record d { status := st, inst := r.inst, addr := r.ash, detail := ashDetail d r.ash }
  | some x =>
    if !(ctxSt d r.inst x).live || (ctxSt d r.inst x).ending.isSome then d
    else if !r.demand then ashRefused d r.inst x r.ash st
    else if d.tier.waits.any (fun w => w.inst == r.inst && w.ctx == x) then operandRefused (stopWaits d r.inst x) r.inst x r.ash st
    else d

/-- The requests that wait for space or for a rebuild are decided again (R267, R273, R497). -/
def resumeLater (d : Dev) : Dev :=
  let r := retryLater d
  r.2.foldr (fun q d => laterRefused d q.1 q.2) r.1

/-- An on-demand promotion has not completed within `FETCH_LIMIT` (R273): the waiting request ends, the promotion goes on. -/
def fetchLimit (d : Dev) (i x : Nat) : Dev :=
  match d.tier.waits.find? (fun w => w.inst == i && w.ctx == x) with
  | none => d
  | some w =>
    operandRefused (stopWaits d i x) i x w.ash 0x340E

/-- The entries of a context's prefetch schedule that keep its layout (R272). -/
def scheduleOf (d : Dev) (i x : Nat) : List PrefEnt :=
  let c := (ctxSt d i x).comp
  ((List.range c.entries).map (prefetchEntry d c.schedule)).filter (fun e => !prefetchBad e)

/-- The layer that a context's plan is in ends (R272). -/
def leaveLayer (d : Dev) (i x : Nat) : Dev :=
  match (ctxSt d i x).layer with
  | none => d
  | some l => endLayer i l (scheduleOf d i x) (modCtx d i x (fun y => { y with layer := none }))

/-- The plan of a context enters a layer (R272): the layer before it ends, and the lookahead is promoted in schedule order, in the context's
class. The schedule is read as the context (R294); an entry that breaks its layout is passed over. -/
def prefetchLayer (d : Dev) (i x layer : Nat) : Dev :=
  let c := ctxSt d i x
  if !c.live || c.ending.isSome || c.comp.entries = 0 then d
  else match accessErr d (.ctx i x) false c.comp.schedule (16 * c.comp.entries) with
  | some st => endCtx d i x st c.comp.schedule
  | none =>
    let ahead := fact d regTierPrefetch fldTierPrefetchLookahead
    let d := if c.layer = some layer then d else modCtx (leaveLayer d i x) i x (fun y => { y with layer := some layer })
    (scheduleOf d i x).foldl (fun d e =>
      if (ctxSt d i x).ending.isNone ∧ layer < e.layer ∧ e.layer ≤ layer + ahead ∧ (!bitOf e.flags 2 ∨ e.dest = 1) then
        let r := ask d { inst := i, ash := e.ash, tier := e.dest, pin := bitOf e.flags 0, cls := c.cls, ctx := some x }
        match r.2 with
        | .refused st => ashRefused r.1 i x e.ash st
        | _ => r.1
      else d) d

/-! ### Plan steps (R418, R501) -/

/-- Runs a plan step of a kind, when it is the current step of the context's plan. -/
def planRow (d : Dev) (i x kind : Nat) (act : Dev → Inv → PlanStep → Dev) : Dev :=
  match headReady d i x with
  | none => d
  | some v =>
    match v.plan.head? with
    | none => d
    | some s => if v.isPlan && s.kind == kind && !v.started then act (beginStep d i x v) v s else d

/-- END (R418): the plan ends; the step is not counted. -/
def planEnd (d : Dev) (i x : Nat) : Dev :=
  planRow d i x 0 (fun d v _ =>
    let all := if v.next = v.step ∧ opsLeft v = 0 then v.step + 1 else v.next + opsLeft v
    popHead d i x all { v with started := false } 0 0 0)

/-- OPERATOR (R418): the row of the plan step runs the operator it names. -/
def planOperator (d : Dev) (i x : Nat) : Dev :=
  match headReady d i x with
  | none => d
  | some v =>
    match v.isPlan, headOp v with
    | true, some op =>
      if 0x0140 ≤ op ∧ op ≤ 0x0143 then d
      else if !opKnown op then stepDone (beginStep d i x v) i x 0x3A07 0 0 0 true
      else operRow d i x op
    | _, _ => d

/-- STREAMS (R418): the list starts on each stream of the mask that is enabled for the context. -/
def planStreams (d : Dev) (i x : Nat) : Dev :=
  planRow d i x 2 (fun d _ s =>
    match planCore d i x with
    | none => stepDone d i x 0
    | some c =>
      let d := (bitList 16 s.f0).foldl (fun d n =>
        if strmOf d c n i x then
          let k := regCoreStrmDesc c n
          let d := fset (fset d k fldCoreStrmDescDescBase s.f1) k fldCoreStrmDescDescCount (s.f2 % 65536)
          let d := fset (commitReg d k) (regCoreStrmPtr c n) fldCoreStrmPtrDescNext 0
          if strmState d c n = 0 then setStrmState d c n 1 else d
        else d) d
      let d := modCtx d i x (fun y => { y with hand := natPut y.hand c })
      stepDone d i x 0)

/-- Whether a stream's `HEAD` has reached a count, in its modular order (R97, R98). -/
def headReached (d : Dev) (c s n : Nat) : Bool :=
  let m := countMod d c s
  m = 0 || 2 * ((strmHead d c s + m - n % m) % m) < m

/-- Whether the bytes or slots up to a count are in an inbound or peer buffer, or were released before (R97, R98). -/
def countFilled (d : Dev) (c s n : Nat) : Bool :=
  let m := countMod d c s
  let ahead := (n + m - strmHead d c s) % max 1 m
  m = 0 || ahead ≤ strmUsed d c s || m < 2 * ahead

/-- Releases a buffer up to a count (R97, R98). -/
def releaseTo (d : Dev) (c s n : Nat) : Dev :=
  let m := countMod d c s
  if (n + m - strmHead d c s) % max 1 m ≤ strmUsed d c s then
    let d := fset d (regCoreStrmPtr c s) fldCoreStrmPtrHead (n % max 1 m)
    noteProgress (modStrm d c s (fun t => { t with rdPos := 0 })) c s
  else d

/-- WAIT_HEAD (R97, R98, R112, R418; log entry 121): the consumer step of an inbound or peer stream waits until its buffer is filled up
to the count and releases it; on an outbound stream, whose consumer is the fetch engine, the step waits until `HEAD` has reached the
count. -/
def planWaitHead (d : Dev) (i x : Nat) : Dev :=
  match headReady d i x with
  | none => d
  | some v =>
    match v.isPlan, v.plan.head?, planCore d i x with
    | true, some s, some c =>
      let n := s.f0 % 16
      if s.kind ≠ 3 then d
      else
        let d := if v.started then d else beginStep d i x v
        if cfgOf d c n fldCoreStrmCfgDir = 1 then
          (if headReached d c n s.f1 then stepDone d i x 0 else d)
        else if countFilled d c n s.f1 then stepDone (if strmOf d c n i x then releaseTo d c n s.f1 else d) i x 0 else d
    | _, _, _ => d

/-- The reply of a plan step's atomic or release arrived (R418, R501): the old value is written with its poison. -/
def planReply (d : Dev) (i x old : Nat) (value : Option (Nat × Bool)) : Dev :=
  match value with
  | none => stepDone d i x 0
  | some (v, p) =>
    match accessErr d (.ctx i x) true old 8 with
    | some st => stepDone d i x st old
    | none => stepDone (devPut d old 8 v p) i x 0

/-- A request of a plan step to the device's own endpoint, served by its home agents at once (R290); `old` takes the old
value. -/
def ownAtomic (d : Dev) (i x op ga : Nat) (pkt : TrnReq) (old : Nat) : Dev :=
  let c := ctxSt d i x
  let r : TrnReq := { pkt with
    dst := ownEndpoint d
    src := ownEndpoint d
    job := c.job
    addr := ga % 2 ^ 48
    cls := c.cls }
  match homeRefusal d op r with
  | some st => stepDone d i x st ga
  | none =>
    match applyWriteType d op r with
    | (d, .rsp 0x84 q) => planReply d i x old (some (q.value, q.poison))
    | (d, _) => planReply d i x old none

/-- Issues a request for a plan step, or ends the step when it is refused (R307, R319, R499). A release to the device's own
endpoint waits here for the replies of earlier write-type requests (R311). -/
def planIssue (d : Dev) (i x op ga : Nat) (pkt : TrnReq) (use : ReqUse) : Dev :=
  match issueRefusal d i x op (ga % 2 ^ 48) with
  | some (st, _) => stepDone d i x st ga
  | none =>
    match use with
    | .planAtomic old =>
      if ga / 2 ^ 48 = ownEndpoint d then
        if (op = 0x0C ∨ op = 0x0D) ∧ (ctxReqs d i x).any (fun p => isWriteType p.2.op) then
          modHead d i x (fun v => { v with started := false })
        else ownAtomic d i x op ga pkt old
      else issue d i x op ga pkt use
    | _ => issue d i x op ga pkt use

/-- An empty request to fill in. -/
def blankReq : TrnReq := { dst := 0, src := 0, job := 0, addr := 0 }

/-- ATOMIC (R418, R501): the operand is read from device space and carries its poison. -/
def planAtomic (d : Dev) (i x : Nat) : Dev :=
  planRow d i x 4 (fun d _ s =>
    let n := if s.f0 = 0x0A then 80 else if s.f0 = 0x0B then 128 else if s.f0 = 4 then 16 else 8
    match accessErr d (.ctx i x) false s.f2 n with
    | some st => stepDone d i x st s.f2
    | none =>
      let bs := devRead d s.f2 n
      let p := isPoisoned d s.f2 n
      let pkt := if n ≤ 16 then { blankReq with a := fieldLe bs 0 8, b := fieldLe bs 8 8, poison := p }
                 else { blankReq with data := bs, poison := p }
      planIssue d i x s.f0 s.f1 pkt (.planAtomic s.f3))

/-- RELEASE (R311, R418): held at the source until every earlier write-type request has its reply. -/
def planRelease (d : Dev) (i x : Nat) : Dev :=
  planRow d i x 5 (fun d _ s => planIssue d i x s.f0 s.f1 { blankReq with a := s.f2 } (.planAtomic s.f3))

/-- WAIT_VALUE (R418, R501): the line is read until the value is reached; a line of the device's own endpoint is read at
its home agent each time the row stands here (R290). -/
def planWaitValue (d : Dev) (i x : Nat) : Dev :=
  planRow d i x 6 (fun d _ s =>
    let line := s.f1 / 128 * 128
    if s.f1 % 8 ≠ 0 then stepDone d i x 0x350D s.f1
    else if s.f1 / 2 ^ 48 = ownEndpoint d then
      match issueRefusal d i x 1 (line % 2 ^ 48) with
      | some (st, _) => stepDone d i x st s.f1
      | none => match ownLine d i x line with
        | .rsp 0x81 r =>
          if r.poison then stepDone d i x 0x3104 s.f1
          else if s.f2 ≤ fieldLe r.data (s.f1 % 128) 8 then stepDone d i x 0
          else modHead d i x (fun v => { v with started := false })
        | .rsp _ r => stepDone d i x r.status s.f1
        | .req _ _ => d
    else planIssue d i x 1 line blankReq .planWait)

/-- FENCE (R312, R418): the step completes when every earlier request of the context has its final reply or has ended. -/
def planFence (d : Dev) (i x : Nat) : Dev :=
  planRow d i x 7 (fun d _ _ =>
    if ctxReqs d i x = [] then stepDone d i x 0 else modHead d i x (fun v => { v with pos := d.trn.order }))

/-- Completes a fence once nothing earlier is outstanding, and sends what it held (R312). -/
def checkFence (d : Dev) (i x : Nat) : Dev :=
  match fenceAt d i x with
  | none => d
  | some n =>
    if (ctxReqs d i x).all (fun p => n ≤ p.2.order) then
      sendHeld (stepDone d i x 0) i x
    else d

/-- TIME_READ (R337, R360, R361, R501): refused in determinism mode, else a choice that writes TB1. -/
def planTimeRead (d : Dev) (i x : Nat) : Dev :=
  planRow d i x 8 (fun d v s =>
    if !(ctxSt d i x).detOff then stepDone d i x 0x3909
    else match accessErr d (.ctx i x) true s.f1 16 with
      | some st => stepDone d i x st s.f1
      | none =>
        let t := lget {} d.tbs 1
        let d := countChoice d i x (stepOwner v)
        stepDone (devWrite d s.f1 (natLe 8 t.sec ++ natLe 8 t.sub) false) i x 0)

/-- The line of a WAIT_VALUE arrived (R418, R501): it completes, ends on poison, or reads again. -/
def planWaited (d : Dev) (i x : Nat) (data : List Byte) (poison : Bool) : Dev :=
  match (ctxSt d i x).queue.head? with
  | none => d
  | some v =>
    match v.plan.head? with
    | none => d
    | some s =>
      if poison then stepDone d i x 0x3104 s.f1
      else if s.f2 ≤ fieldLe data (s.f1 % 128) 8 then stepDone d i x 0
      else planIssue d i x 1 (s.f1 / 128 * 128) blankReq .planWait

/-! ### Commands of contexts (R405, R411, R418, R419, R421) -/

/-- A plan read from device space (R418): its steps up to END, or the status of the first bad one. -/
def readPlan (d : Dev) (level base : Nat) : Nat → Nat → List PlanStep → List PlanStep × Nat
  | 0, _, acc => (acc.reverse, 0)
  | n + 1, k, acc =>
    let a := base + 32 * k
    let bs := devRead d a 32
    let s : PlanStep := { kind := fieldLe bs 0 1, f0 := fieldLe bs 4 4, f1 := fieldLe bs 8 8, f2 := fieldLe bs 16 8, f3 := fieldLe bs 24 8 }
    if isPoisoned d a 32 then ([], 0x3104)
    else if 8 < s.kind ∨ fieldLe bs 1 3 ≠ 0 ∨ (s.kind = 4 ∧ !(3 ≤ s.f0 ∧ s.f0 ≤ 0x0B)) ∨ (s.kind = 5 ∧ !(s.f0 = 0x0C ∨ s.f0 = 0x0D)) then
      ([], 0x3A03)
    else if s.kind = 0 then ((s :: acc).reverse, 0)
    else if 4 ≤ s.kind ∧ s.kind ≤ 7 ∧ level < 3 then ([], 0x3A06)
    else readPlan d level base n (k + 1) (s :: acc)

/-- CONTEXT_CREATE without a restore (R362, R364, R365, R369, R404, R419, R499): the refusal, or 0. -/
def createErr (d : Dev) (i x : Nat) (c : Cmd) : Nat :=
  let a0 := c.arg 0
  let cls := a0 % 4
  let major := if bitsAt a0 16 8 = 0 then 3 else bitsAt a0 16 8
  let job := bitsAt a0 32 20
  if (ctxSt d i x).live then 0x3A08
  else if bitsAt a0 2 6 ≠ 0 ∨ bitsAt a0 10 6 ≠ 0 ∨ bitsAt a0 24 8 ≠ 0 ∨ bitsAt a0 52 12 ≠ 0 ∨ cls = 0 ∨ cls = 3 ∨ 3 < major then 0x3A03
  else if (bitOf a0 9 ∧ bitOf a0 8) ∨ (c.arg 5 ≠ 0 ∧ !bitOf a0 9) ∨ (c.arg 4 ≠ 0 ∧ c.arg 5 = 0) then 0x3A03
  else if (bitOf a0 9 ∨ job ≠ 0) ∧ major < 3 then 0x3A06
  else if job ≠ 0 ∧ !((tget {} d.jobs job).live && bitOf (tget {} d.jobs job).insts i) then 0x3A08
  else 0

/-- The context that a CONTEXT_CREATE makes. -/
def newCtx (c : Cmd) (tele : CtxTele) : CtxSt :=
  let a0 := c.arg 0
  { live := true, cls := a0 % 4, detOff := bitOf a0 8, replay := bitOf a0 9
    level := if bitsAt a0 16 8 = 0 then 3 else bitsAt a0 16 8, job := bitsAt a0 32 20
    seed := c.arg 1 + c.arg 2 * 2 ^ 64, step := c.arg 3, startAt := c.arg 3, lastRun := c.arg 3, tele := tele }

/-- CONTEXT_DESTROY (R419): it waits for what is in progress. -/
def cmdDestroy (d : Dev) (i q : Nat) (c : Cmd) : Dev :=
  finishDestroy (modCtx d i (q - 1) (fun y => { y with destroy := some c })) i (q - 1)

/-- INVOKE (R218, R364, R411): checked, accepted with its step. -/
def cmdInvoke (d : Dev) (i q : Nat) (c : Cmd) : Dev :=
  let x := q - 1
  let t := (c.args.drop 2)
  let st := preCheck d i x (c.arg 0) (c.arg 1) (t.take 4) (c.arg 6)
  if st ≠ 0 then cmdEnd d i q c st
  else
    let v : Inv := { op := c.arg 0 % 65536, tensor := bitsAt (c.arg 0) 16 32, attr := c.arg 1, a := t
                     step := (ctxSt d i x).step, cmd := some c, since := tb2 d }
    let d := modCtx d i x (fun y => { y with queue := y.queue ++ [v], step := (y.step + 1) % 2 ^ 64 })
    settle (makeRoom d i x) i x

/-- PLAN_RUN (R218, R364, R418): read, checked and accepted with its step numbers. -/
def cmdPlanRun (d : Dev) (i q : Nat) (c : Cmd) : Dev :=
  let x := q - 1
  let n := c.arg 3
  if n = 0 ∨ 4096 < n then cmdEnd d i q c 0x3A03 0 n
  else match accessErr d (.ctx i x) false (c.arg 2) (32 * n) with
  | some st => cmdEnd (endCtx d i x st (c.arg 2)) i q c st
  | none =>
    match readPlan d (ctxSt d i x).level (c.arg 2) n 0 [] with
    | (steps, 0) =>
      let s := (ctxSt d i x).step
      let k := max 1 (steps.filter (fun p => p.kind == 1)).length
      let v : Inv := { op := 0, tensor := 0, attr := 0, a := [], step := s, cmd := some c, isPlan := true, plan := steps, next := s,
                       since := tb2 d }
      settle (makeRoom (modCtx d i x (fun y => { y with queue := y.queue ++ [v], step := (y.step + k) % 2 ^ 64 })) i x) i x
    | (_, st) => if st = 0x3104 then cmdEnd (endRequest d i x st (c.arg 2)) i q c st else cmdEnd d i q c st

/-- AUDIT_READ (R368). -/
def cmdAudit (d : Dev) (i q : Nat) (c : Cmd) : Dev :=
  cmdEnd (hostWrite d (c.arg 0) (auditBytes (ctxSt d i (q - 1)))) i q c 0

/-- REPLAY_TO_STEP (R370, R421): it waits behind an earlier one. -/
def cmdReplay (d : Dev) (i q : Nat) (c : Cmd) : Dev :=
  let x := q - 1
  if !(ctxSt d i x).replay then cmdEnd d i q c 0x3A0E
  else
    let first := (ctxSt d i x).waitRep.isEmpty
    let d := modCtx d i x (fun y => { y with waitRep := y.waitRep ++ [(c.arg 0, c)] })
    settle (if first then activateReplay i x 1 d else d) i x

end Sys2Proof.Machine
end

