-- ==== Sys2Proof/Machine/Commands.lean ====
section
/-!
DEFINITION. The commands that manage instances and their resources (R405): queries, partitions and their resizes (R220-R222,
R407), windows, sets and ashlars (R264-R276), jobs and exports (R321, R499).
-/

namespace Sys2Proof.Machine

/-! ### Partitions (R220, R221, R407) -/

/-- The state of an instance's resize as a partition it is becoming. -/
def pendingPart (d : Dev) (i : Nat) : Part := match (instSt d i).resize with
  | some (p, _, _) => p
  | none => {}

/-- Whether any other instance holds or is taking a unit (R220, R222). -/
def takenBy (d : Dev) (i : Nat) (f : Part → Bool) : Bool :=
  (List.range 65).any (fun j => j != i && (f (instSt d j).part || f (pendingPart d j)))

/-- The credit rate and the flash share of an instance, or those a resize in progress gives it when they are higher (R221, R407). -/
def promised (d : Dev) (i : Nat) (f : Part → Nat) : Nat := max (f (instSt d i).part) (f (pendingPart d i))

/-- Whether core `c` can be given to instance `i` (R220, R407). -/
def coreFree (d : Dev) (i c : Nat) : Bool :=
  coreOn d c && !coreFenced d c && !inReserve d c && d.sp.adding.all (fun x => x.1 != c) && !takenBy d i (fun p => bitOf p.cores c)

/-- Whether keystone `n` can be given to instance `i`. -/
def keyFree (d : Dev) (i n : Nat) : Bool := keyOn d n && !keyFenced d n && !takenBy d i (fun p => bitOf p.keys n)

/-- Whether mortar region `r` can be given to instance `i` (R497). -/
def regionFree (d : Dev) (i r : Nat) : Bool := tget 127 d.mortar r == 127 && !takenBy d i (fun p => bitOf p.regions r)

/-- Whether a page can be given to instance `i` (R231). -/
def pageFree (d : Dev) (i n : Nat) : Bool :=
  (pageOf d (n * 2097152)).owner == 0x7F && !takenBy d i (fun p => p.pages.contains n)

/-- The mortar data regions a PARTITION_SET asks for when it names none (R407): the lowest free ones are added, or the highest
removed. -/
def chooseRegions (d : Dev) (i old n : Nat) : Option Nat :=
  let have_ := bitList 256 old
  if n ≤ have_.length then some (bitMap (have_.take n))
  else
    let more := ((List.range 256).filter (fun r => !bitOf old r && regionFree d i r)).take (n - have_.length)
    if have_.length + more.length = n then some (bitMap (have_ ++ more)) else none

/-- The partition that a PARTITION_SET's arguments name, without its regions, and whether they are in range (R405, R407). -/
def parsePart (d : Dev) (c : Cmd) : Part × Bool :=
  let a1 := c.arg 1
  let a3 := c.arg 3
  let n := c.arg 5
  let cores := c.arg 0 + bitsAt a1 0 32 * 2 ^ 64
  let lend := c.arg 2 + bitsAt a3 0 32 * 2 ^ 64
  let pages := if n ≤ 262144 then (List.range n).map (fun k => hostNat d (c.arg 4 + 4 * k) 4) else []
  let p : Part := { cores := cores, keys := bitsAt a1 32 4, lend := lend, cap := bitsAt a1 40 9, rate := bitsAt a3 32 12
                    share := bitsAt a3 44 6, pages := pages }
  (p, bitsAt a1 36 4 == 0 && bitsAt a1 58 6 == 0 && bitsAt a3 50 14 == 0 && p.cap ≤ 256 && bitsAt a1 49 9 ≤ 256 && n ≤ 262144
    && (bitList 96 lend).all (bitOf cores ·) && pages.all (· < 262144) && pages.eraseDups.length == n)

/-- Gives the units added to an instance (R221 steps 1 and 4). -/
def addUnits (d : Dev) (i : Nat) (old new : Part) : Dev :=
  let d := (addedBits 96 old.cores new.cores).foldl (fun d c =>
    let k := regCorePart c
    fset (commitReg (fset d k fldCorePartOwner i) k) (regCorePart c) fldCorePartOwner i) d
  let d := (addedBits 4 old.keys new.keys).foldl (fun d n => { d with keyOwn := tset d.keyOwn n i }) d
  let d := (addedBits 256 old.regions new.regions).foldl (fun d r => { d with mortar := tset d.mortar r i }) d
  (new.pages.filter (fun n => !old.pages.contains n)).foldl (fun d n => modPage d (n * 2097152) (fun p => { p with owner := i })) d

/-- The units an instance holds after a resize that has added units and removed none. -/
def joinPart (old new : Part) : Part :=
  { old with
    cores := old.cores ||| new.cores
    keys := old.keys ||| new.keys
    regions := old.regions ||| new.regions
    pages := old.pages ++ new.pages.filter (fun n => !old.pages.contains n) }

/-- A resize whose removed pages or mortar are still in use 100 ms after its acceptance (R221, R407): 0x3A0A, and the units already added are
kept. -/
def resizeTimeout (d : Dev) (i : Nat) : Dev :=
  match (instSt d i).resize with
  | none => d
  | some (new, since, c) =>
    if since + 800000000 ≤ tb2 d ∧ memFree d i (instSt d i).part new = false then
      cmdEnd (modInst d i (fun s => { s with part := joinPart s.part new, resize := none, due := [] })) 0 0 c 0x3A0A
    else d

/-- A resize whose command core is restarted leaves the partition as it was (R408, R424): the units added go back. -/
def undoResize (d : Dev) (i : Nat) : Dev :=
  match (instSt d i).resize with
  | none => d
  | some (new, _, c) =>
    let old := (instSt d i).part
    cmdEnd (modInst (dropUnits d (joinPart old new) old) i (fun s => { s with resize := none, due := [] })) 0 0 c 0x3A10

/-- Gives back the cost of a command that is answered busy after its fetch (R222, R388, R410). -/
def busyAgain (d : Dev) (q : Nat) (c : Cmd) : Dev :=
  let later := (ringSt d 0 q).fetched
  let d := setCredit d 0 (credit d 0 + cmdCost c + (later.map cmdCost).foldl (· + ·) 0)
  let d := modRing d 0 q (fun r => { r with fetched := [], running := dropFirst (· == c) r.running })
  (c :: later).foldl (fun d m => answerBusy d 0 q m (retryHint d 0 (cmdCost m))) d

/-- PARTITION_SET (R220-R222, R407, R410). -/
def cmdPartition (d : Dev) (q i : Nat) (c : Cmd) : Dev :=
  let old := (instSt d i).part
  let (p, ok) := parsePart d c
  let nreg := bitsAt (c.arg 1) 49 9
  let map := hostNat d (c.arg 6) 32
  if (instSt d i).resize.isSome then busyAgain d q c
  else if !ok then cmdEnd d 0 q c 0x3A03
  else if c.arg 6 ≠ 0 ∧ (bitList 256 map).length ≠ nreg then cmdEnd d 0 q c 0x3A03 0 (c.arg 6)
  else
    match (if c.arg 6 ≠ 0 then some map else chooseRegions d i old.regions nreg) with
    | none => cmdEnd d 0 q c 0x3A09
    | some regs =>
      let new := { p with regions := regs }
      let rates := ((List.range 65).map (fun j => if j = 0 ∨ j = i then 0 else promised d j (·.rate))).foldl (· + ·) 0
      let shares := ((List.range 65).map (fun j => if j = i then 0 else promised d j (·.share))).foldl (· + ·) 0
      let free := (addedBits 96 old.cores new.cores).all (coreFree d i) && (addedBits 4 old.keys new.keys).all (keyFree d i)
        && (addedBits 256 old.regions new.regions).all (regionFree d i)
        && (new.pages.filter (fun n => !old.pages.contains n)).all (pageFree d i)
      if !free ∨ (i ≠ 0 ∧ 1500 < rates + new.rate) ∨ 64 < shares + new.share then cmdEnd d 0 q c 0x3A09
      else
        let d := addUnits d i old new
        if instState d i = 1 then
          let d := modInst d i (fun s => { s with part := new, held := true, tele := {} })
          let d := (List.range 16).foldl (fun d x => modCtx d i x (fun y => { y with tele := {} })) d
          cmdEnd (newRate (setInstState d i 2) i 0 new.rate true) 0 q c 0
        else
          let due := (List.range 16).filter (ctxBusy d i)
          let d := endLoans (modInst d i (fun s => { s with held := true, due := due })) i old new
          if resizeReady d i new then cmdEnd (takePart d i new) 0 q c 0
          else modInst d i (fun s => { s with resize := some (new, tb2 d, c) })

/-- Ends what an instance holds and returns it to bare (R391): contexts of a frozen instance are dropped, its memory is cleared
and its units, windows, exports and references go. -/
def releaseInst (d : Dev) (i : Nat) : Dev :=
  let d := (List.range 16).foldl (fun d x =>
    if (ctxSt d i x).live then freeCtx (dropCtxWork (endCommands d i x 0x3A08) i x) i x else d) d
  let d := clearInstData d i
  let d := dropExports (dropInstRefs d i) i
  let d := dropUnits d (instSt d i).part {}
  let d := (List.range 64).foldl (fun d s => setReg d (regHostBar2Seg i s) 0) d
  let d := modInst d i (fun s =>
    { s with
      part := {}
      windows := []
      held := false
      dirty := false
      freezing := none })
  setInstState (setCredit d i 0) i 1

/-- PARTITION_RELEASE (R391). -/
def cmdRelease (d : Dev) (q i : Nat) (c : Cmd) : Dev :=
  let live := (List.range 16).any (fun x => (ctxSt d i x).live)
  if i = 0 ∨ !(instSt d i).held ∨ (instState d i = 2 ∧ live) ∨ (instState d i ≠ 2 ∧ instState d i ≠ 3) ∨ (instSt d i).resize.isSome then
    cmdEnd d 0 q c 0x3A08
  else cmdEnd (releaseInst d i) 0 q c 0

/-! ### Queries -/

/-- The cores and keystones that an instance's identity record shows (R406). -/
def shownUnits (d : Dev) (i : Nat) : Nat × Nat :=
  if i = 0 then (d.env.cores, d.env.keys) else ((instSt d i).part.cores, (instSt d i).part.keys)

/-- The identity record (R406). -/
def identBytes (d : Dev) (i : Nat) : List Byte :=
  let (cs, ks) := shownUnits d i
  natLe 2 d.env.grade ++ natLe 1 0xB1 ++ natLe 1 (bitList 4 d.env.keys).length ++ natLe 2 0x0300 ++ natLe 2 0x0100
    ++ natLe 12 cs ++ natLe 1 ks ++ natLe 3 0 ++ natLe 8 d.mgt.running.version ++ natLe 2 (ownEndpoint d) ++ natLe 6 d.env.macBase
    ++ natLe 16 d.env.serial ++ natLe 8 d.env.flashRaw ++ natLe 192 0

/-- QUERY_DEVICE (R406). -/
def cmdQueryDevice (d : Dev) (i q : Nat) (c : Cmd) : Dev :=
  cmdEnd (hostWrite d (c.arg 0) (identBytes d i)) i q c 0 256

/-- The instance record; the places of its fields are the model's (log entry 34): the map of mortar regions at 0x60. -/
def instBytes (d : Dev) (i : Nat) : List Byte :=
  let p := (instSt d i).part
  let live := bitMap ((List.range 16).filter (fun x => (ctxSt d i x).live))
  natLe 1 (instState d i) ++ natLe 1 (bitList 4 p.keys).length ++ natLe 2 (bitList 96 p.cores).length ++ natLe 4 p.pages.length
    ++ natLe 2 p.cap ++ natLe 2 (bitList 256 p.regions).length ++ natLe 2 p.share ++ natLe 2 live ++ natLe 4 (accrual d i)
    ++ natLe 76 0 ++ natLe 32 (bitMap (instRegions d i))

/-- QUERY_INSTANCE (R405). -/
def cmdQueryInst (d : Dev) (i q j : Nat) (c : Cmd) : Dev := cmdEnd (hostWrite d (c.arg 0) (instBytes d j)) i q c 0 128

/-! ### Windows, segments and lending -/

/-- WINDOW_SET (R381, R405). -/
def cmdWindow (d : Dev) (q i : Nat) (c : Cmd) : Dev :=
  let len := c.arg 3
  if 16 ≤ c.arg 0 ∨ 2 ^ 20 ≤ c.arg 1 ∨ len % 4096 ≠ 0 ∨ 2 ^ 36 < len ∨ 2 ^ 64 < c.arg 2 + len then cmdEnd d 0 q c 0x3A03
  else
    let d := modInst d i (fun s =>
      { s with windows := if len = 0 then tdel s.windows (c.arg 0)
                          else tset s.windows (c.arg 0) { pasid := c.arg 1, base := c.arg 2, len := len } })
    cmdEnd d 0 q c 0

/-- BAR2_MAP (R378). -/
def cmdBar2Map (d : Dev) (q i : Nat) (c : Cmd) : Dev :=
  if 64 ≤ c.arg 0 ∨ 2 ^ 40 ≤ c.arg 1 ∨ c.arg 1 % segBytes d i ≠ 0 ∨ c.arg 1 % 4194304 ≠ 0 ∨ 4 ≤ c.arg 2
      ∨ mortarEnd < c.arg 1 + segBytes d i then cmdEnd d 0 q c 0x3A03
  else
    let k := regHostBar2Seg i (c.arg 0)
    let d := fset (fset (fset d k fldHostBar2SegBase (c.arg 1 / 4194304)) k fldHostBar2SegWrite (b2n (bitOf (c.arg 2) 0)))
      k fldHostBar2SegValid (b2n (bitOf (c.arg 2) 1))
    cmdEnd (commitReg d k) 0 q c 0

/-- LEND_SET (R203): names the borrower instances. -/
def cmdLendSet (d : Dev) (q : Nat) (c : Cmd) : Dev :=
  if 1 < c.arg 1 then cmdEnd d 0 q c 0x3A03 0 (c.arg 1)
  else
    let m := c.arg 0 + c.arg 1 * 2 ^ 64
    let d := (List.range 65).foldl (fun d i => modInst d i (fun s => { s with borrower := bitOf m i })) d
    cmdEnd { d with sp := { d.sp with borrowers := bitList 65 m } } 0 q c 0

/-! ### Sets and ashlars (R264-R276) -/

/-- SET_CREATE (R266). -/
def cmdSetCreate (d : Dev) (q : Nat) (c : Cmd) : Dev :=
  let s := c.arg 0
  if 4096 ≤ s ∨ 1 < c.arg 1 ∨ 64 < c.arg 2 then cmdEnd d 0 q c 0x3A03
  else if (tget? d.tier.sets s).isSome then cmdEnd d 0 q c 0x3A08
  else
    let d := putSet d s {}
    cmdEnd (modTier d (fun t => { t with sets := tset t.sets s (c.arg 1 == 1, c.arg 2) })) 0 q c 0

/-- SET_GRANT (R267): a revocation waits for the references of the instance. -/
def cmdSetGrant (d : Dev) (q : Nat) (c : Cmd) : Dev :=
  let s := c.arg 0
  if 4096 ≤ s ∨ 1 < c.arg 2 ∨ 1 < c.arg 3 then cmdEnd d 0 q c 0x3A03
  else if !(tget (false, 0) d.tier.sets s).1 ∨ (getSet d s).deleting then cmdEnd d 0 q c 0x3A08
  else
    let m := c.arg 1 + c.arg 2 * 2 ^ 64
    let d := (bitList 65 m).foldl (fun d i =>
      if c.arg 3 = 1 then
        let e := getSet d s
        let d := modTier d (fun t => { t with revoke := t.revoke.filter (· != s * 128 + i) })
        putSet d s { e with grant := setBits e.grant i 1 1 }
      else if bitOf (getSet d s).grant i then
        settleRevoke (modTier d (fun t => { t with revoke := natPut t.revoke (s * 128 + i) })) s i
      else d) d
    cmdEnd d 0 q c 0

/-- SET_DELETE (R276): `DELETING` is set and entries are freed as references drop. -/
def cmdSetDelete (d : Dev) (q : Nat) (c : Cmd) : Dev :=
  let s := c.arg 0
  if 4096 ≤ s then cmdEnd d 0 q c 0x3A03
  else if (tget? d.tier.sets s).isNone ∨ (getSet d s).deleting then cmdEnd d 0 q c 0x3A08
  else
    let es := d.tier.live.filter (fun a => (getAsh d a).set == s)
    let d := putSet d s { getSet d s with deleting := true }
    let d := es.foldl freeEntry d
    let d := if es = [] then modTier (putSet d s {}) (fun t => { t with sets := tdel t.sets s }) else d
    cmdEnd d 0 q c 0

/-- The references to an ashlar that are held or awaited, as requests for fresh copies. -/
def askersOf (d : Dev) (a : Nat) : List AshAsk :=
  (d.tier.refs.filter (fun r => r.ash == a)).map (fun r => { inst := r.inst, ash := a, tier := r.tier, pin := r.pin })
    ++ (d.tier.promos.filter (fun p => p.ash == a)).flatMap (fun p =>
      p.wants.map (fun w => { inst := w.inst, ash := a, tier := p.tier, pin := w.pin }))

/-- Sets the `LOST` bit of a set to whether an ashlar of it is lost (R266, R280). -/
def settleLost (d : Dev) (s : Nat) : Dev :=
  if (tget? d.tier.sets s).isSome then
    putSet d s { getSet d s with lost := d.tier.live.any (fun a => (getAsh d a).set == s && (getAsh d a).integ == 3) }
  else d

/-- A lost entry is given up for a load (R280): it leaves its set, and its poisoned copies go. -/
def clearLost (d : Dev) (a : Nat) : Dev :=
  let e := getAsh d a
  if e.integ ≠ 3 then d
  else
    let d := [0, 1].foldl (fun d t =>
      if resident e t then { d with poison := natDrop d.poison (tierAddr t (copyLoc e t)) (ashBytes e) } else d) d
    let d := modTier d (fun t => { t with refs := t.refs.filter (·.ash != a), promos := t.promos.filter (·.ash != a) })
    settleLost (freeRows (leaveSet (freeSpace (putAsh d a {})) e.set) e.set) e.set

/-- What an ASHLAR_LOAD writes. -/
structure LoadJob where
  set      : Nat
  layout   : Nat
  size     : Nat
  shared   : Bool
  owner    : Nat
  pierOnly : Bool
  first    : Nat
  n        : Nat

/-- The bytes of each ashlar of a load. -/
def LoadJob.len (j : LoadJob) : Nat := if j.size = 0 then 65536 else 1048576

/-- The entry of an ashlar that is loading, or is loaded when `crc` is given (R264, R276). -/
def LoadJob.entry (j : LoadJob) (crc : Option Nat) : AshEnt :=
  { crc := crc.getD 0, set := j.set, owner := if j.shared then 0 else j.owner, shared := j.shared, integ := if crc.isSome then 1 else 4
    layout := j.layout, size := j.size }

/-- A load to flash (R276): the entries read loading until the stripe rows are written with their parity and the CRC-64 is recorded. -/
def loadFlash (j : LoadJob) (bs : List Byte) (d : Dev) : Option Dev :=
  let rows := ceilDiv (j.n * (j.len / 16384)) 30
  match lowestRows d rows with
  | none => none
  | some row =>
    let d := (rangeFrom j.first j.n).foldl (fun d a => putAsh d a (j.entry none)) d
    let d := writeRows d j.set row rows bs
    some ((List.range j.n).foldl (fun d k =>
      let page := row * 30 + k * (j.len / 16384)
      putAsh d (j.first + k) { j.entry (some (crc64 (memRead d.mem (flashPage page) j.len))) with flash := page, resident := 1 }) d)

/-- A load of one ashlar to a pier copy with a reference (R260, R268). -/
def loadPier (j : LoadJob) (bs : List Byte) (d : Dev) (k : Nat) : Option Dev :=
  let part := (bs.drop (k * j.len)).take j.len
  match allocCopy d (j.entry none) 1 with
  | none => none
  | some (loc, d) =>
    let d := putAsh (putCopy d (loc * 65536) j.len part) (j.first + k) { j.entry (some (crc64 part)) with pier := loc, resident := 2 }
    some (addRef d (j.entry none).owner (j.first + k) 1 false)

/-- Loads a run of ashlars, or nothing when space is short (R276). A lost one leaves its set first, and the references to it move to fresh
copies (R280; log entry 153). -/
def loadAll (j : LoadJob) (bs : List Byte) (d : Dev) : Option Dev :=
  let as := rangeFrom j.first j.n
  let asks := as.flatMap (askersOf d)
  let d := as.foldl clearLost d
  let r := if j.pierOnly then (List.range j.n).foldl (fun o k => o.bind (fun d => loadPier j bs d k)) (some d) else loadFlash j bs d
  r.map (fun d =>
    let d := putSet d j.set { getSet d j.set with count := (getSet d j.set).count + j.n }
    asks.foldl (fun d r => (ask d r).1) d)

/-- ASHLAR_LOAD (R264, R266, R276): all ashlars or none; entries must be free or lost. -/
def cmdAshlarLoad (d : Dev) (i q : Nat) (c : Cmd) : Dev :=
  let s := c.arg 0; let first := c.arg 1; let n := c.arg 2
  let (shared, owner) := tget (false, 0) d.tier.sets s
  let j : LoadJob := { set := s, layout := bitsAt (c.arg 3) 4 4, size := c.arg 3 % 2, shared := shared, owner := owner
                       pierOnly := c.arg 5 == 1, first := first, n := n }
  if 4096 ≤ s ∨ n = 0 ∨ 65536 < n ∨ ashMax < first + n ∨ 256 ≤ c.arg 3 ∨ bitsAt (c.arg 3) 1 3 ≠ 0 ∨ 6 < j.layout ∨ 1 < c.arg 5 then
    cmdEnd d i q c 0x3A03
  else if (tget? d.tier.sets s).isNone then (if i = 0 then cmdEnd d i q c 0x3A08 else cmdEnd d i q c 0x3A04)
  else if i ≠ 0 ∧ (shared ∨ owner ≠ i) then cmdEnd d i q c 0x3A04
  else if (getSet d s).deleting then cmdEnd d i q c 0x3A08
  else match (rangeFrom first n).find? (fun a => (getAsh d a).integ != 0 && (getAsh d a).integ != 3) with
  | some a => cmdEnd (record d { status := 0x3409, inst := i, addr := a, detail := ashDetail d a }) i q c 0x3409
  | none => match iovaKey d i (c.arg 4) (n * j.len) with
    | none => cmdEnd d i q c 0x3A03 0 (c.arg 4)
    | some src =>
      match loadAll j (memRead d.hmem src (n * j.len)) d with
      | none => cmdEnd d i q c 0x3A09
      | some d => cmdEnd d i q c 0 n

/-- The promotions of an ASHLAR_HOLD in order, until one is refused with a status and its index. -/
def holdAll (i tier : Nat) (pin : Bool) : List Nat → Dev → Dev × Option (Nat × Nat)
  | [], d => (d, none)
  | a :: l, d =>
    let r := ask d { inst := i, ash := a, tier := tier, pin := pin }
    match r.2 with
    | .refused st => (r.1, some (st, a))
    | _ => holdAll i tier pin l r.1

/-- ASHLAR_HOLD (R268-R270): promotions are accepted together, or refused together (R408). -/
def cmdAshlarHold (d : Dev) (i q : Nat) (c : Cmd) : Dev :=
  let first := c.arg 0; let n := c.arg 1; let tier := c.arg 2; let act := c.arg 3
  let as := rangeFrom first n
  if n = 0 ∨ 4096 < n ∨ ashMax < first + n ∨ 1 < tier ∨ 3 < act then cmdEnd d i q c 0x3A03
  else if act ≤ 1 then
    let r := holdAll i tier (act == 1) as d
    match r.2 with
    | some (st, a) => cmdEnd (record d { status := st, inst := i, addr := a, detail := ashDetail d a }) i q c st
    | none => cmdEnd r.1 i q c 0
  else
    cmdEnd (as.foldl (fun d a =>
      if holdsRef d i a tier then (if act = 2 then unpin d i a tier else dropRef d i a tier) else d) d) i q c 0

/-! ### Jobs and exports (R319, R321, R499) -/

/-- JOB_REGISTER (R319, R499). -/
def cmdJobRegister (d : Dev) (q : Nat) (c : Cmd) : Dev :=
  let j := c.arg 0
  if j = 0 ∨ 2 ^ 20 ≤ j ∨ 1 < c.arg 2 then cmdEnd d 0 q c 0x3A03 0 j
  else if (tget {} d.jobs j).live then cmdEnd d 0 q c 0x3A08
  else
    let d := { d with
      jobs := tset d.jobs j { insts := c.arg 1 + c.arg 2 * 2 ^ 64, live := true }
      trn := { d.trn with deadJobs := d.trn.deadJobs.filter (· != j) } }
    cmdEnd d 0 q c 0

/-- JOB_RELEASE (R405, R499). -/
def cmdJobRelease (d : Dev) (q : Nat) (c : Cmd) : Dev :=
  let j := c.arg 0
  if j = 0 ∨ 2 ^ 20 ≤ j then cmdEnd d 0 q c 0x3A03 0 j
  else if !(tget {} d.jobs j).live ∨ (liveCtxs d).any (fun p => (ctxSt d p.1 p.2).job == j) then cmdEnd d 0 q c 0x3A08
  else cmdEnd { d with jobs := tdel d.jobs j } 0 q c 0

/-- The alignment of an export's base and length, or none where no export may lie (R321). -/
def exportAlign (base len inst : Nat) : Option Nat :=
  if base + len ≤ pierEnd then some 2097152
  else if mortarBase ≤ base ∧ base + len ≤ mortarEnd then some 65536
  else if flashBase ≤ base ∧ base + len ≤ hostBase then some 16384
  else if hostBase ≤ base ∧ base + len ≤ hostEnd ∧ (windowOf base).1 = inst ∧ (windowOf (base + len - 1)).1 = inst then some 4096
  else none

/-- EXPORT_SET (R321). -/
def cmdExport (d : Dev) (q : Nat) (c : Cmd) : Dev :=
  let n := c.arg 0; let base := c.arg 1; let len := c.arg 2; let w := c.arg 3
  let j := bitsAt w 0 20; let i := bitsAt w 20 7
  if 256 ≤ n then cmdEnd d 0 q c 0x3A03 0 n
  else if len = 0 then cmdEnd { d with trn := { d.trn with exports := tdel d.trn.exports n } } 0 q c 0
  else
    let ok := match exportAlign base len i with
      | some m => base % m == 0 && len % m == 0
      | none => false
    if !ok ∨ 64 < i ∨ bitsAt w 27 1 ≠ 0 ∨ 2 ^ 31 ≤ w ∨ j = 0 then cmdEnd d 0 q c 0x3A03 0 base
    else if !(tget {} d.jobs j).live then cmdEnd d 0 q c 0x3A08
    else
      let e : Export := { base := base, len := len, job := j, inst := i, rights := bitsAt w 28 3 }
      cmdEnd { d with trn := { d.trn with exports := tset d.trn.exports n e } } 0 q c 0

/-- CHOICE_READ (R319). -/
def cmdChoice (d : Dev) (i q : Nat) (c : Cmd) : Dev :=
  if 2 ^ 20 ≤ c.arg 0 then cmdEnd d i q c 0x3A03 0 (c.arg 0)
  else if !(tget {} d.jobs (c.arg 0)).live then cmdEnd d i q c 0x3A08
  else cmdEnd d i q c 0 (tget {} d.jobs (c.arg 0)).choice

end Sys2Proof.Machine
end

