-- ==== Sys2Proof/Machine/Health.lean ====
section
/-!
DEFINITION. Records, health scores, telemetry and the fault commands (R427-R451, R502).
-/

namespace Sys2Proof.Machine

/-! ### Records and log (R429, R430, R468) -/

/-- A log-only record of block 0xA (R468): it takes its SEQ and goes to the log ring alone. -/
def logOnly (d : Dev) (r : Rec) : Dev :=
  let seq := fget d regMgtFhRecords fldMgtFhRecordsNextSeq
  let d := fset d regMgtFhRecords fldMgtFhRecordsNextSeq (seq + 1)
  let d := fset d regMgtStatus fldMgtStatusLastStatus r.status
  toLog d { r with seq := seq, time := tb2 d }

/-! ### Parts and scores (R441-R445) -/

/-- The kind of a part (R502). -/
def partKind (p : Nat) : Nat :=
  if p < 96 then 0 else if p < 352 then 1 else if p < 384 then 2 else if p < 416 then 3 else if p < 448 then 4
  else if p = 448 then 5 else 6

/-- Whether a part is in service: neither fenced, fused off, spared, lost nor retired (R441). -/
def inService (d : Dev) (p : Nat) : Bool :=
  match partKind p with
  | 0 => coreOn d p && !coreFenced d p
  | 1 => tget? d.pier.chMap ((p - 96) / 32) != some ((p - 96) % 32)
  | 4 => fget d (regFlsChState (p - 416)) fldFlsChStateState != 3
  | 6 => keyOn d (p - 449) && !keyFenced d (p - 449)
  | _ => true

/-- The score of a badness (R442). -/
def scoreOfBad (b : Nat) : Nat := 1000 - min 1000 (b / 2 ^ 16)

/-- The score of a part. -/
def partScore (d : Dev) (p : Nat) : Nat := scoreOfBad (tget 0 d.flt.bad p)

/-- The advice code a part raises (R443), or 0. -/
def adviceFor (d : Dev) (p : Nat) : Nat :=
  match partKind p with
  | 0 => 1
  | 1 =>
    let st := fget d (regPierStatus ((p - 96) / 32)) fldPierStatusState
    if st = 0 then (if tget 0 d.flt.bad p ≤ 2 * tget 0 d.flt.retr p then 3 else 2) else if st = 2 ∨ st = 3 then 5 else 0
  | 2 => 3
  | 3 => 3
  | 4 => if 2 ≤ fget d regFlsStatus fldFlsStatusLostCh then 5 else 4
  | 5 => 5
  | _ => 6

/-- The info record of a part's advice (R443). -/
def adviceStatus (kind : Nat) : Nat :=
  match kind with
  | 0 => 0x1115 | 1 => 0x1312 | 2 => 0x150E | 3 => 0x180B | 4 => 0x1410 | 5 => 0x1A4A | _ => 0x1208

/-- The block of a flash channel with the most soft retries (Table: advice codes). -/
def worstBlock (d : Dev) (ch : Nat) : Nat :=
  ((d.tier.blkSoft.filter (fun p => p.1 / 2 ^ 40 == ch)).foldl (fun (b : Nat × Nat) p => if b.2 < p.2 then (p.1 % 2 ^ 32, p.2) else b) (0, 0)).1

/-- Raises or clears (code 0) a part's advice with its record (R443). -/
def setAdvice (d : Dev) (p code : Nat) : Dev :=
  let d := { d with flt := { d.flt with advice := tset d.flt.advice p code } }
  let blk := if code = 4 then worstBlock d (p - 416) * 2 ^ 32 else 0
  record d { status := adviceStatus (partKind p), addr := p
             detail := code + partKind p * 2 ^ 8 + partScore d p * 2 ^ 16 + blk }

/-- The second boundary of one part (R441-R443): badness decays and takes the weight of the second, and advice follows the
score. A weight below one unit of badness is kept for the next second. -/
def healthPart (d : Dev) (p : Nat) : Dev :=
  let f := d.flt
  if !inService d p then
    { d with flt := { f with weight := tdel f.weight p, wRetr := tdel f.wRetr p, advice := tdel f.advice p } }
  else
    let damp := 2 ^ fget d regMgtFhScore fldMgtFhScoreDamp
    let w := tget 0 f.weight p
    let r := tget 0 f.wRetr p
    let step (b w : Nat) := b - b / damp + w / 16
    let b0 := tget 0 f.bad p
    let r0 := tget 0 f.retr p
    let d := if b0 = 0 ∧ w = 0 then d else { d with flt := { f with
      bad := tset f.bad p (step b0 w)
      weight := tset f.weight p (w % 16)
      retr := if r0 = 0 ∧ r = 0 then f.retr else tset f.retr p (step r0 r)
      wRetr := if r = 0 then f.wRetr else tset f.wRetr p (r % 16) } }
    let s := partScore d p
    let now := tget 0 d.flt.advice p
    let many := p = partMgt ∧ 8 < fencedCount d
    if now = 0 then
      if (s < fget d regMgtFhScore fldMgtFhScoreAdviseLo ∨ many) ∧ adviceFor d p ≠ 0 then setAdvice d p (adviceFor d p) else d
    else if fget d regMgtFhScore fldMgtFhScoreAdviseHi ≤ s ∧ !many then setAdvice d p 0
    else d

/-- The second boundary of TB2 (R442). -/
def healthSecond (d : Dev) : Dev := (List.range 453).foldl healthPart d

/-! ### Telemetry (R447, R502) -/

/-- The health core writes the sensor values (R447); the interval follows the record queue. The valid flag of a thermal diode that failed its
check is clear (R469, R478). -/
def telemetry (d : Dev) (vals : List Nat) : Dev :=
  { d with flt := { d.flt with
      shown := (vals.take 373).zipIdx.map (fun v => if v.2 < 128 && d.heat.bad.contains v.2 then setBits v.1 48 1 0 else v.1)
      sample := if 1024 < d.flt.queue.length then 10000 else 1000 } }

/-- The parts with advice in force, in service. -/
def advisedParts (d : Dev) : List Nat := (List.range 453).filter (fun p => tget 0 d.flt.advice p != 0 && inService d p)

/-- The part with the lowest score of a list, ties to the first. -/
def worstOf (d : Dev) : List Nat → Option Nat
  | [] => none
  | p :: l => match worstOf d l with
    | none => some p
    | some q => if partScore d p ≤ partScore d q then some p else some q

/-- The 256 bytes of the device telemetry header (R502). -/
def headerBytes (d : Dev) : List Byte :=
  let serving := (List.range 453).filter (inService d)
  let score := serving.foldl (fun m p => min m (partScore d p)) 1000
  let worst := worstOf d (advisedParts d)
  let code := match worst with
    | some p => tget 0 d.flt.advice p
    | none => 0
  natLe 2 score ++ natLe 1 code ++ natLe 1 0 ++ natLe 2 (worst.getD 0xFFFF) ++ natLe 2 0
    ++ natLe 8 (getReg d regMgtFhFencedLo) ++ natLe 4 (fget d regMgtFhFencedHi fldMgtFhFencedHiFenced)
    ++ natLe 1 (fget d regMgtFhFencedHi fldMgtFhFencedHiFencedKey) ++ natLe 3 0
    ++ natLe 8 (fget d regMgtFhRecords fldMgtFhRecordsRecordsLost) ++ natLe 4 (fget d regMgtFhRecords fldMgtFhRecordsNextSeq)
    ++ natLe 4 d.flt.sample ++ natLe 8 d.flt.td4 ++ natLe 8 d.flt.td5 ++ List.replicate 200 0

/-- The 16 bytes of a part-table entry (R447). -/
def partBytes (d : Dev) (p : Nat) : List Byte :=
  let out := !inService d p
  let adv := if out then 0 else tget 0 d.flt.advice p
  natLe 4 (partScore d p + adv * 2 ^ 16 + b2n out * 2 ^ 20 + partKind p * 2 ^ 24) ++ natLe 4 (tget 0 d.flt.bad p / 2 ^ 16)
    ++ natLe 8 (tget 0 d.flt.events p)

/-- HEALTH_SNAPSHOT (R448, R502): header and part table from one instant. -/
def cmdSnapshot (d : Dev) (q : Nat) (c : Cmd) : Dev :=
  cmdEnd (hostWrite d (c.arg 0) (headerBytes d ++ (List.range 453).flatMap (partBytes d))) 0 q c 0 7504

/-! ### ERROR_READ (R430, R448) -/

/-- The 64 bytes of the record with a SEQ among those an instance's area holds, or an empty record. -/
def heldRec (d : Dev) (j seq : Nat) : List Byte :=
  match (instSt d j).recs.find? (fun r => r.seq == seq) with
  | some r => recBytes r
  | none => List.replicate 64 0

/-- ERROR_READ (R448). -/
def cmdErrorRead (d : Dev) (i q j : Nat) (c : Cmd) : Dev :=
  let n := c.arg 1
  if 2 ≤ c.arg 3 then cmdEnd d i q c 0x3A03 0 (c.arg 3)
  else if c.arg 3 = 1 then
    if n < 1 ∨ 16 < n ∨ 16 < c.arg 0 + n then cmdEnd d i q c 0x3A03 0 n
    else
      let slot (x : Nat) : List Byte := match tget? (instSt d j).slots x with
        | some (r, a) => recBytes r ++ padTo 64 a
        | none => List.replicate 128 0
      cmdEnd (hostWrite d (c.arg 2) ((rangeFrom (c.arg 0) n).flatMap slot)) i q c 0 n
  else if n < 1 ∨ 64 < n then cmdEnd d i q c 0x3A03 0 n
  else
    cmdEnd (hostWrite d (c.arg 2) ((rangeFrom (c.arg 0) n).flatMap (fun s => heldRec d j (s % 2 ^ 32)))) i q c 0 n

/-! ### FENCE_UNIT and UNFENCE_UNIT (R438, R440, R444, R448) -/

/-- The status that stops a command that names a unit (R448): out of range, or fused off. -/
def unitErr (d : Dev) (kind n : Nat) : Option Nat :=
  if 2 < kind ∨ lget 0 [96, 4, 44] kind ≤ n then some 0x3A03
  else if (kind = 0 ∧ !coreOn d n) ∨ (kind = 1 ∧ !keyOn d n) then some 0x3A08
  else none

/-- Whether a unit is fenced. -/
def unitFenced (d : Dev) (kind n : Nat) : Bool :=
  match kind with
  | 0 => coreFenced d n
  | 1 => keyFenced d n
  | _ => bitOf (getReg d regRadioAccelFence) n

/-- Fences a unit. -/
def fenceUnit (d : Dev) (kind n : Nat) : Dev :=
  match kind with
  | 0 => fenceCore d n
  | 1 => fenceKey d n
  | _ => fenceAccel d n

/-- FENCE_UNIT (R448). -/
def cmdFence (d : Dev) (q : Nat) (c : Cmd) : Dev :=
  match unitErr d (c.arg 0) (c.arg 1) with
  | some st => cmdEnd d 0 q c st 0 (c.arg 1)
  | none => cmdEnd (fenceUnit d (c.arg 0) (c.arg 1)) 0 q c 0

/-- The part's badness after an unfence (R444): its score is at least `ADVISE_HI`, without advice. -/
def forgive (d : Dev) (p : Nat) : Dev :=
  let hi := fget d regMgtFhScore fldMgtFhScoreAdviseHi
  let b := min (tget 0 d.flt.bad p) ((1000 - hi) * 2 ^ 16)
  { d with flt := { d.flt with bad := tset d.flt.bad p b, advice := tdel d.flt.advice p } }

/-- The detail of a record about a unit (R428). -/
def unitDetail (kind n : Nat) : Nat := if kind = 0 then n else if kind = 1 then 1 + 0x7F * 2 ^ 8 + n * 2 ^ 16 else n * 2 ^ 56

/-- A core returns to service (R215, R440): written with zeros, idle, with instance 0 outside every partition; one that was reserved
rejoins as a spare while fewer than two are free. -/
def unfenceCore (d : Dev) (c : Nat) : Dev :=
  let was := fencedCount d
  let owner := fget d (regCorePart c) fldCorePartOwner
  let d := setBit96 d regMgtFhFencedLo regMgtFhFencedHi c false
  let d := devZero d (storeAddr c 0) 0x400000
  let d := setCoreState (modCore d c (fun _ => {})) c 0
  let d := (List.range 16).foldl (fun d s =>
    if strmState d c s = 0 then d
    else setStrmState (setReg d (regCoreStrmCfg c s) (resetOf (regCoreStrmCfg c s)).toNat) c s 0) d
  let d := commitReg (fset (fset d (regCorePart c) fldCorePartOwner 0) (regCorePart c) fldCorePartSlotReserved 0) (regCorePart c)
  let d := modInst d owner (fun s => { s with part := { s.part with cores := setBits s.part.cores c 1 0 } })
  let back := d.flt.wasRes.contains c && decide ((spares d).length < 2)
  let d := { d with flt := { d.flt with wasRes := d.flt.wasRes.filter (· != c) } }
  let d := if back then joinReserve d c else d
  let d := rebalance false 8 (record d { status := 0x1112, detail := c })
  fenceAdvice (forgive d c) was (was - 1)

/-- A unit that passed its self-test returns to service (R440). -/
def unfenceUnit (d : Dev) (kind n : Nat) : Dev :=
  match kind with
  | 0 => unfenceCore d n
  | 1 =>
    let d := setReg d regMgtFhFencedHi (setBits (getReg d regMgtFhFencedHi) (32 + n) 1 0)
    let d := devZero d (stagingAddr n 0) 0x800000
    forgive (record d { status := 0x1112, detail := unitDetail 1 n }) (partKey n)
  | _ =>
    let d := setReg d regRadioAccelFence (setBits (getReg d regRadioAccelFence) n 1 0)
    record d { status := 0x1112, detail := unitDetail 2 n }

/-- UNFENCE_UNIT (R440, R448); `pass` is the outcome of the unit's self-test. -/
def cmdUnfence (d : Dev) (q : Nat) (pass : Bool) (c : Cmd) : Dev :=
  let kind := c.arg 0
  let n := c.arg 1
  match unitErr d kind n with
  | some st => cmdEnd d 0 q c st 0 n
  | none =>
    if !unitFenced d kind n then cmdEnd d 0 q c 0x3A08 0 n
    else if pass then cmdEnd (unfenceUnit d kind n) 0 q c 0
    else cmdEnd (record d { status := 0x3113, inst := 0, detail := unitDetail kind n }) 0 q c 0x3113

end Sys2Proof.Machine
end

