-- ==== Sys2Proof/Machine/Sha.lean ====
section
/-!
DEFINITION. SHA-512 and the RSASSA-PSS check that R462 names (published standards; log entry 52).
-/

namespace Sys2Proof.Machine

/-- Whether a number below 441 is a prime: none of 2 to 20 divides it properly. -/
def smallPrime (n : Nat) : Bool := 2 ≤ n && (List.range 21).all (fun k => k < 2 || n ≤ k || n % k != 0)

/-- The 80 primes up to 409, from which SHA-512 takes its constants. -/
def primes80 : List Nat := (List.range 410).filter smallPrime

/-- The largest `r` from `r0` up, in `n` more bits, with `r ^ k ≤ x`. -/
def rootFrom (k x : Nat) : Nat → Nat → Nat
  | 0, r0 => r0
  | n + 1, r0 => rootFrom k x n (if (r0 + 2 ^ n) ^ k ≤ x then r0 + 2 ^ n else r0)

/-- The first 64 bits of the fraction of the `k`-th root of `p`. -/
def rootFraction (k p : Nat) : Nat := rootFrom k (p * 2 ^ (64 * k)) 69 0 % 2 ^ 64

/-- The round constants of SHA-512: of the cube roots of the 80 primes. -/
def shaK : List Nat := primes80.map (rootFraction 3)

/-- The initial hash value of SHA-512: of the square roots of the first eight primes. -/
def shaH : List Nat := (primes80.take 8).map (rootFraction 2)

/-- Word `i` of a list of words. -/
def shaWord (v : List Nat) (i : Nat) : Nat := (v[i]?).getD 0

/-- The exclusive or of a word turned right by each of `turns`. -/
def shaTurns (turns : List Nat) (x : Nat) : Nat :=
  turns.foldl (fun acc n => acc ^^^ (x / 2 ^ n + x % 2 ^ n * 2 ^ (64 - n))) 0

/-- The message schedule: `n` more words after those of a block, newest first. -/
def shaSchedule : Nat → List Nat → List Nat
  | 0, w => w
  | n + 1, w =>
    let late := shaTurns [19, 61] (shaWord w 1) ^^^ shaWord w 1 / 2 ^ 6
    let early := shaTurns [1, 8] (shaWord w 14) ^^^ shaWord w 14 / 2 ^ 7
    shaSchedule n (((late + shaWord w 6) + (early + shaWord w 15)) % 2 ^ 64 :: w)

/-- One round over the eight working words: the lower four move up behind a new first word, the upper four behind a new fifth. -/
def shaRound (v : List Nat) (k w : Nat) : List Nat :=
  let u := v.drop 4
  let pick := (shaWord u 0 &&& shaWord u 1) ||| ((2 ^ 64 - 1 - shaWord u 0) &&& shaWord u 2)
  let most := (shaWord v 0 &&& (shaWord v 1 ||| shaWord v 2)) ||| (shaWord v 1 &&& shaWord v 2)
  let t := shaWord u 3 + shaTurns [14, 18, 41] (shaWord u 0) + pick + k + w
  (t + shaTurns [28, 34, 39] (shaWord v 0) + most) % 2 ^ 64 :: v.take 3 ++ (shaWord v 3 + t) % 2 ^ 64 :: u.take 3

/-- The number of a big-endian list of bytes. -/
def beNat (bs : List Byte) : Nat := leNat bs.reverse

/-- The big-endian bytes of a number. -/
def natBe (n v : Nat) : List Byte := (natLe n v).reverse

/-- Folds the blocks of 128 bytes of a padded message into a hash value. -/
def shaBlocks : Nat → List Byte → List Nat → List Nat
  | 0, _, h => h
  | n + 1, bs, h =>
    let w := shaSchedule 64 ((List.range 16).map (fun i => beNat ((bs.drop (8 * i)).take 8))).reverse
    let v := (shaK.zip w.reverse).foldl (fun v x => shaRound v x.1 x.2) h
    shaBlocks n (bs.drop 128) ((h.zip v).map (fun p => (p.1 + p.2) % 2 ^ 64))

/-- The SHA-512 of a list of bytes. -/
def sha512 (bs : List Byte) : List Byte :=
  let n := bs.length
  let pad := (111 + 128 - n % 128) % 128
  let m := bs ++ [0x80] ++ List.replicate pad 0 ++ natBe 16 (8 * n)
  (shaBlocks (m.length / 128) m shaH).flatMap (natBe 8)

/-- MGF1 with SHA-512: `n` bytes of mask from a seed. -/
def mgf1 (seed : List Byte) (n : Nat) : List Byte :=
  ((List.range ((n + 63) / 64)).flatMap (fun i => sha512 (seed ++ natBe 4 i))).take n

/-- A power modulo a number, over the bits of the exponent. -/
def powMod (m : Nat) : Nat → Nat → Nat → Nat
  | 0, _, _ => 1 % m
  | n + 1, b, e =>
    let r := powMod m n (b * b % m) (e / 2)
    if e % 2 = 1 then b * r % m else r

/-- Whether a signature of 512 bytes verifies under RSASSA-PSS with SHA-512, MGF1 with SHA-512 and a salt of 64 bytes. -/
def pssVerify (modulus exponent : Nat) (sig msg : List Byte) : Bool :=
  let s := beNat sig
  let em := natBe 512 (powMod modulus 32 s exponent)
  let mdb := em.take 447
  let h := (em.drop 447).take 64
  let raw := (mdb.zip (mgf1 h 447)).map (fun p => p.1 ^^^ p.2)
  let db := match raw with
    | b :: l => (b &&& 0x7f) :: l
    | [] => []
  let salt := db.drop 383
  decide (s < modulus) && em.drop 511 == [0xbc] && mdb.head? == (mdb.head?.map (· &&& 0x7f)) &&
    db.take 383 == List.replicate 382 0 ++ [0x01] &&
    sha512 (List.replicate 8 0 ++ sha512 msg ++ salt) == h

end Sys2Proof.Machine
end

