-- ==== Sys2Proof/Machine/Mgmt.lean ====
section
/-!
DEFINITION. Management: reset and boot, the watchdog, the log, firmware update, attestation (R452-R473, R487).
-/

namespace Sys2Proof.Machine

/-- The detail of a record of block 0xA (R428, R471): opcode, core, boot stage, version. -/
def mgtDetail (op core stage version : Nat) : Nat :=
  op % 2 ^ 16 + core % 256 * 2 ^ 64 + stage % 256 * 2 ^ 72 + version % 2 ^ 64 * 2 ^ 96

/-- Changes the management state. -/
def modMgt (d : Dev) (f : MgtSt → MgtSt) : Dev := { d with mgt := f d.mgt }

/-! ### Reset (R455, R456, R487, R489) -/

/-- The registers that a fundamental reset leaves different from their reset values: the fused register, and the states of the
virtual functions, which do not exist until VF Enable (R391, R473; log entry 54). -/
def resetRegs (fuse : Nat) : Tbl Word :=
  (regSecFuse, BitVec.ofNat 64 fuse) ::
    (rangeFrom 1 64).map (fun i => (regHostFnStatus i, BitVec.ofNat 64 (i * 2 ^ 8)))

/-- The map entries that flash restores: those of loaded ashlars with a flash copy (R456). -/
def mapJournal (d : Dev) : Tbl Nat :=
  d.tier.live.filterMap (fun a =>
    let e := getAsh d a
    if bitOf e.resident 0 ∧ e.integ = 1 then
      let e := { e with
        pier := 0
        mortar := 0
        mrefs := 0
        prefs := 0
        mpins := 0
        ppins := 0
        promo := 0
        resident := 1 }
      some (a, ashBits e)
    else none)

/-- The device held in fundamental reset: fuses, identity and card flash stay, all else is at its reset value (R487, R489). -/
def resetDev (d : Dev) : Dev :=
  let m := d.mgt
  let regs := resetRegs (getReg d regSecFuse)
  { env := { d.env with
      fatal := none
      fatalN := true
      thermtripN := true
      linkDown := true
      pcieLoop := false
      numVfs := 0
      boot := 0 }
    regs := regs
    act := regs
    mem := d.mem.filter (fun c => flashBase ≤ c.1 && c.1 < hostBase)
    poison := d.poison.filter (fun b => flashBase ≤ b && b < hostBase)
    hmem := d.hmem
    hbad := d.hbad
    mgt := {
      flash := m.flash
      boots := m.boots
      pages := m.pages
      nextPg := m.nextPg
      keyHash := m.keyHash
      rom := m.rom
      cert := m.cert
      journal := if d.env.boot = 1 then mapJournal d else m.journal
      sets := if d.env.boot = 1 then d.tier.sets.map (fun p =>
          (p.1, p.2.1, p.2.2, memRead d.mem (setAddr d p.1) 16)) else m.sets
      rows := if d.env.boot = 1 then d.tier.rows else m.rows }
    outs := d.outs
    freeCtr := d.freeCtr }

/-- PERST_N rises (R455): boot starts at stage 0. -/
def startBoot (d : Dev) : Dev := { d with mgt := { d.mgt with boots := d.mgt.boots + 1 } }

/-! ### Boot (R455-R458) -/

/-- Shows a boot status in the physical function's mailbox (R455). -/
def showBoot (d : Dev) (status : Nat) : Dev := fset d (regMbxStatus 0) fldMbxStatusLastStatus status

/-- Boot stops with a status (R457): nothing runs until a fundamental reset, but for recovery mode. -/
def bootStop (d : Dev) (status boot : Nat) : Dev :=
  let stage := fget d regMgtBoot fldMgtBootStage
  let d := logOnly d { status := status, detail := mgtDetail 0 3 stage d.mgt.running.version }
  { showBoot d status with env := { d.env with boot := boot } }

/-- Whether the image in card flash is accepted at boot (R457, R462): readable, its key not revoked, its security version not below
the fused minimum. What was written there had been verified. -/
def bootImage (d : Dev) (readable : Bool) : Option FwImg :=
  match d.mgt.flash with
  | none => none
  | some f =>
    if readable ∧ !bitOf (fget d regSecFuse fldSecFuseKeyRevoked) f.keySlot ∧ fget d regSecFuse fldSecFuseMinSvn ≤ f.svn
      then some f else none

/-- Shows the running image (R473). -/
def showFw (d : Dev) : Dev :=
  let f := d.mgt.running
  let k := regMgtFw
  fset (fset (fset d k fldMgtFwVersion f.version) k fldMgtFwSvn f.svn) k fldMgtFwHandover f.handover

/-- The first of the pages that hold the map, of those of the table sections and of those for staging (R265, R453, R461; log
entry 50). -/
def fwPages (d : Dev) (k : Nat) : Nat := fget d regTierMapBase fldTierMapBaseBase + k * 2097152

/-- Gives pages to an owner. -/
def ownPages (d : Dev) (from_ n owner : Nat) : Dev :=
  (List.range n).foldl (fun d k => modPage d (from_ + k * 2097152) (fun p => { p with owner := owner })) d

/-- Restores the ashlar map and the set table from the map journal (R456). -/
def restoreMap (d : Dev) : Dev :=
  let d := d.mgt.journal.foldl (fun d p => putAsh d p.1 (ashOfBits p.2)) d
  let d := d.mgt.sets.foldl (fun d p =>
    modTier { d with mem := memWrite d.mem (setAddr d p.1) p.2.2.2 } (fun t =>
      { t with sets := tset t.sets p.1 (p.2.1, p.2.2.1) })) d
  modTier d (fun t => { t with rows := d.mgt.rows })

/-- The spare blocks of each flash channel, which the card's record gives and the spec does not: free values. -/
def flashUp (d : Dev) : Dev :=
  (List.range 32).foldl (fun d c =>
    let (n, d) := takeFree d
    let k := regFlsChState c
    fset (fset d k fldFlsChStateState 1) k fldFlsChStateSpares (Config.freeNat n % 65536)) d

/-- Self-test failures at boot (R455): cores 0-95, keystones 96-99, accelerators 100-143. -/
def bootFences (d : Dev) (failed : List Nat) : Dev :=
  failed.foldl (fun d u =>
    if u < 96 then fenceCore d u else if u < 100 then fenceKey d (u - 96)
    else if u < 144 then fenceAccel d (u - 100) else d) d

/-- Loads an image's table sections into their reserved pages (R453, R461). -/
def loadTables (d : Dev) (f : FwImg) : Dev :=
  let a := fwPages d 65
  { d with mem := memWrite (memClear d.mem a 12582912) a (f.tables.take 12582912) }

/-- The work of a boot stage (R455); stage 7 gives instance 0 its credit (R410). -/
def stageWork (d : Dev) (stage ms : Nat) (failed : List Nat) : Dev :=
  match stage with
  | 1 => flashUp d
  | 2 =>
    let d := fset d regMgtLog fldMgtLogNextPage d.mgt.nextPg
    match d.mgt.flash with
    | some f => showFw (modMgt d (fun m => { m with running := f, booted := f, areaOk := true, actCount := 0 }))
    | none => d
  | 3 => loadTables (ownPages (ownPages (ownPages d (fwPages d 0) 65 0) (fwPages d 65) 6 0x7E) (fwPages d 71) 6 0) d.mgt.running
  | 4 => bootFences d failed
  | 5 => restoreMap d
  | 7 =>
    let d := fset (setInstState d 0 2) (regMbxCredit 0) fldMbxCreditCredit 5000
    let d := fset d regMgtBoot fldMgtBootBootMs ms
    { d with env := { d.env with boot := 1 } }
  | _ => d

/-- A boot stage completes (R455, R457): whether the reference clock is there, whether the image region can be read, the units whose
self-test failed, and the milliseconds since reset. -/
def bootStage (d : Dev) (refClock readable : Bool) (failed : List Nat) (ms : Nat) : Dev :=
  if d.env.boot ≠ 0 then d
  else
    let stage := fget d regMgtBoot fldMgtBootStage
    if stage = 0 ∧ !refClock then bootStop d 0x6907 2
    else if stage = 0 ∧ fget d regSecFuse fldSecFuseDebugBlown = 0 then bootStop d 0x6B02 2
    else if stage = 1 ∧ bootImage d readable = none then
      bootStop (fset d regMgtBoot fldMgtBootStage 8) 0x6A50 3
    else
      let d := stageWork d stage ms failed
      let d := logOnly d { status := 0x1A40 + stage, detail := mgtDetail 0 3 stage d.mgt.running.version }
      showBoot (if stage < 7 then fset d regMgtBoot fldMgtBootStage (stage + 1) else d) (0x1A40 + stage)

/-! ### Watchdog and management SRAM (R452, R459, R460) -/

/-- The commands that change no state and are carried out again after a restart of their command core. -/
def onlyQueries (op : Nat) : Bool := readsOnly op || [0x0003, 0x0027, 0x0084, 0x0086].contains op

/-- The command that a command core carries out for a ring when it is restarted, the first one fetched (R408, R424, R472): one that
changes state ends with 0x3A10 and nothing changed, a save with 0x360A (R401); a commit leaves the card without a valid image. -/
def interruptOn (d : Dev) (i q : Nat) : Dev :=
  match (ringSt d i q).fetched with
  | [] => d
  | f :: _ =>
    match takeCmd d i q f.opcode with
    | none => d
    | some (c, e) =>
      if onlyQueries c.opcode || (cmdErr d i q c).isSome then d
      else if c.opcode = 0x0037 then cmdEnd e i q c 0x360A
      else if c.opcode = 0x0081 then
        if e.mgt.staged.isNone then d
        else cmdEnd (modMgt (fset e regMgtFw fldMgtFwStaged 3) (fun m => { m with flash := none })) i q c 0x3A10
      else cmdEnd e i q c 0x3A10

/-- The commands of a context that wait for a boundary end with 0x3A10: CONTEXT_DESTROY and SEQ_CANCEL (R408, R419, R420). -/
def interruptCtx (d : Dev) (i x : Nat) : Dev :=
  let y := ctxSt d i x
  let d := modCtx d i x (fun y => { y with destroy := none, seqs := y.seqs.map (fun s => { s with cancel := none }) })
  let d := (y.seqs.filterMap (·.cancel)).foldl (fun d c => cmdEnd d i (x + 1) c 0x3A10) d
  match y.destroy with
  | some c => cmdEnd d i (x + 1) c 0x3A10
  | none => d

/-- The freeze of an instance that has not completed ends with 0x3A10 (R408). -/
def interruptFreeze (d : Dev) (i : Nat) : Dev :=
  match (instSt d i).freezing with
  | some (a, c) => cmdEnd (modInst d i (fun s => { s with freezing := none })) a 0 c 0x3A10
  | none => d

/-- What the restart of a command core interrupts (R408, R424): the commands that wait to complete, and the one in hand (log entry
137). -/
def interrupt (d : Dev) (hit : Option (Nat × Nat)) : Dev :=
  let d := (List.range 65).foldl (fun d i => interruptFreeze (undoResize d i) i) d
  let d := (liveCtxs d).foldl (fun d p => interruptCtx d p.1 p.2) d
  match hit with
  | some (i, q) => interruptOn d i q
  | none => d

/-- A management core is restarted (R459, R460): device-fatal within 10 s of the restart before, or when its image cannot be had
again. -/
def wdRestart (d : Dev) (core : Nat) (imageOk : Bool) (hit : Option (Nat × Nat) := none) : Dev :=
  let det := mgtDetail 0 core 0 d.mgt.running.version
  let soon := match d.mgt.lastWd with
    | some t => decide (tb2 d < t + 10 * subPerSec)
    | none => false
  if soon then deviceFatal d { status := 0x6A49, detail := det }
  else if !(imageOk && d.mgt.areaOk) && d.mgt.flash != some d.mgt.running then deviceFatal d { status := 0x6A52, detail := det }
  else
    let d := modMgt d (fun m => { m with lastWd := some (tb2 d), areaOk := true })
    let d := fsat d regMgtWd fldMgtWdRestarts 1
    let d := fset (fset d regMgtWd fldMgtWdLastCore core) regMgtWd fldMgtWdLastSec (tb2Sec d)
    let d := logOnly (charge d partMgt (500 * wUnit)) { status := 0x1A48, detail := det }
    if core < 2 then interrupt d hit else d

/-- A watchdog expires (R459); `imageOk` tells whether the image area compares equal, `hit` the ring pair whose command a command
core had in hand. -/
def watchdog (d : Dev) (core : Nat) (imageOk : Bool) (hit : Option (Nat × Nat) := none) : Dev := wdRestart d core imageOk hit

/-- An uncorrectable word in the image area, or in a core's working memory, restarts the core that read it (R459). -/
def mgtSram (d : Dev) (core : Nat) (imageOk : Bool) (hit : Option (Nat × Nat) := none) : Dev :=
  wdRestart (fsat d regMgtSramErr fldMgtSramErrUncorrected 1) core imageOk hit

/-- Symbols of management SRAM were corrected (R452): each is counted and recorded. -/
def sramFixed (n : Nat) (d : Dev) : Dev :=
  (List.range n).foldl (fun d _ =>
    record (fsat d regMgtSramErr fldMgtSramErrCorrected 1) { status := 0x2A53, detail := mgtDetail 0 2 0 d.mgt.running.version }) d

/-! ### Log (R468) -/

/-- LOG_PERSIST (R468): up to 255 entries become a page of the log region. -/
def logPersist (d : Dev) : Dev := persistPage d

/-- A log entry by its SEQ, from the ring or from flash. -/
def logEntry (d : Dev) (seq : Nat) : Option Rec :=
  match d.flt.log.find? (fun r => r.seq == seq) with
  | some r => some r
  | none => d.mgt.pages.findSome? (fun p => p.2.recs.find? (fun r => r.seq == seq))

/-- LOG_READ (R468, R470). -/
def cmdLogRead (d : Dev) (q : Nat) (c : Cmd) : Dev :=
  let n := c.arg 1
  if n < 1 ∨ 64 < n ∨ 2 ^ 32 ≤ c.arg 0 then cmdEnd d 0 q c 0x3A03 0 n
  else
    let bytes := (rangeFrom (c.arg 0) n).flatMap (fun s => match logEntry d (s % 2 ^ 32) with
      | some r => recBytes r
      | none => List.replicate 64 0)
    cmdEnd (hostWrite d (c.arg 2) bytes) 0 q c 0 n

/-! ### Firmware (R461-R463, R470) -/

/-- The image a list of bytes holds (R462). -/
def imageOf (bs : List Byte) : FwImg :=
  let sec (off : Nat) := (bs.drop (fieldLe bs off 4)).take (fieldLe bs (off + 4) 4)
  { version := fieldLe bs 8 8
    svn := fieldLe bs 0x10 1
    keySlot := fieldLe bs 0x11 1
    handover := fieldLe bs 0x12 2
    handMin := fieldLe bs 0x14 2
    digest := fieldLe bs 0x20 64
    sect := leNat (sha512 (sec 0x60 ++ sec 0x68))
    tables := sec 0x68 }

/-- Whether an image is accepted (R462). -/
def imageOk (d : Dev) (bs : List Byte) : Bool :=
  let f := imageOf bs
  let key := (bs.drop 0x200).take 516
  decide (f.keySlot < 4) && !bitOf (fget d regSecFuse fldSecFuseKeyRevoked) f.keySlot &&
    leNat (sha512 key) == lget 0 d.mgt.keyHash f.keySlot && leNat (sha512 (bs.drop 4096)) == f.digest &&
    pssVerify (fieldLe key 0 512) (fieldLe key 512 4) ((bs.drop 0x404).take 512) (bs.take 512) &&
    decide (fget d regSecFuse fldSecFuseMinSvn ≤ f.svn)

/-- The image bytes a command names: as many as its `LENGTH` says, or none when that does not fit. -/
def imageBytes (d : Dev) (c : Cmd) : Option (List Byte) :=
  let len := hostNat d (c.arg 0 + 4) 4
  if 4096 ≤ len ∧ len ≤ c.arg 1 then some (hostRead d (c.arg 0) len) else none

/-- The state of `STAGED`. -/
def setStaged (d : Dev) (v : Nat) : Dev := fset d regMgtFw fldMgtFwStaged v

/-- FW_STAGE (R461, R470). -/
def cmdFwStage (d : Dev) (q : Nat) (c : Cmd) : Dev :=
  if c.arg 1 = 0 ∨ 12582912 < c.arg 1 then cmdEnd d 0 q c 0x3A03 0 (c.arg 1)
  else
    match imageBytes d c with
    | none => cmdEnd d 0 q c 0x3A4E
    | some bs =>
      let f := imageOf bs
      if !imageOk d bs ∨ d.mgt.running.handover < f.handMin then cmdEnd d 0 q c 0x3A4E
      else
        let d := devWrite d (fwPages d 71) bs false
        let d := setStaged (modMgt d (fun m => { m with staged := some f })) 1
        let d := logOnly d { status := 0x1A4B, detail := mgtDetail 0x80 3 0 f.version }
        cmdEnd d 0 q c 0 f.version

/-- FW_COMMIT (R461, R470); `ok` tells whether the image reads back equal from flash. -/
def cmdFwCommit (d : Dev) (q : Nat) (ok : Bool) (c : Cmd) : Dev :=
  match d.mgt.staged with
  | none => cmdEnd d 0 q c 0x3A08
  | some f =>
    if ok then
      let d := setStaged (modMgt d (fun m => { m with flash := some f })) 2
      cmdEnd (logOnly d { status := 0x1A4C, detail := mgtDetail 0x81 3 0 f.version }) 0 q c 0
    else cmdEnd (setStaged (modMgt d (fun m => { m with flash := none })) 3) 0 q c 0x3A4F

/-- FW_ACTIVATE (R461, R470): the flash image becomes the running one. -/
def cmdFwActivate (d : Dev) (q : Nat) (c : Cmd) : Dev :=
  match d.mgt.flash with
  | none => cmdEnd d 0 q c 0x3A08
  | some f =>
    if f = d.mgt.running then cmdEnd d 0 q c 0x3A08
    else
      let d := modMgt (loadTables d f) (fun m => { m with running := f, staged := none, areaOk := true, actCount := m.actCount + 1 })
      let d := showFw (setStaged d 0)
      cmdEnd (logOnly d { status := 0x1A4D, detail := mgtDetail 0x82 3 0 f.version }) 0 q c 0

/-- FW_RECOVER (R458, R470): a verified image is written to flash and boot goes on at stage 2. -/
def cmdFwRecover (d : Dev) (q : Nat) (c : Cmd) : Dev :=
  if d.env.boot ≠ 3 then cmdEnd d 0 q c 0x3A08
  else
    match imageBytes d c with
    | none => cmdEnd d 0 q c 0x3A4E
    | some bs =>
      if !imageOk d bs then cmdEnd d 0 q c 0x3A4E
      else
        let d := cmdEnd (modMgt d (fun m => { m with flash := some (imageOf bs) })) 0 q c 0
        let d := showBoot (fset d regMgtBoot fldMgtBootStage 2) 0x1A41
        { d with env := { d.env with boot := 0 } }

/-- SVN_RAISE (R463, R470): the fused minimum rises to the running image's security version. -/
def cmdSvnRaise (d : Dev) (q : Nat) (c : Cmd) : Dev :=
  let v := d.mgt.running.svn
  if fget d regSecFuse fldSecFuseMinSvn < v then
    let d := fset d regSecFuse fldSecFuseMinSvn v
    cmdEnd (record d { status := 0x1B04, detail := d.mgt.running.keySlot * 2 ^ 16 + v * 2 ^ 32 }) 0 q c 0 v
  else cmdEnd d 0 q c 0 (fget d regSecFuse fldSecFuseMinSvn)

/-- MGT_QUERY (R470). -/
def cmdMgtQuery (d : Dev) (q : Nat) (c : Cmd) : Dev :=
  let bytes := [regMgtBoot, regMgtWd, regMgtFw, regSecFuse].flatMap (fun k => natLe 8 (getReg d k))
  cmdEnd (hostWrite d (c.arg 0) bytes) 0 q c 0 32

/-! ### SPDM (R464, R465; log entry 51) -/

/-- Answers an SPDM request and adds both to the transcript. -/
def spdmAnswer (d : Dev) (req : List Byte) (code : Nat) (body : List Byte) : Dev :=
  let d := fsat d regSecSpdm fldSecSpdmRequests 1
  let d := modMgt d (fun m => { m with script := m.script ++ req ++ BitVec.ofNat 8 code :: body })
  emit d (.spdm code body)

/-- Refuses an SPDM request with an error code (R464). -/
def spdmRefuse (d : Dev) (reqCode err : Nat) : Dev :=
  let d := fsat (fsat d regSecSpdm fldSecSpdmRequests 1) regSecSpdm fldSecSpdmRefused 1
  record (emit d (.spdm 0x7F [BitVec.ofNat 8 err])) { status := 0x1B03, detail := reqCode % 256 + err % 256 * 256 }

/-- GET_VERSION: SPDM 1.3; the transcript starts again. -/
def spdmVersion (d : Dev) : Dev := spdmAnswer (modMgt d (fun m => { m with script := [] })) [0x84] 0x04 [0x00, 0x01, 0x00, 0x13]

/-- GET_CAPABILITIES: certificates, challenge, signed and fresh measurements. -/
def spdmCaps (d : Dev) : Dev := spdmAnswer d [0xE1] 0x61 (natLe 4 0x36)

/-- NEGOTIATE_ALGORITHMS: RSAPSS_4096 and SHA-512. -/
def spdmAlgs (d : Dev) : Dev := spdmAnswer d [0xE3] 0x63 (natLe 4 8 ++ natLe 4 0x40 ++ natLe 4 4)

/-- GET_DIGESTS: the digest of the chain of slot 0. -/
def spdmDigests (d : Dev) : Dev := spdmAnswer d [0x81] 0x01 (0x01 :: sha512 d.mgt.cert)

/-- GET_CERTIFICATE: a portion of the chain of slot 0, with the bytes that remain. -/
def spdmCert (d : Dev) (slot off len : Nat) : Dev :=
  if slot ≠ 0 then spdmRefuse d 0x82 0x01
  else
    let part := (d.mgt.cert.drop off).take len
    spdmAnswer d (0x82 :: natLe 2 off ++ natLe 2 len) 0x02
      (natLe 2 part.length ++ natLe 2 (d.mgt.cert.length - off - part.length) ++ part)

/-- CHALLENGE: the transcript is signed with the identity key; the responder's nonce is free. -/
def spdmChallenge (d : Dev) (slot : Nat) (nonce : List Byte) : Dev :=
  if slot ≠ 0 then spdmRefuse d 0x83 0x01
  else
    let (k, d) := takeFree d
    let body := sha512 d.mgt.cert ++ natLe 32 (Config.freeNat k)
    let sig := Config.identitySign (d.mgt.script ++ 0x83 :: nonce ++ body)
    spdmAnswer d (0x83 :: nonce) 0x03 (body ++ sig)

/-- The value of a measurement block (R465). -/
def measurement (d : Dev) (i : Nat) : List Byte :=
  let m := d.mgt
  match i with
  | 1 => natLe 64 m.rom
  | 2 => natLe 64 m.running.sect
  | 3 => natLe 8 m.running.version ++ natLe 1 m.running.svn ++ natLe 1 m.running.keySlot
  | 4 => natLe 1 (fget d regSecFuse fldSecFuseDebugBlown) ++ natLe 2 d.env.grade ++ natLe 1 0xB1
      ++ natLe 1 (fget d regSecFuse fldSecFuseKeyRevoked) ++ natLe 1 (fget d regSecFuse fldSecFuseMinSvn) ++ List.replicate 10 0
  | _ => natLe 8 m.booted.version ++ natLe 8 m.actCount

/-- The DMTF value type of a measurement block (R465). -/
def measType (i : Nat) : Nat := lget 0 [0, 0x00, 0x01, 0x83, 0x82, 0x83] i

/-- A measurement block. -/
def measBlock (d : Dev) (i : Nat) : List Byte :=
  let v := measurement d i
  natLe 1 i ++ [0x01] ++ natLe 2 (v.length + 3) ++ natLe 1 (measType i) ++ natLe 2 v.length ++ v

/-- GET_MEASUREMENTS: the number of blocks (index 0), one block, or all (0xFF), signed over the requester's nonce. -/
def spdmMeas (d : Dev) (index : Nat) (signed : Bool) (nonce : List Byte) : Dev :=
  let blocks : Option (List Byte) :=
    if index = 0 then some [5]
    else if index = 0xFF then some ([1, 2, 3, 4, 5].flatMap (measBlock d))
    else if index ≤ 5 then some (measBlock d index)
    else none
  match blocks with
  | none => spdmRefuse d 0xE0 0x01
  | some b =>
    let req := 0xE0 :: natLe 1 index ++ (if signed then nonce else [])
    let (k, d) := takeFree d
    let body := b ++ natLe 32 (Config.freeNat k)
    spdmAnswer d req 0x60 (if signed then body ++ Config.identitySign (d.mgt.script ++ req ++ body) else body)

end Sys2Proof.Machine
end

