-- ==== Sys2Proof/Machine/State.lean ====
section
/-!
DEFINITION. The state of the block, what a step can answer, and reset.
-/

namespace Sys2Proof.Machine

/-- The state: the commands that wait, first in first out; the level of the input PERST_N (R487); the device. -/
structure State where
  pending : List Instr
  perstN  : Bool
  dev     : Dev
  deriving DecidableEq, Repr

/-- No command stops the block with a fault: what the spec calls an error is a status, a record or the end of a scope, all of which
are in `State` (R12). Hence there is no fault to raise; safe. -/
inductive Fault where
  deriving DecidableEq, Repr

/-- Why a step has no meaning. No arm of `exec` raises it now: every row of the opcode table has its meaning. Safe. -/
inductive Refusal where
  /-- Raised by an arm of `exec` whose row has no meaning yet, with the row's mnemonic. Safe: the machine stops. -/
  | notModelled (mnemonic : String)
  deriving DecidableEq, Repr

/-- What a command answers. -/
abbrev Res := Host.Outcome State Fault Refusal

/-- The fused words of `SEC_FUSE` of the modelled part: the debug fuse is blown (log entry 5). -/
def resetFuse : Nat := 2 ^ 63

/-- The machine right after a fundamental reset (R455, R487): PERST_N has risen, boot stage 0 is in progress, every register holds its
reset value, memory lists nothing (log entries 4 to 7, 12). -/
def State.reset : State :=
  { pending := []
    perstN := true
    dev := { regs := resetRegs resetFuse, act := resetRegs resetFuse } }

/-- The effect of a command on the device, while PERST_N is high and no device-fatal error is in force; nothing works otherwise (R436,
R487; log entry 10). The queue is left alone. -/
def onDev (st : State) (f : Dev → Dev) : Res :=
  .next (if st.perstN && alive st.dev then { st with dev := f st.dev } else st)

end Sys2Proof.Machine
end

