-- ==== Sys2Proof/Machine/ArrayRows.lean ====
section
/-!
DEFINITION. The meanings of the rows of the commands of the arrays (R64-R90).
-/

namespace Sys2Proof.Machine

/-- An error in array state (R88, R437): its context ends, and the unit's state-lost errors are counted. -/
def arrLost (d : Dev) (a : Nat) : Dev :=
  if (arrSt d a).run.isNone then d
  else noteStateLost (arrStateLost d a) (arrUnit a)

/-- A write of STOP (R82); an error that its save met counts against the unit (R89, R437). -/
def arrStopRow (d : Dev) (a stopAt n err : Nat) : Dev :=
  let t := arrStop d a stopAt n err
  placeWork (if (arrSt d a).run.isSome ∧ fget t (regArrStatus a) fldArrStatusFault = 1 then noteStateLost t (arrUnit a) else t)

/-- ARR_GO (R90). -/
def execArrGo (a : Fin 388) (st : State) : Res := onDev st (fun d => arrGo d a false)

/-- ARR_STOP (R82). -/
def execArrStop (a : Fin 388) (stopAt columns : Nat) (st : State) (err : Nat := 0) : Res := onDev st (fun d => arrStopRow d a stopAt columns err)

/-- ARR_RESUME (R85). -/
def execArrResume (a : Fin 388) (st : State) : Res := onDev st (fun d => arrGo d a true)

/-- ARR_QUEUED_START (R90). -/
def execArrQueuedStart (a : Fin 388) (st : State) : Res := onDev st (fun d => arrQueuedStart d a)

/-- ARR_SWAP (R65). -/
def execArrSwap (a : Fin 388) (st : State) (fixed : Bool := false) : Res := onDev st (fun d => arrSwap (arrCorrected d a fixed) a)

/-- ARR_INVOCATION_COMPLETE (R68). -/
def execArrInvocationComplete (a : Fin 388) (st : State) (fixed : Bool := false) : Res :=
  onDev st (fun d => placeWork (arrComplete (arrCorrected d a fixed) a))

/-- ARR_STATE_LOST (R88). -/
def execArrStateLost (a : Fin 388) (st : State) : Res := onDev st (fun d => arrLost d a)

end Sys2Proof.Machine
end

