-- ==== Sys2Proof/Machine/Composer.lean ====
section
/-!
DEFINITION. The iteration composer and its sequences (R221-R224, R420): parameters, output rings, iteration boundaries.
-/

namespace Sys2Proof.Machine

/-- COMPOSER_SET (R223, R272, R418): parameters that take effect at the next iteration boundary; the model plan is checked as
PLAN_RUN checks one. -/
def cmdComposer (d : Dev) (i q : Nat) (c : Cmd) : Dev :=
  let x := q - 1
  let cap := c.arg 0; let chunk := c.arg 1; let pre := c.arg 2; let ents := c.arg 4; let n := c.arg 6
  if cap = 0 ∨ 4096 < cap ∨ chunk % 256 ≠ 0 ∨ chunk < 256 ∨ 4096 < chunk ∨ 16 < pre ∨ 1048576 < ents ∨ 4096 < n then
    cmdEnd d i q c 0x3A03
  else match accessErr d (.ctx i x) false (c.arg 5) (32 * n) with
  | some st => cmdEnd (endCtx d i x st (c.arg 5)) i q c st
  | none =>
    match readPlan d (ctxSt d i x).level (c.arg 5) n 0 [] with
    | (steps, 0) =>
      let k : Composer := { decodeCap := cap, chunk := chunk, prefillChunks := pre, schedule := c.arg 3, entries := ents
                            plan := c.arg 5, planSteps := steps, planCount := n }
      cmdEnd (modCtx d i x (fun y => { y with pending := some k })) i q c 0
    | (_, st) =>
      if st = 0x3104 then cmdEnd (endRequest d i x st (c.arg 5)) i q c st else cmdEnd d i q c st

/-- Writes bytes to a sequence's ring in its window; false when no window holds them any more (R381, R420). -/
def ringPut (d : Dev) (i : Nat) (s : SeqSt) (off : Nat) (bs : List Byte) : Dev × Bool :=
  match iovaKey d i (s.ring + off) bs.length with
  | some k => if k / 2 ^ 64 = s.pasid + 1 then (hostPut d k bs false, true) else (d, false)
  | none => (d, false)

/-- A number in a sequence's ring. -/
def ringGet (d : Dev) (i : Nat) (s : SeqSt) (off n : Nat) : Option Nat := (iovaKey d i (s.ring + off) n).map (fun k => memNat d.hmem k n)

/-- The header of a sequence's ring up to `SEQ_ID` (R420). -/
def seqHeader (s : SeqSt) (state status : Nat) : List Byte :=
  natLe 4 s.tail ++ natLe 1 state ++ natLe 1 0 ++ natLe 2 status ++ natLe 4 s.produced ++ natLe 4 0 ++ natLe 8 s.id

/-- SEQ_SUBMIT (R381, R405, R420). -/
def cmdSeqSubmit (d : Dev) (i q : Nat) (c : Cmd) : Dev :=
  let x := q - 1
  let k := c.arg 5 % 32; let vec := bitsAt (c.arg 5) 16 12
  let n := c.arg 2
  if n = 0 ∨ 2 ^ 32 < n ∨ c.arg 3 = 0 ∨ 2 ^ 32 ≤ c.arg 3 ∨ c.arg 4 % 4096 ≠ 0 ∨ k < 4 ∨ 16 < k ∨ bitsAt (c.arg 5) 5 11 ≠ 0
      ∨ 2 ^ 28 ≤ c.arg 5 ∨ (if i = 0 then 2048 else 64) ≤ vec ∨ 2 ^ 33 ≤ c.arg 6 ∨ (!bitOf (c.arg 6) 32 ∧ c.arg 6 ≠ 0) then
    cmdEnd d i q c 0x3A03
  else if (ctxSt d i x).seqs.any (fun s => s.id == c.arg 0) then cmdEnd d i q c 0x3A08
  else
    match iovaKey d i (c.arg 1) (4 * n), iovaKey d i (c.arg 4) (64 + 16 * 2 ^ k) with
    | some _, some rk =>
      let s : SeqSt := { id := c.arg 0, tokens := c.arg 1, count := n, maxNew := c.arg 3, ring := c.arg 4, k := k, vector := vec
                         endTok := if bitOf (c.arg 6) 32 then some (bitsAt (c.arg 6) 0 32) else none
                         pasid := rk / 2 ^ 64 - 1 }
      let d := (ringPut d i s 0 (seqHeader s 0 0)).1
      cmdEnd (makeRoom (modCtx d i x (fun y => { y with seqs := y.seqs ++ [s] })) i x) i q c 0
    | _, _ => cmdEnd (endCtx d i x 0x4606 (c.arg 4)) i q c 0x4606

/-- SEQ_CANCEL (R420): it takes effect at the next iteration boundary and completes there. -/
def cmdSeqCancel (d : Dev) (i q : Nat) (c : Cmd) : Dev :=
  let x := q - 1
  if !(ctxSt d i x).seqs.any (fun s => s.id == c.arg 0 && s.cancel.isNone) then cmdEnd d i q c 0x3A08
  else modCtx d i x (fun y =>
    { y with seqs := y.seqs.map (fun s => if s.id == c.arg 0 then { s with cancel := some c } else s) })

/-- Changes a sequence of a context. -/
def modSeq (d : Dev) (i x id : Nat) (f : SeqSt → SeqSt) : Dev :=
  modCtx d i x (fun y => { y with seqs := y.seqs.map (fun s => if s.id == id then f s else s) })

/-- Ends a sequence: its state and status are written, its vector raised (R420). -/
def endSeq (d : Dev) (i x : Nat) (s : SeqSt) (state status : Nat) : Dev :=
  let d := (ringPut d i s 0 (seqHeader s state status)).1
  let d := modCtx d i x (fun y => { y with seqs := y.seqs.filter (fun t => t.id != s.id) })
  let d := match s.cancel with
    | some c => cmdEnd d i (x + 1) c 0 s.produced
    | none => d
  raiseVector d i s.vector

/-- A decode token of a sequence (R420): its entry, then `TAIL`; the last one ends the sequence. -/
def putToken (d : Dev) (i x : Nat) (s : SeqSt) (tok step : Nat) : Dev :=
  let ent := natLe 4 tok ++ natLe 4 (s.count + s.produced) ++ natLe 8 step
  let r := ringPut d i s (64 + 16 * (s.tail % 2 ^ s.k)) ent
  if !r.2 then endSeq d i x s 3 0x3605
  else
    let s := { s with
      tail := (s.tail + 1) % 2 ^ 32
      produced := s.produced + 1
      served := (ctxSt d i x).iter + 1 }
    let d := modSeq r.1 i x s.id (fun _ => s)
    if s.produced = s.maxNew ∨ s.endTok = some tok then endSeq d i x s 1 0
    else raiseVector (ringPut d i s 0 (seqHeader s 0 0)).1 i s.vector

/-- Delivers what an iteration produced (R420, R223): prefilled tokens are counted, each decode sequence gets its token; a token
that the report does not give is a free value. -/
def deliver (i x step : Nat) : List (Nat × Nat) → List Nat → Dev → Dev
  | [], _, d => d
  | (id, n) :: l, toks, d =>
    match (ctxSt d i x).seqs.find? (fun s => s.id == id) with
    | none => deliver i x step l toks d
    | some s =>
      if n ≠ 0 then
        let d := if (iovaKey d i (s.tokens + 4 * s.prefill) (4 * n)).isNone then endSeq d i x s 3 0x3605
                 else modSeq d i x id (fun t => { t with prefill := t.prefill + n })
        deliver i x step l toks d
      else match toks with
        | t :: ts => deliver i x step l ts (putToken d i x s (t % 2 ^ 32) step)
        | [] =>
          let (f, d) := takeFree d
          deliver i x step l [] (putToken d i x s (Config.freeNat f % 2 ^ 32) step)

/-- Inserts a sequence by least recent service, ties to the lower ID (R223). -/
def rankSeq (s : SeqSt) : List SeqSt → List SeqSt
  | [] => [s]
  | t :: l => if s.served < t.served ∨ (s.served = t.served ∧ s.id < t.id) then s :: t :: l else t :: rankSeq s l

/-- The prefill chunks of the next iteration, in order of arrival (R223). -/
def prefillOf (chunk : Nat) : Nat → List SeqSt → List (Nat × Nat)
  | 0, _ => []
  | _, [] => []
  | n + 1, s :: l =>
    if s.prefill < s.count then
      let left := s.count - s.prefill
      let ks := min (n + 1) (ceilDiv left chunk)
      (s.id, min left (ks * chunk)) :: prefillOf chunk (n + 1 - ks) l
    else prefillOf chunk (n + 1) l

/-- Builds the next iteration (R223, R420): decode tokens of the sequences whose ring has room, then prefill chunks. -/
def nextBatch (d : Dev) (i x : Nat) : List (Nat × Nat) :=
  let y := ctxSt d i x
  let due := y.seqs.filter (fun s => s.prefill == s.count &&
    (match ringGet d i s 0x20 4 with
     | some h => decide ((s.tail + 2 ^ 32 - h) % 2 ^ 32 < 2 ^ s.k)
     | none => true))
  let dec := (due.foldl (fun l s => rankSeq s l) []).take y.comp.decodeCap
  dec.map (fun s => (s.id, 0)) ++ prefillOf y.comp.chunk y.comp.prefillChunks y.seqs

/-- The input of an operator step of the model plan that the composer runs with the shapes of a batch (R224, R411, R418). -/
def composerIn (d : Dev) (i x : Nat) (s : PlanStep) (r : ComposerRun) : OpIn :=
  { i := i, x := x, word := bitsAt s.f1 0 32, tensor := bitsAt s.f1 32 32, step := (ctxSt d i x).step, t := r.t, p := r.p }

/-- Whether an invocation that the composer hands on breaks its entry. -/
def composerBad (s : PlanStep) (o : OpIn) : Bool := s.kind != 1 || !opKnown (s.f0 % 65536) || opBad (s.f0 % 65536) o

/-- Whether an operator exchanges data with other devices (R417). -/
def isCollective (op : Nat) : Bool := 0x0140 ≤ op && op ≤ 0x0143

/-- Queues a collective of an iteration, whose own row runs it (R417, R500; log entry 35). -/
def queueRun (d : Dev) (i x op : Nat) (o : OpIn) : Dev :=
  let v : Inv := { op := op, tensor := o.tensor, attr := o.word, a := o.t, step := o.step, cmd := none, since := tb2 d, img := some o.p }
  modCtx d i x (fun c => { c with queue := c.queue ++ [v], step := (o.step + 1) % 2 ^ 64 })

/-- Runs the invocations of an iteration in step order (R33, R224, R500): each takes the next step number and runs the operator of its
step of the model plan. They stop behind a collective, which runs by its own row before the rest are handed on, and at one that waits for
an ashlar or that ends its request or its context. Gives the device, whether all ran,
and the tokens of the last sampling. -/
def composerRuns (i x : Nat) : List ComposerRun → Dev → List Nat → Dev × Bool × List Nat
  | [], d, toks => (d, true, toks)
  | r :: rest, d, toks =>
    match (ctxSt d i x).comp.planSteps[r.step]? with
    | none => (d, false, toks)
    | some s =>
      let op := s.f0 % 65536
      let o := composerIn d i x s r
      let o := { o with ready := noteReady d i op o }
      if composerBad s o then (endRequest d i x 0x3A07, false, toks)
      else if isCollective op then
        if (ctxSt d i x).level < 3 then (endRequest d i x 0x3A06, false, toks)
        else (queueRun d i x op o, false, toks)
      else
        let q := runOperator (modCtx d i x (fun c => { c with lastStep := some o.step })) op o
        if q.waits then (q.dev, false, toks)
        else
          let n := (o.step + 1) % 2 ^ 64
          let d := modCtx q.dev i x (fun c =>
            { c with
              step := n
              lastRun := max c.lastRun n
              tele := { c.tele with invocations := satAdd 64 c.tele.invocations (if q.status < 0x3000 then 1 else 0) } })
          if 4 ≤ q.status / 4096 then (endCtx d i x q.status q.addr, false, toks)
          else if q.status / 4096 = 3 then (endRequest d i x q.status q.addr, false, toks)
          else
            let toks := if op = 0x0130 then (List.range (o.fld 0)).map (fun k => devNat d (o.ten 1 + 4 * k) 4) else toks
            composerRuns i x rest d toks

/-- ITERATION_BOUNDARY (R33, R221, R223, R224, R420): the invocations that the composer forms from the model plan and the batch run; when all
have, the tokens they sampled are delivered under the number of the last invocation, cancelled sequences end, parameters and a resize take
effect, and the next batch is built (log entry 35). -/
def iterationEnd (d : Dev) (i x : Nat) (runs : List ComposerRun) : Dev :=
  let y := ctxSt d i x
  let d := tryResize d i
  if !y.live || y.ending.isSome || y.destroy.isSome || !y.queue.isEmpty || instState d i != 2 || (instSt d i).freezing.isSome
      || d.waiting.contains (i, x) then d
  else match composerRuns i x runs d [] with
  | (d, false, _) => d
  | (d, true, toks) =>
    let d := deliver i x ((ctxSt d i x).lastStep.getD 0) y.batch toks d
    let d := (ctxSt d i x).seqs.foldl (fun d s => if s.cancel.isSome then endSeq d i x s 2 0 else d) d
    let d := modCtx d i x (fun c => { c with comp := c.pending.getD c.comp, pending := none, iter := c.iter + 1 })
    let d := commitReg (leaveLayer d i x) regTierPrefetch
    let b := nextBatch d i x
    giveBack (passBoundary (settle (modCtx d i x (fun c => { c with batch := b })) i x) i x) i x

end Sys2Proof.Machine
end

