-- ==== Sys2Proof/Machine/SaveOps.lean ====
section
/-!
DEFINITION. Freeze, thaw, dirty tracking, saved states and their restore (R369, R393-R398, R419), and the command that tears an
instance down (R405, R435).
-/

namespace Sys2Proof.Machine

/-! ### Freeze and thaw (R393, R398) -/

/-- FREEZE (R393): refused for instance 0; fetching from rings 1 to 16 stops. -/
def cmdFreeze (d : Dev) (i q j : Nat) (c : Cmd) : Dev :=
  if j = 0 then cmdEnd d i q c 0x360B
  else if instState d j ≠ 2 then cmdEnd d i q c 0x3A08
  else modInst d j (fun s => { s with freezing := some (i, c) })

/-- Stops the work of a context on the keystones at an ashlar boundary and notes their save areas (R81, R393). -/
def freezeKeys (d : Dev) (i x : Nat) : Dev :=
  ((ctxArrays d i x).filter (384 ≤ ·)).foldl (fun d a =>
    let d := arrStop d a 1 0
    let d := if (arrSt d a).run.isSome then arrComplete d a else d
    if fget d (regArrStatus a) fldArrStatusSaved = 1 then
      modCtx d i x (fun y => { y with keySaved := (a, getAct d (regArrSaveBase a)) :: y.keySaved })
    else d) d

/-- The freeze completes (R393): no resize is in progress, every request of the instance has ended, and every context is
stopped and saved; rings 1 to 16 read frozen. -/
def freezeDone (d : Dev) (j : Nat) : Dev :=
  match (instSt d j).freezing with
  | none => d
  | some (i, c) =>
    if (instSt d j).ending.isSome || (instSt d j).resize.isSome || d.trn.reqs.any (fun p => p.2.inst == j) then d
    else
      let d := (List.range 96).foldl (fun d k =>
        let (b, y) := match (coreSt d k).borrowed with
          | some p => p
          | none => (coreCtx d k).2
        if b = j ∧ (ctxSt d b y).live ∧ coreState d k = 1 then preempt d k else d) d
      let d := (List.range 16).foldl (fun d x => freezeKeys d j x) d
      let d := (List.range 16).foldl (fun d q =>
        let k := regMbxRingState j (q + 1)
        if fget d k fldMbxRingStateState = 1 then fset d k fldMbxRingStateState 3 else d) d
      let d := modInst d j (fun s => { s with freezing := none })
      cmdEnd (setInstState d j 3) i 0 c 0

/-- Restores what a freeze stopped of a context (R118, R398): each core from its save, each keystone from its own, and page requests
are sent again (R397). -/
def thawCtx (d : Dev) (i x : Nat) : Dev :=
  let cls := (ctxSt d i x).cls
  let d := (ctxSt d i x).saved.foldl (fun d s =>
    let c := s.1
    if coreState d c ≠ 0 ∨ coreFenced d c then d
    else
      let k := regCoreCtx c
      let d := commitReg (setReg d k (cls * 2048 + i * 16 + x)) k
      let d := commitReg (setReg d (regCoreSaveBase c) s.2.1) (regCoreSaveBase c)
      let d := restoreCore d c
      (List.range 16).foldl (fun d n =>
        let t := strmSt d c n
        match t.pageReq with
        | some (a, _) =>
          if strmState d c n = 5 ∧ t.inst = i ∧ t.ctx = x then
            let e := parseDesc (devRead d (storeAddr c (descOff d c n)) 128)
            sendPageReq (modStrm d c n (fun t => { t with pageReq := none })) c n e.pasid a
          else d
        | none => d) d) d
  let d := (ctxSt d i x).keySaved.foldl (fun d s =>
    let d := setReg (setReg d (regArrSaveBase s.1) s.2) (regArrCtx s.1) (cls * 2048 + i * 16 + x)
    arrGo d s.1 true) d
  modCtx d i x (fun y => { y with keySaved := [] })

/-- THAW (R398). -/
def cmdThaw (d : Dev) (i q j : Nat) (c : Cmd) : Dev :=
  if instState d j ≠ 3 then cmdEnd d i q c 0x3A08
  else
    let d := setInstState d j 2
    let d := (List.range 16).foldl (fun d x => if (ctxSt d j x).live then thawCtx d j x else d) d
    let d := (List.range 16).foldl (fun d n =>
      let k := regMbxRingState j (n + 1)
      if fget d k fldMbxRingStateState = 3 then fset d k fldMbxRingStateState 1 else d) d
    let d := (List.range 16).foldl (fun d x => settle d j x) (placeWork d)
    fetchAll (cmdEnd d i q c 0) j

/-- DIRTY_TRACK (R394). -/
def cmdDirty (d : Dev) (i q j : Nat) (c : Cmd) : Dev :=
  if 1 < c.arg 0 then cmdEnd d i q c 0x3A03 0 (c.arg 0)
  else
    let d := if c.arg 0 = 1 then (instPages d j).foldl (fun d o => modPage d o (fun p => { p with dirty := false })) d else d
    cmdEnd (modInst d j (fun s => { s with dirty := c.arg 0 == 1 })) i q c 0

/-- INSTANCE_TEARDOWN (R405, R435): the command completes and the teardown opens, with the status of a function reset (log entry
36). -/
def cmdTeardown (d : Dev) (q j : Nat) (c : Cmd) : Dev :=
  if instState d j ≠ 2 ∧ instState d j ≠ 3 then cmdEnd d 0 q c 0x3A08 else endInst (cmdEnd d 0 q c 0) j 0x5607

/-! ### Saved-state records (R395, R396) -/

/-- A saved-state record before it is placed: type, target, payload. -/
structure SaveRec where
  type    : Nat
  target  : Nat := 0
  payload : List Byte
  deriving DecidableEq, Repr

/-- The header of a record at an index (R396). -/
def saveHeader (k : Nat) (r : SaveRec) : List Byte :=
  natLe 2 r.type ++ natLe 2 0x0E01 ++ natLe 4 k ++ natLe 8 r.payload.length ++ natLe 8 r.target ++ natLe 8 (crc64 r.payload)
    ++ natLe 32 0

/-- Records laid end to end, each at a 64-byte boundary (R396). -/
def saveAll (k : Nat) : List SaveRec → List Byte
  | [] => []
  | r :: l => saveHeader k r ++ padTo ((r.payload.length + 63) / 64 * 64) r.payload ++ saveAll (k + 1) l

/-- A page record; its bytes are of the page, its target its offset. -/
def pageRec (d : Dev) (o : Nat) : SaveRec := { type := 6, target := o, payload := devRead d o 2097152 }

/-- The header record of a saved state (R396). -/
def headRec (d : Dev) (i : Nat) (pages : Nat) : SaveRec :=
  let p := (instSt d i).part
  let live := bitMap ((List.range 16).filter (fun x => (ctxSt d i x).live))
  { type := 1, payload := natLe 2 d.env.grade ++ natLe 1 0xB1 ++ natLe 1 (bitList 4 d.env.keys).length ++ natLe 2 0x0300 ++ natLe 2 i
      ++ natLe 2 (bitList 96 p.cores).length ++ natLe 1 (bitList 4 p.keys).length ++ natLe 1 p.share ++ natLe 2 p.cap
      ++ natLe 2 (bitList 256 p.regions).length ++ natLe 4 pages ++ natLe 2 live ++ natLe 2 0 ++ natLe 8 (tb2 d)
      ++ natLe 16 d.env.serial ++ natLe 16 0 }

/-- The partition record: windows, exports, granted sets (R396). -/
def partRec (d : Dev) (i : Nat) : SaveRec :=
  let wins := (List.range 16).flatMap (fun w => match tget? (instSt d i).windows w with
    | some x => natLe 4 x.pasid ++ natLe 4 0 ++ natLe 8 x.base ++ natLe 8 x.len ++ natLe 8 0
    | none => natLe 32 0)
  let ex := (List.range 256).filterMap (fun n => match tget? d.trn.exports n with
    | some e => if e.inst = i then some (natLe 8 e.base ++ natLe 8 e.len ++ natLe 4 e.job ++ natLe 1 e.rights ++ natLe 1 n ++ natLe 10 0)
                else none
    | none => none)
  let sets := (List.range 4096).filter (fun s => bitOf (getSet d s).grant i)
  let tail := sets.flatMap (fun s => natLe 2 s)
  { type := 2, payload := wins ++ natLe 4 ex.length ++ natLe 4 sets.length ++ natLe 8 0 ++ ex.flatten
      ++ padTo ((tail.length + 7) / 8 * 8) tail }

/-- The mailbox record (R396). -/
def mboxRec (d : Dev) (i : Nat) : SaveRec :=
  let rings := (List.range 17).flatMap (fun q =>
    let cfg := fun f => fget d (regMbxRingCfg i q) f
    let st := fun f => fget d (regMbxRingState i q) f
    let r := ringSt d i q
    natLe 8 (fget d (regMbxSqBase i q) fldMbxSqBaseBase * 4096) ++ natLe 8 (fget d (regMbxCqBase i q) fldMbxSqBaseBase * 4096)
      ++ natLe 1 (cfg fldMbxRingCfgLog2Entries)
      ++ natLe 1 (cfg fldMbxRingCfgEnable + 2 * st fldMbxRingStateCqPhase + 4 * st fldMbxRingStateState)
      ++ natLe 2 (cfg fldMbxRingCfgVector) ++ natLe 1 (cfg fldMbxRingCfgCoalUs) ++ natLe 3 0 ++ natLe 4 (st fldMbxRingStateSqHead)
      ++ natLe 4 r.sqTail ++ natLe 4 (st fldMbxRingStateCqTail) ++ natLe 4 r.cqHead ++ natLe 24 0)
  let hs := (instSt d i).notices
  { type := 3, payload := rings ++ natLe 4 hs.length ++ natLe 4 0
      ++ hs.flatMap (fun h => cplBytes 0xFFFFFFFF h.1 0 0 0 noStep h.2) }

/-- The command entry of an accepted command (R386); of a plan in progress the steps that remain (log entry 37). -/
def cmdBytes (v : Inv) : List Byte :=
  match v.cmd with
  | none => natLe 64 0
  | some c =>
    let cut := if v.isPlan then v.done else 0
    natLe 2 c.opcode ++ natLe 1 (b2n c.irq + 2 * b2n c.order) ++ natLe 1 c.target ++ natLe 4 c.cmdId
      ++ (List.range 7).flatMap (fun k => natLe 8 (if v.isPlan ∧ k = 2 then c.arg 2 + 32 * cut
                                                   else if v.isPlan ∧ k = 3 then c.arg 3 - cut else c.arg k))

/-- Pads a section to a 16-byte boundary. -/
def sec16 (bs : List Byte) : List Byte := padTo ((bs.length + 15) / 16 * 16) bs

/-- Bytes of an array save area by its header (R84). -/
def arrSaveLen (d : Dev) (base : Nat) : Nat :=
  let w := if devNat d (base + 2) 1 = 0 then 1024 else 32768
  64 + devNat d (base + 3) 1 * 24 * w + 80 * w

/-- The offset of an address in the core store or the staging that holds it. -/
def inUnit (a : Nat) : Nat :=
  if storeBase ≤ a ∧ a < storeEnd then (a - storeBase) % 0x400000
  else if stagingBase ≤ a ∧ a < stagingEnd then (a - stagingBase) % 0x800000 else a

/-- The context record (R396). -/
def ctxRecord (d : Dev) (i x : Nat) : SaveRec :=
  let c := ctxSt d i x
  let cores := c.saved.map (fun s => natLe 2 s.1 ++ natLe 6 0 ++ natLe 8 (inUnit s.2.1) ++ devRead d s.2.1 16384)
  let bricks := c.saved.flatMap (fun s => (List.range 4).filterMap (fun b =>
    let a := devNat d (s.2.1 + 0x10 + 8 * b) 8
    if a = 0 then none else some (0, s.1, b, a)))
  let keys := c.keySaved.map (fun s => (1, 0x7F, s.1 - 384, s.2))
  let arrs := (bricks ++ keys).map (fun t =>
    let n := arrSaveLen d t.2.2.2
    natLe 1 t.1 ++ natLe 1 t.2.1 ++ natLe 1 t.2.2.1 ++ natLe 1 0 ++ natLe 4 n ++ natLe 8 (inUnit t.2.2.2) ++ devRead d t.2.2.2 n)
  let imgs := c.saved.map (fun s => natLe 2 s.1 ++ natLe 2 0 ++ natLe 4 0x400000 ++ natLe 8 0 ++ devRead d (storeAddr s.1 0) 0x400000)
  let reqs := c.saved.flatMap (fun s => (s.2.2.zipIdx).filterMap (fun p =>
    match p.1.pageReq with
    | some (a, _) =>
      let k := descOff d s.1 p.2
      let e := parseDesc (devRead d (storeAddr s.1 k) 128)
      some (natLe 4 e.pasid ++ natLe 1 s.1 ++ natLe 1 p.2 ++ natLe 2 0 ++ natLe 8 a ++ natLe 8 k ++ natLe 8 0)
    | none => none))
  let pend := c.queue.map (fun v => cmdBytes v ++ natLe 8 (if v.isPlan then stepOwner v else v.step) ++ natLe 8 0)
  { type := 4, target := x
    payload := auditBytes c ++ natLe 4 c.comp.decodeCap ++ natLe 4 c.comp.chunk ++ natLe 4 c.comp.prefillChunks
      ++ natLe 4 c.comp.entries ++ natLe 8 c.comp.schedule ++ natLe 8 c.comp.plan ++ natLe 4 c.comp.planCount ++ natLe 2 c.cls
      ++ natLe 2 0 ++ natLe 2 cores.length ++ natLe 2 arrs.length ++ natLe 2 imgs.length ++ natLe 2 reqs.length ++ natLe 4 pend.length
      ++ natLe 12 0 ++ (cores ++ arrs ++ imgs ++ reqs ++ pend).flatMap sec16 }

/-- The ordinal of an ashlar within its set: its rank by index. -/
def ordinalOf (d : Dev) (a : Nat) : Nat :=
  (d.tier.live.filter (fun b => (getAsh d b).set == (getAsh d a).set && b < a)).length

/-- The ashlar references record (R396). -/
def refsRec (d : Dev) (i : Nat) : SaveRec :=
  let as := (d.tier.refs.filter (fun r => r.inst == i)).foldl (fun l r => natPut l r.ash) []
  { type := 5, payload := natLe 8 as.length ++ natLe 8 0 ++ as.flatMap (fun a =>
      let e := getAsh d a
      let fl := fun (t : Nat) => match refOf d i a t with
        | some r => 1 + 2 * b2n r.pin
        | none => 0
      natLe 2 e.set ++ natLe 1 (fl 0 + 4 * fl 1) ++ natLe 1 0 ++ natLe 4 (ordinalOf d a) ++ natLe 8 e.crc ++ natLe 4 a ++ natLe 4 0) }

/-- The mortar record of a data region (R396). -/
def regionRec (d : Dev) (r : Nat) : SaveRec :=
  { type := 7, target := r * 0x100000, payload := devRead d (mortarBase + r * 0x100000) 0x100000 }

/-- The end record of the records before it (R396). -/
def endRec (l : List SaveRec) : SaveRec :=
  let hs := (l.zipIdx).flatMap (fun p => saveHeader p.2 p.1)
  { type := 8, payload := natLe 8 l.length ++ natLe 8 (crc64 hs) ++ natLe 8 (saveAll 0 l).length ++ natLe 40 0 }

/-- SAVE (R394, R395): pages of a running instance; dirty pages and every state record of a frozen one. A buffer too small ends
it with nothing changed. -/
def cmdSave (d : Dev) (i q j : Nat) (c : Cmd) : Dev :=
  let st := instState d j
  if 1 < c.arg 0 then cmdEnd d i q c 0x3A03 0 (c.arg 0)
  else if st ≠ 2 ∧ st ≠ 3 then cmdEnd d i q c 0x3A08
  else
    let own := (instPages d j).reverse
    let pages := if c.arg 0 = 0 then own else own.filter (fun o => (pageOf d o).dirty)
    let ps := pages.map (pageRec d)
    let states := if st = 2 then [] else
      [headRec d j own.length, partRec d j, mboxRec d j]
        ++ ((List.range 16).filter (fun x => (ctxSt d j x).live)).map (ctxRecord d j) ++ [refsRec d j]
        ++ (instRegions d j).map (regionRec d)
    let l := ps ++ states
    let l := if st = 2 then l else l ++ [endRec l]
    let bs := saveAll 0 l
    if c.arg 2 < bs.length then cmdEnd d i q c 0x360A 0 (c.arg 1)
    else
      let d := pages.foldl (fun d o => modPage d o (fun p => { p with dirty := false })) d
      cmdEnd (hostWrite d (c.arg 1) bs) i q c 0 bs.length

/-! ### Restore (R397) -/

/-- A record read back, with its header's bytes. -/
structure ReadRec where
  type    : Nat
  target  : Nat
  header  : List Byte
  payload : List Byte
  deriving DecidableEq, Repr

/-- The offsets of the sections of a context record from a point, of sizes a function gives. -/
def secOffsets (p : List Byte) (size : Nat → Nat) : Nat → Nat → List Nat × Nat
  | 0, o => ([], o)
  | n + 1, o =>
    let r := secOffsets p size n (o + (size o + 15) / 16 * 16)
    (o :: r.1, r.2)

/-- The offsets of the core, array, image, page-request and pending sections of a context record, and the end of the last (R396). -/
def ctxSections (p : List Byte) : List (List Nat) × Nat :=
  let n := fun o => fieldLe p (0x68 + 2 * o) 2
  let (co, o) := secOffsets p (fun _ => 16400) (n 0) 0x80
  let (ao, o) := secOffsets p (fun o => 16 + fieldLe p (o + 4) 4) (n 1) o
  let (io, o) := secOffsets p (fun o => 16 + fieldLe p (o + 4) 4) (n 2) o
  let (po, o) := secOffsets p (fun _ => 32) (n 3) o
  let (qo, o) := secOffsets p (fun _ => 80) (min (fieldLe p 0x70 4) p.length) o
  ([co, ao, io, po, qo], o)

/-- Whether a payload has the layout of its type (R396). -/
def payloadOk (type target : Nat) (p : List Byte) : Bool :=
  match type with
  | 1 => p.length == 64
  | 2 => decide (528 ≤ p.length) && p.length == 528 + 32 * fieldLe p 0x200 4 + (2 * fieldLe p 0x204 4 + 7) / 8 * 8
  | 3 => decide (0x448 ≤ p.length) && p.length == 0x448 + 32 * fieldLe p 0x440 4
  | 4 => decide (0x80 ≤ p.length) && decide (target < 16) && (ctxSections p).2 == p.length
  | 5 => decide (16 ≤ p.length) && p.length == 16 + 24 * fieldLe p 0 8
  | 6 => p.length == 2097152 && target % 2097152 == 0 && decide (target < pierEnd)
  | 7 => p.length % 65536 == 0 && target % 65536 == 0 && decide (target + p.length ≤ 0x10000000)
  | 8 => p.length == 64
  | _ => false

/-- The records of one save buffer from an address (R396): up to its end record, or to a header of type 0 (log entry 38); none
when a record breaks its layout or CRC. -/
def readBuf (m : List Host.Cell) : Nat → Nat → Nat → List ReadRec → Option (List ReadRec)
  | 0, _, _, acc => some acc.reverse
  | n + 1, a, k, acc =>
    let h := memRead m a 64
    let type := fieldLe h 0 2
    let len := fieldLe h 8 8
    if type = 0 then some acc.reverse
    else if 8 < type ∨ fieldLe h 2 2 ≠ 0x0E01 ∨ fieldLe h 4 4 ≠ k ∨ 2 ^ 32 < len ∨ fieldLe h 32 32 ≠ 0 then none
    else
      let p := memRead m (a + 64) len
      let r : ReadRec := { type := type, target := fieldLe h 16 8, header := h, payload := p }
      if crc64 p ≠ fieldLe h 24 8 ∨ !payloadOk type r.target p then none
      else if type = 8 then some (r :: acc).reverse
      else readBuf m n (a + 64 + (len + 63) / 64 * 64) (k + 1) (r :: acc)

/-- The records of every buffer of a list, in order. -/
def readBufs (m : List Host.Cell) : List Nat → Option (List (List ReadRec))
  | [] => some []
  | a :: l =>
    match readBuf m 300000 a 0 [] with
    | none => none
    | some rs => (readBufs m l).map (rs :: ·)

/-- Whether the last buffer ends in an end record that matches the records before it (R396, R397 condition 1). -/
def endOk (bufs : List (List ReadRec)) : Bool :=
  match bufs.getLast? with
  | none => false
  | some rs =>
    match rs.getLast? with
    | none => false
    | some e =>
      let before := rs.dropLast
      e.type == 8 && fieldLe e.payload 0 8 == before.length && fieldLe e.payload 8 8 == crc64 (before.flatMap (·.header))
        && fieldLe e.payload 16 8 == (before.map (fun r => 64 + (r.payload.length + 63) / 64 * 64)).sum

/-- The first record of a type. -/
def recOf (rs : List ReadRec) (t : Nat) : Option ReadRec := rs.find? (fun r => r.type == t)

/-- The payload of the first record of a type, or nothing. -/
def payOf (rs : List ReadRec) (t : Nat) : List Byte := match recOf rs t with
  | some r => r.payload
  | none => []

/-- The ashlar at an ordinal within a set. -/
def ashAtOrd (d : Dev) (s k : Nat) : Option Nat := (d.tier.live.filter (fun a => (getAsh d a).set == s))[k]?

/-- The references of a saved state with the destination's ashlars: (ashlar, flags), or none when one is missing, differs or is
not granted (R397 condition 4). -/
def mapRefs (d : Dev) (i : Nat) (setMap : Nat → Nat) (p : List Byte) : Option (List (Nat × Nat)) :=
  (List.range (fieldLe p 0 8)).foldr (fun k acc =>
    let o := 16 + 24 * k
    match acc, ashAtOrd d (setMap (fieldLe p o 2)) (fieldLe p (o + 4) 4) with
    | some l, some a => if (getAsh d a).crc = fieldLe p (o + 8) 8 ∧ (refErr d i a).isNone then some ((a, fieldLe p (o + 2) 1) :: l) else none
    | _, _ => none) (some [])

/-- Whether the pages and regions of a saved state are the instance's and free of other data (R397 condition 3). -/
def placesOk (d : Dev) (i : Nat) (rs : List ReadRec) : Bool :=
  rs.all (fun r =>
    if r.type = 6 then (pageOf d r.target).owner == i && !(pageOf d r.target).slot && !holdsData d r.target 2097152
    else if r.type = 7 then
      (rangeFrom (r.target / 0x100000) ((r.payload.length + r.target % 0x100000 + 0xFFFFF) / 0x100000)).all
        (fun g => tget 127 d.mortar g == i) && !holdsData d (mortarBase + r.target) r.payload.length
    else true)

/-- Whether a partition meets the counts of a header record (R397 condition 3). -/
def countsOk (d : Dev) (i : Nat) (h : List Byte) : Bool :=
  let p := (instSt d i).part
  fieldLe h 8 2 ≤ (bitList 96 p.cores).length && fieldLe h 10 1 ≤ (bitList 4 p.keys).length && fieldLe h 11 1 ≤ p.share
    && fieldLe h 12 2 ≤ p.cap && fieldLe h 14 2 ≤ (bitList 256 p.regions).length && fieldLe h 16 4 ≤ p.pages.length

/-- Writes the pages and regions of a saved state (R397): a later record of a page supersedes an earlier one. -/
def loadPlaces (d : Dev) (rs : List ReadRec) : Dev :=
  rs.foldl (fun d r =>
    if r.type = 6 then devWrite d r.target r.payload false
    else if r.type = 7 then devWrite d (mortarBase + r.target) r.payload false
    else d) d

/-- The saved windows by number. -/
def savedWindows (p : List Byte) : List (Nat × Window) :=
  (List.range 16).filterMap (fun w =>
    let o := 32 * w
    if fieldLe p (o + 16) 8 = 0 then none
    else some (w, { pasid := fieldLe p o 4 % 2 ^ 20, base := fieldLe p (o + 8) 8, len := fieldLe p (o + 16) 8 }))

/-- The lowest export entry that is free, the saved number when it is. -/
def exportSlot (d : Dev) (n : Nat) : Nat :=
  if (tget? d.trn.exports n).isNone then n
  else ((List.range 256).find? (fun k => (tget? d.trn.exports k).isNone)).getD n

/-- Loads the partition record (R396): windows with the PASIDs supplied in order, export entries. -/
def loadPart (d : Dev) (i : Nat) (pasids : List Nat) (p : List Byte) : Dev :=
  let d := (savedWindows p).zipIdx.foldl (fun d w =>
    modInst d i (fun s => { s with windows := tset s.windows w.1.1 { w.1.2 with pasid := lget 0 pasids w.2 % 2 ^ 20 } })) d
  (List.range (fieldLe p 0x200 4)).foldl (fun d k =>
    let o := 0x210 + 32 * k
    let e : Export := { base := fieldLe p o 8, len := fieldLe p (o + 8) 8, job := fieldLe p (o + 16) 4 % 2 ^ 20, inst := i
                        rights := fieldLe p (o + 20) 1 % 8 }
    { d with trn := { d.trn with exports := tset d.trn.exports (exportSlot d (fieldLe p (o + 21) 1)) e } }) d

/-- Loads the mailbox record (R396): rings 1 to 16, whose pairs read frozen when enabled, and held notices. Ring 0 serves the
restoring software and keeps its own state. -/
def loadMbox (d : Dev) (i : Nat) (p : List Byte) : Dev :=
  let d := (List.range 16).foldl (fun d n =>
    let q := n + 1
    let o := 64 * q
    let fl := fieldLe p (o + 17) 1
    let d := fset d (regMbxSqBase i q) fldMbxSqBaseBase (fieldLe p o 8 / 4096)
    let d := fset d (regMbxCqBase i q) fldMbxSqBaseBase (fieldLe p (o + 8) 8 / 4096)
    let k := regMbxRingCfg i q
    let d := fset (fset (fset (fset d k fldMbxRingCfgLog2Entries (fieldLe p (o + 16) 1)) k fldMbxRingCfgEnable (fl % 2)) k
      fldMbxRingCfgVector (fieldLe p (o + 18) 2)) k fldMbxRingCfgCoalUs (fieldLe p (o + 20) 1)
    let s := regMbxRingState i q
    let d := fset (fset (fset (fset d s fldMbxRingStateState (bitsAt fl 2 3)) s fldMbxRingStateCqPhase (bitsAt fl 1 1)) s
      fldMbxRingStateSqHead (fieldLe p (o + 24) 4)) s fldMbxRingStateCqTail (fieldLe p (o + 32) 4)
    let e := ringEntries d i q
    let used := (fieldLe p (o + 32) 4 + e - fieldLe p (o + 36) 4 % e) % e
    modRing d i q (fun _ => { sqTail := fieldLe p (o + 28) 4, cqHead := fieldLe p (o + 36) 4, used := used })) d
  let ns := (List.range (fieldLe p 0x440 4)).map (fun k => let o := 0x448 + 32 * k; (fieldLe p (o + 4) 2, fieldLe p (o + 24) 8))
  modInst d i (fun s => { s with notices := (s.notices ++ ns).take 256 })

/-- The context of an audit record (R368, R362). -/
def ctxOfAudit (p : List Byte) (cls : Nat) (old : CtxSt) : CtxSt :=
  let mode := fieldLe p 0x36 1
  { live := true, cls := cls, detOff := !bitOf mode 0, replay := bitOf mode 1, level := fieldLe p 0x34 2 / 256
    job := fieldLe p 0x30 4 % 2 ^ 20, seed := fieldLe p 0 16, step := fieldLe p 0x10 8, startAt := fieldLe p 0x28 8
    choices := fieldLe p 0x18 8
    firstCh := if fieldLe p 0x20 8 = noStep then none else some (fieldLe p 0x20 8)
    lastRun := fieldLe p 0x10 8, tele := old.tele }

/-- The destination core for the source cores of a context: its own number when the instance holds it, else the lowest of the
instance's cores not yet taken (R118, R397). -/
def placeCores (own : List Nat) : List Nat → List (Nat × Nat) → List (Nat × Nat)
  | [], acc => acc
  | s :: l, acc =>
    let free := own.filter (fun c => acc.all (fun p => p.2 != c))
    let c := if free.contains s then s else lget (lget s own 0) free 0
    placeCores own l (acc ++ [(s, c)])

/-- Queues a pending command of a context record again (R396): operators and plans keep their steps. -/
def loadPending (d : Dev) (i x : Nat) (bs : List Byte) (step : Nat) : Dev :=
  let c := parseCmd bs 0
  let q := x + 1
  let d := modRing d i q (fun r => { r with running := r.running ++ [c] })
  if c.opcode = 0x0025 then
    let v : Inv := { op := c.arg 0 % 65536, tensor := bitsAt (c.arg 0) 16 32, attr := c.arg 1, a := c.args.drop 2, step := step
                     cmd := some c }
    modCtx d i x (fun y => { y with queue := y.queue ++ [v] })
  else if c.opcode = 0x0026 then
    let (steps, _) := readPlan d (ctxSt d i x).level (c.arg 2) (c.arg 3) 0 []
    let v : Inv := { op := 0, tensor := 0, attr := 0, a := [], step := step, cmd := some c, isPlan := true, plan := steps, next := step }
    modCtx d i x (fun y => { y with queue := y.queue ++ [v] })
  else d

/-- Loads a context record (R396, R397): images first, then save areas at their offsets, page requests, pending commands. -/
def loadCtx (d : Dev) (i : Nat) (r : ReadRec) : Dev :=
  let x := r.target
  let p := r.payload
  let secs := (ctxSections p).1
  let own := instCores d i
  let co := if own.isEmpty then [] else lget [] secs 0
  let ao := (lget [] secs 1).filter (fun o => !own.isEmpty || fieldLe p o 1 != 0)
  let io := if own.isEmpty then [] else lget [] secs 2
  let po := lget [] secs 3
  let qo := lget [] secs 4
  let place := placeCores own (co.map (fun o => fieldLe p o 2)) []
  let dst := fun (s : Nat) => match place.find? (fun e => e.1 == s) with
    | some e => e.2
    | none => s
  let comp : Composer := { decodeCap := fieldLe p 0x40 4, chunk := fieldLe p 0x44 4, prefillChunks := fieldLe p 0x48 4
                           entries := fieldLe p 0x4C 4, schedule := fieldLe p 0x50 8, plan := fieldLe p 0x58 8
                           planCount := fieldLe p 0x60 4 }
  let cls := fieldLe p 0x64 2
  let d := modCtx d i x (fun y => { ctxOfAudit p cls y with comp := comp })
  let d := modCtx d i x (fun y => { y with comp := { y.comp with planSteps := (readPlan d y.level comp.plan comp.planCount 0 []).1 } })
  let d := io.foldl (fun d o =>
    devWrite d (storeAddr (dst (fieldLe p o 2)) (fieldLe p (o + 8) 8)) ((p.drop (o + 16)).take (fieldLe p (o + 4) 4)) false) d
  let d := ao.foldl (fun d o =>
    let bs := (p.drop (o + 16)).take (fieldLe p (o + 4) 4)
    let off := fieldLe p (o + 8) 8
    if fieldLe p o 1 = 0 then devWrite d (if off < 0x400000 then storeAddr (dst (fieldLe p (o + 1) 1)) off else off) bs false
    else
      let key := (lget (fieldLe p (o + 2) 1) (instKeys d i) 0)
      let at_ := if off < 0x800000 then stagingAddr key off else off
      modCtx (devWrite d at_ bs false) i x (fun y => { y with keySaved := (384 + key, at_) :: y.keySaved })) d
  let d := co.foldl (fun d o =>
    let c := dst (fieldLe p o 2)
    let off := fieldLe p (o + 8) 8
    let base := if off < 0x400000 then storeAddr c off else off
    let bs := (p.drop (o + 16)).take 16384
    let fix := (List.range 4).flatMap (fun b =>
      let a := fieldLe bs (0x10 + 8 * b) 8
      natLe 8 (if storeBase ≤ a ∧ a < storeEnd then storeAddr c (inUnit a) else a))
    let bs := bs.take 4 ++ natLe 4 (i * 16 + x) ++ (bs.drop 8).take 8 ++ fix ++ bs.drop 0x30
    let strms := (List.range 16).map (fun s =>
      let rq := po.find? (fun k => dst (fieldLe p (k + 4) 1) == c && fieldLe p (k + 5) 1 == s)
      ({ inst := i, ctx := x, pageReq := rq.map (fun k => (fieldLe p (k + 8) 8, tb2 d)) } : StrmSt))
    modCtx (devWrite d base bs false) i x (fun y => { y with saved := (c, base, strms) :: y.saved, away := natPut y.away c })) d
  qo.foldl (fun d o => loadPending d i x ((p.drop o).take 64) (fieldLe p (o + 64) 8)) d

/-- The references of a restored state are promoted again from the destination's tiers (R395, R397). -/
def loadRefs (d : Dev) (i : Nat) (refs : List (Nat × Nat)) : Dev :=
  refs.foldl (fun d r =>
    let d := if bitOf r.2 2 then (ask d { inst := i, ash := r.1, tier := 1, pin := bitOf r.2 3 }).1 else d
    if bitOf r.2 0 then (ask d { inst := i, ash := r.1, tier := 0, pin := bitOf r.2 1 }).1 else d) d

/-- The addresses of a list of save buffers. -/
def bufList (d : Dev) (a n : Nat) : List Nat := (List.range n).map (fun k => hostNat d (a + 8 * k) 8)

/-- RESTORE (R397): every condition holds and the state is loaded, the instance enters frozen; else 0x3609 and nothing
changed. -/
def cmdRestore (d : Dev) (i q j : Nat) (c : Cmd) : Dev :=
  let refuse := cmdEnd d i q c 0x3609
  if instState d j ≠ 2 ∨ (List.range 16).any (fun x => (ctxSt d j x).live) then cmdEnd d i q c 0x3A08
  else match readBufs d.hmem (bufList d (c.arg 0) (c.arg 1)) with
  | none => refuse
  | some bufs =>
    let rs := bufs.flatten
    let h := payOf rs 1
    let setMap := fun s => hostNat d (c.arg 2 + 2 * s) 2
    let wins := savedWindows (payOf rs 2)
    let pasids := (List.range wins.length).map (fun k => hostNat d (c.arg 3 + 4 * k) 4)
    if !endOk bufs ∨ (recOf rs 1).isNone ∨ d.env.grade < fieldLe h 0 2 ∨ 0x0300 < fieldLe h 4 2 ∨ !countsOk d j h
        ∨ !placesOk d j rs ∨ (wins ≠ [] ∧ (c.arg 3 = 0 ∨ pasids.any (2 ^ 20 ≤ ·))) then refuse
    else match (if (recOf rs 5).isSome then mapRefs d j setMap (payOf rs 5) else some []) with
    | none => refuse
    | some refs =>
      let d := setInstState d j 4
      let d := loadPlaces d rs
      let d := if (recOf rs 2).isSome then loadPart d j pasids (payOf rs 2) else d
      let d := if (recOf rs 3).isSome then loadMbox d j (payOf rs 3) else d
      let d := (rs.filter (fun r => r.type == 4)).foldl (fun d r => loadCtx d j r) d
      cmdEnd (setInstState (loadRefs d j refs) j 3) i q c 0

/-- Loads the context record of a saved state into a replay context (R369, R397), which keeps the class, level, job, seed and start step of
its creation and runs nothing before its first target. -/
def loadReplay (d : Dev) (i x : Nat) (r : ReadRec) (t : CtxSt) : Dev :=
  modCtx (loadCtx d i { r with target := x }) i x (fun y => { y with
    cls := t.cls, level := t.level, job := t.job, seed := t.seed, step := t.step, startAt := t.startAt, lastRun := t.lastRun
    detOff := t.detOff, replay := t.replay })

/-- REPLAY_TO_STEP (R369, R370, R397): the first target of a replay context also restores what its saved state had stopped. -/
def replayTarget (d : Dev) (i q : Nat) (c : Cmd) : Dev :=
  let first := (ctxSt d i (q - 1)).replayTo = 0
  let d := cmdReplay d i q c
  if first ∧ (ctxSt d i (q - 1)).replayTo ≠ 0 then settle (thawCtx d i (q - 1)) i (q - 1) else d

/-- CONTEXT_CREATE (R362, R369, R397, R419): a new context, or a replay context restored from the record of its number, else of the
first context whose `STEP` is the start step; it takes the saved pages and regions, the sets and windows the instance has. -/
def cmdCreate (d : Dev) (i q : Nat) (c : Cmd) : Dev :=
  let x := q - 1
  let st := createErr d i x c
  let t := newCtx c (ctxSt d i x).tele
  if st ≠ 0 then cmdEnd d i q c st 0 (if st = 0x3A03 then c.arg 0 else 0)
  else if c.arg 5 = 0 then cmdEnd (modCtx d i x (fun _ => t)) i q c 0
  else match readBufs d.hmem (bufList d (c.arg 4) (c.arg 5)) with
  | none => cmdEnd d i q c 0x3609
  | some bufs =>
    let rs := bufs.flatten
    let fits := rs.filter (fun r => r.type == 4 && fieldLe r.payload 0x10 8 == c.arg 3)
    let pick := match fits.find? (fun r => r.target == x) with
      | some r => some r
      | none => fits.head?
    match pick, mapRefs d i (fun s => s) (payOf rs 5) with
    | some r, some refs =>
      if !endOk bufs ∨ (recOf rs 1).isNone ∨ 0x0300 < fieldLe (payOf rs 1) 4 2 ∨ !placesOk d i rs
          ∨ (savedWindows (payOf rs 2)).any (fun w => (tget? (instSt d i).windows w.1).isNone) then cmdEnd d i q c 0x3609
      else cmdEnd (loadReplay (loadRefs (loadPlaces d rs) i refs) i x r t) i q c 0
    | _, _ => cmdEnd d i q c 0x3609

end Sys2Proof.Machine
end

