-- ==== Sys2Proof/Machine/HostRows.lean ====
section
/-!
DEFINITION. The host attachment: BAR 2 accesses, MSI-X, host completions, translations, resets of the functions, the link, VF
Enable (R374-R392, R401, R475).
-/

namespace Sys2Proof.Machine

/-- The discard of a write to a `HOST_` register of a function (R11, R402). -/
def hostReject (d : Dev) (i key : Nat) : Dev :=
  cfgReject d (regHostFnStatus i) fldHostFnStatusCfgReject 0x1601 key 0 i

/-- Whether the host can reach a function: it exists, and the link is not in loop-back (R391, R475). -/
def hostReaches (d : Dev) (i : Nat) : Bool := instState d i != 0 && !d.env.pcieLoop

/-! ### BAR 2 (R378, R379) -/

/-- The device offset of a BAR 2 offset, through its segment. -/
def bar2Addr (d : Dev) (i off : Nat) : Nat :=
  fget d (regHostBar2Seg i (off / segBytes d i)) fldHostBar2SegBase * 4194304 + off % segBytes d i

/-- Whether an access of `n` bytes at a BAR 2 offset, within one segment, is allowed: the segment is mapped, is writable for a
write, and the target's ownership allows it. -/
def bar2Ok (d : Dev) (i off n : Nat) (write : Bool) : Bool :=
  let k := regHostBar2Seg i (off / segBytes d i)
  decide (off + n ≤ 2 ^ bar2Bits d i) && fget d k fldHostBar2SegValid == 1 &&
    (!write || fget d k fldHostBar2SegWrite == 1) && (accessErr d (.ctx i 16) write (bar2Addr d i off) n).isNone

/-- The parts of a BAR 2 access, one per segment it touches: offset and bytes. -/
def bar2Parts (d : Dev) (i off n : Nat) : List (Nat × Nat) :=
  let s := segBytes d i
  if n = 0 then []
  else (List.range ((off + n - 1) / s - off / s + 1)).map (fun k =>
    let lo := max off ((off / s + k) * s)
    (lo, min (off + n) ((off / s + k + 1) * s) - lo))

/-- A refused BAR 2 access is recorded once per segment and second (R378). -/
def bar2Refused (d : Dev) (i off : Nat) : Dev :=
  let s := off / segBytes d i
  if tget? (instSt d i).segSecs s = some (tb2Sec d) then d
  else
    let d := modInst d i (fun x => { x with segSecs := tset x.segSecs s (tb2Sec d) })
    record d { status := 0x1604, inst := i, addr := off }

/-- A host read through BAR 2 (R378): served as a whole, or completed with UR; EP is set when a byte lies in a poisoned
unit. -/
def bar2Read (d : Dev) (i off n : Nat) : Dev :=
  if !hostReaches d i then d
  else
    let ps := bar2Parts d i off n
    match ps.find? (fun p => !bar2Ok d i p.1 p.2 false) with
    | some p => emit (bar2Refused d i p.1) (.cplData true false [])
    | none => emit d (.cplData false (ps.any (fun p => isPoisoned d (bar2Addr d i p.1) p.2))
        (ps.flatMap (fun p => devRead d (bar2Addr d i p.1) p.2)))

/-- A host write through BAR 2 (R376, R378): each part that is allowed is performed and sets `DIRTY` bits; a poisoned one is
written poisoned and reported. -/
def bar2Write (d : Dev) (i off : Nat) (data : List Byte) (ep : Bool) : Dev :=
  if !hostReaches d i then d
  else
    let d := (bar2Parts d i off data.length).foldl (fun d p =>
      if bar2Ok d i p.1 p.2 true then devWrite d (bar2Addr d i p.1) ((data.drop (p.1 - off)).take p.2) ep
      else bar2Refused d i p.1) d
    if ep then emit d .aerAdvisory else d

/-! ### MSI-X (R380) -/

/-- The vectors of a function (R374). -/
def vectorsOf (i : Nat) : Nat := if i = 0 then 2048 else 64

/-- A vector is unmasked: a pending one is raised (R380). -/
def msixUnmask (d : Dev) (i v : Nat) : Dev :=
  if !hostReaches d i || vectorsOf i ≤ v then d
  else
    let due := (instSt d i).vecPend.contains v
    let d := modInst d i (fun x => { x with unmasked := natPut x.unmasked v, vecPend := x.vecPend.filter (· != v) })
    if due then emit d (.msix i v) else d

/-- A vector is masked (R380). -/
def msixMask (d : Dev) (i v : Nat) : Dev := modInst d i (fun x => { x with unmasked := x.unmasked.filter (· != v) })

/-! ### Completions of host reads, translations (R109, R376, R382) -/

/-- A host read completion for a stream (R109): with EP its bytes are poisoned; with UR or CA the element is poisoned and the
request ends with 0x3109 when its descriptor completes. -/
def hostCompletion (d : Dev) (c s : Nat) (data : List Byte) (kind : CplKind) : Dev :=
  let t := strmSt d c s
  let e := parseDesc (devRead d (storeAddr c (descOff d c s)) 128)
  if e.sspace ≠ 3 ∨ t.asked = [] ∨ d.env.pcieLoop then d
  else
    let want := 2 ^ e.esize - t.inBytes.length % 2 ^ e.esize
    let bytes : List (Byte × Bool) := match kind with
      | .ok => (data.take want).map (fun b => (b, false))
      | .ep => (data.take want).map (fun b => (b, true))
      | .ur => List.replicate want (0, true)
      | .ca => List.replicate want (0, true)
    let bad := kind = .ur ∨ kind = .ca
    let d := modStrm d c s (fun t => { t with inBytes := t.inBytes ++ bytes, inErr := t.inErr || decide bad })
    runStream d c s [0, 1, 2]

/-- A request of the device without a completion in 50 ms is treated as completed with CA (R376). -/
def completionTimeout (d : Dev) (c s : Nat) : Dev := hostCompletion d c s [] .ca

/-- An ATS invalidation (R193, R382) of host pages from `page`: its completion shows, and accesses of FAPI regions fault on pages that are gone;
no other translation is kept in the state. -/
def atsInvalidate (d : Dev) (tag page pages : Nat) (gone : Bool) : Dev :=
  let kept := d.sp.away.filter (fun p => decide (p < page) || decide (page + pages ≤ p))
  emit (modSp d (fun s => { s with away := if gone then (rangeFrom page pages).foldl natPut kept else kept })) (.atsDone tag)

/-! ### Function resets and the link (R375, R376, R391, R392, R475) -/

/-- The instances that exist. -/
def presentInsts (d : Dev) : List Nat := (List.range 65).filter (fun i => instState d i != 0)

/-- Every carrier stops at its next slot boundary (R392): its `ENABLE` reads 0 from now on. The FAPI rings are gone. -/
def stopCarriers (d : Dev) : Dev :=
  modSp ((List.range 512).foldl (fun d n =>
    let d := if getReg d (regRadioCarCtrl n) = 0 then d else setReg d (regRadioCarCtrl n) 0
    if carState d n = 1 then fset d (regRadioCarStatus n) fldRadioCarStatusState 2 else d) d) (fun s => { s with chans := [] })

/-- Every instance ends with a status, and every carrier stops (R392). -/
def endAll (d : Dev) (status : Nat) : Dev := stopCarriers ((presentInsts d).foldl (fun d i => endInst d i status) d)

/-- A function level reset (R392): of a virtual function its instance alone, of the physical one every instance. -/
def functionReset (d : Dev) (i : Nat) : Dev :=
  if instState d i = 0 then d else if i = 0 then endAll d 0x5607 else endInst d i 0x5607

/-- A hot reset (R392). -/
def hotReset (d : Dev) : Dev := endAll d 0x5607

/-- The host link is lost (R392), or an internal error of the host block is handled so and reported as uncorrectable fatal (R376). -/
def linkDown (d : Dev) (internal : Bool) : Dev :=
  let d := setReg (if internal then emit d .aerFatal else d) (regHostLink 0) 0
  endAll { d with env := { d.env with linkDown := true, pcieLoop := false } } 0x5608

/-- The host link changed width or rate (R375, R402). -/
def linkState (d : Dev) (width rate : Nat) (flit : Bool) : Dev :=
  if (width = 1 ∨ width = 2 ∨ width = 4 ∨ width = 8) ∧ 1 ≤ rate ∧ rate ≤ 6 then
    let k := regHostLink 0
    let d := fset (fset (fset d k fldHostLinkWidth width) k fldHostLinkRate rate) k fldHostLinkFlit (b2n flit)
    record { d with env := { d.env with linkDown := false } } { status := 0x1602, inst := 0 }
  else d

/-- A correctable link error or a recovery (R375, R376). -/
def linkCorrected (d : Dev) : Dev := record (emit d .aerCorrected) { status := 0x2603, inst := 0 }

/-- The host link enters or leaves loop-back as the host directs (R475); what waited goes on. -/
def pcieLoopback (d : Dev) (on : Bool) : Dev :=
  let d := { d with env := { d.env with pcieLoop := on } }
  if on then d else (presentInsts d).foldl fetchAll d

/-- VF Enable with NumVFs (R391): set, functions 1 to NumVFs become bare; cleared, their instances end and their partitions
are released. -/
def vfEnable (d : Dev) (n : Nat) : Dev :=
  let d := (rangeFrom 1 64).foldl (fun d i =>
    if i ≤ n then (if instState d i = 0 then setInstState d i 1 else d)
    else if instState d i = 0 then d
    else
      let d := instanceTeardown (endInst d i 0x5607) i
      setInstState (releaseInst d i) i 0) d
  { d with env := { d.env with numVfs := min n 64 } }

end Sys2Proof.Machine
end

