-- ==== Sys2Proof/Machine/AttachRows.lean ====
section
/-!
DEFINITION. The meanings of the rows of the host attachment and the mailboxes (R374-R392).
-/

namespace Sys2Proof.Machine

/-- A submission doorbell (R385), after what the host wrote to its own memory before it; `bad` are ranges, as (start, bytes), that it will
return with EP (log entry 7). -/
def doorbell (d : Dev) (i q index : Nat) (writes : List (Nat × List Byte)) (bad : List (Nat × Nat)) : Dev :=
  let d := writes.foldl (fun d w => hostWrite d w.1 w.2) d
  let d := { d with hbad := bad ++ d.hbad }
  if hostReaches d i then sqTail d i q index else d

/-- BAR2_READ (R378). After a device-fatal error it completes with UR (R436). -/
def execBar2Read (i : Fin 65) (off n : Nat) (st : State) : Res :=
  if st.perstN && !alive st.dev then .next { st with dev := emit st.dev (.cplData true false []) }
  else onDev st (fun d => bar2Read d i off n)

/-- BAR2_WRITE (R378). -/
def execBar2Write (i : Fin 65) (off : Nat) (data : List Byte) (ep : Bool) (st : State) : Res := onDev st (fun d => bar2Write d i off data ep)

/-- MBX_SQ_TAIL (R385). -/
def execMbxSqTail (i : Fin 65) (q : Fin 17) (index : Fin 4096) (writes : List (Nat × List Byte)) (bad : List (Nat × Nat)) (st : State) : Res :=
  onDev st (fun d => doorbell d i q index writes bad)

/-- MBX_CQ_HEAD (R385). -/
def execMbxCqHead (i : Fin 65) (q : Fin 17) (index : Fin 4096) (st : State) : Res :=
  onDev st (fun d => if hostReaches d i then cqHead d i q index else d)

/-- RING_ENABLE (R385). -/
def execRingEnable (i : Fin 65) (q : Fin 17) (on : Bool) (st : State) : Res := onDev st (fun d => if hostReaches d i then ringEnable d i q on else d)

/-- RING_FAULT (R390). -/
def execRingFault (i : Fin 65) (q : Fin 17) (command : Option Nat) (st : State) : Res := onDev st (fun d => ringFault d i q command)

/-- NOTICE_WRITE (R389). -/
def execNoticeWrite (i : Fin 65) (st : State) : Res := onDev st (fun d => noticeWrite d i)

/-- MSIX_COALESCE_EXPIRY (R380). -/
def execMsixCoalesceExpiry (i : Fin 65) (q : Fin 17) (st : State) : Res := onDev st (fun d => coalesceEnd d i q)

/-- HOST_COMPLETION (R109). -/
def execHostCompletion (c : Fin 96) (s : Fin 16) (data : List Byte) (kind : CplKind) (st : State) : Res :=
  onDev st (fun d => hostCompletion d c s data kind)

/-- PCIE_COMPLETION_TIMEOUT (R376). -/
def execPcieCompletionTimeout (c : Fin 96) (s : Fin 16) (st : State) : Res := onDev st (fun d => completionTimeout d c s)

/-- ATS_INVALIDATION (R382). -/
def execAtsInvalidation (tag : Nat) (st : State) (page pages : Nat := 0) (gone : Bool := false) : Res :=
  onDev st (fun d => atsInvalidate d tag page pages gone)

/-- FUNCTION_LEVEL_RESET (R392). -/
def execFunctionLevelReset (i : Fin 65) (st : State) : Res := onDev st (fun d => functionReset d i)

/-- HOT_RESET (R392). -/
def execHotReset (st : State) : Res := onDev st (fun d => hotReset d)

/-- LINK_DOWN (R392). -/
def execLinkDown (st : State) (internal : Bool := false) : Res := onDev st (fun d => linkDown d internal)

/-- LINK_STATE_CHANGE (R375). -/
def execLinkStateChange (width rate : Fin 16) (flit : Bool) (st : State) : Res := onDev st (fun d => linkState d width rate flit)

/-- LINK_CORRECTED (R376). -/
def execLinkCorrected (st : State) : Res := onDev st (fun d => linkCorrected d)

/-- PCIE_LOOPBACK (R475). -/
def execPcieLoopback (on : Bool) (st : State) : Res := onDev st (fun d => pcieLoopback d on)

/-- VF_ENABLE (R391). -/
def execVfEnable (count : Fin 65) (st : State) : Res := onDev st (fun d => vfEnable d count)

/-- MSIX_UNMASK (R380). -/
def execMsixUnmask (i : Fin 65) (vector : Nat) (st : State) : Res := onDev st (fun d => msixUnmask d i vector)

end Sys2Proof.Machine
end

