-- ==== Sys2Proof/Machine/TimeOps.lean ====
section
/-!
DEFINITION. The time unit: time bases, PTP domains, SyncE, the slot timer, pulse outputs and capture inputs (R333-R355).
Times of exchanges are in 2^-16 ns, offsets θ in 2^-17 ns, frequencies in 2^-32 ns per s.
-/

namespace Sys2Proof.Machine

/-- The discard of a write to a time register (R11, R355). -/
def timeReject (d : Dev) (key : Nat) : Dev := cfgReject d regTimeStatus fldTimeStatusCfgReject 0x1901 key

/-- Changes the time unit's state. -/
def modTime (d : Dev) (f : TimeSt → TimeSt) : Dev := { d with time := f d.time }

/-- A domain. -/
def domSt (d : Dev) (k : Nat) : Dom := lget {} d.time.doms k

/-- Changes a domain. -/
def modDom (d : Dev) (k : Nat) (f : Dom → Dom) : Dev :=
  modTime d (fun t => { t with doms := lset t.doms k (f (lget {} t.doms k)) })

/-- A time base's value as one number in 125 ps units. -/
def tbUnits (t : Tb) : Nat := t.sec * subPerSec + t.sub

/-- A time base at a value in 125 ps units; seconds wrap at 48 bits (R334). -/
def tbAt (t : Tb) (v : Nat) : Tb := { t with sec := v / subPerSec % 2 ^ 48, sub := v % subPerSec, frac := 0 }

/-- One time-unit cycle of a time base (R334). -/
def tbTick (t : Tb) : Tb :=
  let f := t.frac + t.rate
  let s := t.sub + f / 2 ^ 40
  { t with
    frac := f % 2 ^ 40
    sub := s % subPerSec
    sec := (t.sec + s / subPerSec) % 2 ^ 48 }

/-- The rate word of a frequency offset in 2^-32 ns per s: a multiple of 2^-40 of nominal (R334). -/
def rateWord (f : Int) : Nat := ((8 * 2 ^ 40 : Int) + 8 * (f * 2 ^ 40 / (2 ^ 32 * 1000000000))).toNat

/-- One cycle of the time unit: the four time bases and the domain clocks advance (R334). -/
def timeTick (d : Dev) : Dev :=
  modTime { d with tbs := d.tbs.map tbTick } (fun t => { t with doms := t.doms.map (fun x => { x with clk := tbTick x.clk }) })

/-- A domain's clock in 2^-16 ns. -/
def domNow (d : Dev) (k : Nat) : Int := (tbUnits (domSt d k).clk : Int) * 8192

/-! ### Pulse outputs (R350) -/

/-- A pulse output. -/
def tpoSt (d : Dev) (n : Nat) : Tpo := tget {} d.time.tpos n

/-- Changes a pulse output. -/
def modTpo (d : Dev) (n : Nat) (f : Tpo → Tpo) : Dev := modTime d (fun t => { t with tpos := tmod {} t.tpos n f })

/-- The first `START` + k × `PERIOD` at or after a time; a one-shot has its start only. -/
def firstEdge (p : Tpo) (now : Nat) : Option Nat :=
  if now ≤ p.start then some p.start
  else if p.period = 0 then none
  else some (p.start + (now - p.start + p.period - 1) / p.period * p.period)

/-- A one-shot pulse's time had passed (R350). -/
def tpoMissed (d : Dev) (n : Nat) : Dev :=
  let d := fset (fset d (regTimeTpoCtrl n) fldTimeTpoCtrlMissed 1) (regTimeTpoCtrl n) fldTimeTpoCtrlArmed 0
  record (modTpo d n (fun p => { p with next := none })) { status := 0x1904, detail := n * 256 }

/-- A pulse output as its committed registers describe it (R350). -/
def tpoOf (d : Dev) (n : Nat) : Tpo :=
  { tb := fact d (regTimeTpoCtrl n) fldTimeTpoCtrlTb
    pol := fact d (regTimeTpoCtrl n) fldTimeTpoCtrlPol == 1
    start := fact d (regTimeTpoStartSec n) fldTimeTpoStartSecSec * subPerSec + fact d (regTimeTpoStartSub n) fldTimeTpoStartSubSub
    width := fact d (regTimeTpoShape n) fldTimeTpoShapeWidth * 800
    period := fact d (regTimeTpoShape n) fldTimeTpoShapePeriod }

/-- A pulse output is scheduled at its first edge, or its only one is missed (R350). -/
def tpoPlace (d : Dev) (n : Nat) (p : Tpo) : Option Nat → Dev
  | some e => modTpo d n (fun _ => { p with next := some e })
  | none => tpoMissed (modTpo d n (fun _ => p)) n

/-- Commits a pulse output's shadowed fields and schedules its pulses (R350). -/
def tpoCommit (d : Dev) (n : Nat) : Dev :=
  let d := commitRegs d [regTimeTpoCtrl n, regTimeTpoStartSec n, regTimeTpoStartSub n, regTimeTpoShape n]
  let p := tpoOf d n
  let d := fset (fset d (regTimeTpoCtrl n) fldTimeTpoCtrlMissed 0) (regTimeTpoCtrl n) fldTimeTpoCtrlArmed 1
  tpoPlace d n p (firstEdge p (tbTime d p.tb))

/-- A write of `ARM` (R350): at once, or after the pulse in progress. -/
def tpoArm (d : Dev) (n : Nat) : Dev :=
  if (tpoSt d n).until_.isSome then modTpo d n (fun p => { p with rearm := true, stop := false }) else tpoCommit d n

/-- A write of `DISARM` (R350). -/
def tpoDisarm (d : Dev) (n : Nat) : Dev :=
  if (tpoSt d n).until_.isSome then modTpo d n (fun p => { p with stop := true, rearm := false })
  else fset (modTpo d n (fun p => { p with next := none })) (regTimeTpoCtrl n) fldTimeTpoCtrlArmed 0

/-- After a step of a time base by −`diff`, each armed pulse output goes on from the new value, a pulse in progress keeps its width, and a
one-shot that was skipped is missed (R350). -/
def tposStepped (d : Dev) (b : Nat) (diff : Int) : Dev :=
  (List.range 8).foldl (fun d n =>
    let p := tpoSt d n
    let d := if p.tb = b ∧ p.until_.isSome then modTpo d n (fun p => { p with until_ := p.until_.map (fun u => ((u : Int) - diff).toNat) }) else d
    if p.tb = b ∧ p.next.isSome then
      match firstEdge p (tbTime d b) with
      | some e => modTpo d n (fun p => { p with next := some e })
      | none => tpoMissed d n
    else d) d

/-! ### Steps and sets of a time base (R336, R355) -/

/-- The eight bytes of a signed difference in a record's detail (R428). -/
def diffBits (x : Int) : Nat := ofSigned 64 x

/-- Puts a time base at a value in 125 ps units and records the step (R336). -/
def stepTb (d : Dev) (b v : Nat) : Dev :=
  let diff : Int := (tbTime d b : Int) - v
  let d := { d with tbs := lset d.tbs b (tbAt (lget {} d.tbs b) v) }
  let d := modTime d (fun t => { t with stepped := tset t.stepped b (tb2 d) })
  let d := record d { status := 0x1906, detail := b + diffBits diff * 2 ^ 32 }
  tposStepped d b diff

/-- Whether a carrier has `STATE` ≠ 0 (R336, R355). -/
def carrierRuns (d : Dev) : Bool := (List.range 512).any (fun n => fget d (regRadioCarStatus n) fldRadioCarStatusState != 0)

/-- The value that SET gives a time base: the seconds of `TIME_SET_SEC` and a sub-second (R355). -/
def setValue (d : Dev) (sub : Nat) : Nat := fact d regTimeSetSec fldTimeSetSecSec * subPerSec + sub

/-- A write of `SET` (R355): the word written to `TIME_SET_SUB` names the target and the sub-second, `TIME_SET_SEC` the
seconds. -/
def timeSet (d : Dev) (v : Nat) : Dev :=
  let target := bitsAt v 48 2
  let sub := bitsAt v 0 33
  if target = 2 ∨ subPerSec ≤ sub ∨ (target = 0 ∧ carrierRuns d) then timeReject d regTimeSetSub
  else
    let k := regTimeSetSub
    let d := fset (fset d k fldTimeSetSubTarget target) k fldTimeSetSubSub sub
    let d := commitRegs d [regTimeSetSec, k]
    stepTb d target (setValue d sub)

/-- A read of a time base's seconds (R334): the pair is latched from one instant. -/
def tbRead (d : Dev) (b : Nat) : Dev :=
  let t := lget {} d.tbs b
  let d := setReg (setReg d (regTimeTbSec b) t.sec) (regTimeTbSub b) t.sub
  emit d (.regData t.sec)

/-! ### Domain states (R342) -/

/-- The state code of a domain. -/
def domState (d : Dev) (k : Nat) : Nat := fget d (regTimeDomState k) fldTimeDomStateState

/-- Puts a domain into a state; every change is recorded (R342). -/
def setDomState (d : Dev) (k st : Nat) : Dev :=
  if domState d k = st then d
  else
    let d := fset d (regTimeDomState k) fldTimeDomStateState st
    let d := modDom d k (fun x => { x with near := 0, far := 0 })
    record d { status := 0x1902, detail := k }

/-- The source of a domain: 0 none, 1 PTP on fronthaul, 2 host relay. -/
def domSource (d : Dev) (k : Nat) : Nat := fget d (regTimeDomCfg k) fldTimeDomCfgSource

/-- Whether a domain is enabled (R355: at once). -/
def domEnabled (d : Dev) (k : Nat) : Bool := bitOf (fget d regTimeSel fldTimeSelDomEn) k

/-- A write to `DOM_EN` (R342): a domain goes to listening, or off. -/
def domEnable (d : Dev) (mask : Nat) : Dev :=
  let d := fset d regTimeSel fldTimeSelDomEn mask
  let d := { d with act := tset d.act regTimeSel (BitVec.ofNat 64 (setBits (getAct d regTimeSel) 12 2 mask)) }
  (List.range 2).foldl (fun d k =>
    if bitOf mask k then (if domState d k = 0 then setDomState d k 1 else d)
    else if domState d k = 0 then d
    else modDom (setDomState d k 0) k (fun x =>
      { clk := x.clk, freq := x.freq, rate := x.rate, dseq := x.dseq })) d

/-- Shows a domain's parent and frequency (R355). -/
def showDom (d : Dev) (k : Nat) : Dev :=
  let x := domSt d k
  let r := regTimeDomState k
  let d := fset d r fldTimeDomStateFreq (ofSigned 32 (x.freq * 1000 / 2 ^ 32))
  let d := fset d r fldTimeDomStateClockClass x.cls
  fset d r fldTimeDomStateParentPort (match x.parent with
    | some p => p.1
    | none => 0)

/-- A domain's frequency from now on; its clock runs at `rate`. -/
def setFreq (d : Dev) (k : Nat) (freq rate : Int) : Dev :=
  showDom (modDom d k (fun x => { x with freq := freq, rate := rate, clk := { x.clk with rate := rateWord rate } })) k

/-- Whether SyncE is locked (R343). -/
def synceLocked (d : Dev) : Bool := fget d regTimeStatus fldTimeStatusSynceState == 1

/-- The mean of a domain's frequency over its last 64 locked seconds, at which it holds over (R342). -/
def meanFreq (x : Dom) : Int := if x.freqs.isEmpty then x.freq else x.freqs.foldl (· + ·) 0 / x.freqs.length

/-- No exchange for `LOSS_LIMIT` (R342): a locked domain goes to holdover at its mean frequency or SyncE's, an acquiring one
listens. -/
def domLoss (d : Dev) (k : Nat) : Dev :=
  let x := domSt d k
  if tb2 d < x.seen + fact d (regTimeDomLimit k) fldTimeDomLimitLossLimit * (subPerSec / 8) then d
  else if domState d k = 3 then
    let f := if synceLocked d then d.time.synce else meanFreq x
    setFreq (setDomState d k 4) k f f
  else if domState d k = 2 then setDomState d k 1
  else d

/-! ### PTP messages (R338-R341) -/

/-- Whether the link of an Ethernet port is up (R178). -/
def ethLinkUp (d : Dev) (p : Nat) : Bool := 3 ≤ ethState d p && ethState d p ≤ 6

/-- The domains a PTP message of a port and a domain number belongs to; a port that is down carries none (R354). -/
def ptpDoms (d : Dev) (port num : Nat) : List Nat :=
  (List.range 2).filter (fun k => ethLinkUp d port && domEnabled d k && domSource d k == 1 && fget d (regTimeDomCfg k) fldTimeDomCfgPtpDomain == num
    && bitOf (fget d (regTimeDomPorts k) fldTimeDomPortsPorts) port)

/-- Whether a message comes from a domain's parent. -/
def fromParent (d : Dev) (k port : Nat) (m : PtpMsg) : Bool := (domSt d k).parent == some (port, m.ident, m.num)

/-- SYNC (R339, R341): timestamped as t2; a one-step Sync carries t1. -/
def ptpSync (d : Dev) (port : Nat) (m : PtpMsg) : Dev :=
  (ptpDoms d port m.domain).foldl (fun d k =>
    if !fromParent d k port m then d
    else modDom d k (fun x =>
      { x with sync := some { seq := m.seq, t2 := domNow d k, t1 := if m.twoStep then none else some m.time, c1 := m.corr } })) d

/-- FOLLOW_UP (R341): supplies t1 and its correction. -/
def ptpFollowUp (d : Dev) (port : Nat) (m : PtpMsg) : Dev :=
  (ptpDoms d port m.domain).foldl (fun d k =>
    if !fromParent d k port m then d
    else modDom d k (fun x => match x.sync with
      | some s => if s.seq = m.seq ∧ s.t1 = none then
          { x with sync := some { s with t1 := some m.time, c1 := s.c1 + m.corr } } else x
      | none => x)) d

/-- An exchange completed (R341, R342): a domain that listens or holds over acquires. -/
def addExch (d : Dev) (k : Nat) (e : Exch) : Dev :=
  let d := modDom d k (fun x => { x with exch := x.exch ++ [e], seen := tb2 d })
  if domState d k = 1 ∨ domState d k = 4 then setDomState d k 2 else d

/-- DELAY_REQ_SEND (R338, R339): sent to the parent's port, its transmit time kept as t3. -/
def ptpDelayReq (d : Dev) (k : Nat) : Dev :=
  match (domSt d k).parent with
  | none => d
  | some p =>
    if !domEnabled d k ∨ domSource d k ≠ 1 then d
    else
      let s := (domSt d k).dseq
      let d := modDom d k (fun x => { x with dreq := some (s, domNow d k), dseq := (s + 1) % 65536 })
      emit d (.delayReq k p.1 s)

/-- DELAY_RESP (R341): supplies t4 and completes an exchange with the Sync before it. -/
def ptpDelayResp (d : Dev) (port : Nat) (m : PtpMsg) : Dev :=
  (ptpDoms d port m.domain).foldl (fun d k =>
    let x := domSt d k
    match x.sync, x.dreq with
    | some s, some (seq, t3) =>
      match s.t1 with
      | some t1 =>
        if !fromParent d k port m ∨ seq ≠ m.seq ∨ !m.mine then d
        else
          let d := modDom d k (fun x => { x with sync := none, dreq := none })
          addExch d k { t1 := t1, t2 := s.t2, t3 := t3, t4 := m.time, c1 := s.c1, c2 := m.corr }
      | none => d
    | _, _ => d) d

/-- ANNOUNCE (R340): the foreign master's data set is kept. -/
def ptpAnnounce (d : Dev) (port num : Nat) (m : PtpAnnounce) : Dev :=
  (ptpDoms d port num).foldl (fun d k =>
    let e : Master := { port := port, ident := m.ident, num := m.num, cls := m.cls, acc := m.acc, var := m.var
                        prio2 := m.prio2, gm := m.gm, steps := m.steps, seen := tb2 d }
    let d := modDom d k (fun x =>
      { x with
        masters := x.masters.filter (fun y => !(y.port == port && y.ident == m.ident && y.num == m.num)) ++ [e]
        cls := if x.parent = some (port, m.ident, m.num) then m.cls else x.cls })
    showDom d k) d

/-- A foreign master not heard for 3 Announce intervals, of 125 ms, is dropped (R338, R340). -/
def masterTimeout (d : Dev) (k port ident num : Nat) : Dev :=
  modDom d k (fun x =>
    { x with
      masters := x.masters.filter (fun y =>
        !(y.port == port && y.ident == ident && y.num == num && decide (y.seen + 3 * (subPerSec / 8) ≤ tb2 d))) })

/-- Whether one list of numbers comes before another, first difference first. -/
def lexLt : List Nat → List Nat → Bool
  | a :: l, b :: m => if a = b then lexLt l m else decide (a < b)
  | _, _ => false

/-- A master's rank in the alternate BMCA with localPriority 128 on every port (R340): clock quality, then the grandmaster's
identity unless its class is 127 or less, then the path. -/
def masterRank (m : Master) : List Nat :=
  [m.cls, m.acc, m.var, m.prio2, if m.cls ≤ 127 then 0 else m.gm, m.steps, m.ident, m.num, m.port]

/-- The best foreign master. -/
def bestMaster : List Master → Option Master
  | [] => none
  | m :: l => match bestMaster l with
    | none => some m
    | some b => if lexLt (masterRank b) (masterRank m) then some b else some m

/-- The parent as the BMCA chooses it, taken at a servo update (R340): a change returns the domain to acquiring. -/
def chooseParent (d : Dev) (k : Nat) : Dev :=
  if domSource d k ≠ 1 then d
  else
    let x := domSt d k
    let best := bestMaster x.masters
    let p := best.map (fun m => (m.port, m.ident, m.num))
    if p = x.parent then d
    else
      let d := modDom d k (fun x =>
        { x with parent := p, sync := none, dreq := none, exch := [], cls := match best with
            | some m => m.cls
            | none => x.cls })
      let d := showDom d k
      if p.isSome ∧ (domState d k = 3 ∨ domState d k = 4) then setDomState d k 2 else d

/-! ### The servo (R336, R341, R346) -/

/-- The exchange with the least delay, the earliest on ties (R341). -/
def bestExch : List Exch → Option Exch
  | [] => none
  | e :: l => match bestExch l with
    | none => some e
    | some b => if (b.t2 - b.t1) + (b.t4 - b.t3) < (e.t2 - e.t1) + (e.t4 - e.t3) then some b else some e

/-- θ of an exchange in 2^-17 ns (R341). -/
def thetaOf (d : Dev) (k : Nat) (e : Exch) : Int :=
  ((e.t2 - e.t1 - e.c1) - (e.t4 - e.t3 - e.c2)) - toSigned 16 (fact d (regTimeDomGain k) fldTimeDomGainAsym) * 16384

/-- Counts an update toward the changes of state (R342). -/
def lockCount (d : Dev) (k : Nat) (theta : Int) : Dev :=
  let lim : Int := fact d (regTimeDomLimit k) fldTimeDomLimitLockNs * 131072
  let d := modDom d k (fun x =>
    { x with
      near := if theta.natAbs ≤ lim then x.near + 1 else 0
      far := if 4 * lim < theta.natAbs then x.far + 1 else 0 })
  if domState d k = 2 ∧ 16 ≤ (domSt d k).near then setDomState d k 3
  else if domState d k = 3 ∧ 4 ≤ (domSt d k).far then setDomState d k 2
  else d

/-- The update of a domain over the exchanges of the last second (R341). -/
def servo (d : Dev) (k : Nat) : Dev :=
  match bestExch (domSt d k).exch with
  | none => d
  | some e =>
    let d := modDom d k (fun x => { x with exch := [] })
    let theta := thetaOf d k e
    let delay := ((e.t2 - e.t1 - e.c1) + (e.t4 - e.t3 - e.c2)) / 16384
    let r := regTimeDomOffset k
    let d := fset (fset d r fldTimeDomOffsetOffset (ofSigned 32 (theta / 16384))) r fldTimeDomOffsetDelay (ofSigned 32 delay)
    if domState d k = 2 ∧ 131072000 < theta.natAbs then
      modDom d k (fun x =>
        { x with
          near := 0
          clk := tbAt x.clk (((tbUnits x.clk : Int) * 16384 - theta) / 16384).toNat })
    else
      let x := domSt d k
      let ki := fact d (regTimeDomGain k) fldTimeDomGainKiShift
      let kp := fact d (regTimeDomGain k) fldTimeDomGainKpShift
      let freq := if synceLocked d then d.time.synce else x.freq - theta * 2 ^ (15 - ki)
      let d := setFreq d k freq (freq - theta * 2 ^ (15 - kp))
      let d := lockCount d k theta
      if domState d k = 3 then
        modDom d k (fun x => { x with freqs := (x.freqs ++ [freq]).drop (x.freqs.length + 1 - 64) })
      else d

/-- The source setting of a time base: 0 A, 1 B, 2 auto, 3 free. -/
def tbSource (d : Dev) (b : Nat) : Nat :=
  fact d regTimeSel (if b = 0 then fldTimeSelTb0Src else if b = 1 then fldTimeSelTb1Src else fldTimeSelTb3Src)

/-- The domain a time base follows; one whose source is auto starts on domain A (R346). -/
def followOf (d : Dev) (b : Nat) : Option Nat :=
  match tbSource d b with
  | 0 => some 0
  | 1 => some 1
  | 3 => none
  | _ => some (tget 0 d.time.follow b)

/-- Shows the domain a time base follows, 2 for none (R355), and keeps it while the source is auto; no register shows that of TB3. -/
def showFollow (d : Dev) (b : Nat) (k : Option Nat) : Dev :=
  let d := modTime d (fun t => { t with follow := tset t.follow b (if tbSource d b = 2 then k.getD 0 else 0) })
  let v := k.getD 2
  if b = 0 then fset d regTimeStatus fldTimeStatusTb0Follow v
  else if b = 1 then fset d regTimeStatus fldTimeStatusTb1Follow v
  else d

/-- A time base that follows nothing keeps its last rate and does not slew (R336). -/
def keepRate (d : Dev) (b : Nat) : Dev :=
  let t := lget {} d.tbs b
  { d with tbs := lset d.tbs b { t with rate := t.base } }

/-- The difference between a time base and a domain's clock, in 125 ps units (R336). -/
def tbDiff (d : Dev) (b k : Nat) : Int := (tbTime d b : Int) - tbUnits (domSt d k).clk

/-- An auto time base moves to the other domain when only that one is locked (R346). -/
def moveTb (d : Dev) (b : Nat) : Dev :=
  match followOf d b with
  | none => keepRate (showFollow d b none) b
  | some k =>
    let o := 1 - k
    if tbSource d b = 2 ∧ domState d k ≠ 3 ∧ domState d o = 3 then
      record (showFollow d b (some o)) { status := 0x1903, detail := b + diffBits (tbDiff d b o) * 2 ^ 32 }
    else showFollow d b (some k)

/-- A time base follows its domain (R336): it steps, or runs at the domain's frequency with a correction of at most `SLEW_PPB`
that brings the difference to 0; it keeps its rate while the domain is neither locked nor in holdover. -/
def followTb (d : Dev) (b k : Nat) : Dev :=
  if domState d k ≠ 3 ∧ domState d k ≠ 4 then keepRate d b
  else
    let diff := tbDiff d b k
    let lim : Int := fact d regTimeAdj fldTimeAdjStepLim * 800
    if lim ≤ diff.natAbs ∧ (b ≠ 0 ∨ !carrierRuns d) then stepTb d b (tbUnits (domSt d k).clk)
    else
      let slew : Int := fact d regTimeAdj fldTimeAdjSlewPpb * 2 ^ 32
      let want : Int := -diff * 2 ^ 29
      let corr := if want < -slew then -slew else if slew < want then slew else want
      let f := (domSt d k).freq
      { d with tbs := lset d.tbs b { lget {} d.tbs b with rate := rateWord (f + corr), base := rateWord f } }

/-- Each integral term resumes from the SyncE frequency (R343); the clock of a domain in holdover runs at its mean (R342). -/
def synceResume (d : Dev) : Dev :=
  (List.range 2).foldl (fun d k =>
    let hold := domState d k = 4
    modDom d k (fun x => { x with
      freq := d.time.synce
      clk := if hold then { x.clk with rate := rateWord (meanFreq x) } else x.clk })) d

/-- The clocks of domains in holdover run at the frequency of SyncE once it is locked (R342). -/
def synceHold (d : Dev) (f : Int) : Dev := (List.range 2).foldl (fun d k => if domState d k = 4 then setFreq d k f f else d) d

/-- SyncE is lost (R343). -/
def synceLost (d : Dev) : Dev :=
  if synceLocked d then
    record (synceResume (fset d regTimeStatus fldTimeStatusSynceState (if fact d regTimeSel fldTimeSelSynceEn = 1 then 2 else 0))) { status := 0x1908 }
  else d

/-- With `SYNCE_EN` clear the frequency is not recovered from SyncE; a `SYNCE_PORT` that is not up loses it (R343). -/
def synceOff (d : Dev) : Dev :=
  let st := fget d regTimeStatus fldTimeStatusSynceState
  if fact d regTimeSel fldTimeSelSynceEn = 1 then (if ethLinkUp d (fact d regTimeSel fldTimeSelSyncePort) then d else synceLost d)
  else if st = 0 then d
  else
    let d' := fset d regTimeStatus fldTimeStatusSynceState 0
    if st = 1 then record (synceResume d') { status := 0x1908 } else d'

/-- The `EDGE` settings of the capture inputs take effect at a servo update (R355). -/
def commitEdges (d : Dev) : Dev :=
  (List.range 8).foldl (fun d n =>
    let k := regTimeTciCtrl n
    setAct d k (setBits (getAct d k) fldTimeTciCtrlEdge.lo fldTimeTciCtrlEdge.w (fget d k fldTimeTciCtrlEdge))) d

/-- SERVO_UPDATE of a domain (R336, R340, R341, R346): L fields take effect, the exchange is used, the parent may change, and
the time bases that follow the domain act. -/
def servoUpdate (d : Dev) (k : Nat) : Dev :=
  let d := synceOff (commitEdges (commitRegs d [regTimeSel, regTimeAdj, regTimeDomGain k, regTimeDomLimit k]))
  let d := if domEnabled d k then chooseParent (servo d k) k else d
  [0, 1, 3].foldl (fun d b =>
    let d := moveTb d b
    if followOf d b = some k then followTb d b k else d) d

/-- Whether the receive clock of `SYNCE_PORT` can be followed (R343): the port is up, and the frequency, in 2^-32 ns per s, within 4.6 ppm. -/
def synceFit (d : Dev) (freq : Int) : Bool :=
  ethLinkUp d (fact d regTimeSel fldTimeSelSyncePort) && decide (freq.natAbs ≤ 4600 * 2 ^ 32)

/-- SyncE lock is gained at a frequency, or lost (R343). -/
def synceChange (d : Dev) (locked : Bool) (freq : Int) : Dev :=
  if locked then
    if fact d regTimeSel fldTimeSelSynceEn ≠ 1 ∨ synceLocked d ∨ !synceFit d freq then d
    else
      let d := modTime (fset d regTimeStatus fldTimeStatusSynceState 1) (fun t => { t with synce := freq })
      record (synceHold d freq) { status := 0x1908 }
  else synceLost d

/-- The exchanges in progress of a port are not accepted (R354). -/
def dropExchs (d : Dev) (p : Nat) : Dev :=
  modTime d (fun t => { t with doms := t.doms.map (fun x =>
    if x.parent.any (fun q => q.1 == p) then { x with sync := none, dreq := none } else x) })

/-- An Ethernet port goes down (R343, R354): SyncE on it is lost. -/
def timeLink (d : Dev) (p : Nat) : Dev :=
  let d := dropExchs d p
  if fact d regTimeSel fldTimeSelSyncePort = p then synceLost d else d

/-! ### TIME_EXCHANGE (R344, R345) -/

/-- A time of an exchange record in 2^-16 ns: seconds and fraction at an offset. -/
def recTime (bs : List Byte) (off : Nat) : Int := (fieldLe bs off 6 * (1000000000 * 65536) + fieldLe bs (off + 8) 8 : Nat)

/-- TIME_EXCHANGE (R344, R345, R405): t2 and t3 are in the host adapter's time, converted by the latest pulse, which marks the
second of t2. -/
def cmdTimeExchange (d : Dev) (q : Nat) (c : Cmd) : Dev :=
  let k := c.arg 0
  let bs := hostRead d (c.arg 1) 96
  let badTime := [0x00, 0x10, 0x20, 0x30].any (fun o => fieldLe bs (o + 6) 2 != 0 || 1000000000 * 65536 ≤ fieldLe bs (o + 8) 8)
  if 2 ≤ k then cmdEnd d 0 q c 0x3A03 0 k
  else if badTime ∨ 2 ≤ fieldLe bs 0x5D 1 ∨ fieldLe bs 0x5E 2 ≠ 0 then cmdEnd d 0 q c 0x3A03 0 (c.arg 1)
  else if domSource d k ≠ 2 then cmdEnd d 0 q c 0x3A08 0 k
  else
    let parent := (0, fieldLe bs 0x50 8, fieldLe bs 0x58 2)
    let changed := fieldLe bs 0x5D 1 = 1
    let d := modDom d k (fun x => { x with parent := some parent, cls := fieldLe bs 0x5C 1 })
    let d := showDom d k
    let d := if changed ∧ (domState d k = 3 ∨ domState d k = 4) then setDomState d k 2 else d
    match (domSt d k).capt with
    | none => cmdEnd d 0 q c 0
    | some p =>
      let sec : Int := fieldLe bs 0x10 6 * (1000000000 * 65536)
      let t2 := p + (recTime bs 0x10 - sec)
      let t3 := p + (recTime bs 0x20 - sec)
      if !domEnabled d k ∨ 2 * 1000000000 * 65536 < domNow d k - t2 then cmdEnd d 0 q c 0
      else
        let e : Exch := { t1 := recTime bs 0, t2 := t2, t3 := t3, t4 := recTime bs 0x30
                          c1 := toSigned 64 (fieldLe bs 0x40 8), c2 := toSigned 64 (fieldLe bs 0x48 8) }
        cmdEnd (addExch d k e) 0 q c 0

/-! ### Capture inputs (R344, R351) -/

/-- A capture input. -/
def tciSt (d : Dev) (n : Nat) : Tci := tget {} d.time.tcis n

/-- Changes a capture input, and shows its count. -/
def modTci (d : Dev) (n : Nat) (f : Tci → Tci) : Dev :=
  let d := modTime d (fun t => { t with tcis := tmod {} t.tcis n f })
  fset d (regTimeTciCtrl n) fldTimeTciCtrlCount (tciSt d n).queue.length

/-- An edge is not captured (R351): the first in each second is recorded. -/
def tciDrop (d : Dev) (n : Nat) : Dev :=
  let d := fsat d (regTimeTciCtrl n) fldTimeTciCtrlDropped 1
  if (tciSt d n).dropSec = some (tb2Sec d) then d
  else record (modTci d n (fun t => { t with dropSec := some (tb2Sec d) })) { status := 0x1905, detail := n * 256 }

/-- The domains that take their host adapter's pulse from a capture input (R344). -/
def pulseDoms (d : Dev) (n : Nat) : List Nat :=
  (List.range 2).filter (fun k => domSource d k == 2 && fget d (regTimeDomCfg k) fldTimeDomCfgTciRef == n)

/-- Whether a time pair is in loop-back (R475). -/
def pairLooped (d : Dev) (n : Nat) : Bool :=
  match d.tst.looped with
  | some (i, u, _) => i == 4 && u == n
  | none => false

/-- An edge reaches a capture input (R351): `ENABLE` and `TB` take effect, and time base `b`, its own when none is given, is latched; answers
whether the edge is captured. -/
def tciCapture (d : Dev) (n : Nat) (rising : Bool) (b : Option Nat) : Bool × Dev :=
  let k := regTimeTciCtrl n
  let edge := fact d k fldTimeTciCtrlEdge
  let d := setAct d k (setBits (getReg d k) fldTimeTciCtrlEdge.lo fldTimeTciCtrlEdge.w edge)
  if fact d (regTimeTciCtrl n) fldTimeTciCtrlEnable = 0 ∨ (edge = 0 ∧ !rising) ∨ (edge = 1 ∧ rising) then (false, d)
  else
    let t := tciSt d n
    let close := match t.last with
      | some x => decide (tb2 d < x + 800)
      | none => false
    if close = true ∨ 16 ≤ t.queue.length then (false, tciDrop d n)
    else
      let b := b.getD (fact d (regTimeTciCtrl n) fldTimeTciCtrlTb)
      let v := lget {} d.tbs b
      let st := tget? d.time.stepped b == some (tb2 d)
      (true, modTci d n (fun t => { t with queue := t.queue ++ [(v.sec, v.sub, st)], last := some (tb2 d) }))

/-- TCI_EDGE: an edge on the ball of a capture input (R351), or of a domain's host-adapter pulse (R344). The ball is ignored while the
time pair is in loop-back (R475). -/
def tciEdge (d : Dev) (n : Nat) (rising : Bool) : Dev :=
  if pairLooped d n then d
  else match pulseDoms d n with
  | [] => (tciCapture d n rising none).2
  | l => if rising then l.foldl (fun d k => modDom d k (fun x => { x with capt := some (domNow d k) })) d else d

/-- An edge of a pulse output that was programmed for time `e`: it drives the ball; in loop-back the capture input captures it on the
same time base, and the edges captured and the largest error are counted (R476). -/
def tpoDrive (d : Dev) (n : Nat) (level : Bool) (e : Nat) : Dev :=
  if !pairLooped d n then emit d (.pulse n level)
  else
    let b := (tpoSt d n).tb
    let err := tbTime d b - e
    let (got, d) := tciCapture d n level (some b)
    if !got then d
    else
      let d := fsat d regTstLbBits fldTstLbBitsCount 1
      fset d regTstLbErr fldTstLbErrCount (max err (fget d regTstLbErr fldTstLbErrCount))

/-- The next edge of a pulse output, when its time base has reached it (R350): the leading edge drives the pulse, the trailing one
ends it and schedules the next. -/
def tpoPulse (d : Dev) (n : Nat) : Dev :=
  let p := tpoSt d n
  let now := tbTime d p.tb
  match p.until_ with
  | some u =>
    if now < u then d
    else
      let d := tpoDrive (modTpo d n (fun p => { p with until_ := none })) n p.pol u
      if p.rearm then tpoCommit (modTpo d n (fun p => { p with rearm := false })) n
      else if p.stop ∨ p.period = 0 then
        fset (modTpo d n (fun p => { p with next := none, stop := false })) (regTimeTpoCtrl n) fldTimeTpoCtrlArmed 0
      else d
  | none =>
    match p.next with
    | none => d
    | some e =>
      if now < e then d
      else
        let next := if p.period = 0 then none else some (e + p.period)
        tpoDrive (modTpo d n (fun p => { p with next := next, until_ := some (e + p.width) })) n (!p.pol) e

/-- A read of `TIME_TCI_SEC` (R351): the oldest capture is removed and its sub-second latched; an empty queue gives 0. -/
def tciRead (d : Dev) (n : Nat) : Dev :=
  match (tciSt d n).queue with
  | [] => emit (setReg (setReg d (regTimeTciSec n) 0) (regTimeTciSub n) 0) (.regData 0)
  | (sec, sub, st) :: l =>
    let d := modTci d n (fun t => { t with queue := l })
    let d := setReg (setReg d (regTimeTciSec n) sec) (regTimeTciSub n) (2 ^ 63 + b2n st * 2 ^ 62 + sub)
    emit d (.regData sec)

/-- The reference clock is lost (R352). -/
def refClockLost (d : Dev) : Dev := deviceFatal d { status := 0x6907 }

end Sys2Proof.Machine
end

