-- ==== Sys2Proof/Machine/Fronthaul.lean ====
section
/-!
DEFINITION. The fronthaul unit: Ethernet ports and their states (R178-R180), uplink messages into landing records (R181-R183, R187,
R189), and the C-plane and U-plane that it sends (R30, R172, R183, R185, R186).
-/

namespace Sys2Proof.Machine

/-! ### Ports (R178-R180) -/

/-- The mode of the ports of a group by its `LAYOUT`: 0, 1, 2 for 100, 200, 400 Gb/s. -/
def portMode (d : Dev) (p : Nat) : Nat := fget d (regFhuGrpCfg (p / 4)) fldFhuGrpCfgLayout

/-- Whether a `LAYOUT` has a port at lane `q` of its group (R178). -/
def layoutHas (layout q : Nat) : Bool :=
  match layout with
  | 0 => q < 4
  | 1 => q == 0 || q == 2
  | 2 => q == 0
  | _ => false

/-- Whether Ethernet port `p` exists. -/
def portExists (d : Dev) (p : Nat) : Bool := p < 32 && layoutHas (portMode d p) (p % 4)

/-- The port that a lane belongs to: ports are named by their first lane (R178). -/
def lanePort (d : Dev) (lane : Nat) : Nat :=
  (((List.range (lane % 4 + 1)).reverse.map (lane / 4 * 4 + ·)).find? (portExists d)).getD lane

/-- The rate of a mode in Gb/s. -/
def modeRate (m : Nat) : Nat := if m = 0 then 100 else if m = 1 then 200 else if m = 2 then 400 else 0

/-- A port takes a state; a change writes one 0x1802 record (R180). -/
def setEth (d : Dev) (p st : Nat) : Dev :=
  if ethState d p = st then d
  else record (fset d (regFhuGrpState (p / 4)) (fldPort p) st) { status := 0x1802, inst := 0, detail := p * 2 ^ 16 }

/-- The state of a port whose link is up at a rate: under-rate below the larger charge of its directions (R180, R184). -/
def rateState (d : Dev) (p gb : Nat) : Nat :=
  let l := tget (0, 0) d.sp.portL p
  if gb * 1000000000 < max l.1 l.2 then 6 else if gb = 100 then 3 else if gb = 200 then 4 else 5

/-- A port's link comes up: its carriers' traffic starts at their next slot boundaries (R200). -/
def ethUp (d : Dev) (p gb : Nat) : Dev :=
  let now := slotNow d
  setEth (modSp d (fun s => { s with rate := tset s.rate p gb, upAt := tset s.upAt p now })) p (rateState d p gb)

/-- A port's link is not up: down (1) or training (2). -/
def ethDown (d : Dev) (p st : Nat) : Dev :=
  timeLink (setEth (modSp d (fun s => { s with rate := tdel s.rate p, upAt := tdel s.upAt p })) p st) p

/-- A new charge of a port may change whether its rate suffices (R180). -/
def ethRecheck (d : Dev) (p : Nat) : Dev :=
  match tget? d.sp.rate p with
  | none => d
  | some gb => setEth d p (rateState d p gb)

/-- The ports of a group after a change of its `LAYOUT`: those that exist are down, the others absent. -/
def ethLayout (d : Dev) (g : Nat) : Dev :=
  (List.range 4).foldl (fun d q => ethDown d (4 * g + q) (b2n (portExists d (4 * g + q)))) d

/-- Whether a group is in loop-back: its ports carry only the pattern (R475). -/
def ethLooped (d : Dev) (g : Nat) : Bool :=
  match d.tst.looped with
  | some (i, u, _) => i == 1 && u == g
  | none => false

/-- ETH_AUTONEG_COMPLETE (R179): `modes` is the mask of what the partner advertises. With `AN_EN` the port settles on the highest mode
that both advertise, its own being the configured one and those below; without, it forces the configured mode. A port that
settles on nothing is down. -/
def autonegDone (d : Dev) (p modes : Nat) (ok : Bool) : Dev :=
  if !portExists d p || ethLooped d (p / 4) then d
  else
    let m := portMode d p
    let best := if fget d (regFhuGrpCfg (p / 4)) fldFhuGrpCfgAnEn = 0 then some m
      else ((List.range (m + 1)).reverse).find? (bitOf modes)
    match (if ok then best else none) with
    | none => ethDown d p 1
    | some b => ethUp d p (modeRate b)

/-- ETH_PORT_STATE_CHANGE (R180): a port goes down, or into training. -/
def ethChange (d : Dev) (p : Nat) (training : Bool) : Dev :=
  if portExists d p && !ethLooped d (p / 4) then ethDown d p (if training then 2 else 1) else d

/-- Counts a frame dropped at a port (R180-R182). -/
def unmatched (d : Dev) (p : Nat) : Dev := fsat d (regFhuGrpState (p / 4)) fldFhuGrpStateRxUnmatched 1

/-- ETH_FRAME_DROP (R180, R182): a frame outside the subset, or `fec` uncorrectable codewords. -/
def ethDrop (d : Dev) (p fec : Nat) : Dev :=
  if !portExists d p then d
  else if fec = 0 then unmatched d p else fsat d (regFhuGrpState (p / 4)) fldFhuGrpStateFecUncorr fec

/-- Whether a carrier's port carries traffic: up at a rate that suffices, since before the carrier's slot began (R180, R200). -/
def portCarries (d : Dev) (n : Nat) : Bool :=
  let p := fget d (regFhuCarNet n) fldFhuCarNetPort
  let st := ethState d p
  let mu := carMu d n
  let now := slotNow d
  3 ≤ st && st ≤ 5 && decide (tget 0 d.sp.upAt p ≤ slotStart d mu (frameOf d now) (slotOf d mu now))

/-! ### Sequence IDs (R182, R183) -/

/-- The key of a stream's sequence ID (R182): plane 0 (U) or 1 (C), direction, carrier, stream (PRACH streams from 64). -/
def seqKey (plane : Nat) (dl : Bool) (n stream : Nat) : Nat := (2 * plane + b2n dl) * 2 ^ 20 + n * 256 + stream

/-- A message's sequence ID against its stream's last one: a gap or a repeat is counted (R183). -/
def seqCheck (d : Dev) (n stream seq : Nat) : Dev :=
  let k := seqKey 0 false n stream
  let bad := match tget? d.sp.seqRx k with
    | none => false
    | some l => (l + 1) % 256 != seq % 256
  let d := modSp d (fun s => { s with seqRx := tset s.seqRx k (seq % 256) })
  if bad then fsat d (regFhuCarCnt n) fldFhuCarCntRxSeqErr 1 else d

/-- The next sequence ID of a stream of a plane and direction as it is sent, from 0. -/
def seqNext (d : Dev) (plane : Nat) (dl : Bool) (n stream : Nat) : Nat × Dev :=
  let k := seqKey plane dl n stream
  let v := tget 0 d.sp.seqTx k
  (v, modSp d (fun s => { s with seqTx := tset s.seqTx k ((v + 1) % 256) }))

/-! ### Uplink (R181, R183, R187, R189) -/

/-- The stream of a carrier that an eAxC ID names: data stream a is a, PRACH stream a is 64 + a (R181). -/
def streamOf (d : Dev) (n eaxc : Nat) : Option Nat :=
  let k := kindAnts (fget d (regRadioCarCfg n) fldRadioCarCfgKind)
  let b := fget d (regFhuCarNet n) fldFhuCarNetEaxcBase
  let q := fget d (regFhuCarNet n) fldFhuCarNetEaxcPrach
  if b ≤ eaxc ∧ eaxc < b + k then some (eaxc - b) else if q ≤ eaxc ∧ eaxc < q + k then some (64 + (eaxc - q)) else none

/-- The running carrier and stream a received message belongs to: port, source MAC, VLAN ID and eAxC ID match (R181). -/
def matchCar (d : Dev) (p : Nat) (m : UplaneMsg) : Option (Nat × Nat) :=
  (d.sp.cars.map (fun c => c.carrier)).findSome? (fun n =>
    if carState d n != 0 && fget d (regFhuCarNet n) fldFhuCarNetPort == p && fget d (regFhuCarMac n) fldFhuCarMacRuMac == m.mac
      && fget d (regFhuCarNet n) fldFhuCarNetVlan == m.vlan then (streamOf d n m.eaxc).map (fun s => (n, s)) else none)

/-- The maximal runs of consecutive numbers in a rising list, as (first, count). -/
def runsOf : List Nat → List (Nat × Nat)
  | [] => []
  | x :: l => match runsOf l with
    | (y, n) :: r => if y = x + 1 then (x, n + 1) :: r else (x, 1) :: (y, n) :: r
    | [] => [(x, 1)]

/-- The bytes of a landing record (R189). -/
def landBytes (n stream : Nat) (m : UplaneMsg) (first num : Nat) : List Byte :=
  let per := 3 * m.width + 1
  let body := (m.data.drop ((first - m.start) * per)).take (num * per)
  let bs := natLe 2 n ++ natLe 1 (if 64 ≤ stream then 128 + (stream - 64) else stream) ++ natLe 1 m.sym ++ natLe 2 m.sfn ++ natLe 1 m.slot
    ++ natLe 1 m.width ++ natLe 2 first ++ natLe 2 num ++ natLe 4 0 ++ body
  padTo ((bs.length + 63) / 64 * 64) bs

/-- Writes records into a ring of a core and advances its tail; `upd` changes the list of its records. -/
def ringAdd (d : Dev) (c : Nat) (ring : Nat × Nat) (recs : List (LandRec × List Byte)) (sel : CoreRings → List LandRec)
    (upd : CoreRings → List LandRec → CoreRings) : Dev :=
  recs.foldl (fun d r =>
    let off := ringNext (sel (ringsOf d c)) ring.2
    let d := ringWrite d c ring off r.2
    modRings d c (fun x => upd x (sel x ++ [{ r.1 with off := off }]))) d

/-- An accepted message is written to the landing ring of the pair core of its symbol and to the mirror ring of the other (R149, R189):
one record for each run of its new PRBs; a full ring drops it with 0x1809. A role that no core holds gets no copy. -/
def landMsg (d : Dev) (n frame stream : Nat) (m : UplaneMsg) (fresh : List Nat) : Dev :=
  match carOf d n with
  | none => d
  | some k =>
    let c := pairCore d k.pair (m.sym % 2)
    let o := pairCore d k.pair (1 - m.sym % 2)
    let recs := (runsOf fresh).map (fun r =>
      let bs := landBytes n stream m r.1 r.2
      (({ carrier := n, frame := frame, slot := m.slot, sym := m.sym, stream := stream, first := r.1, num := r.2, off := 0, len := bs.length } : LandRec),
        bs))
    let need := recsLen (recs.map (fun r => r.1))
    let full := (c != noCore && decide ((landRing c).2 < recsLen (ringsOf d c).land + need))
      || (o != noCore && decide ((mirrorRing d o).2 < recsLen (ringsOf d o).mirror + need))
    if full then record d { status := 0x1809, inst := 0, detail := fhuDetail d n 0 }
    else
      let d := if c = noCore then d else ringAdd d c (landRing c) recs (fun x => x.land) (fun x l => { x with land := l })
      let d := if o = noCore then d else ringAdd d o (mirrorRing d o) recs (fun x => x.mirror) (fun x l => { x with mirror := l })
      modSlot d n frame m.slot (fun w =>
        { w with got := tmod 0 w.got (m.sym * 128 + stream) (fun g => fresh.foldl (fun g b => g ||| 2 ^ b) g) })

/-- Whether a message lies in the subset that the device accepts (R182). -/
def inSubset (m : UplaneMsg) : Bool :=
  m.rev == 1 && m.mtype == 0 && m.ebit && m.subseq == 0 && m.uplink && m.sects == 1 && m.meth == 1 && 8 ≤ m.width && m.width ≤ 14 && m.num ≤ 255

/-- A message whose `numPrbu` is 0 covers every PRB of the carrier (R183). -/
def fullPrbs (d : Dev) (n : Nat) (m : UplaneMsg) : UplaneMsg :=
  if m.num = 0 then { m with num := fget d (regRadioCarCfg n) fldRadioCarCfgPrb } else m

/-- Whether the section of a message can be placed: its slot, symbol and PRBs exist, its width is `UL_MW`, its data is whole; data
streams hold the carrier's PRBs. -/
def placeable (d : Dev) (n stream : Nat) (m : UplaneMsg) : Bool :=
  let top := if stream < 64 then fget d (regRadioCarCfg n) fldRadioCarCfgPrb else 273
  m.sfn < 1024 && m.slot < slotsPerFrame (carMu d n) && m.sym < 14 && 0 < m.num && m.start + m.num ≤ top
    && m.width == fget d (regFhuCarBfp n) fldFhuCarBfpUlMw && m.data.length == m.num * (3 * m.width + 1)

/-- UPLANE_RECEIVE (R181-R183, R187, R189). -/
def uplaneReceive (d : Dev) (p : Nat) (m : UplaneMsg) : Dev :=
  let st := ethState d p
  if !portExists d p || ethLooped d (p / 4) || st < 3 || 6 < st then d
  else if !inSubset m then unmatched d p
  else
    match matchCar d p m with
    | none => unmatched d p
    | some (n, stream) =>
      let m := fullPrbs d n m
      if !placeable d n stream m then unmatched d p
      else if !portCarries d n then d
      else
        let d := seqCheck d n stream m.seq
        let mu := carMu d n
        let frame := frameNear d m.sfn
        let now := slotNow d
        let late := symTime d mu frame m.slot (m.sym + 1) + fact d (regFhuCarWin n) fldFhuCarWinRxMax * 800
        if now < symTime d mu frame m.slot m.sym ∨ late < now then fsat d (regFhuCarCnt n) fldFhuCarCntRxOutside 1
        else
          let old := tget 0 (slotW d n frame m.slot).got (m.sym * 128 + stream)
          let prbs := rangeFrom m.start m.num
          let fresh := prbs.filter (fun b => !bitOf old b)
          let d := fsat d (regFhuCarCnt n) fldFhuCarCntRxSeqErr (m.num - fresh.length)
          if fresh.isEmpty then d else landMsg d n frame stream m fresh

/-- The kinds of PDU that uplink data streams carry. -/
def ulKind (k : Nat) : Bool := k == 0 || k == 1 || k == 3

/-- Whether a stream's symbol lacks one of `num` PRBs from `first`. -/
def lacks (w : SlotW) (sym stream first num : Nat) : Bool :=
  tget 0 w.got (sym * 128 + stream) >>> first % 2 ^ num != 2 ^ num - 1

/-- Whether a symbol lacks PRBs: of the carrier on its data streams, or of a PRACH occasion in the symbol on its PRACH streams (R187). -/
def missingPrbs (d : Dev) (n sym : Nat) (w : SlotW) : Bool :=
  let prb := fget d (regRadioCarCfg n) fldRadioCarCfgPrb
  let ants := List.range (kindAnts (fget d (regRadioCarCfg n) fldRadioCarCfgKind))
  ((w.sects.isEmpty || w.sects.any (fun x => ulKind x.1)) && ants.any (fun a => lacks w sym a 0 prb))
    || w.sects.any (fun x => x.1 == 2 && decide (x.2.sym ≤ sym) && decide (sym < x.2.sym + x.2.syms)
      && ants.any (fun a => lacks w sym (64 + a) x.2.prb x.2.prbs))

/-- Whether the receive window of a symbol has closed (R187). -/
def rxOver (d : Dev) (n frame slot sym : Nat) : Bool :=
  decide (symTime d (carMu d n) frame slot (sym + 1) + fact d (regFhuCarWin n) fldFhuCarWinRxMax * 800 ≤ slotNow d)

/-- RX_WINDOW_CLOSE (R187): once the window of an uplink symbol has closed, PRBs of its streams that were not received are counted
and recorded, once per carrier and slot. What is not received reads as exponent 0 with zero mantissas: no landing record
holds it. -/
def rxClose (d : Dev) (n sfn slot sym : Nat) : Dev :=
  let frame := frameNear d sfn
  let w := slotW d n frame slot
  if carState d n = 0 ∨ !w.ul ∨ w.short ∨ !rxOver d n frame slot sym ∨ !missingPrbs d n sym w ∨ 14 ≤ sym then d
  else
    let d := modSlot d n frame slot (fun w => { w with short := true })
    record (fsat d (regFhuCarCnt n) fldFhuCarCntRxMissing 1) { status := 0x1804, inst := 0, detail := fhuDetail d n 0 }

/-! ### Downlink (R30, R172, R180, R183, R185, R186) -/

/-- Messages of a carrier and slot are discarded at a port that does not carry traffic: they are counted, and the L2 is told once for a
downlink (R180). -/
def discardTx (d : Dev) (n frame slot count : Nat) (dl : Bool) : Dev :=
  let d := fsat d (regFhuCarCnt n) fldFhuCarCntTxDrop count
  if !dl || (slotW d n frame slot).told then d
  else
    let d := modSlot d n frame slot (fun w => { w with told := true })
    match chanOf d n with
    | none => d
    | some ch => fapiErr d ch n frame slot errTx 0x1802 false

/-- A number as bytes, most significant first, as the fronthaul sends it. -/
def be (n v : Nat) : List Byte := (natLe n v).reverse

/-- The eAxC ID of a stream (R181). -/
def eaxcOf (d : Dev) (n stream : Nat) : Nat :=
  if stream < 64 then fget d (regFhuCarNet n) fldFhuCarNetEaxcBase + stream else fget d (regFhuCarNet n) fldFhuCarNetEaxcPrach + (stream - 64)

/-- The frame of a message on a carrier's port (R181, R182, R406): Ethernet header with VLAN tag, eCPRI header of revision 1 with E bit 1 and
subsequence ID 0, payload. The layouts are those of eCPRI 2.0 (PRESUMED, log entry 126). -/
def ecpriFrame (d : Dev) (plane n stream seq : Nat) (bs : List Byte) : List Byte :=
  let net := regFhuCarNet n
  be 6 (fget d (regFhuCarMac n) fldFhuCarMacRuMac) ++ be 6 (d.env.macBase + fget d net fldFhuCarNetPort) ++ be 2 0x8100
    ++ be 2 (fget d net fldFhuCarNetPcp * 2 ^ 13 + fget d net fldFhuCarNetVlan) ++ be 2 0xAEFE
    ++ be 1 0x10 ++ be 1 (2 * plane) ++ be 2 (4 + bs.length) ++ be 2 (eaxcOf d n stream) ++ be 1 seq ++ be 1 0x80 ++ bs

/-- The O-RAN common header: direction, payload version 1, filter index, frame, subframe, slot and symbol (PRESUMED, log entry 126). -/
def oranHead (dl : Bool) (filter mu frame slot sym : Nat) : List Byte :=
  be 4 (b2n dl * 2 ^ 31 + 2 ^ 28 + filter % 16 * 2 ^ 24 + frame % 256 * 2 ^ 16 + slot / 2 ^ mu % 16 * 2 ^ 12 + slot % 2 ^ mu * 2 ^ 6 + sym)

/-- The section header of a U-plane message with its compression header: BFP at a width. -/
def uSection (id start num mw : Nat) : List Byte := be 4 (id % 4096 * 2 ^ 20 + start * 2 ^ 8 + num % 256) ++ be 2 ((mw * 16 + 1) * 256)

/-- The C-plane message of a section (R182): type 3 for a PRACH, with its frame structure, CP length, time and frequency offsets, else type 1;
`keys` name the slot and stream for what the spec leaves open (PRESUMED layout, log entry 126). A section of more than 255 PRBs, whose number the
field of 8 bits cannot hold, has `numPrbc` 0 (DESIGN CHOICE, log entry 144). -/
def cplaneBody (keys : List Nat) (dl prach : Bool) (mu frame slot mw : Nat) (s : CSect) : List Byte :=
  let comp := if dl then 0 else mw * 16 + 1
  let sect := be 4 (Config.sectionId (0 :: keys) % 4096 * 2 ^ 20 + s.prb * 2 ^ 8 + (if 255 < s.prbs then 0 else s.prbs))
    ++ be 2 (0xFFF0 + s.syms % 16) ++ be 2 (s.beam % 2 ^ 15)
  oranHead dl (if prach then Config.sectionId (1 :: keys) else 0) mu frame slot s.sym
    ++ (if prach then be 1 1 ++ be 1 3 ++ be 2 s.tOff ++ be 1 s.fs ++ be 2 s.cp ++ be 1 comp ++ sect ++ be 3 s.fOff ++ be 1 0
      else be 1 1 ++ be 1 1 ++ be 1 comp ++ be 1 0 ++ sect)

/-- A message leaves on a carrier's port with the next sequence ID of its stream, plane and direction. -/
def sendMsg (d : Dev) (plane : Nat) (dl : Bool) (n sym stream start num : Nat) (bs : List Byte) : Dev :=
  let (seq, d) := seqNext d plane dl n stream
  emit d (.ethFrame (fget d (regFhuCarNet n) fldFhuCarNetPort) n plane sym stream start num seq (ecpriFrame d plane n stream seq bs))

/-- A C-plane message to send: stream, downlink, PRACH, its section. -/
structure CMsg where
  stream : Nat
  dl     : Bool
  prach  : Bool
  sect   : CSect
  deriving DecidableEq, Repr

/-- CPLANE_SEND (R182, R185): the C-plane of a slot with downlink or uplink, a message for each PDU on each data stream, and for each PRACH
occasion on each PRACH stream, is sent between `CP_ADV` and `CP_ADV` − 10 µs before the slot starts. -/
def cplaneSend (d : Dev) (n sfn slot : Nat) : Dev :=
  let mu := carMu d n
  let frame := frameNear d sfn
  let w := slotW d n frame slot
  let start := slotStart d mu frame slot
  let adv := fact d (regFhuCarWin n) fldFhuCarWinCpAdv * 800
  let now := slotNow d
  if carState d n = 0 ∨ !(w.dl || w.ul) ∨ now + adv < start ∨ start + 80000 < now + adv then d
  else
    let ants := List.range (kindAnts (fget d (regRadioCarCfg n) fldRadioCarCfgKind))
    let mw := fget d (regFhuCarBfp n) fldFhuCarBfpUlMw
    let msgs := w.sects.flatMap (fun x => ants.map (fun a =>
      ({ stream := if x.1 = 2 then 64 + a else a, dl := 4 ≤ x.1, prach := x.1 == 2, sect := x.2 } : CMsg)))
    if !portCarries d n then discardTx d n frame slot msgs.length w.dl
    else msgs.zipIdx.foldl (fun d m =>
      sendMsg d 1 m.1.dl n m.1.sect.sym m.1.stream m.1.sect.prb m.1.sect.prbs
        (cplaneBody [n, frame, slot, m.1.stream, m.2] m.1.dl m.1.prach mu frame slot mw m.1.sect)) d

/-- Whether a slot's downlink PDUs use a symbol (R29, R182). -/
def usesSym (w : SlotW) (sym : Nat) : Bool :=
  w.dl && w.sects.any (fun x => decide (4 ≤ x.1) && decide (x.2.sym ≤ sym) && decide (sym < x.2.sym + x.2.syms))

/-- The messages of a stream's symbol, as (`startPrbu`, PRBs): one when it holds every PRB, else of at most 255 (R183). -/
def chunksOf (prb mw : Nat) : List (Nat × Nat) :=
  let pmax := 8982 / (3 * mw + 1)
  if prb ≤ pmax then [(0, prb)]
  else
    let step := min pmax 255
    (List.range ((prb + step - 1) / step)).map (fun i => (i * step, min step (prb - i * step)))

/-- The bytes of PRB `i` of a stream's symbol at an offset of a core's transmit ring, which wraps, and whether they hold poison. -/
def txPrb (d : Dev) (c off per i : Nat) : List Byte × Bool :=
  let (base, size) := txRing c
  ringRead d c (base, size) { carrier := 0, frame := 0, slot := 0, sym := 0, off := (off + i * per) % size, len := per }

/-- The bytes of PRBs as they are sent: one that holds poison is sent with exponent 0 and zero mantissas (R172). -/
def cleanPrbs (d : Dev) (c off per first num : Nat) : List Byte :=
  (rangeFrom first num).flatMap (fun i => let x := txPrb d c off per i; if x.2 then List.replicate per 0 else x.1)

/-- The record of a stream's symbol in the transmit ring of a core: what the slot's downlink task made (R29, R189). -/
def madeSym (d : Dev) (c n frame slot sym stream : Nat) : Option LandRec :=
  (ringsOf d c).tx.find? (fun r => r.carrier == n && r.frame == frame && r.slot == slot && r.sym == sym && r.stream == stream)

/-- DL_UPLANE_SEND (R29, R183, R186, R189): the compressed PRBs that stages 1 to 4 left of a stream's symbol in the transmit ring of the pair core
of the symbol are sent inside the transmit window, unless the slot is lost. -/
def dlSend (d : Dev) (n sfn slot sym stream off : Nat) : Dev :=
  let mu := carMu d n
  let frame := frameNear d sfn
  let w := slotW d n frame slot
  let mw := fget d (regFhuCarBfp n) fldFhuCarBfpDlMw
  let prb := fget d (regRadioCarCfg n) fldRadioCarCfgPrb
  let per := 3 * mw + 1
  let t := symTime d mu frame slot sym
  let now := slotNow d
  let open_ := t ≤ now + fact d (regFhuCarWin n) fldFhuCarWinTxMax * 800 ∧ now + fact d (regFhuCarWin n) fldFhuCarWinTxMin * 800 ≤ t
  match (carOf d n).map (fun k => pairCore d k.pair (sym % 2)) with
  | none => d
  | some c => match madeSym d c n frame slot sym stream with
    | none => d
    | some r =>
    if carState d n = 0 ∨ !usesSym w sym ∨ w.dead ∨ ¬ open_ ∨ 14 ≤ sym ∨ w.sent.contains (sym * 128 + stream) ∨ r.off ≠ off then d
    else
      let d := modSlot d n frame slot (fun w => { w with sent := (sym * 128 + stream) :: w.sent })
      let d := modRings d c (fun x => { x with tx := dropFree (x.tx.map (fun y => if y == r then { y with free := true } else y)) })
      let chunks := chunksOf prb mw
      if !portCarries d n then discardTx d n frame slot chunks.length true
      else
        let bad := (List.range prb).any (fun i => (txPrb d c off per i).2)
        let d := if bad then record d { status := 0x3705, inst := 0, detail := radioDetail n frame slot c } else d
        chunks.foldl (fun d x =>
          let num := if x.2 = prb then 0 else x.2
          sendMsg d 0 true n sym stream x.1 num (oranHead true 0 mu frame slot sym ++ uSection (Config.sectionId [0, n, frame, slot, stream, sym]) x.1 num mw
            ++ cleanPrbs d c off per x.1 x.2)) d

/-- Whether the faults that lose work of a symbol of a slot are present (R216): a task of the slot lost to them, a role of the pair that no core
holds, or two fenced accelerators of one kind. -/
def missRoute (d : Dev) (k : AdmCar) (w : SlotW) (sym : Nat) : Bool :=
  w.lost || pairCore d k.pair (sym % 2) == noCore || (List.range 5).any (fun a => decide (2 ≤ kindFenced d a))

/-- TX_WINDOW_CLOSE (R30, R173, R186, R217): a downlink symbol of the slot's PDUs that was not ready on every stream when its window closed is a
slot miss, where the faults of R216 are present; without them the device's own work is on time. A symbol discarded at its port was ready
(R180). -/
def txClose (d : Dev) (n sfn slot sym : Nat) : Dev :=
  let mu := carMu d n
  let frame := frameNear d sfn
  let w := slotW d n frame slot
  let ants := kindAnts (fget d (regRadioCarCfg n) fldRadioCarCfgKind)
  let closed := symTime d mu frame slot sym < slotNow d + fact d (regFhuCarWin n) fldFhuCarWinTxMin * 800
  let all := (List.range ants).all (fun a => w.sent.contains (sym * 128 + a))
  match carOf d n with
  | none => d
  | some k =>
    if carState d n = 0 ∨ !usesSym w sym ∨ !missRoute d k w sym ∨ w.dead ∨ ¬ closed ∨ all ∨ 14 ≤ sym then d
    else slotMiss d n frame slot (fun _ => false) true

end Sys2Proof.Machine
end

