-- ==== Sys2Proof/Machine/PierOps.lean ====
section
/-!
DEFINITION. Piers and plinth engines: the error-correcting code, half-line reads and writes, refresh, scrubbing, sparing,
retraining, and the engine commands (R228-R259).
-/

namespace Sys2Proof.Machine

/-! ### The Reed-Solomon code (R248-R250) -/

/-- The four syndromes of a word of (power, symbol) pairs (R248). -/
def syndromes (w : List (Nat × Nat)) : List Nat :=
  (List.range 4).map (fun j => w.foldl (fun a p => a ^^^ gfMul p.2 (gfPow (j * p.1 % 255))) 0)

/-- The check symbols c₀ to c₃ of data symbols, as a codeword of the generator (x − α⁰)(x − α¹)(x − α²)(x − α³) needs them: the remainder
of the data as coefficients of x⁶⁷ down to x⁴ (R248). The generator is x⁴ + 0x0F·x³ + 0x36·x² + 0x78·x + 0x40. -/
def checkSymbols (bs : List Byte) : List Nat :=
  bs.foldl (fun c b =>
    let h := b.toNat ^^^ wordAt c 0
    [wordAt c 1 ^^^ gfMul h 0x0F, wordAt c 2 ^^^ gfMul h 0x36, wordAt c 3 ^^^ gfMul h 0x78, gfMul h 0x40]) [0, 0, 0, 0]

/-- The word that stores a half-line, as (power, symbol) pairs (R248). Its syndromes are 0, so those of a word with an error pattern are the
pattern's own: the checks below take the pattern (log entry 151). -/
def codeword (bs : List Byte) : List (Nat × Nat) :=
  ((bs.map BitVec.toNat ++ checkSymbols bs).zipIdx).map (fun s => (67 - s.2, s.1))

/-- The syndrome of the poison word (R250): its check symbols are the coefficients of x³ to x⁰. -/
def poisonSyndrome : List Nat := syndromes [(3, 0x5A), (2, 0xA5), (1, 0x3C), (0, 0xC3)]

/-- Exclusive-or of two lists of syndromes. -/
def synXor (a b : List Nat) : List Nat := (a.zip b).map (fun p => p.1 ^^^ p.2)

/-- The error of one symbol with these syndromes: its power and value. -/
def oneError (s : List Nat) : Option (Nat × Nat) :=
  let v := wordAt s 0
  if v = 0 then none
  else ((List.range 68).find? (fun i => syndromes [(i, v)] == s)).map (fun i => (i, v))

/-- The second of two error values at powers i < k: from v₁ + v₂ = S₀ and v₁αⁱ + v₂αᵏ = S₁, found by search. -/
def twoError (s : List Nat) : Option (List (Nat × Nat)) :=
  (List.range 68).findSome? (fun i => (rangeFrom (i + 1) (67 - i)).findSome? (fun k =>
    let det := gfPow i ^^^ gfPow k
    let rhs := wordAt s 1 ^^^ gfMul (wordAt s 0) (gfPow i)
    match (List.range 256).find? (fun v => gfMul v det == rhs) with
    | none => none
    | some v =>
      let e := [(i, wordAt s 0 ^^^ v), (k, v)]
      if v != 0 && (wordAt s 0 ^^^ v) != 0 && syndromes e == s then some e else none))

/-- What the check of a half-line finds (R249, R250). -/
inductive HalfCheck where
  | clean
  | corrected (fix : List (Nat × Nat))
  | uncorrectable
  | poisoned
  deriving DecidableEq, Repr

/-- The check of a received word by its syndromes under an `ECC_MODE`. -/
def halfCheck (mode : Nat) (s : List Nat) : HalfCheck :=
  if s = poisonSyndrome then .poisoned
  else if s = [0, 0, 0, 0] then .clean
  else
    match oneError s with
    | some e => .corrected [e]
    | none =>
      if mode = 1 then
        match twoError s with
        | some es => .corrected es
        | none => .uncorrectable
      else .uncorrectable

/-- The data bytes of a half-line with an error pattern applied; powers 67 to 4 are bytes 0 to 63 (R248). -/
def applyErr (bs : List Byte) (err : List (Nat × Nat)) : List Byte :=
  err.foldl (fun l e => if 4 ≤ e.1 ∧ e.1 < 68 then l.set (67 - e.1) ((lget 0 l (67 - e.1)) ^^^ BitVec.ofNat 8 e.2) else l) bs

/-! ### Half-lines -/

/-- The key of a row. -/
def rowKey (o : Nat) : Nat :=
  let (p, _, ch, row, _) := pierMap o
  (p * 32 + ch) * 2 ^ 20 + row

/-- Where a row of a channel lies (R253, R254): in its own spare row, or, when its channel is spared or lost, row r in the (r mod 31)-th
other channel at spare row 31,710 + floor(r / 31); spare rows follow the 1,048,576 rows of data. -/
def physRow (d : Dev) (p ch row : Nat) : Nat × Nat :=
  let home := if tget? d.pier.chMap p = some ch then
      (lget 0 ((List.range 32).filter (· != ch)) (row % 31), 2 ^ 20 + 31710 + row / 31)
    else (ch, row)
  match tget? d.pier.rowMap ((p * 32 + ch) * 2 ^ 20 + row) with
  | some k => (home.1, 2 ^ 20 + k)
  | none => home

/-- Marks a row as due for sparing (R253). -/
def rowDue (d : Dev) (o : Nat) : Dev := { d with pier := { d.pier with due := natPut d.pier.due (rowKey o) } }

/-- Poisons a half-line that cannot be corrected (R250). -/
def poisonHalf (d : Dev) (o : Nat) : Dev :=
  let (p, _, ch, _, _) := pierMap o
  let d := { d with poison := natPut d.poison o }
  let d := fsat (fsat d (regPierErr p) fldPierErrPoisoned 1) (regPierChErr p ch) fldPierChErrPoisoned 1
  rowDue (record d { status := 0x1303, addr := o, detail := pierDetail o }) o

/-- Reads a half-line whose stored word has an error pattern of (power, value) pairs (R250): it is returned as it is,
corrected and written back, poisoned, or poisoned already. -/
def readHalf (d : Dev) (o : Nat) (err : List (Nat × Nat)) : Dev × List Byte × Bool :=
  let (p, _, ch, _, _) := pierMap o
  let bs := devRead d o 64
  if rowLost d o then (d, List.replicate 64 0, true)
  else
    let base := if unitPoisoned d o then poisonSyndrome else [0, 0, 0, 0]
    match halfCheck (fget d (regPierCfg p) fldPierCfgEccMode) (synXor base (syndromes err)) with
    | .poisoned => (d, List.replicate 64 0, true)
    | .clean => (d, applyErr bs err, false)
    | .uncorrectable => (poisonHalf d o, List.replicate 64 0, true)
    | .corrected fix =>
      let out := applyErr (applyErr bs err) fix
      let d := { d with mem := memWrite d.mem o out, poison := d.poison.filter (· != o) }
      let d := fsat (fsat d (regPierErr p) fldPierErrCorrected 1) (regPierChErr p ch) fldPierChErrCorrected 1
      let n := tget 0 d.pier.rowCorr (rowKey o) + fix.length
      let d := { d with pier := { d.pier with rowCorr := tset d.pier.rowCorr (rowKey o) n } }
      let th := fget d (regPierSpareCfg p) fldPierSpareCfgRowThresh
      let d := if th ≠ 0 ∧ th ≤ n then rowDue d o else d
      (record d { status := 0x2302, addr := o, detail := pierDetail o }, out, false)

/-- The end of a plain access that page ownership refuses (R231): it is not performed. -/
def pierRefuse (d : Dev) (w : Who) (o st : Nat) : Dev :=
  match w with
  | .ctx i x => endCtx d i x st o (pierDetail o)
  | _ => record d { status := st, addr := o, inst := 0, detail := pierDetail o }

/-- A plain read of a half-line (R229, R231, R250). -/
def pierRead (d : Dev) (w : Who) (o : Nat) (err : List (Nat × Nat)) : Dev :=
  match accessErr d w false o 64 with
  | some st => pierRefuse d w o st
  | none =>
    let (d, bs, p) := readHalf d o err
    emit d (.halfLine o bs p)

/-- A plain write of a half-line with a byte mask, or a refused one (R229, R231): a partial mask reads the half-line, whose stored word may
have an error pattern, and merges (R250). -/
def pierWrite (d : Dev) (w : Who) (o mask : Nat) (bs : List Byte) (p : Bool) (err : List (Nat × Nat)) : Dev :=
  match accessErr d w true o 64 with
  | some st => pierRefuse d w o st
  | none =>
    if mask % 2 ^ 64 = 2 ^ 64 - 1 then devWrite d o (padTo 64 bs) p
    else
      let (d, old, bad) := readHalf d o err
      devWrite d o ((List.range 64).map (fun i => if bitOf mask i then lget 0 bs i else lget 0 old i)) (p || bad)

/-! ### Refresh and scrubbing (R251, R252) -/

/-- A bank's refresh interval (R251): with accesses pending it is postponed, 8 times at most; otherwise it runs. -/
def refreshDue (d : Dev) (pier ch bank : Nat) (pending : Bool) : Dev :=
  let k := (pier * 32 + ch) * 65536 + bank
  let n := tget 0 d.pier.postpone k
  if pending ∧ n < 8 then { d with pier := { d.pier with postpone := tset d.pier.postpone k (n + 1) } }
  else { d with pier := { d.pier with postpone := tdel d.pier.postpone k } }

/-- Rows of a pier's channels in service. -/
def rowsInService (d : Dev) (p : Nat) : Nat :=
  if fget d (regPierStatus p) fldPierStatusState ≥ 2 then 31 * 2 ^ 20 else 32 * 2 ^ 20

/-- The start of a scrub pass, which takes `SCRUB_HOURS` as it stands (R8, R252). -/
def startPass (d : Dev) (p : Nat) : Dev :=
  if d.pier.passOn.contains p then d
  else
    let d := commitReg d (regPierScrub p)
    { d with pier := { d.pier with passOn := natPut d.pier.passOn p } }

/-- The end of a scrub pass (R252): the next starts at once when `SCRUB_HOURS` has elapsed, else when it has. -/
def endPass (d : Dev) (p : Nat) : Dev :=
  let k := regPierScrubState p
  let start := tget 0 d.pier.passFrom p
  let period := fact d (regPierScrub p) fldPierScrubScrubHours * 3600 * subPerSec
  let d := fset (fsat d k fldPierScrubStatePasses 1) k fldPierScrubStateProgress 0
  let d := fset d k fldPierScrubStateLastMin (min 65535 ((tb2 d - start) / (60 * subPerSec)))
  let d := { d with pier := { d.pier with
      passFrom := tset d.pier.passFrom p (max (tb2 d) (start + period))
      overrun := d.pier.overrun.filter (· != p)
      passOn := d.pier.passOn.filter (· != p)
      scrub := d.pier.scrub.filter (fun x => x.1 / 2 ^ 25 != p)
      rowCorr := d.pier.rowCorr.filter (fun x => x.1 / 2 ^ 25 != p) } }
  if start + period ≤ tb2 d then startPass d p else d

/-- Marks a half-line as read in its pier's scrub pass, and tells whether its row is thereby done (R252). -/
def scrubMark (d : Dev) (o : Nat) : Dev × Bool :=
  let half := (pierMap o).2.2.2.2
  let was := tget 0 d.pier.scrub (rowKey o)
  let now := setBits was half 1 1
  ({ d with pier := { d.pier with scrub := tset d.pier.scrub (rowKey o) now } }, was != now && now == 2 ^ 32 - 1)

/-- Whether a half-line is read by scrubbing (R252): with scrubbing on, in a pass that has begun, on a channel in service. -/
def scrubOpen (d : Dev) (o : Nat) : Bool :=
  let (p, _, ch, _, _) := pierMap o
  fget d (regPierScrub p) fldPierScrubScrubEn != 0 && decide (tget 0 d.pier.passFrom p ≤ tb2 d)
    && decide (fget d (regPierChState p ch) fldPierChStateState < 3)

/-- A scrub read of a half-line (R252); the last of a row's half-lines to be read counts the row. -/
def pierScrub (d : Dev) (o : Nat) (err : List (Nat × Nat)) : Dev :=
  let p := (pierMap o).1
  if !scrubOpen d o then d
  else
    let (d, done) := scrubMark (readHalf (startPass d p) o err).1 o
    if done then
      let k := regPierScrubState p
      let n := fget d k fldPierScrubStateProgress + 1
      let d := fset d k fldPierScrubStateProgress n
      if rowsInService d p ≤ n then endPass d p else d
    else d

/-- A scrub pass that has run longer than 1.5 × `SCRUB_HOURS` (R252). -/
def scrubOverrun (d : Dev) (p : Nat) : Dev :=
  let period := fact d (regPierScrub p) fldPierScrubScrubHours * 3600 * subPerSec
  if tb2 d ≤ tget 0 d.pier.passFrom p + period * 3 / 2 ∨ d.pier.overrun.contains p
      ∨ fget d (regPierScrub p) fldPierScrubScrubEn = 0 then d
  else
    let d := { d with pier := { d.pier with overrun := natPut d.pier.overrun p } }
    record d { status := 0x1309, detail := p }

/-! ### Sparing and retraining (R253-R256) -/

/-- The block detail that names a pier, a channel and a row (R257, R428). -/
def chDetail (p ch row : Nat) : Nat := p + ch * 2 ^ 8 + row * 2 ^ 32

/-- The sparing of a row that is due (R253), by the spare rows of the channel that the row lies in (R254). -/
def rowSpare (d : Dev) (p ch row : Nat) : Dev :=
  let k := (p * 32 + ch) * 2 ^ 20 + row
  let c := (physRow d p ch row).1
  if fget d (regPierSpareCfg p) fldPierSpareCfgAutoRow = 0 || !d.pier.due.contains k then d
  else
    let used := fget d (regPierChState p c) fldPierChStateRowsSpared
    let d := { d with pier := { d.pier with due := d.pier.due.filter (· != k) } }
    if 16384 ≤ used then
      if d.pier.rowsOut.contains (p * 32 + c) then d
      else
        let d := { d with pier := { d.pier with rowsOut := natPut d.pier.rowsOut (p * 32 + c) } }
        record d { status := 0x130E, detail := chDetail p c row }
    else
      let d := fset d (regPierChState p c) fldPierChStateRowsSpared (used + 1)
      let d := { d with pier := { d.pier with
        rowMap := tset d.pier.rowMap k used
        rowCorr := tdel d.pier.rowCorr k } }
      record d { status := 0x2304, addr := rowAddr p ch row 0, detail := chDetail p ch row }

/-- A write of SPARE (R254): accepted while every channel of the pier is in service. -/
def spareChannel (d : Dev) (p ch : Nat) : Dev :=
  if fget d (regPierStatus p) fldPierStatusState ≠ 0 then
    cfgReject d (regPierStatus p) fldPierStatusCfgReject 0x1301 (regPierChCtrl p ch) (chDetail p ch 0)
  else
    let d := fset (fset d (regPierStatus p) fldPierStatusState 1) (regPierStatus p) fldPierStatusSpareCh ch
    let d := { d with pier := { d.pier with copied := tdel d.pier.copied p } }
    fset d (regPierChState p ch) fldPierChStateState 2

/-- Maps the rows of a channel to the other channels of its pier (R254): they lie in spare rows of their own no longer. -/
def mapChannel (x : PierSt) (p ch : Nat) : PierSt :=
  { x with chMap := tset x.chMap p ch, rowMap := x.rowMap.filter (fun e => e.1 / 2 ^ 20 != p * 32 + ch) }

/-- The completion of a channel's sparing copy (R254). -/
def spareDone (d : Dev) (p : Nat) : Dev :=
  if fget d (regPierStatus p) fldPierStatusState ≠ 1 then d
  else
    let ch := fget d (regPierStatus p) fldPierStatusSpareCh
    let d := fset (fset d (regPierStatus p) fldPierStatusState 2) (regPierChState p ch) fldPierChStateState 3
    let d := { d with pier := mapChannel d.pier p ch }
    record d { status := 0x2305, detail := chDetail p ch 0 }

/-- The loss of a channel (R255): its rows read poison, but for those a sparing copy of it had moved (`copied` rows); a
second channel lost or in need of sparing in a pier is device-fatal. -/
def loseChannel (d : Dev) (p ch copied : Nat) : Dev :=
  let st := fget d (regPierStatus p) fldPierStatusState
  let own := fget d (regPierStatus p) fldPierStatusSpareCh = ch
  if st = 2 ∨ st = 3 ∨ (st = 1 ∧ !own) then deviceFatal d { status := 0x630C, detail := chDetail p ch 0 }
  else
    let d := fset (fset d (regPierStatus p) fldPierStatusState 3) (regPierStatus p) fldPierStatusSpareCh ch
    let d := fset d (regPierChState p ch) fldPierChStateState 4
    let d := { d with pier := { mapChannel d.pier p ch with
      lost := tset d.pier.lost p (ch, [])
      copied := tset d.pier.copied p (if st = 1 then copied else 0) } }
    record d { status := 0x130B, detail := chDetail p ch 0 }

/-- A write of RETRAIN (R256). -/
def retrainCh (d : Dev) (p ch : Nat) : Dev :=
  if 3 ≤ fget d (regPierChState p ch) fldPierChStateState then d
  else
    let d := { d with pier := { d.pier with retrain := tmod {} d.pier.retrain (p * 32 + ch) (fun r => { r with active := true, slices := 0 }) } }
    if fget d (regPierChState p ch) fldPierChStateState = 0 then fset d (regPierChState p ch) fldPierChStateState 1 else d

/-- A failed recalibration of a line of a link group: its spare takes over, then the group goes out of service (R256). -/
def lineFail (d : Dev) (p g : Nat) : Dev :=
  let k := regPierLink p
  if !bitOf (fget d k fldPierLinkSpareUsed) g then
    record (setReg d k (setBits (getReg d k) (32 + g) 1 1)) { status := 0x230A, detail := p + g * 2 ^ 64 }
  else if !bitOf (fget d k fldPierLinkGroupOff) g then
    record (setReg d k (setBits (getReg d k) g 1 1)) { status := 0x1311, detail := p + g * 2 ^ 64 }
  else d

/-- A retraining or recalibration slice (R256): a line may fail; `done` ends the retraining with success or failure, and
the 64th slice ends it. Three failures in succession lose the channel, whose sparing copy had moved `copied` rows. -/
def retrainSlice (d : Dev) (p ch : Nat) (done ok : Bool) (line : Option Nat) (copied : Nat) : Dev :=
  let d := match line with
    | some g => lineFail d p g
    | none => d
  if 3 ≤ fget d (regPierChState p ch) fldPierChStateState then d
  else
    let k := p * 32 + ch
    let r := tget {} d.pier.retrain k
    let d := if fget d (regPierChState p ch) fldPierChStateState = 0 then fset d (regPierChState p ch) fldPierChStateState 1 else d
    let set := fun (d : Dev) (r : RetrainSt) => { d with pier := { d.pier with retrain := tset d.pier.retrain k r } }
    if !done ∧ r.slices + 1 < 64 then set d { r with active := true, slices := r.slices + 1 }
    else if ok then
      let d := set d {}
      let d := fsat d (regPierChState p ch) fldPierChStateRetrains 1
      let d := if fget d (regPierChState p ch) fldPierChStateState = 1 then fset d (regPierChState p ch) fldPierChStateState 0 else d
      record d { status := 0x2306, detail := chDetail p ch 0 }
    else if 3 ≤ r.fails + 1 then loseChannel (set d {}) p ch copied
    else set d { active := true, slices := 0, fails := r.fails + 1 }

/-! ### Engine commands (R234-R247) -/

/-- Who an engine command acts for (R231, R234): the tiers manager for instance 0, slot work of instance 0, else the pages of its instance.
-/
def engWho (x : EngCmd) : Who :=
  if x.tiers && x.inst == 0 then .tiers else if x.cls == 0 && x.inst == 0 then .slot else .ctx x.inst x.ctx

/-- Whether an address lies in the commanded pier (R243, R245): the page that holds it does (log entry 25). -/
def inPier (p a : Nat) : Bool := a < pierEnd && (pierMap a).1 == p

/-- The block detail of an engine command's record (R257, R428): the place of an offset in the commanded pier, or of one that page ownership
refuses, else the pier alone. -/
def engDetail (p status addr : Nat) : Nat := if inPier p addr ∨ (status = 0x4308 ∧ addr < pierEnd) then pierDetail addr else p

/-- The end of an engine command: its completion, and the record of a status of class 3 or 4; the planner's and the tiers manager's end no
context. -/
def engEnd (d : Dev) (p : Nat) (x : EngCmd) (status flags result addr : Nat) : Dev :=
  let detail := engDetail p status addr
  let d := if status = 0 then d
    else if x.cls = 0 ∨ x.tiers then record d { status := status, inst := x.inst, ctx := x.ctx, addr := addr, detail := detail }
    else if status / 4096 = 4 then endCtx d x.inst x.ctx status addr detail
    else endRequest d x.inst x.ctx status addr detail
  emit d (.engDone x.tag status flags result)

/-- An argument field of an engine command. -/
def engArg (x : EngCmd) (off w : Nat) : Nat := fieldLe x.args off w

/-- Checks common to every engine command (R234, R235): its opcode, which is reserved otherwise, its fields, its class. -/
def engOk (x : EngCmd) (code : Nat) (classes : List Nat) : Bool :=
  x.opcode == code && x.reserved == 0 && classes.contains x.cls && x.inst ≤ 64 && x.ctx < 16 && x.payload.length % 8 == 0
    && x.payload.length ≤ 4096 && x.args.length ≤ 24

/-- The first refusal of a list of ranges. -/
def firstErr (d : Dev) (w : Who) (rs : List (Bool × Nat × Nat)) : Option Nat :=
  rs.findSome? (fun r => accessErr d w r.1 r.2.1 r.2.2)

/-- Where the first refused range of a list is refused: the first page of it that refuses, else its start. -/
def firstBad (d : Dev) (w : Who) (rs : List (Bool × Nat × Nat)) : Nat :=
  match rs.find? (fun r => (accessErr d w r.1 r.2.1 r.2.2).isSome) with
  | none => 0
  | some r =>
    if r.2.1 + r.2.2 ≤ pierEnd then
      max r.2.1 (((pagesIn r.2.1 r.2.2).find? (fun o => !pageAllows (pageOf d o) w r.1)).getD r.2.1)
    else r.2.1

/-- The first poisoned carrier unit of a list of ranges. -/
def firstPoison (d : Dev) (rs : List (Nat × Nat)) : Option Nat :=
  rs.findSome? (fun r => (unitsIn r.1 r.2).find? (unitPoisoned d))

/-- The reads of an engine command meet the half-lines that hold an error (R250). -/
def meetErrs (d : Dev) (x : EngCmd) (reads : List (Nat × Nat)) : Dev :=
  x.errs.foldl (fun d e => if reads.any (fun r => decide (r.1 < e.1 + 64) && decide (e.1 < r.1 + r.2)) then (readHalf d e.1 e.2).1 else d) d

/-- Poison that reads met withdraws the ashlar copies that hold it (R284). -/
def foundIn (reads : List (Nat × Nat)) (d : Dev) : Dev :=
  ((reads.flatMap (fun r => unitsIn r.1 r.2)).filter (unitPoisoned d)).foldl poisonFound d

/-- Runs an engine command's action when its descriptor and its ranges are good: `at_` is the place a bad descriptor's record names, `reads`
the ranges that the command reads. -/
def engRun (d : Dev) (p : Nat) (x : EngCmd) (ok : Bool) (at_ : Nat) (ranges : List (Bool × Nat × Nat)) (reads : List (Nat × Nat))
    (act : Dev → Dev) : Dev :=
  if !ok then engEnd d p x 0x330D 0 0 at_
  else
    match firstErr d (engWho x) ranges with
    | some st => engEnd d p x st 0 0 (firstBad d (engWho x) ranges)
    | none => foundIn reads (act (meetErrs d x reads))

/-- The pages of an `ATTEND`: the first of its payload (R238). -/
def attendPages (x : EngCmd) : List Nat := (List.range (engArg x 16 2)).map (fun i => fieldLe x.payload (8 * i) 8)

/-- Whether a descriptor is a good `ATTEND` (R238). -/
def attendOk (p : Nat) (x : EngCmd) : Bool :=
  let D := engArg x 12 2
  let G := engArg x 14 1
  let fk := engArg x 15 1 % 16
  let fq := engArg x 15 1 / 16
  let np := engArg x 16 2
  let qf := operandFmt fq
  let four := fun c => c == 0 || c == 1 || c == 7 || c == 8
  engOk x 0x01 [1, 2] && (D == 64 || D == 128 || D == 256) && 1 ≤ G && G ≤ 16 && 1 ≤ np && np ≤ 256
    && four fk && four fq && fmtPair fk fq && G * D * (qf.bits / 8) ≤ 2048 && x.src == 0 && x.aux == 0 && engArg x 18 6 == 0
    && x.payload.length == 8 * np + G * D * (qf.bits / 8) && (attendPages x).all (fun a => inPier p a && a % 65536 == 0)

/-- The heads of an `ATTEND` as its pages and queries give them (R238-R240). -/
def attendHeads (d : Dev) (x : EngCmd) : List AttnAcc :=
  let D := engArg x 12 2
  let np := engArg x 16 2
  let qf := operandFmt (engArg x 15 1 / 16)
  (List.range (engArg x 14 1)).map (fun g =>
    let q := (List.range D).map (fun i => qf.decode (fieldLe x.payload (8 * np + (g * D + i) * (qf.bits / 8)) (qf.bits / 8)))
    attnRun d (operandFmt (engArg x 15 1 % 16)) D (engArg x 0 4) (attendPages x) q (f32 (engArg x 8 4)) (fun j => j < engArg x 4 4))

/-- The keys and values that an `ATTEND` uses, page by page (R237). -/
def attendUses (x : EngCmd) : List (Nat × Nat) :=
  let D := engArg x 12 2
  let b := (operandFmt (engArg x 15 1 % 16)).bits / 8
  let T := kvPositions (operandFmt (engArg x 15 1 % 16)) D
  (attendPages x).zipIdx.flatMap (fun a =>
    let n := min T (engArg x 4 4 - (engArg x 0 4 + a.2) * T) * D * b
    [(a.1, n), (a.1 + 32768, n)])

/-- `ATTEND` (R238-R240). -/
def engAttend (d : Dev) (p : Nat) (x : EngCmd) : Dev :=
  let reads := (attendPages x).map (fun a => (a, 65536))
  engRun d p x (attendOk p x) (lget 0 (attendPages x) 0) (reads.map (fun r => (false, r))) reads fun d =>
    let hs := attendHeads d x
    let (bs, H) := attnPartial (engArg x 14 1) (engArg x 12 2) (engArg x 16 2) (engArg x 0 4) x.tag hs
    match accessErr d (engWho x) true x.dst bs.length with
    | some st => engEnd d p x st 0 0 x.dst
    | none =>
      let d := devWrite d x.dst bs false
      let d := (hs.zipIdx.filter (fun h => h.1.poison)).foldl (fun d h =>
        markPoison d (x.dst + 0x50 + h.2 * H) 0 (8 * (H - 16))) d
      let inv := hs.any (fun h => h.s.invalid || h.v.any (fun v => v.invalid))
      engEnd d p x (if hs.any (fun h => h.poison) then 0x3307 else 0) (8 * b2n inv) 0 ((firstPoison d (attendUses x)).getD x.dst)

/-- The rows of a gather in index order (R243): from the first bad index on, zeros marked poisoned. -/
def gatherRows (row limit src dst : Nat) : List (Nat × Bool) → Nat → Nat → Dev → Dev × Nat
  | [], _, bad, d => (d, bad)
  | (ix, pz) :: l, n, bad, d =>
    let bad := if bad ≠ 0 then bad else if pz then 1 else if limit ≤ ix then 2 else 0
    let d := if bad ≠ 0 then devWrite d (dst + n * row) (List.replicate row 0) true else copyBytes d (src + ix * row) (dst + n * row) row
    gatherRows row limit src dst l (n + 1) bad d

/-- Whether a descriptor is a good `GATHER` (R243). -/
def gatherOk (p : Nat) (x : EngCmd) : Bool :=
  let row := engArg x 0 4
  let n := engArg x 4 4
  engOk x 0x02 [1, 2] && row % 64 == 0 && 64 ≤ row && row ≤ 65536 && 1 ≤ n && n ≤ 1024 && x.payload.length == 4 * n
    && engArg x 12 12 == 0 && inPier p x.src

/-- The end of a `GATHER` (R243): one that serves a GATHER_ROWS invocation (`rows`) ends that request with 0x3105 or 0x3104
at its element `at_`, with no record of the plinth. -/
def gatherEnd (d : Dev) (p : Nat) (x : EngCmd) (rows : Bool) (status at_ : Nat) : Dev :=
  if rows && status != 0 then
    emit (endRequest d x.inst x.ctx (if status = 0x330F then 0x3105 else 0x3104) at_ 0) (.engDone x.tag status 0 0)
  else engEnd d p x status 0 0 x.src

/-- `GATHER` (R243). -/
def engGather (d : Dev) (p : Nat) (x : EngCmd) (rows : Bool) : Dev :=
  let row := engArg x 0 4
  let n := engArg x 4 4
  let lim := engArg x 8 4
  let idx := (List.range n).map (fun i => (fieldLe x.payload (4 * i) 4, bitOf x.pmap i))
  let used := idx.takeWhile (fun i => !i.2 && i.1 < lim)
  let reads := used.map (fun i => (x.src + i.1 * row, row))
  engRun d p x (gatherOk p x) x.src (reads.map (fun r => (false, r)) ++ [(true, x.dst, n * row)]) reads fun d =>
    let (d, bad) := gatherRows row lim x.src x.dst idx 0 0 d
    gatherEnd d p x rows (if bad = 0 then 0 else if bad = 1 then 0x3307 else 0x330F) used.length

/-- Whether a descriptor is a good `DEQUANT` (R244). -/
def dequantOk (x : EngCmd) : Bool :=
  let n := engArg x 0 4
  let mx := engArg x 4 1
  let el := engArg x 5 1
  engOk x 0x03 [1, 2] && n % 32 == 0 && 32 ≤ n && n ≤ 2 ^ 24 && 5 ≤ mx && mx ≤ 8 && el ≤ 1 && (el == 0 || mx ≤ 6) && engArg x 6 1 ≤ 4
    && engArg x 7 1 ≤ 1 && engArg x 8 16 == 0

/-- `DEQUANT` (R244). -/
def engDequant (d : Dev) (p : Nat) (x : EngCmd) : Dev :=
  let n := engArg x 0 4
  let mx := engArg x 4 1
  let el := engArg x 5 1
  let out := engArg x 6 1
  let ovf := engArg x 7 1
  let f := outElem mx el
  let g := outElem out 0
  let reads := [(x.src, n * f.bits / 8), (x.aux, n / 32)]
  engRun d p x (dequantOk x) x.src (reads.map (fun r => (false, r)) ++ [(true, x.dst, n * g.bits / 8)]) reads fun d =>
    let rs := (List.range n).map (fun i =>
      let (c, p1) := elemAt d x.src (f.bits * i) f.bits
      let (s, p2) := elemAt d x.aux (8 * (i / 32)) 8
      (roundVal g (mxVal f c s) (ovf == 1), p1 || p2))
    let d := devWrite d x.dst (packElems g.bits (rs.map (fun r => r.1.1))) false
    let d := (rs.zipIdx.filter (fun r => r.1.2)).foldl (fun d r => markPoison d x.dst (g.bits * r.2) g.bits) d
    let fl := Flags.union (rs.map (fun r => r.1.2))
    engEnd d p x (if rs.any (fun r => r.2) then 0x3307 else 0) fl.toNat 0
      ((firstPoison d reads).getD x.src)

/-- A comparison of a CRC-64 with `AUX` (R245): the status and the result. -/
def crcEnd (x : EngCmd) (want check : Bool) (bs : List Byte) : Nat × Nat :=
  let c := if want then crc64 bs else 0
  (if want && check && c != x.aux then 0x3310 else 0, c)

/-- Whether a length is one of R245. -/
def lengthOk (n : Nat) : Bool := n % 64 == 0 && 64 ≤ n && n ≤ 2 ^ 30

/-- Whether a descriptor is a good `COPY` (R245). -/
def copyOk (p : Nat) (x : EngCmd) : Bool :=
  engOk x 0x04 [0, 1, 2] && lengthOk (engArg x 0 4) && engArg x 4 4 < 4 && engArg x 4 4 != 2 && engArg x 8 16 == 0
    && (inPier p x.src || inPier p x.dst)

/-- `COPY` (R245). -/
def engCopy (d : Dev) (p : Nat) (x : EngCmd) : Dev :=
  let n := engArg x 0 4
  let fl := engArg x 4 4
  engRun d p x (copyOk p x) (if inPier p x.src then x.src else x.dst) [(false, x.src, n), (true, x.dst, n)] [(x.src, n)] fun d =>
    let (st, c) := crcEnd x (bitOf fl 0) (bitOf fl 1) (devRead d x.src n)
    engEnd (copyBytes d x.src x.dst n) p x st 0 c x.src

/-- Sets the pages of a range free (R245). -/
def freePages (d : Dev) (a n : Nat) : Dev := (pagesIn a n).foldl (fun d o => modPage d o (fun _ => {})) d

/-- Whether a descriptor is a good `MOVE` (R245): every page of it lies in the commanded pier. -/
def moveOk (p : Nat) (x : EngCmd) : Bool :=
  let n := engArg x 0 4
  engOk x 0x05 [2] && lengthOk n && n % 2097152 == 0 && engArg x 4 20 == 0 && x.src % 2097152 == 0 && x.dst % 2097152 == 0
    && (pagesIn x.src n ++ pagesIn x.dst n).all (inPier p)

/-- `MOVE` (R245). -/
def engMove (d : Dev) (p : Nat) (x : EngCmd) : Dev :=
  let n := engArg x 0 4
  engRun d p x (moveOk p x) x.src [(true, x.src, n), (true, x.dst, n)] [(x.src, n)] fun d =>
    engEnd (freePages (copyBytes d x.src x.dst n) x.src n) p x 0 0 0 x.src

/-- Whether a descriptor is a good `CRC64` (R245). -/
def crcOk (x : EngCmd) : Bool :=
  engOk x 0x06 [1, 2] && lengthOk (engArg x 0 4) && engArg x 4 4 < 4 && engArg x 4 4 != 2 && engArg x 8 16 == 0

/-- `CRC64` (R245). -/
def engCrc (d : Dev) (p : Nat) (x : EngCmd) : Dev :=
  let n := engArg x 0 4
  let fl := engArg x 4 4
  engRun d p x (crcOk x) x.src [(false, x.src, n)] [(x.src, n)] fun d =>
    let (st, c) := crcEnd x true (bitOf fl 1) (devRead d x.src n)
    engEnd d p x st 0 c x.src

/-- The saturating sum of two soft values (R169). -/
def softAdd (a b : Byte) : Byte :=
  BitVec.ofInt 8 (max (-127) (min 127 (a.toInt + b.toInt)))

/-- Whether a descriptor is a good `HARQ_COMBINE` (R246). -/
def harqOk (x : EngCmd) : Bool :=
  engOk x 0x07 [0] && 1 ≤ engArg x 0 4 && engArg x 0 4 ≤ 25344 && engArg x 4 4 < 2 && engArg x 8 16 == 0

/-- The new-data flag of a `HARQ_COMBINE` (R246). -/
def harqNew (x : EngCmd) : Bool := bitOf (engArg x 4 4) 0

/-- The soft values that a code block's new ones and those kept at `aux` give (R169). -/
def softOut (d : Dev) (new : Bool) (src aux n : Nat) : List Byte :=
  if new then devRead d src n else ((devRead d src n).zip (devRead d aux n)).map (fun q => softAdd q.1 q.2)

/-- The ranges that a `HARQ_COMBINE` reads and writes, its soft-buffer position in pieces of address and length. -/
def harqRanges (x : EngCmd) (pieces : List (Nat × Nat)) : List (Bool × Nat × Nat) :=
  (false, x.src, engArg x 0 4) :: pieces.map (fun q => (true, q)) ++ [(true, x.dst, engArg x 0 4)]

/-- The ranges that a `HARQ_COMBINE` takes values from (R169): new data takes none from the soft buffer. -/
def harqReads (x : EngCmd) (pieces : List (Nat × Nat)) : List (Nat × Nat) :=
  (x.src, engArg x 0 4) :: (if harqNew x then [] else pieces)

/-- Combines a code block with the pieces of its soft-buffer position (R169): poison follows R171, with the radio detail of its transport
block (R428). -/
def harqMerge (d : Dev) (p : Nat) (x : EngCmd) (detail : Nat) (pieces : List (Nat × Nat)) : Dev :=
  let n := engArg x 0 4
  if (harqReads x pieces).any (fun r => isPoisoned d r.1 r.2) then
    let d := pieces.foldl (fun d q => devWrite (devZero d (q.1 / 64 * 64) ((q.2 + 63) / 64 * 64)) q.1 (List.replicate q.2 0) false) d
    let d := record (devWrite d x.dst (List.replicate n 0) true) { status := 0x3705, inst := 0, detail := detail }
    emit d (.engDone x.tag 0x3705 0 0)
  else
    let r := pieces.foldl (fun (a : Dev × List Byte) q =>
      let out := softOut d (harqNew x) (x.src + a.2.length) q.1 q.2
      (devWrite a.1 q.1 out false, a.2 ++ out)) (d, [])
    engEnd (devWrite r.1 x.dst r.2 false) p x 0 0 0 x.aux

/-- `HARQ_COMBINE` (R169, R246) on the pieces of a soft-buffer position. -/
def engHarq (d : Dev) (p : Nat) (x : EngCmd) (detail : Nat) (pieces : List (Nat × Nat)) : Dev :=
  engRun d p x (harqOk x) x.aux (harqRanges x pieces) (harqReads x pieces) (fun d => harqMerge d p x detail pieces)

/-- Whether a descriptor is a good `FILL` (R246). -/
def fillOk (x : EngCmd) : Bool :=
  engOk x 0x08 [0, 1, 2] && lengthOk (engArg x 0 4) && engArg x 4 20 == 0

/-- `FILL` (R246). -/
def engFill (d : Dev) (p : Nat) (x : EngCmd) : Dev :=
  let n := engArg x 0 4
  engRun d p x (fillOk x) x.dst [(true, x.dst, n)] [] fun d =>
    engEnd (devWrite d x.dst ((List.range n).map (fun i => lget 0 (natLe 8 x.src) (i % 8))) false) p x 0 0 0 x.dst

/-- Whether a descriptor is a good `DIRTY_SCAN` (R232). -/
def dirtyOk (p : Nat) (x : EngCmd) : Bool :=
  let n := engArg x 0 4
  engOk x 0x09 [1, 2] && 1 ≤ n && n ≤ 32768 && engArg x 4 20 == 0 && inPier p x.src && pageKey x.src % 32768 + n ≤ 32768

/-- `DIRTY_SCAN` (R232): reads and clears the dirty bits of `ARGS` [31:0] pages from the page of `SRC`, and writes them as
a bitmap to `DST`; `RESULT` counts them (log entry 26). -/
def engDirty (d : Dev) (p : Nat) (x : EngCmd) : Dev :=
  let n := engArg x 0 4
  let key := pageKey x.src
  let keys := rangeFrom key n
  let len := (n + 7) / 8
  if !dirtyOk p x then engEnd d p x 0x330D 0 0 x.src
  else match keys.find? (fun k => !pageAllows (tget {} d.pier.pages k) (engWho x) true) with
  | some k => engEnd d p x 0x4308 0 0 (pageOffset k)
  | none =>
    match accessErr d (engWho x) true x.dst len with
    | some st => engEnd d p x st 0 0 x.dst
    | none =>
      let bits := keys.map (fun k => (tget {} d.pier.pages k).dirty)
      let d := keys.foldl (fun d k =>
        { d with pier := { d.pier with pages := tmod {} d.pier.pages k (fun e => { e with dirty := false }) } }) d
      let v := bits.zipIdx.foldl (fun a b => a + b2n b.1 * 2 ^ b.2) 0
      engEnd (devWrite d x.dst (natLe len v) false) p x 0 0 ((bits.filter id).length) x.src

end Sys2Proof.Machine
end

