-- ==== Sys2Proof/Machine/Signal.lean ====
section
/-!
DEFINITION. The signal datapath of a core: instruction words, their legality, and what each opcode does (R124-R144).
-/

namespace Sys2Proof.Machine

/-! ### State -/

/-- A core's signal datapath. -/
def sigSt (d : Dev) (c : Nat) : SigSt := tget {} d.sigs c

/-- Changes a core's signal datapath. -/
def modSig (d : Dev) (c : Nat) (f : SigSt → SigSt) : Dev := { d with sigs := tmod {} d.sigs c f }

/-- The register of a loop level. -/
def loopReg (c k : Nat) : Nat := if k = 0 then regSigLoop0 c else if k = 1 then regSigLoop1 c else regSigLoop2 c

/-- The PC of a datapath. -/
def sigPc (d : Dev) (c : Nat) : Nat := fget d (regSigPc c) fldSigPcPc

/-- Sets the PC, an index of the 2,048-entry instruction buffer. -/
def setSigPc (d : Dev) (c v : Nat) : Dev := fset d (regSigPc c) fldSigPcPc v

/-- The active loop levels. -/
def sigDepth (d : Dev) (c : Nat) : Nat := fget d (regSigPc c) fldSigPcLdepth

/-- Whether a datapath runs a task. -/
def sigRuns (d : Dev) (c : Nat) : Bool := fget d (regSigStatus c) fldSigStatusState == 1

/-- Lane `n` of sample register `r`. -/
def laneOf (d : Dev) (c r n : Nat) : Lane := tget {} (sigSt d c).x (16 * r + n)

/-- Lane `n` of accumulator set `r`, coded 8 to 11 as in a source field. -/
def accOf (d : Dev) (c r n : Nat) : Lane := tget {} (sigSt d c).acc (16 * (r - 8) + n)

/-- Sets the lanes of a sample register. -/
def setX (d : Dev) (c r : Nat) (l : List Lane) : Dev :=
  modSig d c (fun s => { s with x := l.zipIdx.foldl (fun t p => tset t (16 * r + p.2) p.1) s.x })

/-- Sets the lanes of an accumulator set coded 8 to 11. -/
def setAcc (d : Dev) (c r : Nat) (l : List Lane) : Dev :=
  modSig d c (fun s => { s with acc := l.zipIdx.foldl (fun t p => tset t (16 * (r - 8) + p.2) p.1) s.acc })

/-- Counts accumulator and int16 saturations (R144). -/
def countSat (d : Dev) (c accs outs : Nat) : Dev :=
  fsat (fsat d (regSigSatCount c) fldSigSatCountAccSat accs) (regSigSatCount c) fldSigSatCountOutSat outs

/-! ### Memory through address registers (R126-R128) -/

/-- The twin-access offset that an address register names (R126). -/
def arAddr (d : Dev) (c a : Nat) : Nat :=
  let r : AReg := tget {} (sigSt d c).ar a
  (r.base + r.off) % 0x80000

/-- Post-increments an address register by an advance (R126). -/
def arStep (d : Dev) (c a : Nat) (adv : Int) : Dev :=
  modSig d c (fun s => { s with ar := tmod {} s.ar a (fun r =>
    { r with off := ((r.off + adv) % (if r.len = 0 then 0x80000 else (r.len : Int))).toNat }) })

/-- Post-increments an address register by its stride (R126). -/
def arStride (d : Dev) (c a : Nat) : Dev := arStep d c a (tget ({} : AReg) (sigSt d c).ar a).stride

/-- The device ranges of `n` bytes of the twin-access region of core `c` from an offset, which wrap at its end (R126). -/
def twinSegs (c off n : Nat) : List (Nat × Nat) :=
  let o := off % 0x80000
  if o + n ≤ 0x80000 then [(storeAddr c o, n)] else [(storeAddr c o, 0x80000 - o), (storeAddr c 0, o + n - 0x80000)]

/-- Bytes of the twin-access region. -/
def twinRead (d : Dev) (c off n : Nat) : List Byte := (twinSegs c off n).flatMap (fun s => devRead d s.1 s.2)

/-- Whether a range of the twin-access region holds poison. -/
def twinPoison (d : Dev) (c off n : Nat) : Bool := (twinSegs c off n).any (fun s => isPoisoned d s.1 s.2)

/-- Writes bytes to the twin-access region. -/
def twinWrite (d : Dev) (c off : Nat) (bs : List Byte) : Dev :=
  ((twinSegs c off bs.length).foldl (fun (x : Dev × List Byte) s => (devWrite x.1 s.1 (x.2.take s.2) false, x.2.drop s.2)) (d, bs)).1

/-- Poisons the words that a range of the twin-access region touches (R109, R142). -/
def twinMark (d : Dev) (c off n : Nat) : Dev :=
  { d with poison := ((twinSegs c off n).flatMap (fun s => unitsIn s.1 s.2)).foldl natPut d.poison }

/-- The task consumed poison when `p` (R111, R142): an operation other than a move used it. -/
def eat (d : Dev) (c : Nat) (p : Bool) : Dev := if p then modSig d c (fun s => { s with ate := true }) else d

/-- The component in `w` bytes at offset `k`, of `bits` bits (R128). -/
def compAt (bs : List Byte) (k w bits : Nat) : Int := toSigned bits (fieldLe bs k w)

/-- Loads a sample register through an address register (R127, R142): a move, which consumes no poison (R110). An offset that is no multiple
of 4 names the bytes that stand there (DESIGN CHOICE, log entry 143). -/
def loadX (d : Dev) (c x a : Nat) : Dev :=
  let o := arAddr d c a
  let bs := twinRead d c o 64
  let l := (List.range 16).map (fun n => Lane.mk (compAt bs (4 * n) 2 16) (compAt bs (4 * n + 2) 2 16) (twinPoison d c (o + 4 * n) 4))
  arStride (setX d c x l) c a

/-- Stores lanes as a sample register through an address register (R127, R142). -/
def storeLanes (d : Dev) (c a : Nat) (l : List Lane) : Dev :=
  let o := arAddr d c a
  let d := twinWrite d c o (l.flatMap (fun x => natLe 2 (ofSigned 16 x.i) ++ natLe 2 (ofSigned 16 x.q)))
  let d := l.zipIdx.foldl (fun d p => if p.1.p then twinMark d c (o + 4 * p.2) 4 else d) d
  arStride d c a

/-- The lanes of a sample register. -/
def lanesOf (d : Dev) (c r : Nat) : List Lane := (List.range 16).map (laneOf d c r)

/-- Sixteen lanes of which the spec states no value, poisoned when `p`. -/
def freeLanes (d : Dev) (p : Bool) : List Lane × Dev :=
  let (k, d) := takeFree d
  let v := Config.freeNat k
  ((List.range 16).map (fun n => Lane.mk (toSigned 16 (v >>> (32 * n))) (toSigned 16 (v >>> (32 * n + 16))) (p)), d)

/-! ### Instruction words (R129) -/

/-- An instruction word's fields. -/
structure SWord where
  op   : Nat
  dst  : Nat
  srcA : Nat
  srcB : Nat
  mop  : Nat
  mx1  : Nat
  ma1  : Nat
  mx2  : Nat
  ma2  : Nat
  imm  : Nat
  deriving DecidableEq, Repr

/-- The fields of an instruction word (R129). -/
def sWord (v : Nat) : SWord :=
  { op := bitsAt v 56 8, dst := bitsAt v 52 4, srcA := bitsAt v 48 4, srcB := bitsAt v 44 4, mop := bitsAt v 40 4,
    mx1 := bitsAt v 36 4, ma1 := bitsAt v 33 3, mx2 := bitsAt v 29 4, ma2 := bitsAt v 26 3, imm := bitsAt v 0 26 }

/-- Opcodes whose address register is `MA1` (R130): 0x10 to 0x13 make no access, and their `MA1` may hold any value (log entry 80). -/
def ownsMa1 (op : Nat) : Bool := op == 9 || op == 10 || (12 ≤ op && op ≤ 0x17)

/-- Whether the memory fields of a word are legal (R129, R130). -/
def memLegal (w : SWord) : Bool :=
  if w.op = 9 ∨ w.op = 10 ∨ 12 ≤ w.op then
    w.mop == 0 && w.mx1 == 0 && w.mx2 == 0 && w.ma2 == 0 && (ownsMa1 w.op || w.ma1 == 0)
  else
    w.mop ≤ 4 && w.mx1 < 8 && w.mx2 < 8 && (w.mop != 0 || (w.mx1 == 0 && w.ma1 == 0))
      && (w.mop == 2 || w.mop == 4 || (w.mx2 == 0 && w.ma2 == 0))

/-- Whether an `SSET` sets an existing target to a value in its range (Table: SSET targets). -/
def ssetLegal (imm : Nat) : Bool :=
  let t := bitsAt imm 21 5
  let v := bitsAt imm 0 21
  if t = 0 then 8 ≤ v && v ≤ 14
  else if t = 1 then v ≤ 24
  else if t ≤ 5 then v < 0x10000
  else if t ≤ 7 then false
  else if t ≤ 15 then v < 0x80000
  else if t ≤ 23 then v < 0x10000 && v % 4 == 0
  else v ≤ 8192

/-- Whether a field names an accumulator set. -/
def isAcc (r : Nat) : Bool := 8 ≤ r && r ≤ 11

/-- Whether an `SLOOP` is legal: a free level, an end after it and inside every enclosing level (R137, R138). -/
def loopLegal (d : Dev) (c imm : Nat) : Bool :=
  let e := bitsAt imm 0 11
  sigDepth d c < 3 && sigPc d c + 1 ≤ e && (List.range (sigDepth d c)).all (fun k => e ≤ fget d (loopReg c k) fldSigLoop0Lend)

/-- Whether the compute fields of a word are legal (R129, R130, R137, R138, R141). -/
def opLegal (d : Dev) (c : Nat) (w : SWord) : Bool :=
  let none3 := w.dst == 0 && w.srcA == 0 && w.srcB == 0
  match w.op with
  | 0x00 => none3 && w.imm == 0
  | 0x01 => isAcc w.dst && w.srcA < 8 && w.srcB < 8 && bitsAt w.imm 3 1 == 0 && w.imm < 256
  | 0x02 => isAcc w.dst && w.srcA < 8 && w.srcB < 8 && bitsAt w.imm 3 1 == 0 && w.imm < 256
  | 0x03 => w.dst < 8 && w.srcA < 8 && w.srcB < 8 && w.imm == 0
  | 0x04 => w.dst < 8 && w.srcA < 8 && w.srcB < 8 && w.imm == 0
  | 0x05 => w.dst < 8 && w.srcA == 0 && w.srcB == 0 && w.imm == 0
  | 0x06 => w.dst < 8 && isAcc w.srcA && w.srcB == 0 && w.imm < 64
  | 0x07 => isAcc w.srcA && w.dst == 0 && w.srcB == 0 && w.imm == 0
  | 0x08 => w.srcA ≤ 5 && w.dst == 0 && w.srcB == 0 && w.imm == 0
  | 0x09 => w.srcA ≤ 5 && w.dst == 0 && w.srcB == 0 && w.imm < 4
  | 0x0A => w.dst ≤ 5 && w.srcA == 0 && w.srcB == 0 && w.imm < 4
  | 0x0B => none3 && ssetLegal w.imm
  | 0x0C => isAcc w.srcA && w.dst == 0 && w.srcB == 0 && w.imm == 0
  | 0x0D => isAcc w.dst && w.srcA == 0 && w.srcB == 0 && w.imm == 0
  | 0x10 => none3 && loopLegal d c w.imm
  | 0x11 => none3 && w.imm < 2048
  | 0x12 => none3 && w.imm == 0 && fget d (regSigStatus c) fldSigStatusInHandler == 0
  | 0x13 => none3 && w.imm == 0
  | 0x14 => none3 && w.imm == 0
  | 0x15 => none3 && w.imm == 0
  | 0x16 => none3 && w.imm == 0
  | 0x17 => none3 && w.imm == 0
  | _ => false

/-- Whether a word is legal where the datapath stands. -/
def sigLegal (d : Dev) (c : Nat) (w : SWord) : Bool := memLegal w && opLegal d c w

/-- The word at the PC (R125). -/
def sigWord (d : Dev) (c : Nat) : SWord := sWord (tget 0 (sigSt d c).code (sigPc d c))

/-! ### Arithmetic (R58, R131-R136) -/

/-- R58: a right shift that rounds to nearest, ties towards +∞. -/
def round58 (x : Int) (s : Nat) : Int := if s = 0 then x else (x + 2 ^ (s - 1)) / 2 ^ s

/-- Whether a value fits a width after a shift. -/
def fitsAt (w s : Nat) (x : Int) : Bool := decide (-(2 ^ (w - 1)) ≤ round58 x s) && decide (round58 x s ≤ 2 ^ (w - 1) - 1)

/-- The smallest shift from `s` up, at most `n` more, that fits every value. -/
def smallestFit (w : Nat) (xs : List Int) : Nat → Nat → Nat
  | s, 0 => s
  | s, n + 1 => if xs.all (fitsAt w s) then s else smallestFit w xs (s + 1) n

/-- The components of lanes. -/
def comps (l : List Lane) : List Int := l.flatMap (fun x => [x.i, x.q])

/-- A lane of two values saturated to `w` bits, and how many saturated. -/
def satLane (w : Nat) (i q : Int) (p : Bool) : Lane × Nat :=
  ({ i := (satSigned w i).1, q := (satSigned w q).1, p := p }, b2n (satSigned w i).2 + b2n (satSigned w q).2)

/-- Writes saturated lanes to a sample register and counts their saturations. -/
def putX (d : Dev) (c r : Nat) (l : List (Lane × Nat)) : Dev :=
  countSat (setX d c r (l.map (fun p => p.1))) c 0 (l.map (fun p => p.2)).sum

/-- The product of a lane and a factor under the options of `CMAC` (R131). -/
def sigProd (imm : Nat) (a b : Lane) : Int × Int :=
  let bq := if bitOf imm 0 then -b.q else b.q
  let i := a.i * b.i - a.q * bq
  let q := a.i * bq + a.q * b.i
  if bitOf imm 1 then (-i, -q) else (i, q)

/-- `CMAC`, and `CMUL` when the accumulators are first set to 0 (R131). -/
def sigMac (d : Dev) (c : Nat) (w : SWord) (clear : Bool) : Dev :=
  let l := (List.range 16).map (fun n =>
    let a := laneOf d c w.srcA n
    let b := laneOf d c w.srcB (if bitOf w.imm 2 then bitsAt w.imm 4 4 else n)
    let old : Lane := if clear then {} else accOf d c w.dst n
    let (i, q) := sigProd w.imm a b
    satLane 40 (old.i + i) (old.q + q) (old.p || a.p || b.p))
  countSat (setAcc (eat d c (l.any (fun p => p.1.p))) c w.dst (l.map (fun p => p.1))) c (l.map (fun p => p.2)).sum 0

/-- `CADD`, and `CSUB` with sign −1 (R130). -/
def sigAdd (d : Dev) (c : Nat) (w : SWord) (sign : Int) : Dev :=
  let l := (List.range 16).map (fun n =>
    let a := laneOf d c w.srcA n
    let b := laneOf d c w.srcB n
    satLane 16 (a.i + sign * b.i) (a.q + sign * b.q) (a.p || b.p))
  putX (eat d c (l.any (fun p => p.1.p))) c w.dst l

/-- π in 2^-128. -/
def piFx : Nat := 1069028584064966747859680373161870783300

/-- The terms of the sine series from one on, of angle squared `t2` in 2^-128: alternating sum in 2^-128. -/
def sineTerms (t2 : Nat) : Nat → Nat → Nat → Int
  | 0, _, _ => 0
  | n + 1, k, t => (t : Int) - sineTerms t2 n (k + 2) (t * t2 / 2 ^ 128 / ((k + 1) * (k + 2)))

/-- round(32,767 × sin(2π k / 1,024)) for k up to 256. -/
def sineQuarter (k : Nat) : Int :=
  let t := piFx * k / 512
  (32767 * sineTerms (t * t / 2 ^ 128) 20 1 t + 2 ^ 127) / 2 ^ 128

/-- floor(32,767 × sin(2π k / 1,024) + 0.5) (R132): no value lies on a tie. -/
def sine1024 (k : Nat) : Int :=
  let k := k % 1024
  if k ≤ 256 then sineQuarter k
  else if k ≤ 512 then sineQuarter (512 - k)
  else if k ≤ 768 then -(sineQuarter (k - 512))
  else -(sineQuarter (1024 - k))

/-- `CNCO` (R132). -/
def sigNco (d : Dev) (c : Nat) (w : SWord) : Dev :=
  let s := sigSt d c
  let l := (List.range 16).map (fun n =>
    let k := (s.ph + n * s.pi_) % 2 ^ 32 / 2 ^ 22
    ({ i := sine1024 (k + 256), q := sine1024 k } : Lane))
  modSig (setX d c w.dst l) c (fun s => { s with ph := (s.ph + 16 * s.pi_) % 2 ^ 32 })

/-- `SRND` (R131). -/
def sigRnd (d : Dev) (c : Nat) (w : SWord) : Dev :=
  let sh := if bitOf w.imm 5 then (sigSt d c).sh else bitsAt w.imm 0 5
  let l := (List.range 16).map (fun n =>
    let a := accOf d c w.srcA n
    satLane 16 (round58 a.i sh) (round58 a.q sh) a.p)
  putX (eat d c (l.any (fun p => p.1.p))) c w.dst l

/-- `SNORM` (R133). -/
def sigNorm (d : Dev) (c : Nat) (w : SWord) : Dev :=
  let l := (List.range 16).map (accOf d c w.srcA)
  modSig (eat d c (l.any (fun x => x.p))) c (fun s => { s with sh := smallestFit 16 (comps l) 0 24 })

/-- The 12 samples of PRB `p` of three sample registers from `r` (R134). -/
def prbOf (d : Dev) (c r p : Nat) : List Lane :=
  (List.range 12).map (fun k => laneOf d c (r + (12 * p + k) / 16) ((12 * p + k) % 16))

/-- The exponent of a PRB at a width (R134). -/
def prbExp (mw : Nat) (l : List Lane) : Nat := smallestFit mw (comps l) 0 15

/-- `SEXP` (R134). -/
def sigExp (d : Dev) (c : Nat) (w : SWord) : Dev :=
  let prbs := (List.range 4).map (prbOf d c w.srcA)
  modSig (eat d c (prbs.any (fun l => l.any (fun x => x.p)))) c (fun s => { s with be := prbs.map (prbExp (sigSt d c).mw) })

/-- The O-RAN bytes of a PRB: exponent byte and mantissas, most significant bit first (R135). -/
def bfpBytes (mw e : Nat) (l : List Lane) : List Byte :=
  let v := (comps l).foldl (fun n x => n * 2 ^ mw + ofSigned mw (round58 x e)) 0
  BitVec.ofNat 8 e :: (natLe (3 * mw) v).reverse

/-- `SBFPC` (R135, R142). -/
def sigBfpc (d : Dev) (c : Nat) (w : SWord) : Dev :=
  let mw := (sigSt d c).mw
  let o := arAddr d c w.ma1
  let n := w.imm % 4 + 1
  let len := 3 * mw + 1
  let prbs := (List.range n).map (prbOf d c w.srcA)
  let d := eat d c (prbs.any (fun l => l.any (fun x => x.p)))
  let d := modSig d c (fun s => { s with be := (prbs.map (prbExp mw)) ++ List.replicate (4 - n) 0 })
  let d := twinWrite d c o (prbs.flatMap (fun l => bfpBytes mw (prbExp mw l) l))
  let d := prbs.zipIdx.foldl (fun d p => if p.1.any (fun x => x.p) then twinMark d c (o + len * p.2) len else d) d
  arStep d c w.ma1 (n * len : Nat)

/-- `SBFPX` (R136, R142); the exponents of unused PRBs become 0, as R135 has it for `SBFPC` (DESIGN CHOICE, log entry 143). -/
def sigBfpx (d : Dev) (c : Nat) (w : SWord) : Dev :=
  let mw := (sigSt d c).mw
  let o := arAddr d c w.ma1
  let n := w.imm % 4 + 1
  let len := 3 * mw + 1
  let exps := (List.range n).map (fun p => leNat (twinRead d c (o + len * p) 1) % 16)
  let sample := fun (k : Nat) =>
    let p := k / 12
    if n ≤ p then satLane 16 0 0 false
    else
      let bits := leNat (twinRead d c (o + len * p + 1) (3 * mw)).reverse
      let m := fun (j : Nat) => toSigned mw (bits >>> (mw * (23 - j)))
      let e := (exps[p]?).getD 0
      satLane 16 (m (2 * (k % 12)) * 2 ^ e) (m (2 * (k % 12) + 1) * 2 ^ e) (twinPoison d c (o + len * p) len)
  let d1 := modSig (eat d c (twinPoison d c o (n * len))) c (fun s => { s with be := exps ++ List.replicate (4 - n) 0 })
  let d1 := (List.range 3).foldl (fun d1 r => putX d1 c (w.dst + r) ((List.range 16).map (fun n => sample (16 * r + n)))) d1
  arStep d1 c w.ma1 (n * len : Nat)

/-- `SSET` (R130). -/
def sigSet (d : Dev) (c : Nat) (w : SWord) : Dev :=
  let t := bitsAt w.imm 21 5
  let v := bitsAt w.imm 0 21
  let ar := fun (a : Nat) (f : AReg → AReg) => modSig d c (fun s => { s with ar := tmod {} s.ar a f })
  if t = 0 then modSig d c (fun s => { s with mw := v })
  else if t = 1 then modSig d c (fun s => { s with sh := v })
  else if t ≤ 3 then modSig d c (fun s => { s with ph := setBits s.ph (16 * (t - 2)) 16 v })
  else if t ≤ 5 then modSig d c (fun s => { s with pi_ := setBits s.pi_ (16 * (t - 4)) 16 v })
  else if t ≤ 15 then ar (t - 8) (fun r => { r with base := v, off := 0 })
  else if t ≤ 23 then ar (t - 16) (fun r => { r with stride := toSigned 16 v })
  else ar (t - 24) (fun r => { r with len := 64 * v })

/-- `SACS` (R128, R142). -/
def sigAccStore (d : Dev) (c : Nat) (w : SWord) : Dev :=
  let o := arAddr d c w.ma1
  let l := (List.range 16).map (accOf d c w.srcA)
  let d := twinWrite d c o (l.flatMap (fun x => natLe 8 (ofSigned 64 x.i) ++ natLe 8 (ofSigned 64 x.q)))
  let d := l.zipIdx.foldl (fun d p => if p.1.p then twinMark d c (o + 16 * p.2) 16 else d) d
  arStep d c w.ma1 256

/-- `SACL` (R128, R142): a move. -/
def sigAccLoad (d : Dev) (c : Nat) (w : SWord) : Dev :=
  let o := arAddr d c w.ma1
  let bs := twinRead d c o 256
  let l := (List.range 16).map (fun n => Lane.mk (compAt bs (16 * n) 5 40) (compAt bs (16 * n + 8) 5 40) (twinPoison d c (o + 16 * n) 16))
  arStep (setAcc d c w.dst l) c w.ma1 256

/-- `SSTL` (Table: loop record). -/
def sigLoopStore (d : Dev) (c : Nat) (w : SWord) : Dev :=
  let s := sigSt d c
  let be := (s.be.zipIdx.map (fun p => p.1 * 16 ^ p.2)).sum
  let bs := (List.range 3).flatMap (fun k => natLe 8 (getReg d (loopReg c k))) ++ natLe 2 be ++ natLe 1 s.sh ++ natLe 1 s.mw
    ++ natLe 4 0
  arStride (twinWrite d c (arAddr d c w.ma1) bs) c w.ma1

/-- A value within `lo` to `hi`, or a free one in that range where the loaded value lies outside it. -/
def inRange (d : Dev) (lo hi v : Nat) : Nat × Dev :=
  if lo ≤ v ∧ v ≤ hi then (v, d)
  else
    let (k, d) := takeFree d
    (lo + Config.freeNat k % (hi - lo + 1), d)

/-- `SLDL` (Table: loop record). -/
def sigLoopLoad (d : Dev) (c : Nat) (w : SWord) : Dev :=
  let o := arAddr d c w.ma1
  let bs := twinRead d c o 32
  let d := eat d c (twinPoison d c o 32)
  let d := (List.range 3).foldl (fun d k =>
    let v := fieldLe bs (8 * k) 8
    let d := setReg d (loopReg c k) 0
    let d := fset d (loopReg c k) fldSigLoop0Lstart (bitsAt v 0 11)
    fset (fset d (loopReg c k) fldSigLoop0Lend (bitsAt v 16 11)) (loopReg c k) fldSigLoop0Lcount (bitsAt v 32 15)) d
  let be := fieldLe bs 24 2
  let (sh, d) := inRange d 0 24 (fieldLe bs 26 1)
  let (mw, d) := inRange d 8 14 (fieldLe bs 27 1)
  let d := modSig d c (fun s => { s with be := (List.range 4).map (fun k => bitsAt be (4 * k) 4), sh := sh, mw := mw })
  arStride d c w.ma1

/-- The eight address registers as a list of numbers. -/
def arList (d : Dev) (c : Nat) : List Nat :=
  (List.range 8).flatMap (fun a =>
    let r : AReg := tget {} (sigSt d c).ar a
    [r.base, r.off, ofSigned 16 r.stride, r.len / 64])

/-- The 64 bytes of eight address registers: an open layout. -/
def arImage (l : List Nat) : List Byte := natLe 64 (Config.addrImage l)

/-- `SSTA`: A0 to A7 as they stand (R140). -/
def sigAddrStore (d : Dev) (c : Nat) (w : SWord) : Dev :=
  let l := arList d c
  let d := modSig (twinWrite d c (arAddr d c w.ma1) (arImage l)) c (fun s => { s with images := l :: s.images.filter (· != l) })
  arStep d c w.ma1 64

/-- The address register in four numbers of a group. -/
def arFrom (l : List Nat) (a : Nat) : AReg :=
  { base := (l[4 * a]?).getD 0 % 0x80000, off := (l[4 * a + 1]?).getD 0 % 0x80000,
    stride := toSigned 16 ((l[4 * a + 2]?).getD 0 / 4 * 4), len := 64 * ((l[4 * a + 3]?).getD 0 % 8193) }

/-- `SLDA`: the registers that `SSTA` stored in these bytes; other bytes name free values. A[`MA1`] is loaded last. -/
def sigAddrLoad (d : Dev) (c : Nat) (w : SWord) : Dev :=
  let o := arAddr d c w.ma1
  let bs := twinRead d c o 64
  let d := eat d c (twinPoison d c o 64)
  let (l, d) := match (sigSt d c).images.find? (fun l => arImage l == bs) with
    | some l => (l, d)
    | none =>
      let (k, d) := takeFree d
      ((List.range 32).map (fun j => Config.freeNat k >>> (32 * j) % 2 ^ 32), d)
  modSig d c (fun s => { s with ar := (List.range 8).foldl (fun t a => tset t a (arFrom l a)) s.ar })

/-! ### Sequencing (R137-R141) -/

/-- After the instruction at an index has issued: the loop test at the innermost level, then the next outer one with the same end
(R137); where no loop goes on, the task goes on at `next`. -/
def loopTest (c pc next : Nat) : Nat → Dev → Dev
  | 0, d => setSigPc d c next
  | k + 1, d =>
    let r := loopReg c k
    if fget d r fldSigLoop0Lend = pc then
      let n := (fget d r fldSigLoop0Lcount + 32767) % 32768
      let d := fset d r fldSigLoop0Lcount n
      if n ≠ 0 then setSigPc d c (fget d r fldSigLoop0Lstart)
      else loopTest c pc next k (fset d (regSigPc c) fldSigPcLdepth k)
    else setSigPc d c next

/-- The next index after an instruction that does not set it. -/
def sigNext (d : Dev) (c pc : Nat) : Dev := loopTest c pc (pc + 1) (sigDepth d c) d

/-- `SLOOP` (R137). -/
def sigLoop (d : Dev) (c : Nat) (w : SWord) : Dev :=
  let e := bitsAt w.imm 0 11
  let n := bitsAt w.imm 11 15
  let pc := sigPc d c
  if n = 0 then setSigPc d c (e + 1)
  else
    let k := sigDepth d c
    let r := loopReg c k
    let d := fset (fset (fset (setReg d r 0) r fldSigLoop0Lstart (pc + 1)) r fldSigLoop0Lend e) r fldSigLoop0Lcount n
    setSigPc (fset d (regSigPc c) fldSigPcLdepth (k + 1)) c (pc + 1)

/-- `SJMP` (R130, R137): after the loop test of an `SJMP` that stands at the end of a loop, which may go on at the loop's start (log
entry 122). -/
def sigHop (d : Dev) (c : Nat) (w : SWord) : Dev := loopTest c (sigPc d c) w.imm (sigDepth d c) d

/-- `SRET` (R139): the loop test of an `SRET` that stands at the end of a loop comes first, and PC and LDEPTH are then those of IRP
(log entry 122). -/
def sigReturn (d : Dev) (c : Nat) : Dev :=
  let d := sigNext d c (sigPc d c)
  let p := regSigPc c
  let d := fset (fset d p fldSigPcPc (fget d p fldSigPcIrpPc)) p fldSigPcLdepth (fget d p fldSigPcIrpDepth)
  fset d (regSigStatus c) fldSigStatusInHandler 0

/-- Which sample registers the compute operation of a word writes. -/
def writesX (w : SWord) : List Nat := if [3, 4, 5, 6].contains w.op then [w.dst] else []

/-- The memory operation of a word (R129): where the word leaves open which of two values of one register a store takes or a
register keeps, that value is free. A load and a store of one word act in this order (DESIGN CHOICE, log entry 143). -/
def sigMem (d : Dev) (c : Nat) (w : SWord) : Dev :=
  let load := fun (d : Dev) (x a : Nat) (clash : Bool) =>
    let was := (lanesOf d c x).any (fun l => l.p)
    let d := loadX d c x a
    if clash then
      let (l, d) := freeLanes d (was || (lanesOf d c x).any (fun l => l.p))
      setX d c x l
    else d
  let store := fun (d : Dev) (x a : Nat) (clash : Bool) =>
    if clash then
      let (l, d) := freeLanes d ((lanesOf d c x).any (fun l => l.p))
      storeLanes d c a l
    else storeLanes d c a (lanesOf d c x)
  let hit := fun (x : Nat) => (writesX w).contains x
  match w.mop with
  | 1 => load d w.mx1 w.ma1 (hit w.mx1)
  | 2 => load (load d w.mx1 w.ma1 (hit w.mx1)) w.mx2 w.ma2 (hit w.mx2 || w.mx1 == w.mx2)
  | 3 => store d w.mx1 w.ma1 (hit w.mx1)
  | 4 => store (load d w.mx1 w.ma1 (hit w.mx1)) w.mx2 w.ma2 (hit w.mx2 || w.mx1 == w.mx2)
  | _ => d

/-- A compute operation, then the memory operation of its word, then the next index: an `SSET` of the address register that the memory operation
uses acts first (DESIGN CHOICE, log entry 143). -/
def sigThen (d : Dev) (c : Nat) (w : SWord) (d' : Dev) : Dev := sigNext (sigMem d' c w) c (sigPc d c)

/-! ### Tasks -/

/-- A task starts (R124, R144): every element of state is 0 but MW, the instruction buffer and what SSTA stored. -/
def sigStart (d : Dev) (c : Nat) : Dev :=
  let d := modSig d c (fun s => { code := s.code, images := s.images })
  let d := (List.range 3).foldl (fun d k => setReg d (loopReg c k) 0) d
  let d := setReg d (regSigPc c) (fget d (regSigEntry c) fldSigEntryStart)
  let d := fset d (regSigStatus c) fldSigStatusInHandler 0
  islandWork (fset d (regSigStatus c) fldSigStatusState 1) c

/-- A write of GO (R19, R21, R91, R144): a running datapath discards it, and so does one of a core that is not reserved for slot work (DESIGN
CHOICE, log entry 122); that of a fenced core is gone. -/
def sigGo (d : Dev) (c : Nat) : Dev :=
  if !coreOn d c || coreFenced d c then d
  else if sigRuns d c || !slotHeld d c then cfgReject d (regSigStatus c) fldSigStatusCfgReject 0x1116 (regSigCtrl c) c else sigStart d c

/-- A write of IRQ (R19, R139). -/
def sigIrq (d : Dev) (c : Nat) : Dev := if coreOn d c && !coreFenced d c then fset d (regSigStatus c) fldSigStatusIrqPending 1 else d

/-- A pending interrupt is taken at an instruction boundary (R139). -/
def sigEntry (d : Dev) (c : Nat) : Dev :=
  let st := regSigStatus c
  let p := regSigPc c
  if sigRuns d c && fget d (regSigCtrl c) fldSigCtrlIrqEn == 1 && fget d st fldSigStatusInHandler == 0
      && fget d st fldSigStatusIrqPending == 1 then
    let d := fset (fset d p fldSigPcIrpPc (sigPc d c)) p fldSigPcIrpDepth (sigDepth d c)
    let d := fset (fset d p fldSigPcLdepth 0) p fldSigPcPc (fget d (regSigEntry c) fldSigEntryVector)
    fset (fset d st fldSigStatusInHandler 1) st fldSigStatusIrqPending 0
  else d

/-- The task on a datapath stops with a status (R141, R142): success, or an error with its record. -/
def sigStop (d : Dev) (c status : Nat) : Dev :=
  let st := regSigStatus c
  let d := fset d st fldSigStatusState (if status = 0 ∨ status = 0x310D then 0 else 2)
  let d := fset (fset d st fldSigStatusInHandler 0) st fldSigStatusIrqPending 0
  let d := fset d st fldSigStatusLastStatus status
  if status = 0 then d else record d { status := status, inst := 0, detail := c, addr := sigPc d c }

end Sys2Proof.Machine
end

