-- ==== Sys2Proof/Machine/RadioNum.lean ====
section
/-!
DEFINITION. The arithmetic of the radio chapter: complex integers, angles, decibels and gains, the transform unit, the darner's
min-sum, soft demapping and the small block codes (R151-R166). What 3GPP documents give and the spec does not (base graphs, codes,
sequences) comes from `Config` or with the request (log entry 125).
-/

namespace Sys2Proof.Machine

/-! ### Complex integers -/

/-- A complex number with integer components. -/
abbrev Cx := Int × Int

/-- The sum of complex numbers. -/
def csum (l : List Cx) : Cx := l.foldl (fun a b => (a.1 + b.1, a.2 + b.2)) (0, 0)

/-- The product of two. -/
def cmul (a b : Cx) : Cx := (a.1 * b.1 - a.2 * b.2, a.1 * b.2 + a.2 * b.1)

/-- The conjugate. -/
def conj (a : Cx) : Cx := (a.1, -a.2)

/-- The squared magnitude. -/
def csq (a : Cx) : Nat := (a.1 * a.1 + a.2 * a.2).toNat

/-- The difference. -/
def csub (a b : Cx) : Cx := (a.1 - b.1, a.2 - b.2)

/-- The nearest integer to a quotient, ties towards +∞. -/
def divNear (a : Int) (n : Nat) : Int := (2 * a + n) / (2 * n)

/-- A complex number over a natural, as C16: rounded under R58 and saturated. -/
def c16Div (a : Cx) (n : Nat) : Cx := ((satSigned 16 (divNear a.1 n)).1, (satSigned 16 (divNear a.2 n)).1)

/-- The common sign-extended cut of a complex number to at most 192 bits: its angle stays. -/
def ccut (a : Cx) : Cx :=
  let s := Nat.log2 (max a.1.natAbs a.2.natAbs) - 192
  (a.1 / 2 ^ s, a.2 / 2 ^ s)

/-- The first `n` bits of the angle of a complex number as a fraction of a cycle: each squaring doubles the angle. -/
def angleBits : Nat → Cx → Nat → Nat
  | 0, _, v => v
  | n + 1, a, v => angleBits n (ccut (cmul a a)) (2 * v + b2n (a.2 < 0 || (a.2 == 0 && a.1 < 0)))

/-- The angle of a complex number in units of 2^-32 of a cycle, from -2^31 to 2^31 - 1, rounded to nearest. -/
def angle32 (a : Cx) : Int := toSigned 32 ((angleBits 33 (ccut a) 0 + 1) / 2)

/-! ### Decibels and gain (R162, R163) -/

/-- The natural logarithm of a positive natural in 2^-256. -/
def lnFx (m : Nat) : Int :=
  let f := m * 2 ^ fxP / 2 ^ Nat.log2 m
  let z := (f - 2 ^ fxP) * 2 ^ fxP / (f + 2 ^ fxP)
  Nat.log2 m * ln2Fx + 2 * atanhFx z 84 1 z

/-- Ten times the base-10 logarithm of a quotient of positive naturals, in 0.0025 dB, to nearest. -/
def quarterDb (num den : Nat) : Int := (8000 * (lnFx num - lnFx den) + lnFx 10) / (2 * lnFx 10)

/-- A level of `num / den` times 2^30, in 0.0025 dB over 0 dBFS, as 0.01 dBm by a carrier's `UL_GAIN` and `RX_REF` (R163). -/
def toDbm (gain ref : Int) (num den : Nat) : Int := (quarterDb num (den * 2 ^ 30) - 25 * gain + 2) / 4 + ref

/-- The greatest `g` with (2g - 1) at most 8,192 × 10^(G/320), by `n` binary digits. -/
def gainAux (G : Int) : Nat → Nat → Nat
  | 0, g => g
  | n + 1, g =>
    let x := g + 2 ^ n
    if (2 * x - 1) ^ 320 * 10 ^ (-G).toNat ≤ 8192 ^ 320 * 10 ^ G.toNat then gainAux G n x else gainAux G n g

/-- The factor of a gain: floor(4,096 × 10^(G/320) + 0.5) (R162). -/
def gainFactor (G : Int) : Nat := gainAux G 15 0

/-- A component scaled by a gain factor, and whether it saturated (R162). -/
def gainOne (g : Nat) (x : Int) : Int × Bool := satSigned 16 (round58 (x * g) 12)

/-! ### The transform unit (R166) -/

/-- cos and sin of 2π k/n in 2^-112, exact where they are 0, ±1/2 or ±1. -/
def rootFx (k n : Nat) : Cx :=
  let one : Int := 2 ^ 112
  let r := 4 * (k % n)
  let a := 2 * piFx * (r % n) / (4 * n)
  let a2 := a * a / 2 ^ 128
  let s := (sineTerms a2 24 1 a + 2 ^ 15) / 2 ^ 16
  let c := one - (sineTerms a2 24 2 (a2 / 2) + 2 ^ 15) / 2 ^ 16
  match r / n with
  | 0 => (c, s)
  | 1 => (-s, c)
  | 2 => (-c, -s)
  | _ => (s, -c)

/-- A component of a stage in 2^-112, rounded under R58 to a 24-bit integer. -/
def stageRound (v : Int) : Int := (satSigned 24 (round58 (round58 v 48) 64)).1

/-- The sum over (x, e) of x times the `n`-th root of unity to the power e, as a stage gives it. -/
def stageSum (n : Nat) (l : List (Cx × Nat)) : Cx :=
  let v := csum (l.map (fun p => cmul p.1 (rootFx p.2 n)))
  (stageRound v.1, stageRound v.2)

/-- The stages of a transform by decimation in frequency, first radix first. -/
def stagesDif : List Nat → List Cx → List Cx
  | [], x => x
  | r :: rs, x =>
    let n := x.length
    let m := n / r
    let ys := (List.range r).map (fun k => stagesDif rs ((List.range m).map (fun i =>
      stageSum n ((List.range r).map (fun j => (lget (0, 0) x (i + j * m), k * (i + j * m)))))))
    (List.range n).map (fun k => lget (0, 0) (lget [] ys (k % r)) (k / r))

/-- The stages by decimation in time, last radix first. -/
def stagesDit : List Nat → List Cx → List Cx
  | [], x => x
  | r :: rs, x =>
    let n := x.length
    let m := n / r
    let ys := (List.range r).map (fun s => stagesDit rs ((List.range m).map (fun i => lget (0, 0) x (s + r * i))))
    (List.range n).map (fun k => stageSum n ((List.range r).map (fun s => (lget (0, 0) (lget [] ys s) (k % m), s * k))))

/-- How often a factor divides a number, at most `fuel` times. -/
def multOf (q : Nat) : Nat → Nat → Nat
  | 0, _ => 0
  | k + 1, n => if n ≠ 0 ∧ n % q = 0 then multOf q k (n / q) + 1 else 0

/-- The radices of a length in the order of the stages: 4, one 2, 3, 5. -/
def radices (n : Nat) : List Nat :=
  let a := multOf 2 13 n
  List.replicate (a / 2) 4 ++ List.replicate (a % 2) 2 ++ List.replicate (multOf 3 8 n) 3 ++ List.replicate (multOf 5 6 n) 5

/-- Whether a length has no prime factor but 2, 3 and 5. -/
def is235 (n : Nat) : Bool := n != 0 && (radices n).foldl (· * ·) 1 == n

/-- The lengths of a transform unit (R23). -/
def transformOk (n : Nat) : Bool := is235 n && (decide (n ≤ 3276) || (decide (n ≤ 4096) && (radices n).all (fun r => r % 2 == 0)))

/-- The transform of C16 samples, inverse with exponent +: 24-bit stages, then int16 at a scale shift (R166). Whether the stages decimate in
time or in frequency is open. -/
def transform (inverse : Bool) (shift : Nat) (x : List Cx) : List Cx :=
  let flip := fun (l : List Cx) => if inverse then l else l.map conj
  let rs := radices x.length
  let y := flip (if Config.transformDit then stagesDit rs.reverse (flip x) else stagesDif rs (flip x))
  y.map (fun v => ((satSigned 16 (round58 v.1 shift)).1, (satSigned 16 (round58 v.2 shift)).1))

/-! ### The darner (R164) -/

/-- A min-sum value at the darner's width. -/
def darnerSat (v : Int) : Int := (satSigned (Config.darnerWidth % 32 + 8) v).1

/-- The offset min-sum of the messages of a check but the one at `k`: the product of the signs and the least magnitude less the offset. -/
def checkMsg (q : List Int) (k : Nat) : Int :=
  let l := (q.zipIdx.filter (fun p => p.2 != k)).map (fun p => p.1)
  let m := ((l.map Int.natAbs).min?).getD 0 - Config.darnerOffset
  if l.countP (fun v => v < 0) % 2 = 1 then -(m : Int) else m

/-- The state of a darner: the sums by position and the messages by check. -/
structure DarnerSt where
  tot : List Int
  msg : List (List Int)
  deriving DecidableEq, Repr

/-- One layer: the check `r`, which joins the positions `vs`. -/
def darnerLayer (s : DarnerSt) (r : Nat) (vs : List Nat) : DarnerSt :=
  let old := lget [] s.msg r
  let q := vs.zipIdx.map (fun p => darnerSat (lget 0 s.tot p.1 - lget 0 old p.2))
  let new := (List.range q.length).map (checkMsg q)
  { tot := (vs.zip (q.zip new)).foldl (fun t p => t.set p.1 (darnerSat (p.2.1 + p.2.2))) s.tot, msg := s.msg.set r new }

/-- Whether every parity check holds. -/
def parityOk (rows : List (List Nat)) (tot : List Int) : Bool := rows.all (fun vs => vs.countP (fun v => lget 0 tot v < 0) % 2 == 0)

/-- Full iterations until every check holds after one, at most `n`. -/
def darnerRun (rows : List (List Nat)) : Nat → DarnerSt → DarnerSt
  | 0, s => s
  | n + 1, s =>
    let s := rows.zipIdx.foldl (fun s p => darnerLayer s p.2 p.1) s
    if parityOk rows s.tot then s else darnerRun rows n s

/-- The hard bits that a darner decodes from the LLRs of the positions of a code with these checks: bit i is 1 where the sum of position i is
negative (R152, R164). -/
def darnerBits (rows : List (List Nat)) (maxIter : Nat) (llrs : List Int) : Nat :=
  let s := darnerRun rows maxIter { tot := llrs.map darnerSat, msg := rows.map (fun vs => vs.map (fun _ => 0)) }
  bitMap (s.tot.zipIdx.filterMap (fun p => if p.1 < 0 then some p.2 else none))

/-- The hard bits of a code block of these parameters (R164). -/
def darner (params : List Nat) (maxIter : Nat) (llrs : List Int) : Nat :=
  darnerBits (Config.ldpcRows params) maxIter (Config.ldpcPlace params llrs)

/-! ### Soft demapping and UCI (R152, R154) -/

/-- The amplitude of a component of a QAM symbol from its bits, in units of half the distance between neighbours: Gray mapping. -/
def pam : List Bool → Int
  | [] => 1
  | b :: l => let v := 2 ^ l.length - (if l.isEmpty then 0 else pam l); if b then -v else v

/-- The points of one component of a modulation of `k` bits in that component, with their bits, first bit highest. -/
def pamPoints (k : Nat) : List (Nat × Int) :=
  (List.range (2 ^ k)).map (fun v => (v, pam ((List.range k).map (fun j => bitOf v (k - 1 - j)))))

/-- The max-log LLR of bit `j` of a component `x`, whose points lie at multiples of `a`: the smaller squared distance with bit 1 less that
with bit 0. -/
def maxLog (k j : Nat) (x a : Int) : Int :=
  let least := fun (b : Bool) => ((((pamPoints k).filter (fun p => bitOf p.1 (k - 1 - j) == b)).map
    (fun p => ((x - a * p.2) * (x - a * p.2)).toNat)).min?).getD 0
  (least true : Int) - least false

/-- An LLR as it is stored: scaled by the SINR, rounded under R58 and saturated to ±127 (R152). -/
def llrOf (sinr : Nat) (v : Int) : Int := max (-127) (min 127 (round58 (v * sinr) (Config.llrShift % 64)))

/-- The LLRs of an equalised symbol of `qm` bits: bits of I and Q alternate; π/2-BPSK (1) takes both components together. -/
def symbolLlrs (qm sinr : Nat) (a : Int) (x : Cx) : List Int :=
  if qm = 1 then [llrOf sinr (maxLog 1 0 (x.1 + x.2) (2 * a))]
  else (List.range qm).map (fun j => llrOf sinr (maxLog (qm / 2) (j / 2) (if j % 2 = 0 then x.1 else x.2) a))

/-- Bit `i` of the codeword of a UCI value of `k` bits: repetition of 1 bit, the simplex code of 2, Reed-Muller to 11 (R154). -/
def uciBit (k v i : Nat) : Bool :=
  if k = 1 then bitOf v 0
  else if k = 2 then (if i % 3 = 2 then bitOf v 0 != bitOf v 1 else bitOf v (i % 3))
  else (List.range k).foldl (fun b j => b != (bitOf v j && Config.reedMuller j (i % 32))) false

/-- How well a UCI value explains LLRs. -/
def uciMetric (llrs : List Int) (k v : Nat) : Int :=
  (llrs.zipIdx.map (fun p => if uciBit k v p.2 then -p.1 else p.1)).foldl (· + ·) 0

/-- Inserts a path into a list ranked by metric; among equal ones the earlier stays first. -/
def rankPath (m : List Bool → Nat) (p : List Bool) : List (List Bool) → List (List Bool)
  | [] => [p]
  | q :: l => if m p < m q then p :: q :: l else q :: rankPath m p l

/-- The paths of a list decoder after position `i` (R166): a frozen bit is 0; else each path goes on with both values, and the best 8 stay, ties to the
lowest path index. -/
def polarStep (m : List Bool → Nat) (frozen : Bool) (ps : List (List Bool)) : List (List Bool) :=
  if frozen then ps.map (fun p => p ++ [false])
  else ((ps.flatMap (fun p => [p ++ [false], p ++ [true]])).foldl (fun l p => rankPath m p l) []).take 8

/-- The value of `k` bits that a polar unit decodes from LLRs (R154, R166): of the best path whose CRC passes, else of the best. -/
def polarDecode (k : Nat) (llrs : List Int) : Nat :=
  let l := Config.polarPlace k llrs
  let n := l.length
  let ps := (List.range n).foldl (fun ps i => polarStep (Config.polarMetric l) (Config.polarFrozen k n i) ps) [[]]
  let info := fun (p : List Bool) => (p.zipIdx.filter (fun b => !Config.polarFrozen k n b.2)).map (fun b => b.1)
  let best := ((ps.find? (fun p => Config.polarCrcOk k (info p))).orElse (fun _ => ps.head?)).getD []
  ((info best).take k).zipIdx.foldl (fun v b => v + b2n b.1 * 2 ^ b.2) 0

/-- The UCI value of `k` bits that LLRs carry and its metric: the best codeword, the lowest value on ties; a polar unit from 12 bits. -/
def uciDecode (llrs : List Int) (k : Nat) : Nat × Int :=
  if 12 ≤ k then (polarDecode k llrs, (llrs.map (fun v => (v.natAbs : Int))).foldl (· + ·) 0)
  else (List.range (2 ^ k)).foldl (fun (b : Nat × Int) v => let m := uciMetric llrs k v; if b.2 < m then (v, m) else b) (0, uciMetric llrs k 0)

/-- Whether a correlation metric is at least 10 dB over the estimated noise (R154). -/
def overNoise (metric : Nat) (samples : List Int) : Bool := decide (10 * Config.noiseOf samples ≤ metric)

/-! ### Preamble detection (R159) -/

/-- A list at a length: cut, or filled up. -/
def padList {α : Type} (v : α) (n : Nat) (l : List α) : List α := l.take n ++ List.replicate (n - l.length) v

/-- The delay profile of an occasion: for each antenna and repetition, the received sequence times the conjugate root, padded to `n`
points, through the inverse DFT; |c|² summed. -/
def delayProfile (n : Nat) (root : List Cx) (streams : List (List Cx)) : List Nat :=
  let one := fun (x : List Cx) =>
    let prod := (x.zip root).map (fun p => c16Div (cmul p.1 (conj p.2)) (2 ^ (Config.detectorShift % 32)))
    (transform true (Config.detectorScale % 32) (padList (0, 0) n prod)).map csq
  streams.foldl (fun acc x => (acc.zip (one x)).map (fun p => p.1 + p.2)) (List.replicate n 0)

end Sys2Proof.Machine
end

