-- ==== Sys2Proof/Machine/RadioRx.lean ====
section
/-!
DEFINITION. What a completed uplink task has made of the landing records of its slot (R151-R157, R161-R163): channel estimates, weights,
equalised symbols, soft bits, UCI and measurements. Positions and sequences of 3GPP come with the PDU (log entry 20).
-/

namespace Sys2Proof.Machine

/-! ### Received resource elements (R136, R162, R189) -/

/-- Where a task receives: its core, carrier, frame and slot. -/
structure RxAt where
  core    : Nat
  carrier : Nat
  frame   : Nat
  slot    : Nat
  deriving DecidableEq, Repr

/-- The bytes of a received PRB and whether they hold poison: from the core's landing ring, or from its mirror ring for its partner's
symbols; none for one that was not received. -/
def rxPrb (d : Dev) (r : RxAt) (sym stream prb : Nat) : Option (List Byte × Bool) :=
  let is := fun (x : LandRec) => x.carrier == r.carrier && x.frame == r.frame && x.slot == r.slot && x.sym == sym && x.stream == stream
    && decide (x.first ≤ prb) && decide (prb < x.first + x.num)
  let per := 3 * fget d (regFhuCarBfp r.carrier) fldFhuCarBfpUlMw + 1
  let cut := fun (ring : Nat × Nat) (x : LandRec) =>
    ringRead d r.core ring { x with off := (x.off + 16 + (prb - x.first) * per) % ring.2, len := per }
  match (ringsOf d r.core).land.find? is with
  | some x => some (cut (landRing r.core) x)
  | none => ((ringsOf d r.core).mirror.find? is).map (cut (mirrorRing d r.core))

/-- Sample `k` of a PRB's bytes at a mantissa width (R135, R136). -/
def bfpSample (mw : Nat) (bs : List Byte) (k : Nat) : Cx :=
  let bits := leNat (bs.drop 1).reverse
  let m := fun (j : Nat) => toSigned mw (bits >>> (mw * (23 - j)))
  let e := leNat (bs.take 1) % 16
  (m (2 * k) * 2 ^ e, m (2 * k + 1) * 2 ^ e)

/-- A received resource element after expansion and `UL_GAIN`, and the saturations of the gain (R162); one that was not received is 0. -/
def rxGain (d : Dev) (r : RxAt) (sym ant sc : Nat) : Cx × Nat :=
  match rxPrb d r sym ant (sc / 12) with
  | none => ((0, 0), 0)
  | some (bs, _) =>
    let g := gainFactor (toSigned 11 (fact d (regRadioCarGain r.carrier) fldRadioCarGainUlGain))
    let x := bfpSample (fget d (regFhuCarBfp r.carrier) fldFhuCarBfpUlMw) bs (sc % 12)
    let i := gainOne g (satSigned 16 x.1).1
    let q := gainOne g (satSigned 16 x.2).1
    ((i.1, q.1), b2n i.2 + b2n q.2)

/-- The value of a received resource element. -/
def rxRe (d : Dev) (r : RxAt) (sym ant sc : Nat) : Cx := (rxGain d r sym ant sc).1

/-- The antennas of a task's carrier. -/
def rxAnts (d : Dev) (r : RxAt) : List Nat := List.range (kindAnts (fget d (regRadioCarCfg r.carrier) fldRadioCarCfgKind))

/-- The resource elements that a PDU's reception uses, as (symbol, subcarrier). -/
def rxUsed (x : RxCfg) : List (Nat × Nat) := (((x.ports ++ [x.ptrs] ++ x.seqs).flatten).map (fun p => (p.sym, p.sc))) ++ x.data

/-- Whether the reception of a PDU uses poison (R142, R172). -/
def rxPoison (d : Dev) (r : RxAt) (x : RxCfg) : Bool :=
  (rxUsed x).any (fun p => (rxAnts d r).any (fun a => match rxPrb d r p.1 a (p.2 / 12) with
    | some (_, b) => b
    | none => false))

/-- The saturations of the gain over what a PDU's reception uses (R162). -/
def rxSats (d : Dev) (r : RxAt) (x : RxCfg) : Nat :=
  (((rxUsed x).eraseDups).flatMap (fun p => (rxAnts d r).map (fun a => (rxGain d r p.1 a p.2).2))).sum

/-! ### Channel estimates and tracking (R151, R155-R157) -/

/-- The least-squares estimate on a pilot at an antenna, as C16 (R151 step 1). -/
def lsEst (d : Dev) (r : RxAt) (a : Nat) (p : Pilot) : Cx :=
  let y := cmul (rxRe d r p.sym a p.sc) (p.i, -p.q)
  let s : Int := 2 ^ (Config.estShift % 8)
  c16Div (y.1 * s, y.2 * s) (max 1 (csq (p.i, p.q)))

/-- The symbols of a list of pilots, rising. -/
def pilotSyms (l : List Pilot) : List Nat := (l.map (fun p => p.sym)).foldl natPut []

/-- The sum of conjugate products of neighbours in a list. -/
def lagSum : List Cx → Cx
  | a :: b :: l => csum [cmul b (conj a), lagSum (b :: l)]
  | _ => (0, 0)

/-- The phase slope across pilot subcarriers in 2^-32 of a cycle for each pilot spacing (R157). -/
def slope32 (d : Dev) (r : RxAt) (x : RxCfg) : Int :=
  angle32 (csum (x.ports.flatMap (fun ps => (rxAnts d r).flatMap (fun a => (pilotSyms ps).map (fun s =>
    lagSum ((ps.filter (fun p => p.sym == s)).map (lsEst d r a)))))))

/-- The pilots of an offset measurement: the PTRS when it lies in two symbols, else the DMRS (R156). -/
def cfoPilots (x : RxCfg) : List Pilot :=
  if 2 ≤ (pilotSyms x.ptrs).length then x.ptrs else (x.ports.head?).getD []

/-- The measured carrier-frequency offset in Hz as FP32: the phase advance per pilot spacing divided by the spacing (R156). -/
def cfoMeas (d : Dev) (r : RxAt) (x : RxCfg) : Option Nat :=
  let ps := cfoPilots x
  let syms := pilotSyms ps
  let first := lget 0 syms 0
  let last := (syms.getLast?).getD 0
  if first = last then none
  else
    let at_ := fun (s a : Nat) => (ps.filter (fun p => p.sym == s)).map (lsEst d r a)
    let adv := angle32 (csum ((syms.zip (syms.drop 1)).flatMap (fun q => (rxAnts d r).flatMap (fun a =>
      ((at_ q.1 a).zip (at_ q.2 a)).map (fun h => cmul h.2 (conj h.1))))))
    let mu := carMu d r.carrier
    let span := symTime d mu r.frame r.slot last - symTime d mu r.frame r.slot first
    some (fp32 (ratVal (adv < 0) (adv.natAbs * 8000000000 * (syms.length - 1)) (2 ^ 32 * max 1 span) 0)).1

/-- Whether a tracker is kept at a slot time (R156): a PUSCH or PUCCH of its RNTI lies in the last 64 slots. -/
def Tracker.live (k : Tracker) (mu t : Nat) : Bool := decide (t < k.seen + 64 * 8000000 / 2 ^ mu)

/-- The tracker of an RNTI at a slot. -/
def trkOf (d : Dev) (r : RxAt) (rnti : Nat) : Option Tracker :=
  let mu := carMu d r.carrier
  (tget [] d.sp.trk r.carrier).find? (fun k => k.rnti == rnti && k.live mu (slotStart d mu r.frame r.slot))

/-- The tracked offset of an RNTI in Hz, 0 without a tracker (R156). -/
def trkVal (d : Dev) (r : RxAt) (rnti : Nat) : Val := ((trkOf d r rnti).map (fun k => Fmt.fp32.decode k.hz)).getD (.fin false 0 0)

/-- A finite value times a quotient of integers, to the nearest integer, ties towards +∞. -/
def valTimes (v : Val) (num : Int) (den : Nat) : Int :=
  match v with
  | .fin s m q =>
    let a : Int := (if s then -1 else 1) * (m : Int) * num
    if 0 ≤ q then divNear (a * 2 ^ q.toNat) (max 1 den) else divNear a (max 1 den * 2 ^ (-q).toNat)
  | _ => 0

/-- The common phase of a symbol relative to the first DMRS symbol in 2^-32 of a cycle (R155): of its PTRS or the nearest PTRS symbol before
it; without, extrapolated by the tracked offset. -/
def symPhase (d : Dev) (r : RxAt) (x : RxCfg) (rnti sym : Nat) : Int :=
  let ref := lget 0 (pilotSyms x.ports.flatten) 0
  match ((pilotSyms x.ptrs).filter (fun s => decide (s ≤ sym))).getLast? with
  | some s =>
    let port := ((x.ports.head?).getD []).filter (fun p => p.sym == ref)
    angle32 (csum ((x.ptrs.filter (fun p => p.sym == s)).flatMap (fun p => (rxAnts d r).map (fun a =>
      let near := ((port.filter (fun k => decide (k.sc ≤ p.sc))).getLast?).getD p
      cmul (lsEst d r a p) (conj (lsEst d r a near))))))
  | none =>
    let mu := carMu d r.carrier
    let dt : Int := (symTime d mu r.frame r.slot sym : Int) - symTime d mu r.frame r.slot ref
    valTimes (trkVal d r rnti) (dt * 2 ^ 32) 8000000000

/-- A sample turned by `CNCO` with a phase in 2^-32 of a cycle (R132, R155). -/
def turn (ph : Int) (v : Cx) : Cx :=
  let k := ofSigned 32 ph / 2 ^ 22
  c16Div (cmul v (sine1024 (k + 256), sine1024 k)) (2 ^ 15)

/-- The correction of a symbol's sample on a subcarrier: minus its phase when `CFO_CORR`, minus the timing slope when `TA_CORR` (R155). -/
def fixPhase (d : Dev) (r : RxAt) (x : RxCfg) (rnti : Nat) (slope : Int) (sym sc : Nat) (v : Cx) : Cx :=
  let k := regRadioCarTrk r.carrier
  let ph := if fact d k fldRadioCarTrkCfoCorr = 1 then symPhase d r x rnti sym else 0
  let pi_ := if fact d k fldRadioCarTrkTaCorr = 1 then divNear slope (max 1 x.comb) else 0
  turn (-ph - ((sc : Int) - 12 * x.prb) * pi_) v

/-- The least power of two, as an exponent, that is at least a number. -/
def log2Up (n : Nat) : Nat := if n ≤ 1 then 0 else Nat.log2 (n - 1) + 1

/-- The delay-domain filter of a symbol's estimates: a transform pair of the next power of two, taps beyond the delay spread zero (R151
step 3). -/
def delayFilter (h : List Cx) : List Cx :=
  let k := log2Up h.length
  let taps := Config.delayTaps (h.flatMap (fun v => [v.1, v.2]))
  let y := (transform true k (padList (0, 0) (2 ^ k) h)).zipIdx.map (fun p => if p.2 < taps then p.1 else (0, 0))
  (transform false 0 y).take h.length

/-- Filtered estimates of a port at an antenna: by DMRS symbol, with the first subcarrier of its pilots. -/
structure ChanEst where
  sym : Nat
  sc  : Nat
  h   : List Cx
  deriving DecidableEq, Repr

/-- The estimates of a port at an antenna (R151 steps 1 to 3). -/
def portEst (d : Dev) (r : RxAt) (x : RxCfg) (rnti : Nat) (slope : Int) (ps : List Pilot) (a : Nat) : List ChanEst :=
  (pilotSyms ps).map (fun s =>
    let l := ps.filter (fun p => p.sym == s)
    { sym := s, sc := ((l.head?).map (fun p => p.sc)).getD 0
      h := delayFilter (l.map (fun p => fixPhase d r x rnti slope s p.sc (lsEst d r a p))) })

/-- The estimate at a subcarrier: of the pilot at or below it. -/
def ChanEst.at_ (e : ChanEst) (comb sc : Nat) : Cx := lget (0, 0) e.h (min (e.h.length - 1) ((sc - e.sc) / max 1 comb))

/-- The estimate at a resource element: linear in time between DMRS symbols, constant outside them (R151 step 4). -/
def estAt (es : List ChanEst) (comb sym sc : Nat) : Cx :=
  let before := (es.filter (fun e => decide (e.sym ≤ sym))).getLast?
  let after := (es.filter (fun e => decide (sym < e.sym))).head?
  match before, after with
  | some a, some b =>
    let (u, v) := (a.at_ comb sc, b.at_ comb sc)
    let n := b.sym - a.sym
    (u.1 + divNear ((v.1 - u.1) * (sym - a.sym : Nat)) n, u.2 + divNear ((v.2 - u.2) * (sym - a.sym : Nat)) n)
  | some a, none => a.at_ comb sc
  | none, some b => b.at_ comb sc
  | none, none => (0, 0)

/-! ### Equalisation and soft bits (R151-R153) -/

/-- The reception of a PDU: its receiver's data, RNTI and timing slope, and its estimates by port and antenna. -/
structure Reception where
  at_   : RxAt
  cfg   : RxCfg
  rnti  : Nat
  slope : Int
  ests  : List (List (List ChanEst))
  deriving DecidableEq, Repr

/-- The reception of a PDU of a slot on a core. -/
def receive (d : Dev) (r : RxAt) (x : RxCfg) (rnti : Nat) : Reception :=
  let slope := slope32 d r x
  { at_ := r, cfg := x, rnti := rnti, slope := slope, ests := x.ports.map (fun ps => (rxAnts d r).map (portEst d r x rnti slope ps)) }

/-- A received and corrected resource element at each antenna. -/
def Reception.re (d : Dev) (q : Reception) (sym sc : Nat) : List Cx :=
  (rxAnts d q.at_).map (fun a => fixPhase d q.at_ q.cfg q.rnti q.slope sym sc (rxRe d q.at_ sym a sc))

/-- The channel at a resource element, by port and antenna. -/
def Reception.chan (q : Reception) (sym sc : Nat) : List (List Cx) := q.ests.map (fun p => p.map (fun es => estAt es q.cfg.comb sym sc))

/-- The residual at each antenna of a DMRS resource element: what the estimates of its ports do not explain. -/
def Reception.residual (d : Dev) (q : Reception) (sym sc : Nat) : List Cx :=
  let one : Nat := 2 ^ (Config.estShift % 8)
  let sent := (q.cfg.ports.zip (q.chan sym sc)).filterMap (fun p => (p.1.find? (fun k => k.sym == sym && k.sc == sc)).map (fun k => (k, p.2)))
  (q.re d sym sc).zipIdx.map (fun y => csub y.1 (csum (sent.map (fun k => c16Div (cmul (lget (0, 0) k.2 y.2) (k.1.i, k.1.q)) one))))

/-- The DMRS resource elements of a PRB, or of all. -/
def Reception.dmrs (q : Reception) (prb : Option Nat) : List (Nat × Nat) :=
  ((q.cfg.ports.flatten.map (fun p => (p.sym, p.sc))).eraseDups).filter (fun p => match prb with
    | some b => p.2 / 12 == b
    | none => true)

/-- The noise-and-interference covariance of a PRB from its DMRS residuals (R151), by pairs of antennas. -/
def Reception.covar (d : Dev) (q : Reception) (prb : Nat) : List Cx :=
  let rs := (q.dmrs (some prb)).map (fun p => q.residual d p.1 p.2)
  let n := (rxAnts d q.at_).length
  (List.range (n * n)).map (fun k => csum (rs.map (fun v => cmul (lget (0, 0) v (k / n)) (conj (lget (0, 0) v (k % n))))))

/-- The components of complex numbers. -/
def flatC (l : List Cx) : List Int := l.flatMap (fun v => [v.1, v.2])

/-- FP32 words as C16 components with a block exponent (R151): each is its integer times 2^(exponent − 30), rounded under R58 (log entry 125). -/
def blockC16 (ws : List Nat) : Nat × List Int :=
  let l := ws.map (fun w => valTimes (Fmt.fp32.decode w) (2 ^ 30) 1)
  let e := smallestFit 16 l 0 160
  (e, l.map (fun v => (satSigned 16 (round58 v e)).1))

/-- The equalised layers of a resource element with their SINRs (R151): the weights of its PRB, FP32 turned to C16 with a block exponent, applied
in mode P4. -/
def Reception.layers (d : Dev) (q : Reception) (sym sc : Nat) : List (Cx × Nat) :=
  let y := q.re d sym sc
  let h := q.chan sym (sc / 12 * 12)
  let v := h.length
  let inputs := flatC h.flatten ++ flatC (q.covar d (sc / 12))
  let (e, w) := blockC16 (padList 0 (2 * v * y.length) (Config.mmseWeights inputs))
  let sinr := Config.mmseSinr inputs
  (List.range v).map (fun l =>
    let ws := (List.range y.length).map (fun a => let k := 2 * (l * y.length + a); (lget 0 w k, lget 0 w (k + 1)))
    let s := csum ((y.zip ws).map (fun p => cmul p.2 p.1))
    (c16Div (s.1 * 2 ^ (e - 30), s.2 * 2 ^ (e - 30)) (2 ^ (30 - e)), lget 0 sinr l))

/-- The symbols of the data resource elements by layer, with SINRs; DFT-s-OFDM symbols are transformed back (R153). -/
def Reception.symbols (d : Dev) (q : Reception) : List (List (Cx × Nat)) :=
  let raw := q.cfg.data.map (fun p => (p.1, q.layers d p.1 p.2))
  if !q.cfg.dft then raw.map (fun p => p.2)
  else
    let syms := (q.cfg.data.map (fun p => p.1)).foldl natPut []
    syms.flatMap (fun s =>
      let res := (raw.filter (fun p => p.1 == s)).map (fun p => p.2)
      let v := ((res.head?).map List.length).getD 0
      let back := (List.range v).map (fun l => transform true (log2Up res.length) (res.map (fun e => (lget ((0, 0), 0) e l).1)))
      res.zipIdx.map (fun e => e.1.zipIdx.map (fun k => (lget (0, 0) (lget [] back k.2) e.2, k.1.2))))

/-- The soft bits of a PDU in the order of its codeword (R152): layers of a resource element, bits of a symbol; those of π/2-BPSK after
the turn of every second symbol. -/
def Reception.llrs (d : Dev) (q : Reception) : List Int :=
  ((q.symbols d).flatten).zipIdx.flatMap (fun e =>
    let x := if q.cfg.qm = 1 ∧ e.2 % 2 = 1 then cmul e.1.1 (0, -1) else e.1.1
    symbolLlrs q.cfg.qm e.1.2 (Config.qamUnit q.cfg.qm) x)

/-- A soft bit with its scrambling removed. -/
def llrAt (x : RxCfg) (l : List Int) (i : Nat) : Int :=
  let v := lget 0 l i
  if ((x.place[i]?).map (fun p => p.flip)).getD false then -v else v

/-- Writes the soft bits of a PDU to the core's twin-access region in circular-buffer order: those of one position add up, saturating, and
every other position is 0 (R152, R169). -/
def putLlrs (d : Dev) (c : Nat) (x : RxCfg) (l : List Int) : Dev :=
  if x.llrLen = 0 ∨ 0x80000 < x.llrOff + x.llrLen then d
  else
    let v := x.place.zipIdx.foldl (fun (t : List Int) p => if x.llrOff ≤ p.1.off then
        t.modify (p.1.off - x.llrOff) (fun o => max (-127) (min 127 (o + llrAt x l p.2))) else t) (List.replicate x.llrLen 0)
    devWrite d (storeAddr c x.llrOff) (v.map (fun y => BitVec.ofInt 8 y)) false

/-! ### UCI and measurements (R154, R157, R161, R163) -/

/-- The UCI of PUCCH formats 0 and 1 (R154, R155): the candidate sequence that correlates best with the corrected samples, where it is 10 dB over
the noise; its number is the HARQ-ACK value with the SR above it. Without HARQ-ACK a detection is a positive SR. -/
def seqUci (d : Dev) (q : Reception) : Uci :=
  let ys := fun (a : Nat) (s : List Pilot) => s.map (fun p => lget (0, 0) (q.re d p.sym p.sc) a)
  let metric := fun (s : List Pilot) =>
    ((rxAnts d q.at_).map (fun a => csq (csum (((ys a s).zip s).map (fun p => cmul p.1 (p.2.i, -p.2.q)))))).sum
  let x := q.cfg
  let best := x.seqs.zipIdx.foldl (fun (b : Nat × Nat) s => let m := metric s.1; if b.2 < m then (s.2, m) else b) (0, 0)
  let all := (rxAnts d q.at_).flatMap (fun a => x.seqs.flatMap (fun s => flatC (ys a s)))
  if !overNoise best.2 all then {}
  else if x.ack = 0 then { sr := some 1 } else { ack := some (best.1 % 2 ^ x.ack), sr := some (best.1 / 2 ^ x.ack % 2) }

/-- A UCI field of soft bits, where its metric is over the threshold (R154). -/
def fieldUci (l : List Int) (bits : Nat) : Option Nat :=
  if bits = 0 then none
  else
    let r := uciDecode l bits
    if overNoise (r.2 * r.2).toNat l then some r.1 else none

/-- The UCI that a PDU carries (R154): in formats 2 to 4 one codeword of all its bits, HARQ-ACK first, then SR and CSI part 1, and one of CSI part 2;
on PUSCH a codeword for HARQ-ACK and for each CSI part. -/
def uciOf (d : Dev) (q : Reception) (l : List Int) : Uci :=
  let x := q.cfg
  let part := fun (at_ : List Nat) (bits : Nat) => fieldUci (at_.map (llrAt x l)) bits
  if x.format ≤ 1 then seqUci d q
  else if x.format ≤ 4 then
    let v := part x.ackAt (x.ack + x.sr + x.csi)
    { ack := v.map (fun v => v % 2 ^ x.ack), sr := v.map (fun v => v / 2 ^ x.ack % 2 ^ x.sr), csi := v.map (fun v => v / 2 ^ (x.ack + x.sr))
      csi2 := part x.csi2At x.csi2 }
  else { ack := part x.ackAt x.ack, csi := part x.csiAt x.csi, csi2 := part x.csi2At x.csi2 }

/-- A value of 0.01 dB with the error of its computation, at most 0.05 dB (R161), in a range. -/
def withError (lo hi : Int) (inputs : List Int) (v : Int) : Int := max lo (min hi (v + ((Config.measError inputs % 11 : Nat) : Int) - 5))

/-- RSRP, SINR, timing and offset of a PDU (R156, R157, R161, R163). -/
def Reception.meas (d : Dev) (q : Reception) (f : Option Val) : Meas :=
  let r := q.at_
  let hs := q.cfg.ports.flatMap (fun ps => (rxAnts d r).flatMap (fun a => ps.map (lsEst d r a)))
  let power := (q.cfg.ports.flatMap (fun ps => (rxAnts d r).flatMap (fun a => ps.map (fun p => csq (lsEst d r a p) * csq (p.i, p.q))))).sum
  if power = 0 then {}
  else
    let gain := toSigned 11 (fact d (regRadioCarGain r.carrier) fldRadioCarGainUlGain)
    let ref := toSigned 16 (fact d (regRadioCarRxref r.carrier) fldRadioCarRxrefRxRef)
    let one := 2 ^ (2 * (Config.estShift % 8))
    let noise := ((q.dmrs none).map (fun p => ((q.residual d p.1 p.2).map csq).sum)).sum
    let sinr := if noise = 0 then 6400 else (quarterDb power (noise * one) + 2) / 4
    { rsrp := some (withError (-14000) 3000 (flatC hs) (toDbm gain ref power (hs.length * one)))
      sinr := some (withError (-3200) 6400 (flatC hs) sinr)
      cfo := f.map (fun v => max (-32767) (min 32767 (valTimes v 1 1)))
      ns := some (divNear (-q.slope * 1000000000) (2 ^ 32 * max 1 q.cfg.comb * (15000 * 2 ^ carMu d r.carrier)))
      ta := some (max 0 (min 63 (divNear (-q.slope * 128) (2 ^ 32 * max 1 q.cfg.comb)))) }

/-- The channel estimates of an SRS by RB group, C16 by antenna and port with a block exponent for each group (R161). -/
def srsEsts (d : Dev) (r : RxAt) (x : RxCfg) : List SrsEst :=
  let n := max 1 x.group
  (List.range ((x.prbs + n - 1) / n)).map (fun g =>
    let mean := fun (ps : List Pilot) (a : Nat) =>
      let l := (ps.filter (fun p => decide (x.prb + g * n ≤ p.sc / 12) && decide (p.sc / 12 < x.prb + (g + 1) * n))).map (lsEst d r a)
      let s := csum l
      (divNear (s.1 * 256) (max 1 l.length), divNear (s.2 * 256) (max 1 l.length))
    let vs := x.ports.flatMap (fun ps => (rxAnts d r).map (mean ps))
    let e := smallestFit 16 (flatC vs) 0 16
    { exp := e, vals := vs.map (fun v => (round58 v.1 e, round58 v.2 e)) })

end Sys2Proof.Machine
end

