-- ==== Sys2Proof/Machine/RadioTx.lean ====
section
/-!
DEFINITION. What a completed downlink task makes of the coded bits of its slot (R29, R145, R162): scrambling, modulation, layer mapping,
precoding, gain and compression into the transmit ring. Sequences and mappings of 3GPP come with the PDU (log entry 145).
-/

namespace Sys2Proof.Machine

/-- Coded bit `i` of a PDU after scrambling (R29 stage 2), from the bytes that its encoder jobs made. -/
def txBit (bs : List Byte) (x : TxCfg) (i : Nat) : Bool := bitOf (lget 0 bs (i / 8)).toNat (i % 8) != bitOf x.scram i

/-- Modulation symbol `i` of a PDU: bits of I and Q alternate. -/
def txSymbol (bs : List Byte) (x : TxCfg) (i : Nat) : Cx :=
  let part := fun (o : Nat) => Config.txUnit x.qm * pam ((List.range (x.qm / 2)).map (fun j => txBit bs x (x.qm * i + 2 * j + o)))
  (part 0, part 1)

/-- What a PDU sends on a layer of a resource element: a reference signal or sequence, else its data symbol, symbols going to the layers in turn
(R29 stage 3). -/
def txLayer (bs : List Byte) (x : TxCfg) (sym sc l : Nat) : Cx :=
  match (lget [] x.pilots l).find? (fun p => p.sym == sym && p.sc == sc) with
  | some p => (p.i, p.q)
  | none => if x.data.contains (sym, sc) then txSymbol bs x (x.data.idxOf (sym, sc) * x.layers + l) else (0, 0)

/-- The sample of an antenna on a resource element: the layers of all PDUs precoded, as C16 (R29 stage 3). -/
def txSample (pdus : List (TxCfg × List Byte)) (ant sym sc : Nat) : Cx :=
  c16Div (csum (pdus.flatMap (fun p => (List.range p.1.layers).map (fun l => cmul (lget (0, 0) (lget [] p.1.weights ant) l) (txLayer p.2 p.1 sym sc l)))))
    (2 ^ (Config.precShift % 32))

/-- The lanes of a PRB after the downlink gain, and its saturations (R162). -/
def txLanes (g : Nat) (pdus : List (TxCfg × List Byte)) (ant sym prb : Nat) : List Lane × Nat :=
  let l := (List.range 12).map (fun k => let v := txSample pdus ant sym (12 * prb + k); (gainOne g v.1, gainOne g v.2))
  (l.map (fun v => { i := v.1.1, q := v.2.1 }), (l.map (fun v => b2n v.1.2 + b2n v.2.2)).sum)

/-- Whether a PDU uses a symbol. -/
def txUses (x : TxCfg) (sym : Nat) : Bool := x.data.any (fun p => p.1 == sym) || x.pilots.any (fun l => l.any (fun p => p.sym == sym))

/-- Whether a PDU uses a PRB of a symbol. -/
def txUsesPrb (x : TxCfg) (sym prb : Nat) : Bool :=
  x.data.any (fun p => p.1 == sym && p.2 / 12 == prb) || x.pilots.any (fun l => l.any (fun p => p.sym == sym && p.sc / 12 == prb))

/-- Whether the coded bits of a PDU are made on a core (R29 stage 1): encoding ends before the first symbol is modulated (R30). -/
def DlPdu.ready (p : DlPdu) (c : Nat) : Bool := p.tx.bits == 0 || decide (p.tx.blocks ≤ p.coded.count c)

/-- Where the coded bits of a PDU lie on a core, and their bytes. -/
def DlPdu.span (p : DlPdu) (c : Nat) : Nat × Nat := (storeAddr c p.tx.src, (p.tx.bits + 7) / 8)

/-- A symbol of a slot on one stream, compressed at `DL_MW`, goes to the transmit ring of a core as far as that has room (R29 stage 4, R189). PRBs
made of poisoned bits are marked; `all` marks every one (R172). -/
def makeStream (d : Dev) (c carrier frame slot sym : Nat) (pdus : List DlPdu) (all : Bool) (ant : Nat) : Dev :=
  let mw := fget d (regFhuCarBfp carrier) fldFhuCarBfpDlMw
  let g := gainFactor (toSigned 11 (fact d (regRadioCarGain carrier) fldRadioCarGainDlGain))
  let src := pdus.map (fun p => (p.tx, devRead d (p.span c).1 (p.span c).2))
  let prbs := (List.range (fget d (regRadioCarCfg carrier) fldRadioCarCfgPrb)).map (fun b => (b, txLanes g src ant sym b))
  let per := 3 * mw + 1
  let bs := prbs.flatMap (fun x => bfpBytes mw (prbExp mw x.2.1) x.2.1)
  let bad := prbs.filter (fun x => all || pdus.any (fun p => txUsesPrb p.tx sym x.1 && isPoisoned d (p.span c).1 (p.span c).2))
  let l := (ringsOf d c).tx
  if (txRing c).2 < recsLen l + bs.length then d
  else
    let off := ringNext l (txRing c).2
    let r : LandRec := { carrier := carrier, frame := frame, slot := slot, sym := sym, stream := ant, num := prbs.length, off := off, len := bs.length }
    let d := ringAdd (countSat d c 0 (prbs.map (fun x => x.2.2)).sum) c (txRing c) [(r, bs)] (fun x => x.tx) (fun x l => { x with tx := l })
    bad.foldl (fun d x => ringMark d c (txRing c) ((off + x.1 * per) % (txRing c).2) per) d

/-- A completed downlink task makes its symbols on the core of their side, each once all PDUs of the slot that use it have their coded bits
(R29, R30). -/
def makeDl (d : Dev) (t : Task) (c : Nat) (all : Bool) : Dev :=
  let w := slotW d t.carrier t.frame t.slot
  let ants := List.range (kindAnts (fget d (regRadioCarCfg t.carrier) fldRadioCarCfgKind))
  (t.syms.filter (fun sym => (roleOf d c).all (fun r => sym % 2 == r.2))).foldl (fun d sym =>
    let pdus := w.dlPdus.filter (fun p => txUses p.tx sym)
    if pdus.all (fun p => p.ready c) then
      ants.foldl (fun d a => if (madeSym d c t.carrier t.frame t.slot sym a).isSome then d else makeStream d c t.carrier t.frame t.slot sym pdus all a) d
    else d) d

end Sys2Proof.Machine
end

