-- ==== Sys2Proof/Machine/Radio.lean ====
section
/-!
DEFINITION. The slot planner's tasks, the instructions of the signal datapath as a task runs them, FAPI requests, slot boundaries and
ticks, radio accelerators and soft combining (R139-R144, R155-R177, R188-R217).
-/

namespace Sys2Proof.Machine

/-! ### Tasks (R212-R214) -/

/-- Whether a carrier is enabled: `ENABLE` is 1 or it has not stopped. -/
def carEnabled (d : Dev) (n : Nat) : Bool := fget d (regRadioCarCtrl n) fldRadioCarCtrlEnable == 1 || carState d n != 0

/-- The task is released on a core (R204, R212): a lent core is reclaimed; an urgent one interrupts the task that runs, after those that wait for
its handler (R213). -/
def releaseOn (d : Dev) (c ns : Nat) (t : Task) : Dev :=
  let d := reclaim d c ns 0
  let t := { t with again := false }
  if t.urgent && (tget? d.sp.running c).isSome then sigIrq (modSp d (fun s => { s with urgent := tmod [] s.urgent c (fun l => l ++ [t]) })) c
  else modSp d (fun s => { s with queue := tmod [] s.queue c (fun l => l ++ [t]) })

/-- The PDUs that a task works on; a preamble detector works on a PRACH occasion. -/
def taskPdus (d : Dev) (t : Task) : List UlPdu :=
  (slotW d t.carrier t.frame t.slot).pdus.filter (fun p => t.pdus.contains p.idx && p.kind != 2)

/-- Whether the release event of a task has come (R28, R212): its tick, and of an uplink task the landing of what its PDUs use, or the close of its
receive window. -/
def taskDue (d : Dev) (t : Task) : Bool :=
  let w := slotW d t.carrier t.frame t.slot
  let ants := List.range (kindAnts (fget d (regRadioCarCfg t.carrier) fldRadioCarCfgKind))
  decide (t.release ≤ slotNow d) && (!t.uplink || (taskPdus d t).all (fun p => (rxUsed p.rx).all (fun e =>
    ants.all (fun a => bitOf (tget 0 w.got (e.1 * 128 + a)) (e.2 / 12)) || rxOver d t.carrier t.frame t.slot e.1)))

/-- TASK_RELEASE (R212): the planner releases a task of a running carrier on the core of its pair and side, not before its release event; `ns` is
the time a reclaim takes. A task of a role that no core holds, or whose uplink inputs are gone, misses its slot (R216). -/
def taskRelease (d : Dev) (t : Task) (side ns : Nat) : Dev :=
  match carOf d t.carrier with
  | none => d
  | some k =>
    if carState d t.carrier = 0 || !taskDue d t then d
    else
      let c := pairCore d k.pair side
      if c = noCore || inputsGone d t side then taskMiss d t else releaseOn d c ns t

/-- Whether a task goes before another (R213, R214): one that a fault interrupted, then earlier deadline, lower carrier, lower index. -/
def taskBefore (a b : Task) : Bool :=
  if a.again != b.again then a.again
  else decide (a.deadline < b.deadline) || (a.deadline == b.deadline && (decide (a.carrier < b.carrier)
    || (a.carrier == b.carrier && decide (a.index < b.index))))

/-- The task to start first. -/
def firstTask : List Task → Option Task
  | [] => none
  | t :: l => match firstTask l with
    | none => some t
    | some x => if taskBefore x t then some x else some t

/-- The inputs that the planner gives a task: the factors of the carrier's gains (R162) and, on the downlink, the bodies and payloads of the
slot's requests as they stand in host memory (R150, R200). -/
def taskInput (d : Dev) (t : Task) : List Byte :=
  let g := fun (f : Fld) => natLe 2 (gainFactor (toSigned 11 (fact d (regRadioCarGain t.carrier) f)))
  g fldRadioCarGainUlGain ++ g fldRadioCarGainDlGain
    ++ (if t.uplink then [] else (slotW d t.carrier t.frame t.slot).refs.flatMap (fun r => hostRead d r.addr r.len))

/-- TASK_START (R125, R150, R213): a free core starts its first task with a program of at most 2,048 instructions, its start and its
handler's index; its inputs are built anew at offset `at_` of its twin-access region. -/
def taskStart (d : Dev) (c : Nat) (code : List Nat) (start vector at_ : Nat) : Dev :=
  match firstTask (tget [] d.sp.queue c) with
  | none => d
  | some t =>
    if (tget? d.sp.running c).isSome || sigRuns d c || coreFenced d c || 2048 < code.length || (coreSt d c).borrowed.isSome then d
    else
      let d := devWrite d (storeAddr c at_) ((taskInput d t).take (0x80000 - at_)) false
      let d := modSp d (fun s => { s with
        queue := tset s.queue c (dropFirst (· == t) (tget [] s.queue c))
        running := tset s.running c t })
      let d := modSig d c (fun s => { s with code := code.zipIdx.map (fun p => (p.2, p.1)) })
      let d := fset (fset d (regSigEntry c) fldSigEntryStart start) (regSigEntry c) fldSigEntryVector vector
      sigStart (commitReg (setReg d (regCoreCtx c) 0) (regCoreCtx c)) c

/-- Whether any task of a slot waits or runs on the cores of a carrier's pair. -/
def slotBusy (d : Dev) (t : Task) : Bool :=
  let same := fun (x : Task) => x.carrier == t.carrier && x.frame == t.frame && x.slot == t.slot
  d.sp.running.any (fun p => same p.2) || d.sp.urgent.any (fun p => p.2.any same) || d.sp.queue.any (fun p => p.2.any same)

/-- Whether a slot has uplink work that no task has done yet. -/
def slotUnread (d : Dev) (t : Task) : Bool := (slotW d t.carrier t.frame t.slot).pdus.any (fun p => !p.seen)

/-- Releases the landing and mirror records that satisfy a test, and with `tx` those of the transmit rings (R189). -/
def freeRecs (d : Dev) (tx : Bool) (test : LandRec → Bool) : Dev :=
  let mark := fun (l : List LandRec) => dropFree (l.map (fun r => if test r then { r with free := true } else r))
  modSp d (fun s => { s with rings := s.rings.map (fun p =>
    (p.1, { land := mark p.2.land, mirror := mark p.2.mirror, tx := if tx then mark p.2.tx else p.2.tx })) })

/-- The landing and mirror records of a slot are released once every task that reads them has completed (R149, R189). -/
def releaseRecs (d : Dev) (t : Task) : Dev :=
  if slotBusy d t || slotUnread d t then d
  else freeRecs d false (fun r => r.carrier == t.carrier && r.frame == t.frame && r.slot == t.slot)

/-- At a slot boundary the records of past slots that no task reads are released. -/
def releaseOld (d : Dev) : Dev :=
  freeRecs d true (fun r =>
    let t : Task := { carrier := r.carrier, index := 0, frame := r.frame, slot := r.slot }
    decide (slotStart d (carMu d r.carrier) r.frame (r.slot + 1) ≤ slotNow d) && !slotBusy d t && !slotUnread d t)

/-- The frequency trackers of a carrier after a PUSCH or PUCCH of an RNTI in a slot (R156): those of the last 64 slots stay, and its own is kept or
moved by the slot's first measurement `m`, f + (m − f) × 2^−`TRK_SHIFT` in FP32 (log entry 146). A carrier holds 256, the latest moved first. -/
def track (d : Dev) (carrier frame slot rnti : Nat) (m : Option Nat) : Dev :=
  let sh := min 4 (fact d (regRadioCarTrk carrier) fldRadioCarTrkTrkShift)
  let mu := carMu d carrier
  let t := slotStart d mu frame slot
  let l := (tget [] d.sp.trk carrier).filter (fun k => k.live mu t)
  let next : List Tracker := match l.find? (fun k => k.rnti == rnti), m with
    | none, none => l
    | none, some v => { rnti := rnti, hz := v % 2 ^ 32, at_ := t, seen := t } :: l
    | some k, m =>
      let k := { k with seen := max k.seen t }
      match m.filter (fun _ => k.at_ != t) with
      | none => l.map (fun x => if x.rnti == rnti then k else x)
      | some v =>
        let a := Fmt.fp32.decode k.hz
        let diff := Fmt.fp32.decode (fp32 ((Fmt.fp32.decode v).add a.neg)).1
        let f := (fp32 (a.add (Fmt.fp32.decode (fp32 (diff.scale (-(sh : Int)))).1))).1
        { k with hz := f, at_ := t } :: l.filter (fun x => x.rnti != rnti)
  modSp d (fun s => { s with trk := tset s.trk carrier (next.take 256) })

/-- A completed task's work on a PUSCH, PUCCH or SRS PDU (R151-R157, R161): it is received, its tracker moves, its measurements are taken;
a PUSCH leaves its soft bits in the core store, and UCI and SRS are reported. -/
def reportPdu (d : Dev) (t : Task) (c : Nat) (p : UlPdu) : Dev :=
  let w := slotW d t.carrier t.frame t.slot
  let r : RxAt := { core := c, carrier := t.carrier, frame := t.frame, slot := t.slot }
  let d := countSat d c 0 (rxSats d r p.rx)
  let d := if p.kind ≤ 1 then track d t.carrier t.frame t.slot p.rnti (cfoMeas d r p.rx) else d
  let q := receive d r p.rx p.rnti
  let p := { p with meas := q.meas d ((trkOf d r p.rnti).map (fun k => Fmt.fp32.decode k.hz)), seen := true }
  let tlvs := tlvStatus 0 :: p.meas.tlvs (p.kind == 3)
  let tell := fun (d : Dev) (msg : Nat) (body : List Nat) => tellL2 d msg t.carrier t.frame t.slot 0 body tlvs
  if p.kind = 3 then
    tell (dropPdu d w p) msgSrs (p.idx :: p.rnti :: p.meas.fields true
      ++ (srsEsts d r p.rx).flatMap (fun e => e.exp :: (flatC e.vals).map (ofSigned 16)))
  else
    let l := q.llrs d
    let u := uciOf d q l
    if p.kind = 1 then tell (dropPdu d w p) msgUci (uciContent p u)
    else
      let d := putLlrs d c p.rx l
      let d := modSlot d t.carrier t.frame t.slot (fun w => { w with pdus := w.pdus.map (fun x =>
        if x.idx == p.idx then { p with uci := false } else x) })
      if p.uci then tell d msgUci (uciContent p u) else d

/-- A completed task's work: on its PDUs, or on its downlink symbols. -/
def reportTask (d : Dev) (t : Task) (c : Nat) : Dev :=
  if t.uplink then (taskPdus d t).foldl (fun d p => reportPdu d t c p) d else makeDl d t c false

/-- Whether the uplink inputs of the task that runs on a core hold poison that its PDUs use (R172). -/
def taskPoison (d : Dev) (c : Nat) : Bool :=
  match tget? d.sp.running c with
  | none => false
  | some t => (taskPdus d t).any (fun p => rxPoison d { core := c, carrier := t.carrier, frame := t.frame, slot := t.slot } p.rx)

/-- A task that consumed poison is not re-run (R172): the PDUs it reports end with 0x3705; the downlink PRBs that it made are poisoned, all of them
where none of its coded bits is, and go out as zeros with 0x3705 (log entry 145). -/
def poisonTask (d : Dev) (t : Task) (c : Nat) : Dev :=
  if !t.uplink then
    makeDl d t c ((slotW d t.carrier t.frame t.slot).dlPdus.all (fun p => !isPoisoned d (p.span c).1 (p.span c).2))
  else
  let w := slotW d t.carrier t.frame t.slot
  let d := record d { status := 0x3705, inst := 0, detail := radioDetail t.carrier t.frame t.slot c }
  (w.pdus.filter (fun p => t.pdus.contains p.idx)).foldl (fun d p => reportLost d w p 0x3705) d

/-- The planner learns how the task of a core ended (R141, R172, R214); urgent tasks that its handler has not run wait as the others do. -/
def taskEnd (d : Dev) (c status : Nat) : Dev :=
  let d := if status = 0x310F then noteStateLost d c else d
  match tget? d.sp.running c with
  | none => d
  | some t =>
    if status = 0x310E ∨ status = 0x310F then
      loseRole d c false
    else
      let d := modSp d (fun s => { s with
        running := tdel s.running c
        urgent := tdel s.urgent c
        queue := tmod [] s.queue c (fun l => l ++ tget [] s.urgent c) })
      releaseRecs (if status = 0 then reportTask d t c else poisonTask d t c) t

/-- The datapath's task stops with a status, and the planner learns of it. -/
def sigFinish (d : Dev) (c status : Nat) : Dev := taskEnd (sigStop d c status) c status

/-- `SRET` with the planner's part (R139, R213): the urgent task that the handler ran is done, and the next one interrupts. -/
def urgentDone (d : Dev) (c : Nat) : Dev :=
  match tget [] d.sp.urgent c with
  | [] => d
  | t :: l =>
    let d := modSp d (fun s => { s with urgent := if l.isEmpty then tdel s.urgent c else tset s.urgent c l })
    let d := releaseRecs (reportTask d t c) t
    if l.isEmpty then d else sigIrq d c

/-! ### Instructions (R129-R142) -/

/-- Whether a word reads the core store: by its opcode, or by a load of its memory operation. -/
def readsStore (w : SWord) : Bool := [0x0A, 0x0D, 0x15, 0x17].contains w.op || [1, 2, 4].contains w.mop

/-- An instruction of an opcode at the PC of a running task, when it is legal there: its compute operation, then its memory
operation. `fixed` is a core-store error corrected on its read (R143). -/
def sigRow (d : Dev) (c op : Nat) (fixed : Bool) (act : Dev → SWord → Dev) : Dev :=
  let w := sigWord d c
  if sigRuns d c && w.op == op && sigLegal d c w then
    let d := if fixed && readsStore w then storeCorrected d c (storeAddr c (arAddr d c w.ma1)) else d
    sigThen d c w (act d w)
  else d

/-- An instruction that sets the PC itself. -/
def sigJump (d : Dev) (c op : Nat) (act : Dev → SWord → Dev) : Dev :=
  let w := sigWord d c
  if sigRuns d c && w.op == op && sigLegal d c w then act d w else d

/-- `SEND` (R141, R172): success, or 0x310D for a task that consumed poison. -/
def sigSend (d : Dev) (c : Nat) : Dev :=
  sigJump d c 0x12 (fun d _ => sigFinish d c (if (sigSt d c).ate || taskPoison d c then 0x310D else 0))

/-- `SRET` (R139, R213). -/
def sigRet (d : Dev) (c : Nat) : Dev :=
  sigJump d c 0x13 (fun d _ => if fget d (regSigStatus c) fldSigStatusInHandler = 1 then urgentDone (sigReturn d c) c else sigReturn d c)

/-- SIG_ILLEGAL (R142): an illegal word at the PC stops the task. -/
def sigIllegal (d : Dev) (c : Nat) : Dev :=
  if sigRuns d c && !sigLegal d c (sigWord d c) then sigFinish d c 0x310E else d

/-- SIG_STATE_LOST (R142). -/
def sigStateLost (d : Dev) (c : Nat) : Dev := if sigRuns d c then sigFinish d c 0x310F else d

/-! ### Slot boundaries and ticks (R176, R190, R194, R225, R349) -/

/-- The admitted carriers of a numerology code that are enabled. -/
def tickCars (d : Dev) (code : Nat) : List Nat :=
  (d.sp.cars.map (fun c => c.carrier)).filter (fun n => carEnabled d n && fget d (regRadioCarCfg n) fldRadioCarCfgMu == code)

/-- Puts the L fields of a carrier in force at its slot boundary (R176, R201). -/
def commitCar (d : Dev) (n : Nat) : Dev :=
  commitRegs d [regRadioCarGain n, regRadioCarRxref n, regRadioCarTrk n, regRadioCarLdpc n, regFhuCarWin n, regFhuCarLead n]

/-- Shows the number of running carriers (R177). -/
def countCars (d : Dev) : Dev :=
  fset d regRadioStatus fldRadioStatusCarriers ((d.sp.cars.filter (fun c => carState d c.carrier == 1)).length)

/-- A carrier starts or stops at its slot boundary (R176, R190). -/
def carBoundary (frame slot : Nat) (d : Dev) (n : Nat) : Dev :=
  let d := commitCar d n
  let st := regRadioCarStatus n
  if fget d (regRadioCarCtrl n) fldRadioCarCtrlEnable = 1 then
    let d := fset d st fldRadioCarStatusState 1
    (rangeFrom 100 44).foldl islandWork d
  else if carState d n = 0 then d
  else tellL2 (fset d st fldRadioCarStatusState 0) msgStopInd n frame slot 0 [] []

/-- A core leaves the reserve: idle, with instance 0. -/
def leaveReserve (d : Dev) (c : Nat) : Dev :=
  let d := modSp d (fun s => { s with queue := tdel s.queue c, urgent := tdel s.urgent c })
  fset (setSpare (setReserve d c false) c false) (regCorePart c) fldCorePartSlotReserved 0

/-- Spares beyond two leave the reserve, the highest first (R215; the choice of core DESIGN CHOICE, log entry 148): a pool core may have joined
between an admission and its slot boundary. -/
def trimSpares (d : Dev) : Dev := ((spares d).drop 2).reverse.foldl (fun d c => leaveReserve (reclaim d c (reclaimTime d c) 0) c) d

/-- What an admission changes in the reserve at a slot boundary (R225), and the cores that come back as spares (R214). -/
def planBoundary (d : Dev) : Dev :=
  let adds := d.sp.adding
  let rems := d.sp.removing
  let back := d.sp.returning
  let d := modSp d (fun s => { s with adding := [], removing := [], returning := [] })
  let d := rems.foldl (fun d c => leaveReserve (reclaim d c (reclaimTime d c) 0) c) d
  let d := adds.foldl (fun d x =>
    if coreFenced d x.1 then loseRole d x.1 true
    else
      let d := joinReserve (reclaim d x.1 (reclaimTime d x.1) 0) x.1
      if x.2 then d else setSpare d x.1 false) d
  let d := back.foldl (fun d c =>
    if inReserve d c || coreFenced d c || coreState d c != 0 then d
    else if (spares d).length < 2 then joinReserve d c else leaveReserve d c) (trimSpares d)
  let d := if admitted d then fset d regRadioAdmit fldRadioAdmitResCores ((List.range 96).filter (inReserve d)).length else d
  rebalance false 8 d

/-- SLOT_BOUNDARY of a numerology code that an enabled carrier uses (R348, R349): L fields take effect, carriers start or stop,
`CUR_SLOT` is written, the reserve changes, closing channels are gone. -/
def slotBoundary (d : Dev) (code : Nat) : Dev :=
  let cars := tickCars d code
  let mu := muOf code
  let now := slotNow d
  let frame := frameOf d now
  let slot := slotOf d mu now
  if cars.isEmpty then d
  else
    let d := cars.foldl (carBoundary frame slot) d
    let d := commitRegs (countCars d) [regTimeSpLend, regRadioDarner]
    let d := d.sp.chans.foldl (fun d p => hdrPut d p.2.ind 4 (frame % 1024 * 2 ^ 16 + slot)) d
    let d := modSp d (fun s => { s with
      chans := s.chans.filter (fun p => !p.2.closing)
      slots := s.slots.filter (fun w => !w.pdus.isEmpty || decide (frame < w.frame + 8)) })
    planBoundary (releaseOld d)

/-- Reads the `TAIL` of a channel's request ring (R194), unless that access faults (R193). -/
def readTail (d : Dev) (ch : Nat) : Dev := modChan d ch (fun c => if hostAway d c.req 128 then c else { c with tail := hostNat d c.req 4 })

/-- SYMBOL_TICK (R194, R195): request rings are read, and a vector held since the last tick is raised. The rings are read at a tick of
any numerology, or no START.request of a first carrier would be read (DEDUCED, log entry 59). -/
def symbolTick (d : Dev) : Dev :=
  d.sp.chans.foldl (fun d p =>
    let d := modChan (readTail d p.1) p.1 (fun c => { c with raised := c.waits, waits := false })
    if p.2.waits then raiseVector d 0 p.2.vector else d) d

/-- REQUEST_CUTOFF of a carrier (R188, R194). -/
def requestCutoff (d : Dev) (n : Nat) : Dev :=
  match chanOf d n with
  | none => d
  | some ch => if carEnabled d n then readTail d ch else d

/-! ### FAPI requests (R188-R194) -/

/-- An entry of a request ring (R193): message type, carrier, SFN, slot, the address and bytes of its body, and whether reading it or its body
faults. -/
structure ReqEnt where
  msg     : Nat
  carrier : Nat
  sfn     : Nat
  slot    : Nat
  addr    : Nat
  len     : Nat
  faults  : Bool
  deriving DecidableEq, Repr

/-- The oldest entry that the device has not taken, as far as it has read `TAIL`. -/
def nextEnt (d : Dev) (ch : Nat) : Option ReqEnt :=
  match tget? d.sp.chans ch with
  | none => none
  | some c =>
    if c.head = c.tail then none
    else
      let a := c.req + 128 + 64 * (c.head % 2 ^ c.reqLog)
      let body := hostNat d (a + 16) 8
      let len := hostNat d (a + 8) 4
      some { msg := hostNat d a 2, carrier := hostNat d (a + 2) 2, sfn := hostNat d (a + 4) 2, slot := hostNat d (a + 6) 1, addr := body, len := len
             faults := hostAway d a 64 || hostAway d body len }

/-- Advances `HEAD` past the entry (R194). -/
def advanceHead32 (d : Dev) (ch : Nat) : Dev :=
  match tget? d.sp.chans ch with
  | none => d
  | some c => hdrPut (modChan d ch (fun x => { x with head := (x.head + 1) % 2 ^ 32 })) c.req 0x40 ((c.head + 1) % 2 ^ 32)

/-- A request that could not be read, or is malformed, ends with 0x380A (R193, R199); otherwise the next entry, when it is of one of these types,
is answered; then `HEAD` passes it. -/
def fapiRow (d : Dev) (ch : Nat) (isMsg : Nat → Bool) (body : FapiBody) (act : Dev → ReqEnt → Dev) : Dev :=
  match nextEnt d ch with
  | none => d
  | some e =>
    if !isMsg e.msg then d
    else if e.faults || body.faults || body.bad then advanceHead32 (record d { status := 0x380A, inst := 0, detail := fhuDetail d e.carrier ch }) ch
    else advanceHead32 (act d e) ch

/-- Whether the channel names the carrier of an entry. -/
def inChan (d : Dev) (ch : Nat) (e : ReqEnt) : Bool :=
  e.carrier < 512 && (match tget? d.sp.chans ch with
    | some c => bitOf c.cars e.carrier
    | none => false)

/-- The configuration registers of a carrier (R176, R201). -/
def carRegs (n : Nat) : List Nat :=
  [regRadioCarCfg n, regRadioCarGain n, regRadioCarRxref n, regRadioCarTrk n, regRadioCarPrach n, regRadioCarLdpc n, regFhuCarNet n,
    regFhuCarMac n, regFhuCarBfp n, regFhuCarWin n, regFhuCarLead n]

/-- A request answered with MSG_INVALID_STATE and 0x380A. -/
def refuseState (d : Dev) (ch : Nat) (e : ReqEnt) : Dev := fapiErr d ch e.carrier e.sfn e.slot errState 0x380A true

/-- What a PARAM.response reports (R190): the limits of R145 by channel (PDSCH layers, on 64T64R, PDUs, bits of a symbol; DCI bits, CORESETs,
DCIs; Lmax in FR1, FR2; CSI-RS ports, resources; PUSCH layers, on 64T64R, PDUs, bits of a symbol; PUCCH PDUs, last format; PRACH
occasions; SRS PDUs, ports, symbols, comb), then each row of Table: carrier kinds as kind, μ, MHz, PRBs, antennas, layers, load units,
MiB. -/
def paramLimits : List Nat :=
  [4, 16, 32, 10, 140, 3, 64, 8, 64, 32, 16, 4, 8, 32, 8, 64, 4, 8, 32, 4, 4, 8]
    ++ [0, 1, 100, 273, 4, 4, 4, 30, 4] ++ [1, 1, 100, 273, 64, 16, 8, 240, 8] ++ [2, 0, 20, 106, 4, 4, 4, 15, 2]
    ++ [2, 1, 20, 51, 4, 4, 4, 15, 2] ++ [3, 3, 100, 66, 2, 2, 2, 120, 2]

/-- PARAM.request. -/
def fapiParam (d : Dev) (ch : Nat) (b : FapiBody) : Dev :=
  fapiRow d ch (· == msgParamReq) b fun d e =>
    if inChan d ch e then indicate d ch msgParamRsp e.carrier e.sfn e.slot 0 (errOk :: paramLimits) [] else refuseState d ch e

/-- CONFIG.request (R176, R190): for a stopped carrier, within the device's limits, the command cores write the carrier's registers with what its
TLVs say; `wr` writes a register and `ok` tells whether it may hold a value. TLVs beyond the limits of R145 are named by the request's data, those
beyond the range of a register by the register. -/
def fapiConfig (wr : Dev → Nat → Nat → Dev) (ok : Dev → Nat → Nat → Bool) (d : Dev) (ch : Nat) (b : FapiBody) : Dev :=
  fapiRow d ch (· == msgConfigReq) b fun d e =>
    if !inChan d ch e then refuseState d ch e
    else if carState d e.carrier ≠ 0 then indicate d ch msgConfigRsp e.carrier e.sfn e.slot 0 [errState] []
    else
      let mine := b.words.filter (fun x => (carRegs e.carrier).contains x.1)
      let bad := b.tags ++ (mine.filter (fun x => !ok d x.1 x.2)).map (fun x => x.1)
      if bad ≠ [] then indicate d ch msgConfigRsp e.carrier e.sfn e.slot 0 (errConfig :: bad) []
      else
      let d := mine.foldl (fun d x => wr d x.1 x.2) d
      indicate d ch msgConfigRsp e.carrier e.sfn e.slot 0 [errOk] []

/-- The eAxC ranges of a carrier: data streams and PRACH streams (R181). -/
def eaxcRanges (d : Dev) (n : Nat) : List (Nat × Nat) :=
  let k := kindAnts (fget d (regRadioCarCfg n) fldRadioCarCfgKind)
  [(fget d (regFhuCarNet n) fldFhuCarNetEaxcBase, k), (fget d (regFhuCarNet n) fldFhuCarNetEaxcPrach, k)]

/-- Whether a carrier's eAxC ranges overlap those of another enabled carrier on its port (R181). -/
def eaxcClash (d : Dev) (n : Nat) : Bool :=
  (List.range 512).any (fun m => m != n && fget d (regRadioCarCtrl m) fldRadioCarCtrlEnable == 1
    && fget d (regFhuCarNet m) fldFhuCarNetPort == fget d (regFhuCarNet n) fldFhuCarNetPort
    && (eaxcRanges d n).any (fun a => (eaxcRanges d m).any (fun b => overlaps a.1 a.2 b.1 b.2)))

/-- The discard of a write to a fronthaul register (R11, R199, R428): the record names the carrier and its port, or the group's first port. -/
def fhuReject (d : Dev) (key : Nat) : Dev :=
  let detail := if regFhuCarNet 0 ≤ key then fhuDetail d ((key - regFhuCarNet 0) / 64) 0
    else if regFhuGrpCfg 0 ≤ key then (key - regFhuGrpCfg 0) / 64 * 4 * 2 ^ 16 else 0
  cfgReject d regFhuStatus fldFhuStatusCfgReject 0x1801 key detail

/-- The fronthaul unit refuses `ENABLE` for overlapping eAxC ranges (R176, R181): a write of the radio block is discarded, with 0x1801. -/
def eaxcReject (d : Dev) (n : Nat) : Dev :=
  fset (cfgReject d regFhuStatus fldFhuStatusCfgReject 0x1801 (regRadioCarCtrl n) (fhuDetail d n 0)) regRadioStatus fldRadioStatusCfgReject 1

/-- The discard of a write to a radio register (R11, R174, R428): the record names the carrier. -/
def radioReject (d : Dev) (key : Nat) : Dev :=
  cfgReject d regRadioStatus fldRadioStatusCfgReject 0x1701 key (if regRadioCarCtrl 0 ≤ key then (key - regRadioCarCtrl 0) / 64 else 0)

/-- Whether the Ethernet group of a carrier is in loop-back. -/
def carLooped (d : Dev) (n : Nat) : Bool :=
  match d.tst.looped with
  | some (i, u, _) => i == 1 && u == fget d (regFhuCarNet n) fldFhuCarNetPort / 4
  | none => false

/-- A write of `ENABLE` in `RADIO_CAR_CTRL` (R176, R181); a carrier of a group in loop-back is not enabled (R480). -/
def carEnable (d : Dev) (n : Nat) (on : Bool) : Dev :=
  let k := regRadioCarCtrl n
  if on ∧ carLooped d n then radioReject d k
  else if on ∧ eaxcClash d n then eaxcReject d n
  else
    let d := fset d k fldRadioCarCtrlEnable (b2n on)
    let st := carState d n
    if !on ∧ st = 1 then countCars (fset d (regRadioCarStatus n) fldRadioCarStatusState 2)
    else if on ∧ st = 2 then countCars (fset d (regRadioCarStatus n) fldRadioCarStatusState 1) else d

/-- START.request (R190): a carrier that is admitted, stopped and not enabled. -/
def fapiStart (d : Dev) (ch : Nat) (b : FapiBody) : Dev :=
  fapiRow d ch (· == msgStartReq) b fun d e =>
    if !inChan d ch e || (carOf d e.carrier).isNone || carEnabled d e.carrier then refuseState d ch e
    else if eaxcClash d e.carrier then
      fapiErr (carEnable d e.carrier true) ch e.carrier e.sfn e.slot errConfig 0x1801 false
    else carEnable d e.carrier true

/-- STOP.request (R190): `ENABLE` is cleared; a carrier whose start is still pending is at `STATE` 0 already, and STOP.indication is written at
once. -/
def fapiStop (d : Dev) (ch : Nat) (b : FapiBody) : Dev :=
  fapiRow d ch (· == msgStopReq) b fun d e =>
    if !inChan d ch e || fget d (regRadioCarCtrl e.carrier) fldRadioCarCtrlEnable == 0 then refuseState d ch e
    else
      let d := carEnable d e.carrier false
      if carState d e.carrier = 0 then indicate d ch msgStopInd e.carrier e.sfn e.slot 0 [] [] else d

/-- PDUs of a kind that a carrier and slot may hold (R145). -/
def pduLimit (d : Dev) (n kind : Nat) : Nat :=
  match kind with
  | 0 => 32 | 1 => 64 | 2 => 8 | 3 => 32 | 4 => 32 | 5 => 64 | 6 => if carMu d n = 3 then 64 else 8 | _ => 16

/-- Whether a PRACH format's length and spacing in 10 Hz suit a carrier's numerology (R158). -/
def prachOk (mu : Nat) (long : Bool) (scs : Nat) : Bool :=
  if long then mu ≤ 1 && (scs == 125 || scs == 500) else if mu ≤ 1 then scs == 1500 || scs == 3000 else scs == 12000

/-- Whether a PDU's own sizes exceed what the device does (R145, R153, R158), with the CORESETs that the slot uses already. -/
def beyond (d : Dev) (n : Nat) (csets : List Nat) (p : FapiPdu) : Bool :=
  let few := fun (v : Nat) => v == 1 || v == 2 || v == 4
  match p.kind with
  | 0 => 8 < p.qm || (p.rx.dft && !is235 p.rx.prbs)
  | 1 => 4 < p.rx.format
  | 2 => !prachOk (carMu d n) p.long p.scs
  | 3 => !(few p.ports && few p.symbols && (few p.comb || p.comb == 8) && p.comb != 1)
  | 4 => 10 < p.qm
  | 5 => 140 < p.bits || (!csets.contains p.coreset && 3 ≤ csets.length)
  | 6 => (if carMu d n = 3 then 64 else 8) ≤ p.index
  | _ => 32 < p.ports

/-- Layers that a PDU of a kind may use (R145, R146). -/
def layerLimit (d : Dev) (n kind : Nat) : Nat :=
  let k := fget d (regRadioCarCfg n) fldRadioCarCfgKind
  if kind = 4 then (if k = 1 then 16 else if k = 3 then 2 else 4)
  else if kind = 0 then (if k = 1 then 8 else if k = 3 then 2 else 4) else 64

/-- Whether a PDU exceeds a limit of its carrier and slot (R145, R191), beside those that the slot holds already. -/
def overLimit (d : Dev) (n : Nat) (w : SlotW) (p : FapiPdu) : Bool :=
  beyond d n w.csets p || decide (layerLimit d n p.kind < p.layers) || decide (pduLimit d n p.kind ≤ (w.sects.filter (fun x => x.1 == p.kind)).length)

/-- Takes a PDU of a request into its slot: its kind, its place, its CORESET. -/
def takePdu (d : Dev) (n frame slot : Nat) (p : FapiPdu) : Dev :=
  modSlot d n frame slot (fun w => { w with
    sects := w.sects ++ [(p.kind, p.sect)]
    csets := if p.kind = 5 then natPut w.csets p.coreset else w.csets })

/-- Takes the PDUs of a request in order: each over a limit is answered with 0x3806 and not processed (R191). The rest, with their places, are
what is processed. -/
def takePdus (d : Dev) (ch n frame slot : Nat) : List (FapiPdu × Nat) → Dev × List (FapiPdu × Nat)
  | [] => (d, [])
  | p :: l =>
    if overLimit d n (slotW d n frame slot) p.1 then takePdus (fapiErr d ch n frame slot errConfig 0x3806 true) ch n frame slot l
    else
      let (d, l) := takePdus (takePdu d n frame slot p.1) ch n frame slot l
      (d, p :: l)

/-- A request of a slot (R188, R190, R194): of a carrier that is running or starting, before its cutoff; each PDU over a limit is
answered and not processed (R191). A late one ends alone (R194). -/
def fapiSlot (d : Dev) (ch msg : Nat) (b : FapiBody) (lead : Fld) (act : Dev → ReqEnt → Nat → List (FapiPdu × Nat) → Dev) : Dev :=
  fapiRow d ch (· == msg) b fun d e =>
    let mu := carMu d e.carrier
    if !inChan d ch e || (carOf d e.carrier).isNone || !carEnabled d e.carrier || slotsPerFrame mu ≤ e.slot || 1024 ≤ e.sfn then
      refuseState d ch e
    else
      let frame := frameNear d e.sfn
      if slotStart d mu frame e.slot < slotNow d + fact d (regFhuCarLead e.carrier) lead * 80000 then
        fapiErr d ch e.carrier frame e.slot errSfn 0x3805 true
      else
        let (d, ps) := takePdus d ch e.carrier frame e.slot b.pdus.zipIdx
        act d e frame ps

/-- A downlink request of a slot is taken: its PDUs, and where its body and payloads lie, are kept (R29, R150). -/
def takeDl (d : Dev) (ch msg : Nat) (b : FapiBody) : Dev :=
  fapiSlot d ch msg b fldFhuCarLeadDlLead fun d e frame ps => modSlot d e.carrier frame e.slot (fun w => { w with
    dl := true
    dlPdus := w.dlPdus ++ (ps.filter (fun p => 4 ≤ p.1.kind)).zipIdx.map (fun p => { idx := w.dlPdus.length + p.2, tx := p.1.1.tx })
    refs := w.refs ++ { addr := e.addr, len := e.len } :: b.refs.map (fun r => { addr := r.1, len := r.2 }) })

/-- Code blocks that a soft-buffer slot of a carrier holds (R168). -/
def softBlocks (d : Dev) (n : Nat) : Nat := kindSlotMib (fget d (regRadioCarCfg n) fldRadioCarCfgKind) * 1048576 / 25344

/-- UL_TTI.request (R188): its PDUs wait for their results; a transport block larger than its soft-buffer slot is reported at once with
0x3707 (R168). UCI on such a PUSCH, which is not received, is reported as DTX (DESIGN CHOICE, log entry 147). -/
def fapiUlTti (d : Dev) (ch : Nat) (b : FapiBody) : Dev :=
  fapiSlot d ch msgUlTti b fldFhuCarLeadUlLead fun d e frame ps =>
    let pdus := ps.filterMap (fun p => if p.1.kind ≤ 3 then
      some ({ kind := p.1.kind, idx := p.2, rnti := p.1.rnti, harq := p.1.harq, newData := p.1.newData, blocks := p.1.blocks
              params := p.1.params, uci := p.1.uci, rx := p.1.rx } : UlPdu) else none)
    let d := modSlot d e.carrier frame e.slot (fun w => { w with ul := true, pdus := w.pdus ++ pdus })
    (pdus.filter (fun p => p.kind == 0 && decide (softBlocks d e.carrier < p.blocks))).foldl (fun d p =>
      let d := record d { status := 0x3707, inst := 0, detail := radioDetail e.carrier frame e.slot 0 }
      reportLost d (slotW d e.carrier frame e.slot) p 0x3707) d

/-- The types of message that the device takes. -/
def knownMsgs : List Nat :=
  [msgParamReq, msgConfigReq, msgStartReq, msgStopReq, msgDlTti, msgUlTti, msgUlDci, msgTxData]

/-- A message of another type (R190). -/
def fapiUnknown (d : Dev) (ch : Nat) (b : FapiBody) : Dev := fapiRow d ch (fun m => !knownMsgs.contains m) b (fun d e => refuseState d ch e)

/-- Puts a register in force at the next slot boundary: at once when no carrier is enabled, as no slot boundary comes then. -/
def commitSoon (d : Dev) (k : Nat) : Dev := if d.sp.cars.any (fun c => carEnabled d c.carrier) then d else commitReg d k

/-- FLASH_SHARE (R165, R278): with an admission in force, a change to 1 needs one that charged for it; it takes effect at the next slot
boundary. -/
def flashShare (d : Dev) (v : Nat) : Dev :=
  if v % 2 = 1 ∧ fget d regRadioDarner fldRadioDarnerFlashShare = 0 ∧ admitted d ∧ d.sp.flash40 = false then radioReject d regRadioDarner
  else commitSoon (fset d regRadioDarner fldRadioDarnerFlashShare v) regRadioDarner

/-! ### Accelerators, decoding and soft combining (R159, R164-R171) -/

/-- Whether an accelerator is one of a kind in service. -/
def accelOk (d : Dev) (n k : Nat) : Bool := n < 44 && accelKind n == k && !bitOf (getReg d regRadioAccelFence) n

/-- Whether a result of a slot is lost to a second accelerator fault (R216): its indication deadline has passed with two of the kind
fenced. -/
def tooLate (d : Dev) (carrier frame slot k : Nat) : Bool :=
  let mu := carMu d carrier
  let ind := fact d (regFhuCarLead carrier) fldFhuCarLeadIndSlots
  2 ≤ kindFenced d k && decide (slotStart d mu frame slot + ind * 8000000 / 2 ^ mu < slotNow d)

/-- Whether a PDU's job comes too late after a second fault among accelerators of a kind (R216). -/
def jobLate (d : Dev) (k : Nat) (u : JobFor) : Bool := tooLate d u.carrier (frameNear d u.sfn) u.slot k

/-- The C16 samples of bytes. -/
def c16List (bs : List Byte) : List Cx :=
  (List.range (bs.length / 4)).map (fun n => (compAt bs (4 * n) 2 16, compAt bs (4 * n + 2) 2 16))

/-- The bytes of C16 samples. -/
def c16Bytes (l : List Cx) : List Byte := l.flatMap (fun v => natLe 2 (ofSigned 16 v.1) ++ natLe 2 (ofSigned 16 v.2))

/-- What a polar unit makes of a job by its type (R166): encoding to at most 512 bits; list-8 decoding of at most 1,024 LLRs to the bits that its next
parameter counts, as 128 bytes; Reed-Muller decoding of 3 to 11 bits from its LLRs, as 4 bytes. -/
def polarOut (params : List Nat) (bs : List Byte) : Option (List Byte) :=
  let n := lget 0 params 1
  match lget 0 params 0 with
  | 0 => if n ≤ 512 then some (Config.accelOutput 2 params bs) else none
  | 1 => if n ≤ 1024 then some (natLe 128 (polarDecode (lget 0 params 2) (bs.map BitVec.toInt))) else none
  | 2 => if 3 ≤ n ∧ n ≤ 11 then some (natLe 4 (uciDecode (bs.map BitVec.toInt) n).1) else none
  | _ => none

/-- The output of a job (R166): a transform of its points, which its unit must support (R23), or what an encoder or polar unit makes. -/
def accelOut (k : Nat) (params : List Nat) (bs : List Byte) : Option (List Byte) :=
  if k = 3 then
    let n := lget 0 params 0
    if transformOk n then some (c16Bytes (transform (lget 0 params 1 == 1) (lget 0 params 2 % 32) (padList (0, 0) n (c16List bs)))) else none
  else if k = 2 then polarOut params bs
  else some (Config.accelOutput k params bs)

/-- Whether a job is the encoding of a downlink PDU (R29 stage 1). -/
def encodes (k : Nat) (j : AccelJob) : Bool := k == 1 || (k == 2 && lget 0 j.params 0 == 0)

/-- The slot of an encoding job's PDU learns that a part of its coded bits is made on a core (R29, R30). -/
def noteCoded (d : Dev) (k : Nat) (j : AccelJob) : Dev :=
  match (if encodes k j then j.use else none) with
  | none => d
  | some u => modSlot d u.carrier (frameNear d u.sfn) u.slot (fun w => { w with
      dlPdus := w.dlPdus.map (fun p => if p.idx = u.pdu then { p with coded := j.core :: p.coded } else p) })

/-- A job of an encoder, polar unit or transform unit (R21, R166) of a reserved core: its output is written to the core's twin-access region;
poisoned input poisons it. An uplink one that passes its PDU's deadline after a second fault is lost (R216). -/
def accelJob (d : Dev) (k : Nat) (j : AccelJob) : Dev :=
  if !accelOk d j.unit k || 96 ≤ j.core || !coreOn d j.core || coreFenced d j.core || !slotHeld d j.core || 0x80000 < j.src + j.len
      || 0x80000 < j.dst + j.outLen then d
  else
    match (if encodes k j then none else j.use.filter (jobLate d k)) with
    | some u => slotMiss d u.carrier (frameNear d u.sfn) u.slot (fun p => p.idx == u.pdu) false
    | none =>
      let a := storeAddr j.core j.src
      match accelOut k j.params (devRead d a j.len) with
      | none => d
      | some bs => noteCoded (devWrite d (storeAddr j.core j.dst) (padTo j.outLen bs) (isPoisoned d a j.len)) k j

/-- The pending PDU of a kind at a place of a slot. -/
def pduAt (w : SlotW) (kind idx : Nat) : Option UlPdu := w.pdus.find? (fun p => p.idx == idx && p.kind == kind)

/-- The CRC.indication of a transport block. -/
def crcInd (d : Dev) (w : SlotW) (p : UlPdu) (fail : Bool) (status : Nat) : Dev :=
  tellL2 (dropPdu d w p) msgCrc w.carrier w.frame w.slot status (crcContent p fail) (tlvStatus status :: p.meas.tlvs false)

/-- A transport block whose code blocks are all decoded (R164, R170, R193, R196): its CRC decides; a good one takes a payload buffer. An access of the
free ring or the buffer that faults drops the RX_Data.indication and takes no buffer. -/
def tbDone (d : Dev) (w : SlotW) (p : UlPdu) : Dev :=
  let hard := (List.range p.blocks).map (fun r => tget 0 p.hard r)
  if p.failed || !Config.tbCrcOk p.params hard then crcInd d w p true 0
  else
    let d := softFree d w.carrier p.rnti p.harq
    match chanOf d w.carrier with
    | none => dropPdu d w p
    | some ch =>
      match tget? d.sp.chans ch with
      | none => dropPdu d w p
      | some c =>
        let slot := c.free + 128 + 8 * (c.freeHead % 2 ^ (4 + Config.freeRingLog2 % 13))
        let away := hostAway d c.free 128 || hostAway d slot 8 || hostAway d (hostNat d slot 8) (2 ^ c.payLog)
        if away then crcInd (dropInd d ch c w.carrier w.frame w.slot) w p false 0
        else if c.freeHead = hostNat d c.free 4 then
          let d := record d { status := 0x3807, inst := 0, detail := fhuDetail d w.carrier ch }
          crcInd d w p true 0x3807
        else
          let buf := hostNat d slot 8
          let bytes := (Config.tbPayload p.params hard).take (2 ^ c.payLog)
          let head := (c.freeHead + 1) % 2 ^ 32
          let d := hostWrite d buf bytes
          let d := hdrPut (modChan d ch (fun x => { x with freeHead := head })) c.free 0x40 head
          let d := indicate d ch msgRxData w.carrier w.frame w.slot 0 [p.idx, p.rnti, p.harq, buf, bytes.length] []
          crcInd d w p false 0

/-- A code block whose soft bits a plinth engine has passed on and that no darner has decoded: its CRC.indication deadline, slot, PUSCH and
number (R165). -/
structure DecJob where
  deadline : Nat
  carrier  : Nat
  frame    : Nat
  slot     : Nat
  pdu      : Nat
  block    : Nat
  deriving DecidableEq, Repr

/-- The code blocks that wait for a darner: of received PUSCHs (R28). -/
def decJobs (d : Dev) : List DecJob :=
  d.sp.slots.flatMap (fun w =>
    let mu := carMu d w.carrier
    let t := slotStart d mu w.frame w.slot + fact d (regFhuCarLead w.carrier) fldFhuCarLeadIndSlots * 8000000 / 2 ^ mu
    (w.pdus.filter (fun p => p.kind == 0 && p.seen)).flatMap (fun p => (p.soft.filter (fun s => (tget? p.hard s.1).isNone && decide (s.1 < p.blocks))).map (fun s =>
      { deadline := t, carrier := w.carrier, frame := w.frame, slot := w.slot, pdu := p.idx, block := s.1 })))

/-- Whether a code block goes before another: earliest deadline, lowest carrier, lowest code block, lowest place of its PUSCH (R165). -/
def DecJob.before (a b : DecJob) : Bool :=
  decide (a.deadline < b.deadline) || (a.deadline == b.deadline && (decide (a.carrier < b.carrier) || (a.carrier == b.carrier
    && (decide (a.block < b.block) || (a.block == b.block && decide (a.pdu < b.pdu))))))

/-- The code block at the head of the darners' queue. -/
def firstJob (l : List DecJob) : Option DecJob :=
  l.foldl (fun best j => match best with
    | some b => if j.before b then some j else some b
    | none => some j) none

/-- The LLRs of a flash codeword from its read and the two with the reference shifted down and up (R278): strong where the three agree, weak
where they differ, positive for a 0. -/
def flashLlrs (d : Dev) (mid low high : List Bool) : List Int :=
  let strong := fact d regFlsSoft fldFlsSoftLlrStrong
  let weak := fact d regFlsSoft fldFlsSoftLlrWeak
  (mid.zip (low.zip high)).map (fun b =>
    let m : Int := if b.2.1 == b.1 && b.2.2 == b.1 then strong else weak
    if b.1 then -m else m)

/-- A soft-decision retry's decoding of a flash codeword (R274, R278): the 768 punctured bits are unknown, `FLS_ITER` bounds the iterations,
and the result passes with its CRC24B. -/
def flashDecode (d : Dev) (mid low high : List Bool) : Option (List Byte) :=
  let n := darnerBits Config.flashRows (fact d regFlsSoft fldFlsSoftFlsIter) (List.replicate 768 0 ++ flashLlrs d mid low high)
  flashData ((List.range 8448).map (bitOf n))

/-- FLASH_RETRY (R24, R165, R278): a retry takes a darner only when no radio code block waits for one. The operands tell which bits of
each of the three reads are wrong. -/
def darnerRetry (d : Dev) (p cw : Nat) (mid low high : List Nat) : Dev :=
  if (decJobs d).isEmpty && (List.range 16).any (fun u => accelOk d u 0) then
    flashRetry d p cw (flashDecode d (sensed d p (cw % 16) mid) (sensed d p (cw % 16) low) (sensed d p (cw % 16) high))
  else d

/-- CODE_BLOCK_DECODE (R164, R165, R171): a darner takes the code block at the head of the queue and decodes the soft bits that were passed on. -/
def codeBlock (d : Dev) (unit : Nat) : Dev :=
  match (if accelOk d unit 0 then firstJob (decJobs d) else none) with
  | none => d
  | some j =>
    let w := slotW d j.carrier j.frame j.slot
    match pduAt w 0 j.pdu with
    | none => d
    | some p =>
      let s := tget { addr := 0, len := 0 } p.soft j.block
      if tooLate d j.carrier j.frame j.slot 0 then slotMiss d j.carrier j.frame j.slot (fun x => x.idx == p.idx) false
      else if p.status = 0x3705 then reportLost d w p 0x3705
      else if isPoisoned d s.addr s.len then
        reportLost (record d { status := 0x3705, inst := 0, detail := radioDetail j.carrier j.frame j.slot 0 }) w p 0x3705
      else
        let llrs := (devRead d s.addr s.len).map BitVec.toInt
        let bits := darner (j.block :: p.params) (fact d (regRadioCarLdpc j.carrier) fldRadioCarLdpcMaxIter) llrs
        let p' := { p with hard := tset p.hard j.block bits, failed := p.failed || !Config.blockCrcOk (j.block :: p.params) bits }
        let d := modSlot d j.carrier j.frame j.slot (fun w => { w with pdus := w.pdus.map (fun x => if x.idx == p.idx then p' else x) })
        if p'.hard.length < p.blocks then d else tbDone d w p'

/-- Soft bits of a code block are passed on to a darner, or poison ends its transport block (R169, R171). -/
def passSoft (d : Dev) (u : SoftUse) (s : Passed) (bad : Bool) : Dev :=
  modSlot d u.carrier (frameNear d u.sfn) u.slot (fun w => { w with pdus := w.pdus.map (fun y =>
    if y.idx == u.pdu && y.kind == 0 then { y with soft := tset y.soft u.block s, status := if bad then 0x3705 else y.status } else y) })

/-- Whether an earlier slot's PUSCH of the same triple has still to combine this code block: transmissions combine in the order of their
UL_TTI.request slots (R169). -/
def combineWaits (d : Dev) (u : SoftUse) : Bool :=
  let at_ := fun (frame slot : Nat) => slotStart d (carMu d u.carrier) frame slot
  d.sp.slots.any (fun w => w.carrier == u.carrier && decide (at_ w.frame w.slot < at_ (frameNear d u.sfn) u.slot)
    && w.pdus.any (fun p => p.kind == 0 && p.rnti == u.rnti && p.harq == u.harq && decide (u.block < p.blocks) && (tget? p.soft u.block).isNone))

/-- A retransmission that finds no binding is combined against zero (R170): its soft bits pass on and none are kept. -/
def harqAlone (d : Dev) (p : Nat) (x : EngCmd) (detail : Nat) : Dev :=
  let n := engArg x 0 4
  engRun d p x (harqOk x) x.aux (harqRanges x []) [(x.src, n)] fun d =>
    if isPoisoned d x.src n then harqMerge d p x detail []
    else engEnd (devWrite d x.dst ((devRead d x.src n).map (fun b => softAdd b 0)) false) p x 0 0 0 x.src

/-- HARQ_COMBINE (R168-R171, R246): the planner's binding, then the engine command on the pieces of the code block's soft buffer, whose
position takes the place of `AUX`. One whose PUSCH is not received yet (R28), or whose turn has not come, is held back. Without `u`, the
engine command alone. -/
def harqRow (d : Dev) (p : Nat) (x : EngCmd) (u : Option SoftUse) : Dev :=
  match u with
  | none => engHarq d p x 0 [(x.aux, engArg x 0 4)]
  | some u =>
    let n := engArg x 0 4
    let frame := frameNear d u.sfn
    let detail := radioDetail u.carrier frame u.slot 0
    let pass := fun (d t : Dev) (pieces : List (Nat × Nat)) =>
      if (firstErr d (engWho x) (harqRanges x pieces)).isSome then t else passSoft t u { addr := x.dst, len := n } (isPoisoned t x.dst n)
    if combineWaits d u || !(pduAt (slotW d u.carrier frame u.slot) 0 u.pdu).any (fun p => p.seen) then d
    else if !harqOk x then engEnd d p x 0x330D 0 0 x.aux
    else
      match softTake d u.carrier frame u.slot u.rnti u.harq (harqNew x) with
      | (none, d) => pass d (harqAlone d p x detail) []
      | (some s, d) =>
        let pieces := softPieces d u.carrier s (25344 * u.block) n
        pass d (engHarq d ((u.carrier + s) % 8) { x with aux := (lget (0, 0) pieces 0).1 } detail pieces) pieces

/-- The largest sample of a window of a profile and its place, the lowest on ties (R159 step 4). -/
def windowPeak (prof : List Nat) (w : Nat × Nat) : Nat × Nat :=
  (List.range w.2).foldl (fun best i =>
    let v := lget 0 prof (w.1 + i)
    if best.1 < v then (v, w.1 + i) else best) (lget 0 prof w.1, w.1)

/-- Inserts a sample into a list ranked by value, then by index. -/
def rankIn (x : Nat × Nat) : List (Nat × Nat) → List (Nat × Nat)
  | [] => [x]
  | y :: l => if x.1 < y.1 ∨ (x.1 = y.1 ∧ x.2 < y.2) then x :: y :: l else y :: rankIn x l

/-- The lower half of a profile's samples ranked by value with ties by index (R159 step 5). -/
def lowerHalf (prof : List Nat) : List Nat :=
  ((prof.zipIdx.foldl (fun l x => rankIn x l) []).take (prof.length / 2)).map (fun x => x.1)

/-- A detected preamble: its index, its peak sample and the peak's delay in samples after the window's first. -/
structure Hit where
  index : Nat
  peak  : Nat
  delay : Nat
  deriving DecidableEq, Repr

/-- The preambles detected on the profiles of an occasion (R159 steps 4 and 5), by root: 64 at most, in increasing index. The noise is the mean
of the lower half of all its samples. -/
def detect (profs : List (List Nat)) (thresh : Nat) (pres : List Preamble) : List Hit :=
  let low := lowerHalf profs.flatten
  let hits := pres.zipIdx.filterMap (fun p =>
    let (v, t) := windowPeak (lget [] profs p.1.root) (p.1.first, p.1.count)
    if thresh * low.sum < v * 256 * low.length then some ({ index := p.2, peak := v, delay := t - p.1.first } : Hit) else none)
  hits.take 64

/-- The sequence length of an occasion. -/
def prachSeq (j : PrachJob) : Nat := if j.long then 839 else 139

/-- The points of its inverse DFT. -/
def prachPoints (j : PrachJob) : Nat := if j.long then 1024 else 256

/-- The bytes of its samples. -/
def prachLen (j : PrachJob) : Nat := 4 * prachSeq j * j.ants * j.reps

/-- The profiles of an occasion by root (R159 steps 1 to 3). -/
def prachProfiles (j : PrachJob) (bs : List Byte) : List (List Nat) :=
  let all := c16List bs
  let streams := (List.range (j.ants * j.reps)).map (fun k => (all.drop (k * prachSeq j)).take (prachSeq j))
  j.roots.map (fun r => delayProfile (prachPoints j) r streams)

/-- The power of a preamble in 0.01 dBm (R160): its peak over sequence length, antennas and repetitions, converted under R163. -/
def prachPower (d : Dev) (j : PrachJob) (peak : Nat) : Int :=
  let gain := toSigned 11 (fact d (regRadioCarGain j.carrier) fldRadioCarGainUlGain)
  let ref := toSigned 16 (fact d (regRadioCarRxref j.carrier) fldRadioCarRxrefRxRef)
  withError (-14000) 3000 [peak] (toDbm gain ref peak (prachSeq j * j.ants * j.reps))

/-- The timing advance of a delay in samples, in units of 16 × 64 / 2^μ Tc (R157, R160). -/
def prachAdvance (mu points scs delay : Nat) : Nat := min 3846 ((2 * delay * 192000 * 2 ^ mu + points * scs) / (2 * points * scs))

/-- A delay in samples in ns, as far as its TLV can hold (R192). -/
def prachNs (points scs delay : Nat) : Nat := min 32767 ((2 * delay * 100000000 + points * scs) / (2 * points * scs))

/-- PREAMBLE_DETECT (R158-R160): `THRESH` takes effect, the occasion is processed, and its RACH.indication is written. -/
def preamble (d : Dev) (j : PrachJob) : Dev :=
  let frame := frameNear d j.sfn
  let w := slotW d j.carrier frame j.slot
  let mu := carMu d j.carrier
  let n := prachPoints j
  match pduAt w 2 j.pdu with
  | none => d
  | some p =>
    if !accelOk d j.unit 4 || 96 ≤ j.core || coreFenced d j.core || !slotHeld d j.core || 0x80000 < j.src + prachLen j || !prachOk mu j.long j.scs then d
    else if tooLate d j.carrier frame j.slot 4 then slotMiss d j.carrier frame j.slot (fun x => x.idx == p.idx) false
    else
      let d := commitReg d (regRadioCarPrach j.carrier)
      let a := storeAddr j.core j.src
      if isPoisoned d a (prachLen j) then
        reportLost (record d { status := 0x3705, inst := 0, detail := radioDetail j.carrier frame j.slot 0 }) w p 0x3705
      else
        let hits := detect (prachProfiles j (devRead d a (prachLen j))) (fact d (regRadioCarPrach j.carrier) fldRadioCarPrachThresh) j.pres
        let content := hits.flatMap (fun h => [h.index, prachAdvance mu n j.scs h.delay, stdField 5 (some (prachPower d j h.peak))])
        let tlvs := hits.flatMap (fun h => [({ tag := 0xA005, len := 2, val := prachNs n j.scs h.delay } : Tlv),
          { tag := 0xA006, len := 2, val := prachPower d j h.peak }])
        releaseRecs (tellL2 (dropPdu d w p) msgRach j.carrier frame j.slot 0 (j.pdu :: hits.length :: content) (tlvStatus 0 :: tlvs))
          { carrier := j.carrier, index := 0, frame := frame, slot := j.slot }

end Sys2Proof.Machine
end

