-- ==== Sys2Proof/Machine/Admit.lean ====
section
/-!
DEFINITION. Radio admission (R146-R148, R184, R206-R211, R225, R409) and the opening and closing of FAPI channels (R193).
-/

namespace Sys2Proof.Machine

/-! ### Carrier records (R409) -/

/-- The images of a record, after its carrier number. -/
def recCfg (c : AdmCar) : Nat := lget 0 c.words 0
/-- The image of `RADIO_CAR_LDPC`. -/
def recLdpc (c : AdmCar) : Nat := lget 0 c.words 1
/-- The image of `FHU_CAR_BFP`. -/
def recBfp (c : AdmCar) : Nat := lget 0 c.words 2
/-- The image of `FHU_CAR_NET`. -/
def recNet (c : AdmCar) : Nat := lget 0 c.words 3
/-- The image of `FHU_CAR_MAC`. -/
def recMac (c : AdmCar) : Nat := lget 0 c.words 4
/-- The image of `FHU_CAR_WIN`. -/
def recWin (c : AdmCar) : Nat := lget 0 c.words 5
/-- The image of `FHU_CAR_LEAD`. -/
def recLead (c : AdmCar) : Nat := lget 0 c.words 6

/-- The carrier record at an address of host memory, with the body of its CONFIG.request, whose length the record does not give. -/
def readCar (d : Dev) (a : Nat) : AdmCar :=
  let cfg := hostNat d (a + 8) 8
  let lead := hostNat d (a + 0x30) 4
  let net := hostNat d (a + 0x18) 8
  { carrier := hostNat d a 2
    words := [setBits cfg 32 4 0, hostNat d (a + 0x10) 4, hostNat d (a + 0x14) 4, net, hostNat d (a + 0x20) 8, hostNat d (a + 0x28) 8, lead,
      hostNat d (a + 0x38) 8]
    kind := bitsAt cfg 0 2
    mu := bitsAt cfg 6 2
    prb := bitsAt cfg 8 9
    soft := bitsAt cfg 20 6
    maxIter := hostNat d (a + 0x10) 1
    ulLead := bitsAt lead 8 12
    dlLead := bitsAt lead 20 12
    ind := bitsAt lead 0 4
    port := bitsAt net 0 5
    body := hostRead d (hostNat d (a + 0x38) 8) 4096 }

/-- Whether a value has only bits of a mask. -/
def onlyBits (v mask : Nat) : Bool := v ||| mask == mask

/-- The PRBs of a kind and `MU` code (R146), 0 where the kind has no such numerology. -/
def kindPrbs (k mu : Nat) : Nat :=
  match k, mu with
  | 0, 1 => 273
  | 1, 1 => 273
  | 2, 0 => 106
  | 2, 1 => 51
  | 3, 2 => 66
  | _, _ => 0

/-- Whether the fields of a record at an address are in range (R146, R176, R185, R201). -/
def recOk (d : Dev) (a : Nat) (c : AdmCar) : Bool :=
  let ul := bitsAt (recBfp c) 4 4
  let dl := bitsAt (recBfp c) 0 4
  let vlan := bitsAt (recNet c) 16 12
  let win := recWin c
  c.carrier < 512 && hostNat d (a + 2) 6 == 0 && hostNat d (a + 0x34) 4 == 0
    && onlyBits (recCfg c) (0x3F * 2 ^ 20 + 0x1FF * 2 ^ 8 + 0xC3) && onlyBits (recNet c) (0xFFFFFFFF0FFFE01F) && onlyBits (recMac c) (2 ^ 48 - 1)
    && onlyBits win (2 ^ 48 - 1) && onlyBits (recLead c) 0xFFFFFF0F && onlyBits (recBfp c) 0xFF
    && 1 ≤ c.prb && c.prb ≤ kindPrbs c.kind c.mu && 8 ≤ c.soft && c.soft ≤ 32 && 1 ≤ recLdpc c && recLdpc c ≤ 16
    && 8 ≤ ul && ul ≤ 14 && 8 ≤ dl && dl ≤ 14 && 1 ≤ vlan && vlan ≤ 4094
    && bitsAt win 12 12 < bitsAt win 24 12 && bitsAt win 24 12 < bitsAt win 36 12 && 1 ≤ c.ind && c.ind ≤ 8

/-! ### Budgets (R147, R148) -/

/-- The reservation ceiling of the grade. -/
def resCeiling (d : Dev) : Nat := if d.env.grade = 96 then 32 else if d.env.grade = 88 then 30 else 26

/-- The load-unit budget of the grade. -/
def unitBudget (d : Dev) : Nat := if d.env.grade = 96 then 7680 else if d.env.grade = 88 then 7168 else 6144

/-- Whether a carrier meets the reference conditions (R148): the deadline is 3 slots, neither fewer nor more. -/
def meetsRef (d : Dev) (charge : Bool) (c : AdmCar) : Bool :=
  !charge && fget d regRadioDarner fldRadioDarnerFlashShare == 0 && Config.isReference c.body && recLdpc c ≤ 8 && c.soft ≤ 24 && c.ind == 3

/-! ### Port load (R183, R184) -/

/-- The bits per second of the densest slot of a carrier's data streams in one direction. -/
def carLoad (c : AdmCar) (mw : Nat) : Nat :=
  let per := 3 * mw + 1
  let sym := ((chunksOf c.prb mw).map (fun x => 60 + x.2 * per)).sum
  8 * sym * kindAnts c.kind * 14 * 1000 * 2 ^ muOf c.mu

/-- The bits per second of a carrier's PRACH and SRS messages: those of the slot that holds most of them, in every slot (R184). -/
def extraLoad (c : AdmCar) (mw : Nat) : Nat :=
  8 * ((Config.prachMsgs (c.carrier :: c.words) c.body).map (fun p => 60 + p * (3 * mw + 1))).sum * 1000 * 2 ^ muOf c.mu

/-- The charge of a port for a carrier set, downlink and uplink, which adds PRACH and SRS. -/
def portLoad (cars : List AdmCar) (p : Nat) : Nat × Nat :=
  (cars.filter (fun c => c.port == p)).foldl (fun a c =>
    let ul := bitsAt (recBfp c) 4 4
    (a.1 + carLoad c (bitsAt (recBfp c) 0 4), a.2 + carLoad c ul + extraLoad c ul)) (0, 0)

/-- Whether every port satisfies R184 for a carrier set. -/
def portsOk (d : Dev) (cars : List AdmCar) : Bool :=
  (List.range 32).all (fun p =>
    let l := portLoad cars p
    let rate := if portExists d p then modeRate (portMode d p) * 1000000000 else 0
    100 * l.1 ≤ 99 * rate && 100 * l.2 ≤ 99 * rate)

/-! ### The core check (R207-R209) -/

/-- A task for admission: release, deadline and worst-case time in ns, carrier, index and side of the pair. -/
structure ATask where
  r    : Nat
  d    : Nat
  w    : Nat
  car  : Nat
  idx  : Nat
  side : Nat
  deriving DecidableEq, Repr

/-- Whether a ready task goes before another (R213). -/
def ATask.before (a b : ATask) : Bool :=
  decide (a.d < b.d) || (a.d == b.d && (decide (a.car < b.car) || (a.car == b.car && decide (a.idx < b.idx))))

/-- The task that goes first. -/
def firstATask : List ATask → Option ATask
  | [] => none
  | t :: l => match firstATask l with
    | none => some t
    | some x => if t.before x then some t else some x

/-- The dispatch rule of R213 over the tasks left, from time `t` in ns: the smallest d − (C + Δ + W_max) found so far, below 0 when a task
fails (R209). -/
def coreRun (wmax : Nat) : Nat → Nat → List ATask → Option Int → Option Int
  | 0, _, _, best => best
  | n + 1, t, l, best =>
    if l.isEmpty then best
    else
      match firstATask (l.filter (fun k => decide (k.r ≤ t))) with
      | none => coreRun wmax n (((l.map (fun k => k.r)).min?).getD t) l best
      | some k =>
        let m : Int := (k.d : Int) - (t + k.w + 5000 + wmax : Nat)
        coreRun wmax n (t + k.w) (dropFirst (· == k) l) (some (min m (best.getD m)))

/-- The margin of a core with its tasks of one admission period; 0 without any (R209, R211). -/
def coreMargin (l : List ATask) : Int := (coreRun (((l.map (fun k => k.w)).max?).getD 0) (2 * l.length) 0 l none).getD 0

/-- What stands before the period in the times of its tasks, in ns, so that a cutoff or a transmit window before it is a natural number. -/
def taskBase : Nat := 20000000

/-- When symbol `k` of slot `s` of a period starts, in ns, with `taskBase` before it. -/
def symNs (d : Dev) (c : AdmCar) (s k : Nat) : Nat := taskBase + (symTime d (muOf c.mu) 0 s k - frameZero d) / 8

/-- A task's release in ns (R207): the latest landing of symbol `o` of slot `s` under its receive window, the cutoff of the slot's downlink or
uplink requests (R188), or the tick of the symbol. -/
def taskRel (d : Dev) (c : AdmCar) (kind s o : Nat) : Nat :=
  match kind with
  | 0 => symNs d c s (o + 1) + bitsAt (recWin c) 0 12 * 100
  | 1 => symNs d c s 0 - c.dlLead * 10000
  | 2 => symNs d c s 0 - c.ulLead * 10000
  | _ => symNs d c s o

/-- A task's deadline in ns (R207): the close of the transmit window of symbol `o` of slot `s`, the indication deadline of the slot, or an
intermediate deadline of the task graph, `o` ns after the slot starts. -/
def taskDl (d : Dev) (c : AdmCar) (kind s o : Nat) : Nat :=
  match kind with
  | 0 => symNs d c s o - bitsAt (recWin c) 12 12 * 100
  | 1 => symNs d c (s + c.ind) 0
  | _ => symNs d c s 0 + o

/-- The period of a carrier in ns and the tasks of one period (R206, R207, R210): the firmware's table gives what releases and ends each, its symbol,
which the core of its side takes under R189, and its time, to which the reclaim charge of 2.0 µs is added. -/
def carTasks (d : Dev) (c : AdmCar) : Nat × List ATask :=
  let (p, l) := Config.taskTable (c.carrier :: c.words) c.body
  (p * 1000000 / 2 ^ muOf c.mu, l.zipIdx.map (fun x =>
    let f := fun (i : Nat) => lget 0 x.1 i
    { r := taskRel d c (f 0) (f 1) (f 2), d := taskDl d c (f 3) (f 4) (f 5), w := f 7 + 2000, car := c.carrier, idx := x.2, side := f 6 % 2 }))

/-- Whether every task of a carrier satisfies R208. -/
def budgetOk (l : List ATask) : Bool := l.all (fun t => t.r ≤ t.d && 5 * t.w ≤ 2 * (t.d - t.r))

/-- The admission period of a pair in ns (R209). -/
def pairPeriod (d : Dev) (cars : List AdmCar) : Nat := cars.foldl (fun a c => Nat.lcm a (carTasks d c).1) 1

/-- The margins of the two cores of a pair with its carriers over the admission period. -/
def pairMargins (d : Dev) (cars : List AdmCar) : Int × Int :=
  let per := pairPeriod d cars
  let all := (cars.map (carTasks d)).flatMap (fun t => (List.range (per / t.1)).flatMap (fun j => t.2.map (fun k =>
    { k with r := k.r + j * t.1, d := k.d + j * t.1, idx := k.idx + j * t.2.length })))
  (coreMargin (all.filter (fun k => k.side == 0)), coreMargin (all.filter (fun k => k.side == 1)))

/-- The margins of a pair, none when a core fails or the period exceeds 20 ms (R209). -/
def pairMargin (d : Dev) (cars : List AdmCar) : Option (Int × Int) :=
  let per := pairPeriod d cars
  let m := pairMargins d cars
  if per = 0 ∨ 20000000 < per ∨ m.1 < 0 ∨ m.2 < 0 then none else some m

/-! ### The accelerators (R165, R167, R211) -/

/-- A decode window: when it opens and closes in ns, and the darner time charged for its code blocks in 0.1 ns. -/
structure DecWindow where
  opens  : Nat
  closes : Nat
  charge : Nat
  deriving DecidableEq, Repr

/-- The decode windows of a carrier over 20 ms (R165): from the close of the last receive window of each uplink slot to its CRC.indication
deadline; each code block is charged `MAX_ITER` × 37.7 ns, and 40 ns with flash sharing. -/
def decWindows (flash : Bool) (c : AdmCar) : List DecWindow :=
  let (period, ul) := Config.ulSlots c.body
  let len := 1000000 / 2 ^ muOf c.mu
  let charge := Config.slotBlocks (c.carrier :: c.words) c.body * (recLdpc c * 377 + (if flash then 400 else 0))
  (List.range (20 * 2 ^ muOf c.mu)).filterMap (fun k => if ul.contains (k % max 1 period) then
    some { opens := (k + 1) * len + bitsAt (recWin c) 0 12 * 100, closes := (k + c.ind) * len, charge := charge } else none)

/-- The share of the capacity of so many units that windows of jobs take over the worst of them, in 0.01%, rounded up: all windows that overlap it
count. -/
def worstShare (units : Nat) (ws : List DecWindow) : Nat :=
  ((ws.map (fun w =>
    let sum := ((ws.filter (fun x => decide (x.opens < w.closes) && decide (w.opens < x.closes))).map (fun x => x.charge)).sum
    ceilDiv (sum * 10000) (units * max 1 (w.closes - w.opens) * 10))).max?).getD 0

/-- Accelerators of a kind that admission counts: one fewer than the device holds (R167). -/
def admittedUnits (kind : Nat) : Nat := lget 0 [15, 7, 3, 7, 7] kind

/-- The share of the capacity of 15 darners that a carrier set takes over its worst decode window (R165). -/
def darnerShare (cars : List AdmCar) (flash : Bool) : Nat := worstShare (admittedUnits 0) (cars.flatMap (decWindows flash))

/-- The worst-case time of a job on an accelerator of a kind, in 0.1 ns (R166): `size` is the information bits of an encoder, the points of a transform
unit, the antenna streams of a preamble detector with L = 839 (type 0) or 139; types of a polar unit are encoding (0), list-8 decoding (1) and
Reed-Muller decoding. -/
def jobTime (kind type size : Nat) : Nat :=
  match kind with
  | 1 => ceilDiv (size * 10) 128
  | 2 => if type = 0 then 4000 else if type = 1 then 32000 else 5000
  | 3 => ceilDiv ((ceilDiv size 8 + 64) * 1000) 152
  | _ => size * (if type = 0 then 40000 else 10000)

/-- The windows of a carrier's jobs on the accelerators of a kind (R211). -/
def accelWindows (kind : Nat) (c : AdmCar) : List DecWindow :=
  (Config.accelJobs kind (c.carrier :: c.words) c.body).map (fun w =>
    { opens := w.1, closes := w.2.1, charge := (w.2.2.map (fun j => jobTime kind j.1 j.2)).sum })

/-- Whether the demand of the other accelerators is at most 75% of their capacity over every window (R211). -/
def accelFits (cars : List AdmCar) : Bool :=
  [1, 2, 3, 4].all (fun k => decide (worstShare (admittedUnits k) (cars.flatMap (accelWindows k)) ≤ 7500))

/-! ### Pairs (R148, R210, R225) -/

/-- A pair being loaded: its number and cores when running carriers keep it, its carriers, its margins. -/
structure PairGroup where
  keep   : Option (Nat × Nat × Nat)
  cars   : List AdmCar
  margin : Int × Int := (0, 0)
  deriving DecidableEq, Repr

/-- Carriers in order of decreasing load units, ties to the lower number (R210). -/
def byUnits (l : List AdmCar) : List AdmCar :=
  l.foldr (fun c acc =>
    let before := fun (x : AdmCar) => decide (kindUnits c.kind < kindUnits x.kind) || (kindUnits x.kind == kindUnits c.kind && decide (x.carrier < c.carrier))
    acc.takeWhile before ++ c :: acc.dropWhile before) []

/-- The pairs that running carriers keep, with those of the set on them (R225). -/
def keptGroups (d : Dev) (run : List AdmCar) : List PairGroup :=
  ((run.map (fun c => c.pair)).eraseDups).map (fun p =>
    { keep := some (p, pairCore d p 0, pairCore d p 1), cars := run.filter (fun c => c.pair == p) })

/-- The load units of a group. -/
def PairGroup.units (g : PairGroup) : Nat := (g.cars.map (fun c => kindUnits c.kind)).sum

/-- Adds a carrier to the group of a list with the fewest units, the first on ties. -/
def addLeast (gs : List PairGroup) (c : AdmCar) : List PairGroup :=
  let least := ((gs.map PairGroup.units).min?).getD 0
  let i := gs.findIdx (fun g => g.units == least)
  gs.zipIdx.map (fun x => if x.2 = i then { x.1 with cars := x.1.cars ++ [c] } else x.1)

/-- Puts a carrier on the first open pair that accepts it, or on a new pair (R210). -/
def placeCar (d : Dev) (c : AdmCar) : List PairGroup → Option (List PairGroup)
  | [] => (pairMargin d [c]).map (fun m => [{ keep := none, cars := [c], margin := m }])
  | g :: gs => match pairMargin d (g.cars ++ [c]) with
    | some m => some ({ g with cars := g.cars ++ [c], margin := m } :: gs)
    | none => (placeCar d c gs).map (g :: ·)

/-- The arithmetic of R208 to R210 in full; none when check 1 fails. -/
def fullGroups (d : Dev) (kept : List PairGroup) (cars news : List AdmCar) : Option (List PairGroup) :=
  if !cars.all (fun c => budgetOk (carTasks d c).2) then none
  else
    let kept := kept.mapM (fun g => (pairMargin d g.cars).map (fun m => { g with margin := m }))
    (byUnits news).foldl (fun acc c => acc.bind (placeCar d c)) kept

/-- The pairs of a reference set (R148, R210): the first fit where the firmware's times give the closed form's two cores for each 512 units, else that
many pairs, each carrier on the one with the fewest units (DESIGN CHOICE, log entry 149). -/
def closedGroups (d : Dev) (kept : List PairGroup) (cars news : List AdmCar) (units : Nat) : List PairGroup :=
  let need := ceilDiv units 512
  match (fullGroups d kept cars news).filter (fun gs => gs.length == need) with
  | some gs => gs
  | none =>
    let gs := (byUnits news).foldl addLeast (kept ++ List.replicate (need - kept.length) { keep := none, cars := [] })
    gs.map (fun g => { g with margin := pairMargins d g.cars })

/-! ### Soft-buffer pages and cores (R168, R211) -/

/-- The page bases of a pier in increasing page number (R230). -/
def pierPages (k : Nat) : List Nat :=
  (List.range 32768).map (fun j => (j / 4096 * 32768 + j % 4096 * 8 + (j / 4096 ^^^ k)) * 2097152)

/-- Whether a page can hold soft bits: it is free, or held by a carrier that is not running. -/
def softFreePage (d : Dev) (held : List Nat) (a : Nat) : Bool :=
  let p := pageOf d a
  (p.owner == 0x7F && !takenBy d 65 (fun q => q.pages.contains (a / 2097152))) || (p.owner == 0 && p.slot && !held.contains a)

/-- The pages of each soft-buffer slot of a carrier, avoiding those used; none without room. -/
def softAlloc (d : Dev) (held : List Nat) (c : AdmCar) (used : List Nat) : Option (List (List Nat)) :=
  (List.range c.soft).foldl (fun acc s => acc.bind (fun l =>
    let taken := used ++ l.flatten
    let pg := ((pierPages ((c.carrier + s) % 8)).filter (fun a => softFreePage d held a && !taken.contains a)).take (kindSlotMib c.kind / 2)
    if pg.length = kindSlotMib c.kind / 2 then some (l ++ [pg]) else none)) (some [])

/-- The pages of the slots of the carriers that do not run, as (carrier, slots). -/
def softPlan (d : Dev) (held : List Nat) (news : List AdmCar) : Option (List (Nat × List (List Nat))) :=
  news.foldl (fun acc c => acc.bind (fun l =>
    (softAlloc d held c (l.flatMap (fun x => x.2.flatten))).map (fun s => l ++ [(c.carrier, s)]))) (some [])

/-- The cores that the reserve may take (R148, R211 check 5): idle cores of instance 0 outside every partition, and cores of the reserve that
no running carrier holds. -/
def reservable (d : Dev) (kept : List PairGroup) : List Nat :=
  let mine := kept.flatMap (fun g => match g.keep with
    | some (_, a, b) => [a, b]
    | none => [])
  (List.range 96).filter (fun c => coreOn d c && !coreFenced d c && !mine.contains c && fget d (regCorePart c) fldCorePartOwner == 0
    && !takenBy d 65 (fun p => bitOf p.cores c) && (inReserve d c || coreState d c == 0))

/-! ### The admission (R211, R409) -/

/-- The outcome of an admission: the failed check or 0, the pairs, the spares, load units, soft buffer in MiB, the free darner share, and
the pages of new carriers. -/
structure AdmRes where
  failed : Nat
  pairs  : List (Nat × PairGroup) := []
  cores  : Tbl (Nat × Nat) := []
  spares : List Nat := []
  units  : Nat
  soft   : Nat
  free   : Nat := 0
  pages  : List (Nat × List (List Nat)) := []
  deriving DecidableEq, Repr

/-- Numbers the pairs and gives new ones the cores, lowest first. -/
def nameGroups (used : List Nat) : List PairGroup → List Nat → List (Nat × PairGroup × Nat × Nat)
  | [], _ => []
  | g :: gs, pool =>
    match g.keep with
    | some (p, a, b) => (p, g, a, b) :: nameGroups used gs pool
    | none =>
      let p := ((List.range 64).find? (fun p => !used.contains p)).getD 0
      match pool with
      | a :: b :: rest => (p, g, a, b) :: nameGroups (p :: used) gs rest
      | _ => []

/-- Admission of a carrier set with the running carriers of it, in the order of the checks of R211. -/
def admission (d : Dev) (cars : List AdmCar) (charge : Bool) : AdmRes :=
  let live := d.sp.cars.filter (fun c => carEnabled d c.carrier)
  let units := (cars.map (fun c => kindUnits c.kind)).sum
  let soft := (cars.map (fun c => c.soft * kindSlotMib c.kind)).sum
  let no := fun (k free : Nat) => ({ failed := k, units := units, soft := soft, free := free } : AdmRes)
  if live.any (fun x => !cars.any (fun c => c.carrier == x.carrier && c.words == x.words)) then no 6 0
  else
    let kept := keptGroups d live
    let news := cars.filter (fun c => live.all (fun x => x.carrier != c.carrier))
    let ref := units ≤ unitBudget d && cars.all (meetsRef d charge)
    let share := darnerShare cars charge
    let free := 10000 - share
    match (if ref then some (closedGroups d kept cars news units) else fullGroups d kept cars news) with
    | none => no 1 0
    | some gs =>
      if !ref && (7500 < share || !accelFits cars) then no 2 free
      else if !portsOk d cars then no 3 free
      else
        let held := live.flatMap (fun c => (List.range 64).flatMap (softPages d c.carrier))
        match softPlan d held news with
        | none => no 4 free
        | some pages =>
          let pool := reservable d kept
          let need := 2 * (gs.length - kept.length)
          if resCeiling d < 2 * gs.length + 2 ∨ pool.length < need + 2 then no 5 free
          else
            let named := nameGroups (kept.filterMap (fun g => g.keep.map (fun k => k.1))) gs pool
            { failed := 0, pairs := named.map (fun x => (x.1, x.2.1)), cores := named.map (fun x => (x.1, x.2.2)), spares := (pool.drop need).take 2
              units := units, soft := soft, free := free, pages := pages }

/-- The 4 KiB of the admission result (R409); a core's margin is cut to 32 bits. -/
def resBytes (d : Dev) (cars : List AdmCar) (r : AdmRes) : List Byte :=
  let work := r.cores.flatMap (fun x => [x.2.1, x.2.2])
  let all := work ++ r.spares
  let margin := fun (c : Nat) => ((r.pairs.findSome? (fun x =>
    let k := tget (noCore, noCore) r.cores x.1
    if k.1 = c then some x.2.margin.1 else if k.2 = c then some x.2.margin.2 else none)).getD 0 : Int)
  let rings := fun (c : Nat) => if all.contains c then
      [(landRing c).1, (landRing c).2, (mirrorRing d c).1, (mirrorRing d c).2, (txRing c).1, (txRing c).2] else [0, 0, 0, 0, 0, 0]
  padTo 4096 (natLe 1 r.failed ++ natLe 1 all.length ++ natLe 2 r.units ++ natLe 4 r.soft ++ natLe 2 r.free ++ natLe 6 0
    ++ natLe 12 (bitMap work) ++ natLe 12 (bitMap r.spares) ++ natLe 24 0
    ++ (List.range 16).flatMap (fun p => let k := tget (0xFFFF, 0xFFFF) r.cores p; natLe 2 k.1 ++ natLe 2 k.2)
    ++ (List.range 96).flatMap (fun c => natLe 4 (ofSigned 32 (margin c)))
    ++ (List.range 32).flatMap (fun p =>
      let l := portLoad cars p
      natLe 4 (ceilDiv l.1 1000000) ++ natLe 4 (ceilDiv l.2 1000000))
    ++ (List.range 96).flatMap (fun c => (rings c).flatMap (natLe 4)))

/-- Writes the registers that a record names (R409); those of a running carrier stay in force until its slot boundary. -/
def writeCar (pair : Nat) (d : Dev) (c : AdmCar) : Dev :=
  let n := c.carrier
  let ks := [(regRadioCarCfg n, setBits (recCfg c) 32 4 pair), (regRadioCarLdpc n, recLdpc c), (regFhuCarBfp n, recBfp c), (regFhuCarNet n, recNet c),
    (regFhuCarMac n, recMac c), (regFhuCarWin n, recWin c), (regFhuCarLead n, recLead c)]
  let run := carEnabled d n
  let d := ks.foldl (fun d k => setReg d k.1 k.2) d
  if run then d else commitRegs d (ks.map (fun k => k.1))

/-- Gives a page to the soft buffer of instance 0, or frees it (R231). -/
def setSoft (on : Bool) (d : Dev) (a : Nat) : Dev :=
  modPage d a (fun e => { e with owner := if on then 0 else 0x7F, slot := on })

/-- Puts an admission in force (R225, R409): cores join and leave the reserve at the next slot boundary, at once when no carrier is
enabled. -/
def admitApply (d : Dev) (cars : List AdmCar) (charge : Bool) (r : AdmRes) : Dev :=
  let live := (d.sp.cars.filter (fun c => carEnabled d c.carrier)).map (fun c => c.carrier)
  let pairOf := fun (n : Nat) => ((r.pairs.find? (fun x => x.2.cars.any (fun c => c.carrier == n))).map (fun x => x.1)).getD 0
  let old := (d.sp.cars.map (fun c => c.carrier)).filter (fun n => !live.contains n)
  let d := (old.flatMap (fun n => (List.range 64).flatMap (softPages d n))).foldl (setSoft false) d
  let d := (r.pages.flatMap (fun x => x.2.flatten)).foldl (setSoft true) d
  let keys := r.pages.flatMap (fun x => x.2.zipIdx.map (fun s => (x.1 * 64 + s.2, s.1)))
  let now := r.cores.flatMap (fun x => [x.2.1, x.2.2]) ++ r.spares
  let was := (List.range 96).filter (fun c => inReserve d c || d.sp.adding.any (fun x => x.1 == c))
  let kept := (r.pairs.filter (fun x => x.2.keep.isSome)).flatMap (fun x => let k := tget (noCore, noCore) r.cores x.1; [k.1, k.2])
  let cars := cars.map (fun c => { c with pair := pairOf c.carrier })
  let d := modSp d (fun s => { s with
    cars := cars
    pairs := r.cores
    flash40 := charge
    adding := (now.filter (fun c => !kept.contains c && !(r.spares.contains c && isSpare d c))).map (fun c => (c, r.spares.contains c))
    removing := was.filter (fun c => !now.contains c)
    softPg := keys ++ s.softPg.filter (fun p => live.contains (p.1 / 64))
    bound := s.bound.filter (fun p => live.contains p.1)
    trk := s.trk.filter (fun p => live.contains p.1)
    portL := (List.range 32).map (fun p => (p, portLoad cars p)) })
  let d := cars.foldl (fun d c => writeCar c.pair d c) d
  let d := fset (fset d regRadioAdmit fldRadioAdmitUnits r.units) regRadioAdmit fldRadioAdmitSoftMib r.soft
  let d := fset d regRadioAdmit fldRadioAdmitResCores now.length
  let d := (List.range 32).foldl ethRecheck d
  if cars.any (fun c => carEnabled d c.carrier) then d else planBoundary d

/-- RADIO_ADMIT (R409): its result is written; a refusal leaves the admission in force. -/
def cmdAdmit (d : Dev) (q : Nat) (c : Cmd) : Dev :=
  let n := c.arg 1
  if n = 0 ∨ 512 < n ∨ 1 < c.arg 2 then cmdEnd d 0 q c 0x3A03 0 n
  else
    let cars := (List.range n).map (fun i => (c.arg 0 + 64 * i, readCar d (c.arg 0 + 64 * i)))
    if !cars.all (fun x => recOk d x.1 x.2) || (cars.map (fun x => x.2.carrier)).eraseDups.length != n then cmdEnd d 0 q c 0x3A03
    else
      let cars := cars.map (fun x => x.2)
      let r := admission d cars (c.arg 2 == 1)
      let d := hostWrite d (c.arg 3) (resBytes d cars r)
      if r.failed ≠ 0 then cmdEnd d 0 q c 0x3A0B r.failed
      else cmdEnd (admitApply d cars (c.arg 2 == 1) r) 0 q c 0

/-! ### Lending (R203) -/

/-- Whether a context is on a core already. -/
def onCore (d : Dev) (i x : Nat) : Bool :=
  (List.range 96).any (fun c => (coreSt d c).borrowed == some (i, x) || (coreState d c == 1 && (coreCtx d c).2 == (i, x)))

/-- Whether a context waits to borrow a core. -/
def waitsCore (d : Dev) (i x : Nat) : Bool :=
  d.sp.borrowers.contains i && (ctxSt d i x).live && (ctxSt d i x).ending.isNone && (instSt d i).freezing.isNone
    && !(ctxSt d i x).queue.isEmpty && !onCore d i x

/-- The waiting borrower that comes first (R203): prompt before soak, then the one whose oldest invocation was accepted first; ties to the
lower instance and context (log entry 124). -/
def firstBorrower (d : Dev) : Option (Nat × Nat) :=
  let before := fun (a b : Nat × Nat) =>
    let k := fun (w : Nat × Nat) => ((ctxSt d w.1 w.2).cls, (((ctxSt d w.1 w.2).queue.head?).map (fun v => v.since)).getD 0)
    decide ((k a).1 < (k b).1) || ((k a).1 == (k b).1 && decide ((k a).2 < (k b).2))
  ((List.range 65).flatMap (fun i => (List.range 16).map (fun x => (i, x)))).foldl (fun best w =>
    if waitsCore d w.1 w.2 then
      match best with
      | some b => if before w b then some w else best
      | none => some w
    else best) none

/-- The ns until the next task of a core's admission schedule is due to be released (R203): tasks of its side of its pair, of the carriers that do not
stand stopped; none for a core without a role. -/
def nextRelease (d : Dev) (c : Nat) : Option Nat :=
  match roleOf d c with
  | none => none
  | some (p, side) =>
    let now := (slotNow d - frameZero d) / 8
    ((d.sp.cars.filter (fun k => k.pair == p && carState d k.carrier != 0)).flatMap (fun k =>
      let (per, l) := carTasks d k
      (l.filter (fun t => t.side == side)).map (fun t => (t.r + per * taskBase - taskBase + per - now % per) % per))).min?

/-- LEND (R203): a reserved core with an empty queue goes to the first waiting borrower for a gap of at least `MIN_GAP` µs, in ns, in which its schedule has
no release. Save areas outside the lend window end the context (R94). A context saved before is reloaded by RESTORE. -/
def lend (d : Dev) (c gap : Nat) : Dev :=
  let free := fact d regTimeSpLend fldTimeSpLendLendEn == 1 && inReserve d c && coreOn d c && !coreFenced d c && coreState d c == 0
    && (coreSt d c).borrowed.isNone && (coreTasks d c).isEmpty && !sigRuns d c && decide (fact d regTimeSpLend fldTimeSpLendMinGap * 1000 ≤ gap) && (nextRelease d c).all (gap ≤ ·)
  match (if free then firstBorrower d else none) with
  | none => d
  | some (i, x) =>
    let save := getAct d (regCoreSaveBase c)
    let base := storeAddr c (fget d (regCorePart c) fldCorePartLendBase * 262144)
    if save < base ∨ storeAddr c 0x400000 < save + 16384 then endCtx d i x 0x410B save c
    else
      let k := regCoreCtx c
      let d := fset (fset (fset d k fldCoreCtxWorkClass (ctxSt d i x).cls) k fldCoreCtxInstance i) k fldCoreCtxContext x
      let d := fsat (commitReg d k) regTimeSpCount fldTimeSpCountLends 1
      if d.sp.saved.any (fun s => s.2 == (i, x)) then d
      else
        let d := modCore d c (fun t => { t with borrowed := some (i, x) })
        let d := fset (fset d (regCoreStatus c) fldCoreStatusLent 1) (regCoreStatus c) fldCoreStatusLentSaved 0
        startCore d c

/-! ### FAPI channels (R193, R405) -/

/-- FAPI_OPEN (R193, R405): the rings, the arena and the free ring lie in resident host memory of instance 0; counts start as the ring headers
hold them. -/
def cmdFapiOpen (d : Dev) (q : Nat) (c : Cmd) : Dev :=
  let a := c.arg 0
  let ch := bitsAt a 0 4
  let lreq := bitsAt a 8 4 + 4
  let lind := bitsAt a 12 4 + 4
  let lpay := bitsAt a 16 5
  let vec := bitsAt a 32 12
  let rings := [c.arg 1, c.arg 2, c.arg 5]
  if !onlyBits a 0x00000FFF001FFF0F || 16 < lreq || 16 < lind || lpay < 16 || 21 < lpay || 2047 < vec || c.arg 4 = 0
      || rings.any (fun r => r % 4096 != 0) then cmdEnd d 0 q c 0x3A03
  else
    let cars := hostNat d (c.arg 6) 64
    if (tget? d.sp.chans ch).isSome || d.sp.chans.any (fun p => p.2.cars &&& cars != 0) then cmdEnd d 0 q c 0x3A08
    else
      let x : FapiCh := { cars := cars, req := c.arg 1, ind := c.arg 2, arena := c.arg 3, arenaLen := c.arg 4, free := c.arg 5, reqLog := lreq, indLog := lind, payLog := lpay, vector := vec, tail := hostNat d (c.arg 1 + 0x40) 4, head := hostNat d (c.arg 1 + 0x40) 4, prod := hostNat d (c.arg 2) 4, freeHead := hostNat d (c.arg 5 + 0x40) 4 }
      cmdEnd (modSp d (fun s => { s with chans := tset s.chans ch x })) 0 q c 0

/-- FAPI_CLOSE (R405): the channel closes after the slot in progress, at once when none of its carriers is enabled. -/
def cmdFapiClose (d : Dev) (q : Nat) (c : Cmd) : Dev :=
  let ch := c.arg 0
  if 15 < ch then cmdEnd d 0 q c 0x3A03
  else
    match tget? d.sp.chans ch with
    | none => cmdEnd d 0 q c 0x3A08
    | some x =>
      let busy := (List.range 512).any (fun n => bitOf x.cars n && (carOf d n).isSome && carEnabled d n)
      let d := if busy then modChan d ch (fun y => { y with closing := true }) else modSp d (fun s => { s with chans := tdel s.chans ch })
      cmdEnd d 0 q c 0

end Sys2Proof.Machine
end

