-- ==== Sys2Proof/Machine/Collect.lean ====
section
/-!
DEFINITION. The collective operators (R417): the group record, the exchange of an all-reduce by EXADD at the members' scratch
homes with arrivals counted by REL_ADD, and the operators that move blocks (log entry 39).
-/

namespace Sys2Proof.Machine

/-- A group record with its members (R417). -/
structure Group where
  job     : Nat
  n       : Nat
  rank    : Nat
  zero    : Nat
  scratch : Nat
  list    : Nat
  deriving DecidableEq, Repr

/-- The group record at a device offset (R417). -/
def groupAt (d : Dev) (a : Nat) : Group :=
  { job := devNat d a 4, n := devNat d (a + 4) 4, rank := devNat d (a + 8) 4, zero := devNat d (a + 12) 4
    scratch := devNat d (a + 16) 8, list := devNat d (a + 24) 8 }

/-- The endpoint of a member: the list holds 2-byte endpoint IDs. -/
def Group.member (g : Group) (d : Dev) (r : Nat) : Nat := devNat d (g.list + 2 * r) 2

/-- The field that holds the group record's address. -/
def groupField (o : OpIn) : Nat := o.fld 1

/-- Why a collective cannot run, with the address: the group record or the list cannot be read, a member count or rank is out of
range, the context has no job (R294, R411, R417, R499). -/
def groupErr (d : Dev) (o : OpIn) : Option (Nat × Nat) :=
  let a := groupField o
  match firstAccess d o.who [(false, a, 32)] with
  | some e => some e
  | none =>
    let g := groupAt d a
    if isPoisoned d a 32 then some (0x3104, a)
    else if g.n = 0 ∨ 65536 < g.n ∨ g.n ≤ g.rank ∨ g.zero ≠ 0 ∨ 2 ^ 20 ≤ g.job then some (0x3A07, 0)
    else match firstAccess d o.who [(false, g.list, 2 * g.n)] with
    | some e => some e
    | none =>
      if isPoisoned d g.list (2 * g.n) then some (0x3104, g.list)
      else if 1 < g.n ∧ (ctxSt d o.i o.x).job = 0 then some (0x4507, 0)
      else if g.job ≠ (ctxSt d o.i o.x).job then some (0x3A07, 0)
      else none

/-! ### ALLREDUCE and REDUCE_SCATTER -/

/-- Elements of a member's block (R417). -/
def blockLen (o : OpIn) (g : Group) : Nat := ceilDiv (o.fld 0) g.n

/-- The exact terms of one input element (R53): an EXA-80 input stands for one. -/
def collBad (o : OpIn) (g : Group) (scatter : Bool) : Bool :=
  2 ^ 33 < g.n || (scatter && o.fld 0 % g.n != 0)

/-- An element of X as an EXA-80 operand with its poison (R52). -/
def collElem (d : Dev) (o : OpIn) (e : Nat) : Cell :=
  inElem d (o.ten 0) (bitsAt (o.fld 2) 0 4) (bitsAt (o.fld 2) 4 2) 1 (o.fld 0) 0 e

/-- The key of a collective's request: its phase and index. -/
def collKey (phase idx : Nat) : Nat := phase * 2 ^ 40 + idx

/-- Adds an element into a line of this member's own scratch, as its home agent does (R307). -/
def localExadd (d : Dev) (line : Nat) (c : Cell) : Dev :=
  if c.poison || isPoisoned d line 128 then poisonLine d line
  else devWrite d line (exaddLine (devRead d line 128) (natLe 80 c.x.toNat)) false

/-- Issues a request of a collective, or does nothing more when the context may not. -/
def collIssue (d : Dev) (o : OpIn) (op dst addr : Nat) (pkt : TrnReq) (key : Nat) : Dev :=
  match issueRefusal d o.i o.x op addr with
  | some (st, _) => stepDone d o.i o.x st (dst * 2 ^ 48 + addr) 0 0 true
  | none => issue d o.i o.x op (dst * 2 ^ 48 + addr) pkt (.operator key)

/-- Requests of a context's collective that are outstanding. -/
def collOut (d : Dev) (o : OpIn) : Nat := (ctxReqs d o.i o.x).length

/-- The current position of a context's collective. -/
def collAt (d : Dev) (o : OpIn) : Nat × Nat := match (ctxSt d o.i o.x).queue.head? with
  | some v => (v.phase, v.pos)
  | none => (9, 0)

/-- Moves a collective on. -/
def collMove (d : Dev) (o : OpIn) (phase pos : Nat) : Dev := modHead d o.i o.x (fun v => { v with phase := phase, pos := pos })

/-- The words of the results read back: element and word of an index. -/
def collWord (o : OpIn) (g : Group) (scatter : Bool) (idx : Nat) : Nat × Nat :=
  let b := blockLen o g
  let e := idx / 10
  let r := if scatter then g.rank else e / b
  (r, g.scratch + 128 * (e % b) + 8 * (idx % 10))

/-- Elements of Y (R417). -/
def collOutLen (o : OpIn) (g : Group) (scatter : Bool) : Nat := if scatter then o.fld 0 / g.n else o.fld 0

/-- Rounds and writes Y once every word has been read back (R52, R417). -/
def collFinish (d : Dev) (o : OpIn) (g : Group) (scatter : Bool) : Dev :=
  let lines := match (ctxSt d o.i o.x).queue.head? with
    | some v => v.lines
    | none => []
  let n := collOutLen o g scatter
  let d := modHead d o.i o.x (fun v => { v with lines := [], phase := 0, pos := 0 })
  let cell := fun (e : Nat) =>
    let ws := (List.range 10).map (fun w => tget ([], false) lines (e * 10 + w))
    ({ x := Exa.ofNat (leNat (ws.flatMap (fun w => padTo 8 w.1))), poison := ws.any (·.2) } : Cell)
  let r := opOut d o (o.ten 1) 1 n 0 0 0x3104 false (fun _ e => cell e)
  stepDone r.dev o.i o.x r.status r.addr r.flags.toNat r.result true

/-- Drives an all-reduce on (R311, R312, R320, R417): phase 0 adds every element at the scratch home of its block, phase 1
counts this member's arrival at every home behind all of its additions, phase 2 waits until every arrival is counted, phase 3 reads
the sums. Reads are additions of 0, which the atomic right allows. -/
def collDrive (o : OpIn) (g : Group) (scatter : Bool) : Nat → Dev → Dev
  | 0, d => d
  | fuel + 1, d =>
    let (phase, pos) := collAt d o
    let b := blockLen o g
    let cnt := g.scratch + 128 * b
    let full := 4096 ≤ d.trn.reqs.length
    if (ctxSt d o.i o.x).ending.isSome then d
    else match phase with
    | 0 =>
      if pos < o.fld 0 then
        let c := collElem d o pos
        let line := g.scratch + 128 * (pos % b)
        if pos / b = g.rank then collDrive o g scatter fuel (collMove (localExadd d line c) o 0 (pos + 1))
        else if full then d
        else
          let pkt := { blankReq with data := natLe 80 c.x.toNat, poison := c.poison }
          collDrive o g scatter fuel (collMove (collIssue d o 0x0A (g.member d (pos / b)) line pkt (collKey 0 pos)) o 0 (pos + 1))
      else collDrive o g scatter fuel (collMove d o 1 0)
    | 1 =>
      if pos < g.n then
        if pos = g.rank then collDrive o g scatter fuel (collMove (devPut d cnt 8 ((devNat d cnt 8 + 1) % 2 ^ 64)) o 1 (pos + 1))
        else if full then d
        else collDrive o g scatter fuel
          (collMove (collIssue d o 0x0D (g.member d pos) cnt { blankReq with a := 1 } (collKey 1 pos)) o 1 (pos + 1))
      else if collOut d o = 0 then collDrive o g scatter fuel (collMove d o 2 0)
      else d
    | 2 =>
      if pos < g.n then
        if pos = g.rank then
          if isPoisoned d cnt 8 then stepDone d o.i o.x 0x3104 cnt 0 0 true
          else if g.n ≤ devNat d cnt 8 then collDrive o g scatter fuel (collMove d o 2 (pos + 1))
          else d
        else if scatter then collDrive o g scatter fuel (collMove d o 2 (pos + 1))
        else if full ∨ collOut d o ≠ 0 then d
        else collIssue d o 0x03 (g.member d pos) cnt blankReq (collKey 2 pos)
      else collDrive o g scatter fuel (collMove d o 3 0)
    | 3 =>
      if pos < 10 * collOutLen o g scatter then
        let (r, a) := collWord o g scatter pos
        if r = g.rank then
          let w := (devRead d a 8, isPoisoned d a 8)
          collDrive o g scatter fuel (modHead (collMove d o 3 (pos + 1)) o.i o.x (fun v => { v with lines := tset v.lines pos w }))
        else if full then d
        else collDrive o g scatter fuel (collMove (collIssue d o 0x03 (g.member d r) a blankReq (collKey 3 pos)) o 3 (pos + 1))
      else if collOut d o = 0 then collFinish d o g scatter
      else d
    | _ => d

/-- How many positions a collective may take in one go. -/
def collFuel (o : OpIn) (g : Group) : Nat := 12 * o.fld 0 + 3 * g.n + 8

/-- The collective that a context's head runs, when it is an all-reduce. -/
def collHead (d : Dev) (i x : Nat) : Option (OpIn × Group × Bool) :=
  match (ctxSt d i x).queue.head? with
  | none => none
  | some v =>
    match headOp v with
    | some 0x0140 => let o := headIn d i x v; some (o, groupAt d (groupField o), false)
    | some 0x0141 => let o := headIn d i x v; some (o, groupAt d (groupField o), true)
    | _ => none

/-- Drives the collective of a context's head on. -/
def collPump (d : Dev) (i x : Nat) : Dev :=
  match collHead d i x with
  | some (o, g, s) => collDrive o g s (collFuel o g) d
  | none => d

/-- The row of ALLREDUCE or REDUCE_SCATTER (R417): the checks at its start, then the exchange. -/
def collRow (d : Dev) (i x : Nat) (scatter : Bool) : Dev :=
  match headReady d i x with
  | none => d
  | some v =>
    if headOp v != some (if scatter then 0x0141 else 0x0140) then d
    else if v.started then collPump d i x
    else
      let d := beginStep d i x v
      match headErr d i x v with
      | some (st, a) => stepDone d i x st a 0 0 true
      | none =>
        let o := headIn d i x v
        match groupErr d o with
        | some (st, a) => stepDone d i x st a 0 0 true
        | none =>
          let g := groupAt d (groupField o)
          let f := bitsAt (o.fld 2) 0 4
          if collBad o g scatter then stepDone d i x 0x3A07 0 0 0 true
          else match firstAccess d o.who [(false, o.ten 0, inBytes f (bitsAt (o.fld 2) 4 2) 1 (o.fld 0)),
              (true, o.ten 1, outBytes o.attr 1 (collOutLen o g scatter)), (true, g.scratch, 128 * blockLen o g + 128)] with
            | some (st, a) => stepDone d i x st a 0 0 true
            | none => collPump (modHead d i x (fun w => { w with phase := 0, pos := 0, lines := [] })) i x

/-- A reply of a collective's request (R417): a count below N is read again, a word of the result is kept. -/
def collReply (d : Dev) (i x key : Nat) (value : Nat) (poison : Bool) : Dev :=
  match collHead d i x with
  | none => d
  | some (o, g, _) =>
    let idx := key % 2 ^ 40
    match key / 2 ^ 40 with
    | 2 =>
      if poison then stepDone d i x 0x3104 0 0 0 true
      else if value < g.n then collPump d i x
      else collPump (collMove d o 2 (idx + 1)) i x
    | 3 => collPump (modHead d i x (fun v => { v with lines := tset v.lines idx (natLe 8 value, poison) })) i x
    | _ => collPump d i x

/-! ### ALLGATHER and ALLTOALL -/

/-- The parts of a range that are poisoned, by offset and length (R109). -/
def poisonedParts (d : Dev) (a n : Nat) : List (Nat × Nat) :=
  (unitsIn a n).filterMap (fun u =>
    let lo := max u a
    let hi := min (u + unitSize a) (a + n)
    if isPoisoned d lo (hi - lo) then some (lo - a, hi - lo) else none)

/-- The row of ALLGATHER or ALLTOALL (R417): `blocks` holds the blocks that reach this member from the others in rank order with
their poison; the operator waits until all of them are there. It moves data: poison goes with it and ends nothing (R110, R111; log
entry 39). -/
def moveRow (d : Dev) (i x : Nat) (all : Bool) (blocks : List (List Byte × Bool)) : Dev :=
  match headReady d i x with
  | none => d
  | some v =>
    if headOp v != some (if all then 0x0143 else 0x0142) then d
    else
      let d := beginStep d i x v
      match headErr d i x v with
      | some (st, a) => stepDone d i x st a 0 0 true
      | none =>
        let o := headIn d i x v
        match groupErr d o with
        | some (st, a) => stepDone d i x st a 0 0 true
        | none =>
          let g := groupAt d (groupField o)
          let n := o.fld 0
          match firstAccess d o.who [(false, o.ten 0, if all then n * g.n else n), (true, o.ten 1, n * g.n)] with
          | some (st, a) => stepDone d i x st a 0 0 true
          | none =>
            if blocks.length + 1 ≠ g.n ∨ blocks.any (fun b => b.1.length != n) then d
            else
              let own := o.ten 0 + (if all then g.rank * n else 0)
              let parts := poisonedParts d own n
              let ys := blocks.take g.rank ++ [(devRead d own n, false)] ++ blocks.drop g.rank
              let d := ys.zipIdx.foldl (fun d p => devWrite d (o.ten 1 + p.2 * n) p.1.1 false) d
              let d := ys.zipIdx.foldl (fun d p => if p.1.2 then markPoison d (o.ten 1 + p.2 * n) 0 (8 * n) else d) d
              stepDone (parts.foldl (fun d p => markPoison d (o.ten 1 + g.rank * n + p.1) 0 (8 * p.2)) d) i x 0 0 0 0 true

end Sys2Proof.Machine
end

