-- ==== Sys2Proof/Machine/TreanCmds.lean ====
section
/-!
DEFINITION. The Trean events: packets that arrive, timers of requests and replies, gateway blocks, fabric-manager messages,
flits and port states (R290-R332).
-/

namespace Sys2Proof.Machine

/-- The discard of a write to a Trean register (R11, R332). -/
def trnReject (d : Dev) (key : Nat) : Dev := cfgReject d regTrnStatus fldTrnStatusCfgReject 0x1501 key

/-! ### Arrival of requests (R305-R321) -/

/-- A request of one operation at its home (R306, R321): a host-window access that faults gives poison or NACK 0x350C. -/
def homeServe (d : Dev) (port op : Nat) (r : TrnReq) : Dev :=
  if !opAligned op r.addr then sendReply d port (.rsp 0x85 (replyTo d r 0x350D))
  else if r.hostFault ∧ hostBase ≤ r.addr ∧ homeRefusal d op r = none ∧ (op = 1 ∨ (tget? d.trn.cache (cacheKey r)).isNone) then
    if op = 1 then sendReply d port (.rsp 0x81 (replyTo d r 0x350C true 0 (List.replicate 128 0)))
    else sendReply d port (.rsp 0x85 (replyTo d r 0x350C))
  else if op = 1 then sendReply d port (homeRead d r)
  else homeWrite d op r port

/-! ### Gateways (R322-R324) -/

/-- Whether the device is a gateway (R322). -/
def isGateway (d : Dev) : Bool := fget d regTrnGw fldTrnGwGwEn == 1

/-- The key of a far or near gateway's channel. -/
def gwKey (far chan : Nat) : Nat := far * 2 + chan

/-- Closes the open block to a far gateway on a channel and sends it (R323). -/
def gwClose (d : Dev) (far chan : Nat) : Dev :=
  match d.trn.gwOpen.find? (fun b => b.far == far && b.chan == chan) with
  | none => d
  | some b =>
    let seq := tget 0 d.trn.gwSeq (gwKey far chan)
    let aged := (b.pkts.zip b.came).map (fun p => (agePkt (tb2 d - p.2.1 + hopTime) p.1, p.2.2))
    let d := (aged.filter (fun p => maxAge ≤ pktAge p.1)).foldl (fun d p => dropAged d p.2) d
    let pkts := (aged.filter (fun p => pktAge p.1 < maxAge)).map (fun p => p.1)
    let b := { b with seq := seq, pkts := pkts, bytes := (pkts.map pktBytes).sum, came := [], sent := tb2 d }
    let t := { d.trn with
      gwOpen := d.trn.gwOpen.filter (fun b => !(b.far == far && b.chan == chan))
      gwSent := d.trn.gwSent ++ [b]
      gwSeq := tset d.trn.gwSeq (gwKey far chan) ((seq + 1) % 2 ^ 32) }
    emit { d with trn := t } (.block (if chan = 0 then 0x20 else 0xA0) far seq (32 + b.bytes) b.pkts)

/-- GW_BLOCK_CLOSE (R323): the open block closes 2 µs after its first packet. -/
def gwDue (d : Dev) (far chan : Nat) : Dev :=
  if d.trn.gwOpen.any (fun b => b.far == far && b.chan == chan && b.came.any (fun p => decide (p.1 + 16000 ≤ tb2 d))) then gwClose d far chan else d

/-- Packs a packet for another pod into the open block of its channel, which closes first when the packet does not fit
(R323). A far gateway is known by its pod. -/
def gwPack (d : Dev) (port : Nat) (p : TrnPkt) : Dev :=
  let far := podOf (pktDst p)
  let chan := pktChan p
  let n := pktBytes p
  let full := d.trn.gwOpen.any (fun b => b.far == far && b.chan == chan && 65536 < b.bytes + n)
  let d := if full then gwClose d far chan else d
  let b : GwBlock := match d.trn.gwOpen.find? (fun b => b.far == far && b.chan == chan) with
    | some b => { b with pkts := b.pkts ++ [p], bytes := b.bytes + n, came := b.came ++ [(tb2 d, port)] }
    | none => { far := far, chan := chan, seq := 0, pkts := [p], bytes := n, came := [(tb2 d, port)] }
  let rest := d.trn.gwOpen.filter (fun b => !(b.far == far && b.chan == chan))
  { d with trn := { d.trn with gwOpen := rest ++ [b] } }

/-- A block that was not acknowledged for 20 µs is sent again (R323). -/
def gwResend (d : Dev) (far chan seq : Nat) : Dev :=
  match d.trn.gwSent.find? (fun b => b.far == far && b.chan == chan && b.seq == seq) with
  | none => d
  | some b =>
    if tb2 d < b.sent + 160000 then d
    else
    let d := { d with trn := { d.trn with gwSent := d.trn.gwSent.map (fun x => if x == b then { x with sent := tb2 d } else x) } }
    let d := emit d (.block (if chan = 0 then 0x20 else 0xA0) far seq (32 + b.bytes) b.pkts)
    record d { status := 0x250B, detail := trnDetail far 0 seq (if chan = 0 then 0x20 else 0xA0) }

/-- The acknowledgement of a block (R323). -/
def gwAck (d : Dev) (far chan seq : Nat) : Dev :=
  { d with trn := { d.trn with
      gwSent := d.trn.gwSent.filter (fun b => !(b.far == far && b.chan == chan && b.seq == seq)) } }

/-- The ports of a gateway that face its own pod, in the order of R308 from a port on. -/
def podPort (d : Dev) (h : Nat) : Option Nat :=
  (((List.range 8).map (fun t => (h + t) % 8)).filter (fun p => !bitOf (fget d regTrnGw fldTrnGwGwPorts) p)).find? (portLive d)

/-- A write to `GW_EN` (R322, R332): 32 free regions are taken, or returned. -/
def gwEnable (d : Dev) (on : Bool) (ports : Nat) : Dev :=
  let ports := ports % 256
  let running := (List.range 8).any (fun p => portState d p != 0)
  let count := (bitList 8 ports).length
  let free := (List.range 256).filter (fun r => tget 127 d.mortar r == 127)
  let was := isGateway d
  let set (d : Dev) : Dev := commitReg (setReg d regTrnGw (b2n on * 256 + ports)) regTrnGw
  if running then trnReject d regTrnGw
  else if on then
    if fget d regTrnTopo fldTrnTopoMesh = 1 ∨ count < 1 ∨ 7 < count ∨ (!was ∧ free.length < 32) then trnReject d regTrnGw
    else if was then set d
    else set { d with mortar := (free.take 32).foldl (fun m r => tset m r 101) d.mortar }
  else
    let d := { d with mortar := d.mortar.filter (fun p => p.2 != 101) }
    set { d with trn := { d.trn with gwOpen := [], gwSent := [], gwEarly := [] } }

/-! ### Arrival of packets -/

/-- The packets of the fabric that reach the device on a port, but for their meaning (R297, R315, R323, R326): a fenced
source or an old epoch is dropped, an aged packet is discarded, one for another endpoint enters a gateway's block. -/
def arrive (d : Dev) (port src epoch age : Nat) (isReq : Bool) (p : TrnPkt) (own : Dev → Dev) : Dev :=
  if !portLive d port then d
  else if (if isReq then fenceDrops d src epoch else (tget (false, 0) d.trn.fence src).1) then
    fsat d regTrnDropCnt fldTrnDropCntFenceDrop 1
  else if maxAge ≤ age then dropAged d port
  else if pktDst p ≠ ownEndpoint d then
    if isGateway d ∧ podOf (pktDst p) ≠ podOf (ownEndpoint d) then gwPack d port p else d
  else own d

/-- A request of an operation arrives (R306). -/
def reqArrive (d : Dev) (port op : Nat) (r : TrnReq) : Dev :=
  arrive d port r.src r.epoch r.age true (.req op r) (fun d => homeServe d port op r)

/-- What follows the end of a request of a context: its fence, its collective (R312, R417). -/
def afterReply (d : Dev) (i x : Nat) : Dev := collPump (checkFence d i x) i x

/-- Whether the stream of a line request still waits for it; a stream that was stopped, saved or fenced meanwhile does not (R331). -/
def strmAsked (d : Dev) (key line : Nat) (o : OutReq) : Bool :=
  let t := strmSt d (key / 16) (key % 16)
  t.asked.contains line && t.inst == o.inst && t.ctx == o.ctx

/-- Ends a line request of a stream with a status (R111, R321): the rest of the descriptor is poisoned. -/
def strmFail (d : Dev) (key line status : Nat) (o : OutReq) : Dev :=
  if strmAsked d key line o then
    modStrm d (key / 16) (key % 16) (fun t =>
      { t with
        asked := t.asked.filter (· != line)
        failing := if t.failing = 0 then status else t.failing })
  else d

/-- Ends an outstanding request of a context with a status (R314, R316, R321, R329): a request-fatal one ends what
issued it. -/
def endReq (d : Dev) (tag status : Nat) : Dev :=
  match tget? d.trn.reqs tag with
  | none => d
  | some o =>
    if 4 ≤ status / 4096 then failReq d tag status
    else
      let ga := o.pkt.dst * 2 ^ 48 + o.pkt.addr
      let d := retire d tag
      let d := match o.use with
        | .strmRead k l => runStream (strmFail d k l status o) (k / 16) (k % 16) [0, 1, 2]
        | .strmWrite k => runStream (strmFail d k ga status o) (k / 16) (k % 16) [0, 1, 2, 3]
        | .planAtomic _ => stepDone d o.inst o.ctx status ga
        | .planWait => stepDone d o.inst o.ctx status ga
        | .operator _ => stepDone d o.inst o.ctx status ga 0 0 true
      checkFence d o.inst o.ctx

/-- The data of a read arrives for what issued it (R307, R321). -/
def readDone (d : Dev) (tag : Nat) (o : OutReq) (r : TrnRsp) : Dev :=
  let d := retire d tag
  let d := match o.use with
    | .strmRead k l =>
      if !strmAsked d k l o then d
      else
      let d := modStrm d (k / 16) (k % 16) (fun t =>
        { t with
          lines := t.lines ++ [(l, r.data, r.poison)]
          asked := t.asked.filter (· != l)
          failing := if t.failing = 0 then r.status else t.failing })
      runStream d (k / 16) (k % 16) [0, 1, 2]
    | .planWait => if r.status = 0 then planWaited d o.inst o.ctx r.data r.poison else stepDone d o.inst o.ctx r.status
    | .operator key => collReply d o.inst o.ctx key (fieldLe r.data 0 8) r.poison
    | _ => d
  afterReply d o.inst o.ctx

/-- The final reply of a write-type request arrives (R306, R314). -/
def writeDone (d : Dev) (tag : Nat) (o : OutReq) (value : Option (Nat × Bool)) : Dev :=
  let d := retire d tag
  let d := match o.use with
    | .strmWrite k =>
      let l := o.pkt.dst * 2 ^ 48 + o.pkt.addr
      let d := modStrm d (k / 16) (k % 16) (fun t => { t with asked := t.asked.filter (· != l) })
      runStream d (k / 16) (k % 16) [0, 1, 2, 3]
    | .planAtomic old => planReply d o.inst o.ctx old value
    | .operator key => collReply d o.inst o.ctx key ((value.getD (0, false)).1) ((value.getD (0, false)).2)
    | _ => d
  afterReply d o.inst o.ctx

/-- A reply arrives for an outstanding request of its home (R305); replies to no request are discarded (R331). -/
def rspArrive (d : Dev) (port op : Nat) (r : TrnRsp) : Dev :=
  arrive d port r.src 0 r.age false (.rsp op r) (fun d =>
    match tget? d.trn.reqs r.tag with
    | none => d
    | some o =>
      if o.held || o.pkt.dst != r.src then d
      else match op with
        | 0x81 => if o.op = 1 then readDone d r.tag o r else d
        | 0x82 => if o.op = 2 ∨ o.op = 0x0A ∨ o.op = 0x0B ∨ o.op = 0x0C then writeDone d r.tag o none else d
        | 0x84 => if (3 ≤ o.op ∧ o.op ≤ 9) ∨ o.op = 0x0D then writeDone d r.tag o (some (r.value, r.poison)) else d
        | 0x83 =>
          { d with trn := { d.trn with reqs := tset d.trn.reqs r.tag { o with moved := tb2 d, sent := tb2 d } } }
        | 0x85 => endReq d r.tag r.status
        | _ => d)

/-- Unpacks a block at the far gateway (R323): each packet goes on into the pod without `VIA`, aged ones are dropped, and
those for the gateway itself are served. -/
def unpack (d : Dev) (port : Nat) (pkts : List TrnPkt) : Dev :=
  pkts.foldl (fun d p =>
    match p with
    | .req op r =>
      if fenceDrops d r.src r.epoch then fsat d regTrnDropCnt fldTrnDropCntFenceDrop 1
      else if maxAge ≤ r.age then dropAged d port
      else if r.dst = ownEndpoint d then homeServe d port op { r with viaValid := false, via := 0 }
      else match podPort d (treanHash r.addr) with
        | some q => sendPkt d q (.req op { r with viaValid := false, via := 0 })
        | none => d
    | .rsp op r =>
      if (tget (false, 0) d.trn.fence r.src).1 then fsat d regTrnDropCnt fldTrnDropCntFenceDrop 1
      else if maxAge ≤ r.age then dropAged d port
      else if r.dst = ownEndpoint d then rspArrive d port op { r with viaValid := false, via := 0 }
      else match podPort d 0 with
        | some q => sendPkt d q (.rsp op { r with viaValid := false, via := 0 })
        | none => d) d

/-- Unpacks blocks of a near gateway in sequence order as far as they are here (R323). -/
def unpackEarly (port near chan : Nat) : Nat → Dev → Dev
  | 0, d => d
  | n + 1, d =>
    let seq := tget 0 d.trn.gwSeen (gwKey near chan)
    match d.trn.gwEarly.find? (fun b => b.far == near && b.chan == chan && b.seq == seq) with
    | none => d
    | some b =>
      let t := { d.trn with
        gwEarly := d.trn.gwEarly.filter (fun b => !(b.far == near && b.chan == chan && b.seq == seq))
        gwSeen := tset d.trn.gwSeen (gwKey near chan) ((seq + 1) % 2 ^ 32) }
      unpackEarly port near chan n (unpack { d with trn := t } port ((b.pkts.zip b.came).map (fun p => agePkt (tb2 d - p.2.1) p.1)))

/-- A block arrives at a far gateway (R323): it is acknowledged, a duplicate is discarded, others are unpacked in order. -/
def blkArrive (d : Dev) (port near epoch chan seq : Nat) (pkts : List TrnPkt) : Dev :=
  if !portLive d port || !isGateway d then d
  else if fenceDrops d near epoch then fsat d regTrnDropCnt fldTrnDropCntFenceDrop 1
  else
    let d := emit d (.block 0xA1 near seq 32 [])
    let want := tget 0 d.trn.gwSeen (gwKey near chan)
    let old := 2 ^ 31 ≤ (seq + 2 ^ 32 - want) % 2 ^ 32
    if old ∨ d.trn.gwEarly.any (fun b => b.far == near && b.chan == chan && b.seq == seq) then d
    else
      let b : GwBlock := { far := near, chan := chan, seq := seq, pkts := pkts, bytes := (pkts.map pktBytes).sum
                           came := pkts.map (fun _ => (tb2 d, port)) }
      let d := { d with trn := { d.trn with gwEarly := d.trn.gwEarly ++ [b] } }
      unpackEarly port near chan (d.trn.gwEarly.length) d

/-! ### Timers of requests and replies (R313-R316, R329) -/

/-- A request that was sent and is outstanding; those of a context that is ending are not resent and their timers stop (R434 step 4). -/
def sentReq (d : Dev) (tag : Nat) : Option OutReq :=
  (tget? d.trn.reqs tag).filter (fun o => !o.held && (ctxSt d o.inst o.ctx).ending.isNone && (instSt d o.inst).ending.isNone)

/-- 40 µs in 125 ps units (R314, R315, R329). -/
def copyTime : Nat := 320000

/-- 150 µs in 125 ps units (R314, R329). -/
def progressTime : Nat := 1200000

/-- 40 µs without a reply resend a write-type copy, within 150 µs of its last progress (R314). -/
def writeResend (d : Dev) (tag : Nat) : Dev :=
  match sentReq d tag with
  | some o => if isWriteType o.op && o.sent + copyTime ≤ tb2 d && tb2 d < o.moved + progressTime then resend d tag else d
  | none => d

/-- 150 µs without progress end a write-type request (R314, R316). -/
def writeUnknown (d : Dev) (tag : Nat) : Dev :=
  match sentReq d tag with
  | some o =>
    if isWriteType o.op && o.moved + progressTime ≤ tb2 d then
      let d := fsat d regTrnReqCnt fldTrnReqCntOutcomeUnknown 1
      failReq (toFm d 0xD1 [o.pkt.dst, o.pkt.job, 1]) tag 0x4502
    else d
  | none => d

/-- An RD without a reply is resent every 40 µs, with DEV_SUSPECT once 150 µs have passed (R329). -/
def readResend (d : Dev) (tag : Nat) : Dev :=
  match sentReq d tag with
  | some o =>
    if o.op = 1 ∧ o.sent + copyTime ≤ tb2 d then
      if o.moved + progressTime ≤ tb2 d ∧ !o.suspect then
        let o' := { o with suspect := true }
        let d := { d with trn := { d.trn with reqs := tset d.trn.reqs tag o' } }
        resend (toFm d 0xD1 [o.pkt.dst, o.pkt.job, 0]) tag
      else resend d tag
    else d
  | none => d

/-- A read reached the `LOAD_LIMIT` of its issue (R329). -/
def loadLimit (d : Dev) (tag : Nat) : Dev :=
  match sentReq d tag with
  | some o => if o.op = 1 ∧ o.moved + o.limit * 8000000 ≤ tb2 d then failReq (fsat d regTrnReqCnt fldTrnReqCntReadTimeout 1) tag 0x4505 else d
  | none => d

/-- Requests that wait in port buffers for a reply-cache entry of a home agent are served while one is free (R317); a wait counts in `AGE`. -/
def serveWaiting (agent : Nat) : Nat → Dev → Dev
  | 0, d => d
  | n + 1, d =>
    if 65536 ≤ cacheUsed d agent then d
    else match d.trn.portWait.find? (fun w => treanHash w.req.addr == agent) with
    | none => d
    | some w =>
      let t := { d.trn with portWait := dropFirst (fun w => treanHash w.req.addr == agent) d.trn.portWait }
      serveWaiting agent n (homeWrite { d with trn := t } w.op { w.req with age := min 65535 (w.req.age + (tb2 d - w.at_) / 80) } w.port)

/-- A reply-cache entry is freed 200 µs after its request was applied, and requests that wait for one are served (R313, R317). -/
def cacheExpiry (d : Dev) (agent src seq : Nat) : Dev :=
  let k := agent * 2 ^ 48 + src % 2 ^ 16 * 2 ^ 32 + seq % 2 ^ 32
  match tget? d.trn.cache k with
  | some { reply := some _, at_ := t, .. } =>
    if t + 1600000 ≤ tb2 d then
      serveWaiting agent d.trn.portWait.length { d with trn := { d.trn with cache := tdel d.trn.cache k } }
    else d
  | _ => d

/-- Whether a packet that came to a port at a time has reached an `AGE` of 40 µs there (R315). -/
def agedOut (d : Dev) (w : Nat × TrnPkt) : Bool := maxAge ≤ pktAge (agePkt (tb2 d - w.1) w.2)

/-- The packets that wait at a port, or in its buffer for a reply-cache entry, and whose `AGE` has reached 40 µs are discarded and counted
(R315, R317). -/
def ageExpiry (d : Dev) (port : Nat) : Dev :=
  let out := (portSt d port).wait.filter (agedOut d)
  let old := fun (w : PortReq) => w.port == port && agedOut d (w.at_, .req w.op w.req)
  let n := out.length + (d.trn.portWait.filter old).length
  let d := modPort d port (fun s => { s with wait := s.wait.filter (fun w => !agedOut d w) })
  let d := { d with trn := { d.trn with portWait := d.trn.portWait.filter (fun w => !old w) } }
  (List.range n).foldl (fun d _ => dropAged d port) d

/-! ### Fabric-manager messages (R325-R328) -/

/-- A channel-2 message is taken only from the fabric manager; others are counted and dropped (R325). -/
def fromFm (d : Dev) (src : Nat) (act : Dev → Dev) : Dev :=
  if fget d regTrnFm fldTrnFmFmValid = 1 ∧ fget d regTrnFm fldTrnFmFmEndpoint = src then act d
  else fsat d regTrnDropCnt fldTrnDropCntMgtDrop 1

/-- FM_EPOCH (R326): a higher epoch is adopted with its fence map; the device's own endpoint may be fenced (R327). -/
def fmEpoch (d : Dev) (src epoch : Nat) (pairs : List (Nat × Bool)) (jobs : List Nat) : Dev :=
  fromFm d src (fun d =>
    if epoch ≤ fget d regTrnEpoch fldTrnEpochEpoch ∨ 2 ^ 32 ≤ epoch then d
    else
      let d := fset d regTrnEpoch fldTrnEpochEpoch epoch
      let d := record d { status := 0x150A, detail := trnDetail src 0 0 0xC0 }
      let fence := pairs.foldl (fun f p =>
        if p.2 then tmod (false, 0) f p.1 (fun x => (true, x.2)) else tset f p.1 (false, epoch)) d.trn.fence
      let d := { d with trn := { d.trn with fence := fence } }
      if pairs.any (fun p => p.2 && p.1 == ownEndpoint d) then fenceDevice d jobs else d)

/-- FM_JOB_TEARDOWN (R328): the contexts of the job end, their reads complete poisoned, their writes are not resent, and the
job is refused from then on. -/
def fmTeardown (d : Dev) (src job : Nat) : Dev :=
  fromFm d src (fun d =>
    let d := { d with trn := { d.trn with deadJobs := natPut d.trn.deadJobs job } }
    let gone := d.trn.reqs.filter (fun p => p.2.pkt.job == job)
    let d := endJobs d [job] 0x4506
    giveTags <| gone.foldl (fun d p =>
      let d := { d with trn := { d.trn with reqs := tdel d.trn.reqs p.1 } }
      match p.2.use with
      | .strmRead k l => if strmAsked d k l p.2 then modStrm d (k / 16) (k % 16) (fun t =>
          { t with lines := t.lines ++ [(l, List.replicate 128 0, true)], asked := t.asked.filter (· != l) }) else d
      | _ => d) d)

/-- FM_ROUTE (R322): the gateways of a remote pod; a path that changed is recorded (R330). -/
def fmRoute (d : Dev) (src pod : Nat) (gws : List Nat) : Dev :=
  fromFm d src (fun d =>
    let old := tget [] d.trn.routes pod
    let d := { d with trn := { d.trn with routes := tset d.trn.routes pod (gws.take 8) } }
    if old ≠ [] ∧ old ≠ gws.take 8 then record d { status := 0x250B, detail := trnDetail src 0 0 0xC2 } else d)

/-- FM_ADMIT (R327): a fenced device is admitted at a higher epoch, and its ports pass through init. -/
def fmAdmit (d : Dev) (src epoch : Nat) : Dev :=
  fromFm d src (fun d =>
    if fget d regTrnStatus fldTrnStatusFenced = 0 ∨ epoch ≤ fget d regTrnEpoch fldTrnEpochEpoch ∨ 2 ^ 32 ≤ epoch then d
    else
      let d := fset (fset d regTrnEpoch fldTrnEpochEpoch epoch) regTrnEpoch fldTrnEpochAdmitEpoch epoch
      let d := fset d regTrnStatus fldTrnStatusFenced 0
      let d := { d with trn := { d.trn with fence := tset d.trn.fence (ownEndpoint d) (false, epoch) } }
      (List.range 8).foldl (fun d p => if portState d p = 7 then setPortState d p 4 else d) d)

/-- FM_PROBE (R325): answered with DEV_ALIVE: nonce, epoch, port states. -/
def fmProbe (d : Dev) (src nonce : Nat) : Dev :=
  fromFm d src (fun d => toFm d 0xD0 (nonce :: fget d regTrnEpoch fldTrnEpochEpoch :: (List.range 8).map (portState d)))

/-! ### Flits (R299-R302) -/

/-- A field of a flit's header by its bits (R299). -/
def flitFld (f : Flit) (lo w : Nat) : Nat := bitsAt (fieldLe f.raw 0 12) lo w

/-- Whether a flit was received whole: in correctable codewords and with its CRC-32C over header and payload (R300). -/
def flitGood (f : Flit) : Bool := !f.fecBad && f.raw.length == 256 && crc32c (f.raw.take 252) == fieldLe f.raw 252 4

/-- A NAK (R301): the flits before the one it names are acknowledged, the sender replays those from there on, and the eighth in
succession for one flit retrains the port. -/
def flitNak (d : Dev) (port seq : Nat) : Dev :=
  if !(portLive d port || portState d port == 7) then d
  else
    let s := portSt d port
    let n := if s.nakCount ≠ 0 ∧ s.nakSeq = seq then s.nakCount + 1 else 1
    let d := fsat d (regTrnPortRetry port) fldTrnPortRetryReplays 1
    let d := modPort d port (fun s =>
      { s with
        replay := s.replay.dropWhile (fun q => q != seq)
        nakCount := n
        nakSeq := seq })
    let again := (portSt d port).replay
    let k := regTrnPortTx port
    if n < 8 then emit (fset d k fldTrnPortTxFlits (fget d k fldTrnPortTxFlits + again.length)) (.flitReplay port again)
    else setPortState (modPort (retrainPort d port) port (fun s => { s with nakCount := 0 })) port 3

/-- What an accepted flit carries beside its packets (R299, R301, R327): acknowledgement, credits, the partner's state. -/
def flitHeader (d : Dev) (port : Nat) (f : Flit) : Dev :=
  let d := modPort d port (fun s =>
    { s with
      replay := if flitFld f 70 2 = 1 ∧ s.replay.contains (flitFld f 72 12) then (s.replay.dropWhile (fun q => q != flitFld f 72 12)).drop 1
                else s.replay
      nakCount := if flitFld f 70 2 = 1 then 0 else s.nakCount
      credReq := s.credReq + flitFld f 56 12
      credRsp := s.credRsp + flitFld f 44 12
      credMgt := s.credMgt + flitFld f 36 8 })
  let d := if flitFld f 70 2 = 2 then flitNak d port (flitFld f 72 12) else d
  let n := (portSt d port).wait.length
  let d := pumpPort port 0 n (pumpPort port 1 n d)
  if flitFld f 32 4 = 1 ∧ fget d regTrnStatus fldTrnStatusFenced = 0 then fenceDevice d [] else d

/-- A flit is received (R300, R301): a bad one is discarded with a NAK of the first flit not accepted, nothing else is accepted
until that one comes, and an accepted one is acknowledged. -/
def flitReceive (d : Dev) (port : Nat) (f : Flit) : Dev :=
  if !(portLive d port || portState d port == 7) then d
  else
    let d := fsat d (regTrnPortErr port) fldTrnPortErrFecCorr f.fecCorr
    let d := (List.range 4).foldl (fun d l =>
      if lget 0 f.laneSym l = 0 then d else charge d (partTrn port l) (lget 0 f.laneSym l)) d
    let want := (portSt d port).expect
    if !flitGood f then
      let d := fsat d (regTrnPortErr port) (if f.fecBad then fldTrnPortErrFecUncorr else fldTrnPortErrCrcErr) 1
      let lanes := bitList 4 (fget d (regTrnPortState port) fldTrnPortStateLanesActive)
      let d := lanes.foldl (fun d l => charge d (partTrn port l) (5 * wUnit)) d
      emit d (.flitAck port 2 want)
    else if flitFld f 84 12 ≠ want then d
    else
      let k := regTrnPortRx port
      let d := fset d k fldTrnPortRxFlits (fget d k fldTrnPortRxFlits + 1)
      let d := modPort d port (fun s => { s with expect := (want + 1) % 4096 })
      flitHeader (emit d (.flitAck port 1 want)) port f

/-! ### Port states (R296-R298) -/

/-- Signal detect (R297). -/
def signalDetect (d : Dev) (port : Nat) : Dev := if portState d port = 1 then setPortState d port 2 else d

/-- The port chooses the best common mode and trains it, or goes down when none remains (R296, R297). -/
def chooseMode (d : Dev) (port : Nat) : Dev :=
  match (portSt d port).ability with
  | none => d
  | some a =>
    match bestMode (getReg d (regTrnPortCfg port)) a (portSt d port).struck with
    | none => setPortState d port 0
    | some m => setPortState (showMode (modPort d port (fun s => { s with mode := some m })) port m) port 3

/-- The ability exchange completed (R292, R296): a partner that does not fit the mesh leaves the port down. -/
def abilityDone (d : Dev) (port : Nat) (a : Ability) : Dev :=
  if portState d port ≠ 2 then d
  else
    let d := fset d (regTrnPortState port) fldTrnPortStatePeer (if a.isSwitch then 0 else a.endpoint)
    let d := modPort d port (fun s => { s with ability := some a })
    if partnerFits d port a then chooseMode d port else setPortState d port 0

/-- 1 ms in ability without exchange (R297). -/
def abilityTimeout (d : Dev) (port : Nat) : Dev := if portState d port = 2 then setPortState d port 1 else d

/-- Training ended (R297): init, or the mode is struck and ability chooses again. -/
def trainDone (d : Dev) (port : Nat) (ok : Bool) : Dev :=
  if portState d port ≠ 3 then d
  else if ok then setPortState d port 4
  else
    let struck := (portSt d port).struck ++ (portSt d port).mode.toList
    chooseMode (setPortState (modPort d port (fun s => { s with struck := struck })) port 2) port

/-- Init completed (R297, R302): flit sequences start again, the partner's buffers are credit, and the port is up, or fenced
with its device. -/
def initDone (d : Dev) (port : Nat) : Dev :=
  if portState d port ≠ 4 then d
  else
    let d := modPort d port (fun s =>
      { s with
        nextSend := 0
        expect := 0
        replay := []
        nakCount := 0
        credReq := 4096
        credRsp := 4096
        credMgt := 512
        recal := none })
    let lanes := match (portSt d port).mode with
      | some m => laneMask m
      | none => 1
    let d := fset d (regTrnPortState port) fldTrnPortStateLanesActive lanes
    setPortState d port (if fget d regTrnStatus fldTrnStatusFenced = 1 then 7 else 5)

/-- A write to `ENABLE` (R297, R332). -/
def portEnable (d : Dev) (port : Nat) (on : Bool) : Dev :=
  if portState d port = 8 then (if on then trnReject d (regTrnPortCtrl port) else d)
  else
  let d := fset d (regTrnPortCtrl port) fldTrnPortCtrlEnable (b2n on)
  let d := commitReg d (regTrnPortCtrl port)
  if on then
    if portState d port = 0 then
      setPortState (modPort d port (fun s => { s with struck := [], ability := none, mode := none })) port 1
    else d
  else setPortState (modPort d port (fun s => { s with recal := none })) port 0

/-- A write of `RETRAIN` (R332): the port renegotiates from ability. -/
def portRetrain (d : Dev) (port : Nat) : Dev :=
  let st := portState d port
  if 3 ≤ st ∧ st ≤ 7 then
    setPortState (modPort (retrainPort d port) port (fun s => { s with struck := [], recal := none })) port 2
  else d

/-- A lane recalibration begins or ends (R298): the port runs degraded on the lanes that remain; a port of one lane goes down
for the duration. -/
def portRecal (d : Dev) (port lane : Nat) (done : Bool) : Dev :=
  let s := portSt d port
  let n := 2 ^ (match s.mode with
    | some m => m.lanes
    | none => 0)
  if !done then
    if portState d port = 5 ∧ lane < n then
      let d := modPort d port (fun s => { s with recal := some lane })
      if n = 1 then setPortState d port 0
      else
        let mask := if n = 4 then (if lane < 2 then 12 else 3) else 2 ^ (1 - lane)
        fset (setPortState d port 6) (regTrnPortState port) fldTrnPortStateLanesActive mask
    else d
  else if s.recal = some lane then
    let d := modPort d port (fun s => { s with recal := none })
    let d := fsat d (regTrnPortRetry port) fldTrnPortRetryRetrains 1
    let d := charge d (partTrn port lane) (50 * wUnit)
    let d := record d { status := 0x2503, detail := trnDetail (fget d (regTrnPortState port) fldTrnPortStatePeer) port 0 0 }
    if n = 1 ∧ portState d port = 0 ∨ portState d port = 6 then
      let up := if fget d regTrnStatus fldTrnStatusFenced = 1 then 7 else 5
      fset (setPortState d port up) (regTrnPortState port) fldTrnPortStateLanesActive (2 ^ n - 1)
    else d
  else d

/-- A port lost its partner's signal or its reference clock (R297): it goes down. -/
def linkLoss (d : Dev) (port : Nat) : Dev :=
  if portLive d port then setPortState (modPort d port (fun s => { s with recal := none })) port 0 else d

end Sys2Proof.Machine
end

