-- ==== Sys2Proof/Machine/TestOps.lean ====
section
/-!
DEFINITION. Loop-backs and self-tests (R474-R481).
-/

namespace Sys2Proof.Machine

/-- The discard of a `TST_` write (R11, R479). -/
def tstReject (d : Dev) (key : Nat) : Dev := cfgReject d regTstStatus fldTstStatusCfgReject 0x1B05 key

/-- Sets `LB_STATE`. -/
def setLb (d : Dev) (v : Nat) : Dev := fset d regTstStatus fldTstStatusLbState v

/-- Whether a fronthaul group is stopped (R201): no carrier with `STATE` ≠ 0 is bound to any port of it. -/
def groupStopped (d : Dev) (g : Nat) : Bool :=
  (List.range 512).all (fun n => carState d n == 0 || fget d (regFhuCarNet n) fldFhuCarNetPort / 4 != g)

/-- Whether a pier is stopped (R259): every one of its pages is free. -/
def pierStopped (d : Dev) (p : Nat) : Bool := d.pier.pages.all (fun e => e.1 / 32768 != p || e.2.owner == 0x7F)

/-- Whether the selected loop-back may be entered (R475). -/
def lbOk (d : Dev) (iface unit depth : Nat) : Bool :=
  match iface with
  | 0 => unit < 8 && portState d unit == 0 && 1 ≤ depth && depth ≤ 4
  | 1 => unit < 8 && groupStopped d unit && 1 ≤ depth && depth ≤ 4
  | 2 => unit < 256 && pierStopped d (unit / 32) && (depth == 2 || depth == 3)
  | 3 => unit < 32 && !chAway d unit && fget d regFlsStatus fldFlsStatusLostCh ≤ 1 && (depth == 2 || depth == 3)
  | 4 => unit < 8 && fget d (regTimeTpoCtrl unit) fldTimeTpoCtrlArmed == 0
      && (List.range 2).all (fun k => fget d (regTimeDomCfg k) fldTimeDomCfgTciRef != unit) && depth == 3
  | _ => false

/-- The record of a loop-back entered or left (R479), with the unit in the detail of its block (R428). -/
def lbRecord (d : Dev) (iface unit : Nat) : Dev :=
  match iface with
  | 0 => record d { status := 0x150F, detail := unit * 2 ^ 16 }
  | 1 => record d { status := 0x180C, inst := 0, detail := unit * 4 * 2 ^ 16 }
  | 2 => record d { status := 0x1313, detail := unit / 32 + unit % 32 * 2 ^ 8 }
  | 3 => record d { status := 0x1411, detail := unit * 2 ^ 16 }
  | _ => record d { status := 0x190A, detail := unit * 256 }

/-- ENTER (R475, R476): the selected unit enters loop-back and the counters restart, or the write is discarded. -/
def lbEnter (d : Dev) : Dev :=
  let k := regTstLbSel
  let i := fget d k fldTstLbSelIface
  let u := fget d k fldTstLbSelUnit
  let depth := fget d k fldTstLbSelDepth
  if d.tst.looped.isSome || !lbOk d i u depth then tstReject d regTstLbCtrl
  else
    let d := { d with tst := { d.tst with looped := some (i, u, depth) } }
    let d := setLb (setReg (setReg d regTstLbBits 0) regTstLbErr 0) 2
    let d := match i with
      | 0 => setPortState d u 8
      | 1 => (List.range 4).foldl (fun d q => if portExists d (4 * u + q) then ethDown d (4 * u + q) 1 else d) d
      | 3 => fset d (regFlsChState u) fldFlsChStateState 2
      | _ => d
    lbRecord d i u

/-- LEAVE (R476): the unit leaves the loop-back. `bits` and `err` are what the counters show of a pattern that was sent and checked; at
depth 4 they stay 0, and for a time pair they were counted edge by edge. -/
def lbLeave (d : Dev) (bits err : Nat) : Dev :=
  match d.tst.looped with
  | none => d
  | some (i, u, depth) =>
    let d := setLb { d with tst := { d.tst with looped := none } } 0
    let d := if depth = 4 ∨ i = 4 then d
      else setReg (setReg d regTstLbBits (min bits (2 ^ 64 - 1))) regTstLbErr (min err (2 ^ 64 - 1))
    let d := match i with
      | 0 => setPortState d u 0
      | 3 => fset d (regFlsChState u) fldFlsChStateState 1
      | _ => d
    lbRecord d i u

/-- Whether a unit named by `KIND` and `UNIT` is fenced; false for one that does not exist. -/
def bistFenced (d : Dev) (kind unit : Nat) : Bool :=
  match kind with
  | 0 => unit < 96 && coreFenced d unit
  | 1 => unit < 4 && keyFenced d unit
  | 2 => unit < 44 && bitOf (getReg d regRadioAccelFence) unit
  | _ => false

/-- Units of a kind. -/
def bistUnits (kind : Nat) : Nat := if kind = 0 then 96 else if kind = 1 then 4 else if kind = 2 then 44 else 0

/-- START (R477, R480): a write of the word `v` to `TST_BIST` names the unit, and starts the self-test of a fenced one when its `START` bit is
set. What the test overwrites is unreachable until the unit is unfenced, which writes it with zeros (R440). -/
def bistStart (d : Dev) (v : Nat) : Dev :=
  let k := regTstBist
  let unit := bitsAt v 8 8
  let kind := bitsAt v 4 3
  if bistUnits kind ≤ unit then tstReject d k
  else if bitsAt v 0 1 = 0 then fset (fset d k fldTstBistUnit unit) k fldTstBistKind kind
  else if fget d k fldTstBistBusy = 1 ∨ !bistFenced d kind unit then tstReject d k
  else commitReg (fset (fset (fset d k fldTstBistUnit unit) k fldTstBistKind kind) k fldTstBistBusy 1) k

/-- BIST_COMPLETE (R477): the test in progress ends; a failure is recorded, and the unit stays fenced either way. -/
def bistDone (d : Dev) (pass : Bool) : Dev :=
  let k := regTstBist
  if fget d k fldTstBistBusy = 0 then d
  else
    let d := fset (fset d k fldTstBistBusy 0) k fldTstBistPass (b2n pass)
    if pass then d else record d { status := 0x1B07, detail := fact d k fldTstBistKind + fact d k fldTstBistUnit * 2 ^ 8 }

/-- Whether a self-test started by `TST_BIST` runs on a unit: UNFENCE_UNIT waits for it (R480). -/
def bistOn (d : Dev) (kind unit : Nat) : Bool :=
  fget d regTstBist fldTstBistBusy == 1 && fact d regTstBist fldTstBistKind == kind && fact d regTstBist fldTstBistUnit == unit

/-- LANES (R478): the named Ethernet lanes begin to re-adapt; a lane that does so already is not affected. -/
def calLanes (d : Dev) (mask : Nat) : Dev := { d with tst := { d.tst with cal := (bitList 32 mask).foldl natPut d.tst.cal } }

/-- ETH_LANE_RECAL (R180, R354, R478): a lane has been re-adapted, on a write of `TST_CAL_ETH` or on drift. -/
def laneRecal (d : Dev) (lane : Nat) : Dev :=
  if 32 ≤ lane then d
  else
    let d := { d with tst := { d.tst with cal := d.tst.cal.filter (· != lane) } }
    let p := lanePort d lane
    record (dropExchs d p) { status := 0x2803, inst := 0, detail := p * 2 ^ 16 + lane * 2 ^ 24 }

end Sys2Proof.Machine
end

