-- ==== Sys2Proof/Machine/RegWrite.lean ====
section
/-!
DEFINITION. Register accesses (R7-R11): what a write to a register does under its fields' access codes and update classes, what a read
returns, and the commands REG_READ and REG_WRITE (R405).
-/

namespace Sys2Proof.Machine

/-! ### Blocks -/

/-- The part of a register block whose stopping its Q fields wait for (R8, R11). -/
inductive RegPart where
  | arr (a : Nat) | core (c : Nat) | strm (c s : Nat) | sig (c : Nat) | radio (key : Nat) | fhu (key : Nat) | fhuGroup (g : Nat)
  | pier (p : Nat) | tier | flash | trn | trnPort (p : Nat) | planner | time (key : Nat) | mgt | health | sec | tst
  | box (i q : Nat) | host (i : Nat)
  deriving DecidableEq, Repr

/-- The part a register belongs to. -/
def partOf (key : Nat) : RegPart :=
  let o := key % 0x1000000
  if 0x100000000 ≤ key then
    let i := key / 0x100000000 - 1
    let r := key % 0x100000000
    if 0x2000 ≤ r then .host i else .box i ((r - 0x100) / 0x20)
  else
    match key / 0x1000000 with
    | 1 => .arr (o / 0x100)
    | 2 => if 0x100 ≤ o % 0x1000 ∧ o % 0x1000 < 0x500 then .strm (o / 0x1000) ((o % 0x1000 - 0x100) / 0x40) else .core (o / 0x1000)
    | 3 => .sig (o / 0x100)
    | 4 => .radio key
    | 5 => if 0x1000 ≤ o ∧ o < 0x2000 then .fhuGroup ((o - 0x1000) / 0x40) else .fhu key
    | 6 => .pier (o / 0x1000)
    | 7 => if o < 0x8000 then .tier else .flash
    | 8 => if o < 0x1000 then .trn else .trnPort ((o - 0x1000) / 0x100)
    | 9 => if 0x8000 ≤ o then .planner else .time key
    | 10 => if 0x8000 ≤ o then .health else .mgt
    | 11 => .sec
    | _ => .tst

/-- The carrier of a radio or fronthaul carrier register. -/
def carrierOf (key : Nat) : Nat := if key / 0x1000000 = 4 then (key - regRadioCarCtrl 0) / 64 else (key - regFhuCarNet 0) / 64

/-- Whether a part is stopped (R90, R123, R144, R176, R201, R259, R288, R332, R355, R402, R481). A signal datapath that ended with an error is
stopped (DEDUCED, log entry 143). -/
def partStopped (d : Dev) : RegPart → Bool
  | .arr a => fget d (regArrStatus a) fldArrStatusBusy == 0
  | .core c => coreState d c == 0 || coreState d c == 4
  | .strm c s => let st := strmState d c s; st == 0 || st == 1 || st == 6 || st == 7
  | .sig c => !sigRuns d c
  | .radio key => key < regRadioCarCtrl 0 || carState d (carrierOf key) == 0
  | .fhu key => key < regFhuCarNet 0 || carState d (carrierOf key) == 0
  | .fhuGroup g => groupStopped d g
  | .pier p => pierStopped d p
  | .tier => d.tier.live.isEmpty
  | .flash => d.tier.sets.isEmpty
  | .trn => (List.range 8).all (fun p => portState d p == 0)
  | .trnPort p => portState d p == 0
  | .time key =>
    if key = regTimeFrame then !carrierRuns d
    else let k := (key - regTimeDomCfg 0) / 0x40; !domEnabled d k && domState d k == 0
  | .tst => fget d regTstStatus fldTstStatusLbState == 0
  | .box i q => fget d (regMbxRingCfg i q) fldMbxRingCfgEnable == 0
  | .planner => true
  | .mgt => true
  | .health => true
  | .sec => true
  | .host _ => true

/-- A discarded write (R11): the status register and the record of the block. -/
def partReject (d : Dev) (p : RegPart) (key : Nat) : Dev :=
  match p with
  | .arr a => cfgReject d (regArrStatus a) fldArrStatusCfgReject 0x1201 key (arrDetail d a)
  | .core c => coreReject d c key
  | .strm c s => strmReject d c s key
  | .sig c => cfgReject d (regSigStatus c) fldSigStatusCfgReject 0x1116 key c
  | .radio _ => radioReject d key
  | .fhu _ => fhuReject d key
  | .fhuGroup _ => fhuReject d key
  | .pier p => cfgReject d (regPierStatus p) fldPierStatusCfgReject 0x1301 key p
  | .tier => cfgReject d regTierStatus fldTierStatusCfgReject 0x1401 key
  | .flash => cfgReject d regFlsStatus fldFlsStatusCfgReject 0x1401 key
  | .trn => trnReject d key
  | .trnPort _ => trnReject d key
  | .planner => cfgReject d regTimeSpStatus fldTimeSpStatusCfgReject 0x1940 key
  | .time _ => timeReject d key
  | .mgt => cfgReject d regMgtStatus fldMgtStatusCfgReject 0x1A51 key
  | .health => cfgReject d regMgtFhStatus fldMgtFhStatusCfgReject 0x1A51 key
  | .sec => cfgReject d regSecStatus fldSecStatusCfgReject 0x1B01 key
  | .tst => tstReject d key
  | .box i q => cfgReject d (regMbxStatus i) fldMbxStatusCfgReject 0x1601 key (q * 2 ^ 32) i
  | .host i => hostReject d i key

/-! ### Ranges -/

/-- A field of a value. -/
def vget (v : Nat) (f : Fld) : Nat := bitsAt v f.lo f.w

/-- A gain in 1/16 dB is from -768 to 192 (R162). -/
def gainOk (x : Nat) : Bool := let s := toSigned 11 x; decide (-768 ≤ s) && decide (s ≤ 192)

/-- Ranges of the array, core and stream registers (R90, R123; a value outside its Meaning's range discards the write: DESIGN CHOICE, log entries
66 and 141); `base` is the key of the register's first copy. -/
def rangeCore (base v : Nat) : Bool :=
  if base = regCorePart 0 then 2 ≤ vget v fldCorePartLendBase && vget v fldCorePartOwner ≤ 64
  else if base = regCoreStall 0 then vget v fldCoreStallPageLimit ≤ 1000 && vget v fldCoreStallStallLimit ≤ 1000
  else if base = regCoreCtx 0 then vget v fldCoreCtxWorkClass ≠ 3 && vget v fldCoreCtxInstance ≤ 64
  else if base = regArrCtx 0 then vget v fldArrCtxWorkClass ≠ 3 && vget v fldArrCtxInstance ≤ 64
  else if base = regCoreStrmDesc 0 0 then vget v fldCoreStrmDescDescBase % 128 == 0
  else true

/-- Whether a write of the bits of a mask leaves a field at its reset value of 0. -/
def leftZero (mask v : Nat) (f : Fld) : Bool := bitsAt mask f.lo f.w == 0 && vget v f == 0

/-- Ranges of the radio and fronthaul carrier registers (R176, R177, R201); a field that a write leaves at a reset value outside its range
does not discard it. -/
def rangeRadio (d : Dev) (base key mask v : Nat) : Bool :=
  let adm := carOf d (carrierOf key)
  if base = regRadioCarCfg 0 then
    let prb := vget v fldRadioCarCfgPrb
    vget v fldRadioCarCfgMu ≠ 3 && (leftZero mask v fldRadioCarCfgPrb || (1 ≤ prb && prb ≤ kindPrbs (vget v fldRadioCarCfgKind) (vget v fldRadioCarCfgMu))) && 8 ≤ vget v fldRadioCarCfgSoftSlots
      && vget v fldRadioCarCfgSoftSlots ≤ 32
  else if base = regRadioCarGain 0 then gainOk (vget v fldRadioCarGainUlGain) && gainOk (vget v fldRadioCarGainDlGain)
  else if base = regRadioCarPrach 0 then 0x100 ≤ vget v fldRadioCarPrachThresh
  else if base = regRadioCarLdpc 0 then
    let n := vget v fldRadioCarLdpcMaxIter
    1 ≤ n && n ≤ 16 && n ≤ (adm.map (fun c => c.maxIter)).getD 16
  else if base = regFhuCarNet 0 then leftZero mask v fldFhuCarNetVlan || (1 ≤ vget v fldFhuCarNetVlan && vget v fldFhuCarNetVlan ≤ 4094)
  else if base = regFhuCarBfp 0 then
    [vget v fldFhuCarBfpUlMw, vget v fldFhuCarBfpDlMw].all (fun w => 8 ≤ w && w ≤ 14)
  else if base = regFhuCarWin 0 then
    vget v fldFhuCarWinTxMin < vget v fldFhuCarWinTxMax && vget v fldFhuCarWinTxMax < vget v fldFhuCarWinCpAdv
  else if base = regFhuCarLead 0 then
    let ind := vget v fldFhuCarLeadIndSlots
    1 ≤ ind && ind ≤ 8 && (adm.map (fun c => c.ind ≤ ind && c.ulLead ≤ vget v fldFhuCarLeadUlLead && c.dlLead ≤ vget v fldFhuCarLeadDlLead)).getD true
  else true

/-- Ranges of the planner, pier, tier, flash and Trean registers (R226, R259, R287, R289, R332). -/
def rangeMem (d : Dev) (base v : Nat) : Bool :=
  if base = regTimeSpLend then 4 ≤ vget v fldTimeSpLendMinGap
  else if base = regPierScrub 0 then 1 ≤ vget v fldPierScrubScrubHours && vget v fldPierScrubScrubHours ≤ 168
  else if base = regTierMapBase then v % 0x200000 == 0
  else if base = regTierPrefetch then
    1 ≤ vget v fldTierPrefetchFetchLimit && vget v fldTierPrefetchFetchLimit ≤ 1000 && 1 ≤ vget v fldTierPrefetchLookahead
      && vget v fldTierPrefetchLookahead ≤ 8
  else if base = regFlsSoft then
    [vget v fldFlsSoftLlrStrong, vget v fldFlsSoftLlrWeak].all (fun x => 1 ≤ x && x ≤ 127) && 1 ≤ vget v fldFlsSoftSoftWait
      && 1 ≤ vget v fldFlsSoftFlsIter && vget v fldFlsSoftFlsIter ≤ 16
  else if base = regFlsRetire then 1 ≤ vget v fldFlsRetireSpareLow && 1 ≤ vget v fldFlsRetireRetireSoft
  else if base = regTrnTopo then
    vget v fldTrnTopoMesh == 0 || (2 ≤ vget v fldTrnTopoMeshN && vget v fldTrnTopoMeshN ≤ 9 && !isGateway d)
  else if base = regTrnTiming then 1 ≤ vget v fldTrnTimingLoadLimit && vget v fldTrnTimingLoadLimit ≤ 10000
  else if base = regTrnPortCfg 0 then vget v fldTrnPortCfgAdvFec ≠ 0 && vget v fldTrnPortCfgAdvLanes ≠ 0 && vget v fldTrnPortCfgAdvRate ≠ 0
  else true

/-- Ranges of the time registers (R355, R475). -/
def rangeTime (d : Dev) (base v : Nat) : Bool :=
  if base = regTimeAdj then
    1 ≤ vget v fldTimeAdjStepLim && vget v fldTimeAdjStepLim ≤ 10000 && 1 ≤ vget v fldTimeAdjSlewPpb && vget v fldTimeAdjSlewPpb ≤ 1000
  else if base = regTimeFrame then vget v fldTimeFrameFrameOff ≤ 79999999
  else if base = regTimeSetSub then vget v fldTimeSetSubTarget ≠ 2 && vget v fldTimeSetSubSub < subPerSec
  else if base = regTimeDomCfg 0 then
    let src := vget v fldTimeDomCfgSource
    let num := vget v fldTimeDomCfgPtpDomain
    src ≠ 3 && (src ≠ 1 || (24 ≤ num && num ≤ 43)) && (src ≠ 2 || (44 ≤ num && num ≤ 63)) && !pairLooped d (vget v fldTimeDomCfgTciRef)
  else if base = regTimeDomLimit 0 then 1 ≤ vget v fldTimeDomLimitLossLimit && 1 ≤ vget v fldTimeDomLimitLockNs
  else if base = regTimeTpoShape 0 then
    let w := vget v fldTimeTpoShapeWidth
    let p := vget v fldTimeTpoShapePeriod
    1 ≤ w && (p == 0 || 2 * w * 800 ≤ p)
  else if base = regTimeTpoStartSub 0 then vget v fldTimeTpoStartSubSub < subPerSec
  else if base = regTimeTciCtrl 0 then vget v fldTimeTciCtrlEdge ≠ 3
  else true

/-- Units of a loop-back interface (R475). -/
def ifaceUnits (i : Nat) : Nat := if i = 2 then 256 else if i = 3 then 32 else if i ≤ 4 then 8 else 0

/-- Depths of a loop-back interface (R475). -/
def ifaceDepth (i depth : Nat) : Bool :=
  if i ≤ 1 then 1 ≤ depth && depth ≤ 4 else if i ≤ 3 then depth == 2 || depth == 3 else depth == 3

/-- Ranges of the health, test and mailbox registers (R402, R451, R481). -/
def rangeSys (base key v : Nat) : Bool :=
  if base = regMgtFhFence then 1 ≤ vget v fldMgtFhFenceFenceWindow && vget v fldMgtFhFenceFenceWindow ≤ 168
  else if base = regMgtFhScore then
    let hi := vget v fldMgtFhScoreAdviseHi
    let lo := vget v fldMgtFhScoreAdviseLo
    1 ≤ hi && hi ≤ 1000 && lo ≤ 999 && lo < hi && 6 ≤ vget v fldMgtFhScoreDamp
  else if base = regTstLbSel then
    let i := vget v fldTstLbSelIface
    vget v fldTstLbSelPattern ≤ 3 && vget v fldTstLbSelUnit < ifaceUnits i && ifaceDepth i (vget v fldTstLbSelDepth)
  else if base = regMbxRingCfg 0 0 then
    let n := vget v fldMbxRingCfgLog2Entries
    4 ≤ n && n ≤ 12 && vget v fldMbxRingCfgVector < vectorsOf (key / 0x100000000 - 1)
  else true

/-- Whether a write of the bits of a mask may leave a register at a value (R11). -/
def regInRange (d : Dev) (base key mask v : Nat) : Bool :=
  rangeCore base v && rangeRadio d base key mask v && rangeMem d base v && rangeTime d base v && rangeSys base key v

/-! ### Writing -/

/-- The bits of the fields of a register that have a property. -/
def fieldBits (r : RegDesc) (f : FldDesc → Bool) : Nat :=
  (r.flds.filter f).foldl (fun a x => a ||| (2 ^ x.w - 1) * 2 ^ x.lo) 0

/-- `old` with the bits of a mask taken from `v`. -/
def mergeBits (old mask v : Nat) : Nat := old ^^^ ((old ^^^ v) &&& mask)

/-- Whether a field of a class is touched by a write of the bits of a mask. -/
def touches (mask : Nat) (x : FldDesc) : Bool := bitsAt mask x.lo x.w != 0

/-- Registers whose L fields wait for a boundary that another command brings (R177, R201, R226, R259, R272, R351, R355). -/
def waitsBoundary (d : Dev) (base key : Nat) : Bool :=
  base == regTimeAdj || base == regTimeSel || base == regTimeDomGain 0 || base == regTimeDomLimit 0 || base == regTimeTciCtrl 0
    || base == regTierPrefetch || base == regRadioCarPrach 0 || base == regPierScrub 0
    || ((base == regRadioCarGain 0 || base == regRadioCarRxref 0 || base == regRadioCarTrk 0 || base == regRadioCarLdpc 0
      || base == regFhuCarWin 0 || base == regFhuCarLead 0) && carEnabled d (carrierOf key))

/-- Stores a new value: S fields stay in the shadow until their commit (R10), L and Q fields take effect (R8, R9). -/
def storeReg (d : Dev) (r : RegDesc) (key v : Nat) : Dev :=
  let d := setReg d key v
  if r.base = regTimeSpLend then commitSoon d key
  else if r.flds.any (fun x => x.cls == .s) || waitsBoundary d r.base key then d
  else commitReg d key

/-- Notes that a shadowed field of a core was written since its last commit (R10). -/
def noteUnput (d : Dev) (r : RegDesc) (p : RegPart) : Dev :=
  let c := match p with
    | .core c => some c
    | .strm c _ => some c
    | _ => none
  match c with
  | some c => if r.flds.any (fun x => x.cls == .s) then { d with unput := natPut d.unput c } else d
  | none => d

/-- The value a write takes from a register, and whether a Q field kept its value because its part runs (R11). -/
def mergeWrite (d : Dev) (r : RegDesc) (key mask v : Nat) : Nat × Bool :=
  let run := !partStopped d (partOf key)
  let q := run && r.flds.any (fun x => x.cls == .q && touches mask x)
  let rw := fieldBits r (fun x => x.acc == .rw && !(run && x.cls == .q))
  let w1 := fieldBits r (fun x => x.acc == .w1c)
  let old := getReg d key
  let new := mergeBits old (mask &&& rw) v
  (new ^^^ (new &&& (w1 &&& mask &&& v)), q)

/-- What the WO bits of a core-side or plinth-side unit's register start, and what follows a changed RW field. -/
def actMem (d : Dev) (base key was v act : Nat) : Dev :=
  if base = regFhuGrpCfg 0 then
    if vget was fldFhuGrpCfgLayout = vget v fldFhuGrpCfgLayout then d else ethLayout d ((key - regFhuGrpCfg 0) / 64)
  else if base = regArrCtrl 0 then
    let a := (key - regArrCtrl 0) / 0x100
    let d := if vget act fldArrCtrlStop = 1 then arrStop d a (vget v fldArrCtrlStopAt) 0 else d
    if vget act fldArrCtrlGo = 1 then arrGo d a (vget act fldArrCtrlResume == 1) else d
  else if base = regCoreCtrl 0 then
    let c := (key - regCoreCtrl 0) / 0x1000
    let d := if vget act fldCoreCtrlCommit = 1 then coreCommit d c else d
    let d := if vget act fldCoreCtrlRestore = 1 then restoreCore d c else d
    let d := if vget act fldCoreCtrlPreempt = 1 then preempt d c else d
    if vget act fldCoreCtrlReclaim = 1 then reclaim d c 0 0 else d
  else if base = regSigCtrl 0 then
    let c := (key - regSigCtrl 0) / 0x100
    let d := if vget act fldSigCtrlGo = 1 then sigGo d c else d
    if vget act fldSigCtrlIrq = 1 then sigIrq d c else d
  else if base = regPierChCtrl 0 0 then
    let p := (key - regPierChCtrl 0 0) / 0x1000
    let ch := (key - regPierChCtrl 0 0) % 0x1000 / 0x20
    let d := if vget act fldPierChCtrlSpare = 1 then spareChannel d p ch else d
    if vget act fldPierChCtrlRetrain = 1 then retrainCh d p ch else d
  else if base = regFlsChCtrl 0 then
    let ch := (key - regFlsChCtrl 0) / 0x10
    if vget act fldFlsChCtrlRecal = 1 ∧ fget d (regFlsChState ch) fldFlsChStateState = 1 then fset d (regFlsChState ch) fldFlsChStateState 2 else d
  else if base = regTrnPortCtrl 0 then
    let p := (key - regTrnPortCtrl 0) / 0x100
    let d := if vget was fldTrnPortCtrlEnable = vget v fldTrnPortCtrlEnable then d
      else portEnable (setReg d key was) p (vget v fldTrnPortCtrlEnable == 1)
    let d := if vget act fldTrnPortCtrlRetrain = 1 then portRetrain d p else d
    (bitList 4 (vget act fldTrnPortCtrlRecal)).foldl (fun d l => portRecal d p l false) d
  else d

/-- The same for the time, test and mailbox registers. -/
def actSys (d : Dev) (base key was v act : Nat) : Dev :=
  if base = regTimeSel then
    if vget was fldTimeSelDomEn = vget v fldTimeSelDomEn then d else domEnable d (vget v fldTimeSelDomEn)
  else if base = regTimeSetSub then (if vget act fldTimeSetSubSet = 1 then timeSet d v else d)
  else if base = regTimeTpoCtrl 0 then
    let n := (key - regTimeTpoCtrl 0) / 0x20
    let d := if vget act fldTimeTpoCtrlArm = 1 then tpoArm d n else d
    if vget act fldTimeTpoCtrlDisarm = 1 then tpoDisarm d n else d
  else if base = regTimeTciCtrl 0 then
    if vget was fldTimeTciCtrlEnable = 0 ∧ vget v fldTimeTciCtrlEnable = 1 then fset d key fldTimeTciCtrlDropped 0 else d
  else if base = regTstLbCtrl then
    let d := if vget act fldTstLbCtrlEnter = 1 then lbEnter d else d
    if vget act fldTstLbCtrlLeave = 1 then
      let (n, d) := takeFree d
      let (m, d) := takeFree d
      lbLeave d (Config.freeNat n) (Config.freeNat m)
    else d
  else if base = regTstCalEth then calLanes d (vget act fldTstCalEthLanes)
  else if base = regMbxRingCfg 0 0 then
    match partOf key with
    | .box i q =>
      if vget was fldMbxRingCfgEnable = vget v fldMbxRingCfgEnable then d
      else ringEnable (fset d key fldMbxRingCfgEnable (vget was fldMbxRingCfgEnable)) i q (vget v fldMbxRingCfgEnable == 1)
    | _ => d
  else if base = regMbxSqTail 0 0 then sqTail d (key / 0x100000000 - 1) ((key % 0x100000000 - 0x1000) / 8) (vget act fldMbxSqTailIndex)
  else if base = regMbxCqHead 0 0 then cqHead d (key / 0x100000000 - 1) ((key % 0x100000000 - 0x1004) / 8) (vget act fldMbxCqHeadIndex)
  else d

/-- A write that reaches a register (R7-R11): a value out of range discards it whole; otherwise its fields change, and its actions
start. A register whose write is an operation of its own is written by that operation. -/
def writeReg (d : Dev) (r : RegDesc) (key mask v : Nat) : Dev :=
  let part := partOf key
  let (new, q) := mergeWrite d r key mask v
  let was := getReg d key
  let act := v &&& mask &&& fieldBits r (fun x => x.acc == .wo)
  let touched := r.flds.any (fun x => x.acc == .rw && touches mask x)
  let ok := !touched || regInRange d r.base key mask new
  if r.base = regCoreStrmCfg 0 0 then
    let i := key - regCoreStrmCfg 0 0
    strmEnable d (i / 0x1000) (i % 0x1000 / 0x40) (mergeBits was (mask &&& fieldBits r (fun x => x.acc == .rw)) v)
  else if r.base = regRadioCarCtrl 0 then (if touched then carEnable d (carrierOf key) (new % 2 == 1) else d)
  else if r.base = regRadioDarner then (if touched then flashShare d (new % 2) else d)
  else if r.base = regTrnGw then (if touched then gwEnable d (vget (mergeBits was mask v) fldTrnGwGwEn == 1) (vget (mergeBits was mask v) fldTrnGwGwPorts) else d)
  else if r.base = regTstBist then bistStart d (new ||| act)
  else
    let d := if q then partReject d part key else d
    let d := if touched then noteUnput d r part else d
    if !ok then (if q then d else partReject d part key)
    else
      let d := if new = was then d else storeReg d r key new
      actSys (actMem d r.base key was new act) r.base key was new act

/-- Whether the unit of a register is one that the fuses left out (R3): its registers read 0 and ignore writes. -/
def fusedOff (d : Dev) (key : Nat) : Bool :=
  match partOf key with
  | .arr a => if a < 384 then !coreOn d (a / 4) else !keyOn d (a - 384)
  | .core c => !coreOn d c
  | .strm c _ => !coreOn d c
  | .sig c => !coreOn d c
  | _ => false

/-- The vector whose mask bit lies in the 8 bytes at a BAR 0 offset of a function (R377, R380). -/
def msixVector (i off : Nat) : Option Nat :=
  let base := if i = 0 then 0x800000 else 0x30000
  if base ≤ off ∧ off < base + 16 * vectorsOf i ∧ (off - base) % 16 = 8 then some ((off - base) / 16) else none

/-- REGISTER_WRITE (R7-R11, R377): a write of the bits of a mask to the register at a key. One through a BAR 0 takes the link; a
write outside the registers has no effect. -/
def regWrite (d : Dev) (key mask v : Nat) : Dev :=
  let bar := decide (0x100000000 ≤ key)
  if bar && !hostReaches d (key / 0x100000000 - 1) then d
  else if fusedOff d key then d
  else
    match regAt key with
    | some r => writeReg d r key (mask % 2 ^ r.width) (v % 2 ^ r.width)
    | none =>
      if bar then
        let i := key / 0x100000000 - 1
        match msixVector i (key % 0x100000000) with
        | some n => if bitOf mask 32 then (if bitOf v 32 then msixMask d i n else msixUnmask d i n) else d
        | none => d
      else d

/-- Whether a register may hold a value that a write of all its bits gives (R11). -/
def regHolds (d : Dev) (key v : Nat) : Bool :=
  match regAt key with
  | none => true
  | some r => regInRange d r.base key (2 ^ r.width - 1) (mergeBits (getReg d key) (fieldBits r (fun x => x.acc == .rw)) (v % 2 ^ r.width))

/-! ### REG_READ and REG_WRITE (R405) -/

/-- Whether an offset with a width lies in register space (R2): a register of the device, read or written whole or in its low
half. -/
def regSpaceEnd : Nat := 0x0D000000

/-- What a read of a register returns (R7): WO and RSV bits read 0; a read of a time base or a capture latches. -/
def readReg (d : Dev) (key : Nat) : Nat × Dev :=
  if fusedOff d key then (0, d)
  else
    match regAt key with
    | none => (0, d)
    | some r =>
      let d' :=
        if r.base = regTimeTbSec 0 then { tbRead d ((key - regTimeTbSec 0) / 0x10) with outs := d.outs }
        else if r.base = regTimeTciSec 0 then { tciRead d ((key - regTimeTciSec 0) / 0x20) with outs := d.outs }
        else d
      (getReg d' key &&& fieldBits r (fun x => x.acc != .wo), d')

/-- Whether the operands of a register command name an access: a width of 32 or 64, an offset that is aligned to it. -/
def regAccessOk (off width : Nat) : Bool := (width == 32 && off % 4 == 0) || (width == 64 && off % 8 == 0)

/-- The register that 4 or 8 bytes at an offset lie in, as its key and the bits they take. -/
def regSlice (off width : Nat) : Nat × Nat := (off / 8 * 8, if width = 64 then 0 else off % 8 * 8)

/-- REG_READ (R405). -/
def cmdRegRead (d : Dev) (q : Nat) (c : Cmd) : Dev :=
  let off := c.arg 0
  let width := c.arg 1
  if !regAccessOk off width then cmdEnd d 0 q c 0x3A03 0 off
  else if regSpaceEnd ≤ off then cmdEnd d 0 q c 0x3A0D 0 off
  else
    let (key, sh) := regSlice off width
    let (v, d) := readReg d key
    cmdEnd d 0 q c 0 (v / 2 ^ sh % 2 ^ width)

/-- The registers whose fields the host manager writes, by the key of their first copy (R226, R259, R287, R332, R355, R451, R481). -/
def managerRegs : List Nat :=
  [regPierScrub 0, regPierSpareCfg 0, regPierChCtrl 0 0, regTierPrefetch, regFlsSoft, regFlsRetire, regFlsChCtrl 0,
   regTrnId, regTrnFm, regTrnTopo, regTrnGw, regTrnTiming, regTrnPortCfg 0, regTrnPortCtrl 0,
   regTimeSel, regTimeAdj, regTimeFrame, regTimeSetSec, regTimeSetSub, regTimeDomCfg 0, regTimeDomPorts 0, regTimeDomGain 0, regTimeDomLimit 0,
   regTimeTpoCtrl 0, regTimeTpoStartSec 0, regTimeTpoStartSub 0, regTimeTpoShape 0, regTimeTciCtrl 0]
  ++ [regTimeSpLend, regTimeSpPoolLo, regTimeSpPoolHi, regMgtFhFence, regMgtFhScore, regTstLbSel, regTstLbCtrl, regTstBist, regTstCalEth]

/-- Whether the host manager may write the bits of a mask of a register (R7, R11, R405): its fields are named as writable by it, or
`CFG_REJECT` is touched and beside it only bits that a write does not change, or no field is touched. -/
def managerMay (r : RegDesc) (mask : Nat) : Bool :=
  let hit := r.flds.filter (touches mask)
  managerRegs.contains r.base || hit.isEmpty
    || (hit.any (fun x => x.acc == .w1c) && hit.all (fun x => x.acc == .w1c || x.acc == .ro))

/-- REG_WRITE (R405). -/
def cmdRegWrite (d : Dev) (q : Nat) (c : Cmd) : Dev :=
  let off := c.arg 0
  let width := c.arg 1
  let v := c.arg 2
  let mask := c.arg 3
  if !regAccessOk off width || 2 ^ width ≤ v || 2 ^ width ≤ mask then cmdEnd d 0 q c 0x3A03 0 off
  else if regSpaceEnd ≤ off then cmdEnd d 0 q c 0x3A0D 0 off
  else
    let (key, sh) := regSlice off width
    match regAt key with
    | none => cmdEnd d 0 q c 0x3A0D 0 off
    | some r =>
      if !managerMay r (mask * 2 ^ sh) then cmdEnd d 0 q c 0x3A0D 0 off
      else cmdEnd (regWrite d key (mask * 2 ^ sh) (v * 2 ^ sh)) 0 q c 0

end Sys2Proof.Machine
end

