-- ==== Sys2Proof/Machine/CommandRows.lean ====
section
/-!
DEFINITION. The meanings of the rows of the Opgen commands of the device, the instances and the contexts (R403-R426).
-/

namespace Sys2Proof.Machine

/-- QUERY_DEVICE (R406). -/
def execQueryDevice (i : Fin 65) (q : Fin 17) (st : State) : Res := onDev st (fun d => runCmd d i q 0x0001 (fun d c => cmdQueryDevice d i q c))

/-- QUERY_INSTANCE (R405). -/
def execQueryInstance (i : Fin 65) (q : Fin 17) (st : State) : Res := onDev st (fun d => runOwn d i q 0x0002 (fun d c j => cmdQueryInst d i q j c))

/-- REG_READ (R405). -/
def execRegRead (i : Fin 65) (q : Fin 17) (st : State) : Res := onDev st (fun d => runCmd d i q 0x0003 (fun d c => cmdRegRead d q c))

/-- REG_WRITE (R405). -/
def execRegWrite (i : Fin 65) (q : Fin 17) (st : State) : Res := onDev st (fun d => runCmd d i q 0x0004 (fun d c => cmdRegWrite d q c))

/-- PARTITION_SET (R407). -/
def execPartitionSet (i : Fin 65) (q : Fin 17) (st : State) : Res :=
  onDev st (fun d => runOwn d i q 0x0010 (fun d c j => resumeLater (cmdPartition d q j c)))

/-- PARTITION_RELEASE (R391). -/
def execPartitionRelease (i : Fin 65) (q : Fin 17) (st : State) : Res :=
  onDev st (fun d => runOwn d i q 0x0011 (fun d c j => resumeLater (cmdRelease d q j c)))

/-- WINDOW_SET (R405). -/
def execWindowSet (i : Fin 65) (q : Fin 17) (st : State) : Res := onDev st (fun d => runOwn d i q 0x0012 (fun d c j => cmdWindow d q j c))

/-- BAR2_MAP (R378). -/
def execBar2Map (i : Fin 65) (q : Fin 17) (st : State) : Res := onDev st (fun d => runOwn d i q 0x0013 (fun d c j => cmdBar2Map d q j c))

/-- LEND_SET (R203). -/
def execLendSet (i : Fin 65) (q : Fin 17) (st : State) : Res := onDev st (fun d => runCmd d i q 0x0014 (fun d c => cmdLendSet d q c))

/-- SET_CREATE (R266). -/
def execSetCreate (i : Fin 65) (q : Fin 17) (st : State) : Res := onDev st (fun d => runCmd d i q 0x0015 (fun d c => cmdSetCreate d q c))

/-- SET_GRANT (R267). -/
def execSetGrant (i : Fin 65) (q : Fin 17) (st : State) : Res := onDev st (fun d => runCmd d i q 0x0016 (fun d c => cmdSetGrant d q c))

/-- SET_DELETE (R276). -/
def execSetDelete (i : Fin 65) (q : Fin 17) (st : State) : Res :=
  onDev st (fun d => runCmd d i q 0x0017 (fun d c => resumeLater (cmdSetDelete d q c)))

/-- ASHLAR_LOAD (R276). -/
def execAshlarLoad (i : Fin 65) (q : Fin 17) (st : State) : Res :=
  onDev st (fun d => runCmd d i q 0x0018 (fun d c => resumeLater (cmdAshlarLoad d i q c)))

/-- ASHLAR_HOLD (R268). -/
def execAshlarHold (i : Fin 65) (q : Fin 17) (st : State) : Res :=
  onDev st (fun d => runCmd d i q 0x0019 (fun d c => resumeLater (cmdAshlarHold d i q c)))

/-- CONTEXT_CREATE (R419). -/
def execContextCreate (i : Fin 65) (q : Fin 17) (st : State) : Res := onDev st (fun d => runCmd d i q 0x0020 (fun d c => cmdCreate d i q c))

/-- CONTEXT_DESTROY (R419). -/
def execContextDestroy (i : Fin 65) (q : Fin 17) (st : State) : Res := onDev st (fun d => runCmd d i q 0x0021 (fun d c => cmdDestroy d i q c))

/-- COMPOSER_SET (R223). -/
def execComposerSet (i : Fin 65) (q : Fin 17) (st : State) : Res := onDev st (fun d => runCmd d i q 0x0022 (fun d c => cmdComposer d i q c))

/-- SEQ_SUBMIT (R420). -/
def execSeqSubmit (i : Fin 65) (q : Fin 17) (st : State) : Res := onDev st (fun d => runCmd d i q 0x0023 (fun d c => cmdSeqSubmit d i q c))

/-- SEQ_CANCEL (R420). -/
def execSeqCancel (i : Fin 65) (q : Fin 17) (st : State) : Res := onDev st (fun d => runCmd d i q 0x0024 (fun d c => cmdSeqCancel d i q c))

/-- INVOKE (R411). -/
def execInvoke (i : Fin 65) (q : Fin 17) (st : State) : Res := onDev st (fun d => runCmd d i q 0x0025 (fun d c => cmdInvoke d i q c))

/-- PLAN_RUN (R418). -/
def execPlanRun (i : Fin 65) (q : Fin 17) (st : State) : Res := onDev st (fun d => runCmd d i q 0x0026 (fun d c => cmdPlanRun d i q c))

/-- AUDIT_READ (R368). -/
def execAuditRead (i : Fin 65) (q : Fin 17) (st : State) : Res := onDev st (fun d => runCmd d i q 0x0027 (fun d c => cmdAudit d i q c))

/-- RADIO_ADMIT (R409). -/
def execRadioAdmit (i : Fin 65) (q : Fin 17) (st : State) : Res := onDev st (fun d => runCmd d i q 0x0030 (fun d c => cmdAdmit d q c))

/-- FAPI_OPEN (R193). -/
def execFapiOpen (i : Fin 65) (q : Fin 17) (st : State) : Res := onDev st (fun d => runCmd d i q 0x0031 (fun d c => cmdFapiOpen d q c))

/-- FAPI_CLOSE (R405). -/
def execFapiClose (i : Fin 65) (q : Fin 17) (st : State) : Res := onDev st (fun d => runCmd d i q 0x0032 (fun d c => cmdFapiClose d q c))

/-- TIME_EXCHANGE (R345). -/
def execTimeExchange (i : Fin 65) (q : Fin 17) (st : State) : Res := onDev st (fun d => runCmd d i q 0x0033 (fun d c => cmdTimeExchange d q c))

/-- FREEZE (R393). -/
def execFreeze (i : Fin 65) (q : Fin 17) (st : State) : Res := onDev st (fun d => runOwn d i q 0x0034 (fun d c j => cmdFreeze d i q j c))

/-- THAW (R398). -/
def execThaw (i : Fin 65) (q : Fin 17) (st : State) : Res := onDev st (fun d => runOwn d i q 0x0035 (fun d c j => cmdThaw d i q j c))

/-- DIRTY_TRACK (R394). -/
def execDirtyTrack (i : Fin 65) (q : Fin 17) (st : State) : Res := onDev st (fun d => runOwn d i q 0x0036 (fun d c j => cmdDirty d i q j c))

/-- SAVE (R395). -/
def execSave (i : Fin 65) (q : Fin 17) (st : State) : Res := onDev st (fun d => runOwn d i q 0x0037 (fun d c j => cmdSave d i q j c))

/-- RESTORE (R397). -/
def execRestore (i : Fin 65) (q : Fin 17) (st : State) : Res := onDev st (fun d => runOwn d i q 0x0038 (fun d c j => cmdRestore d i q j c))

/-- INSTANCE_TEARDOWN (R435). -/
def execInstanceTeardown (i : Fin 65) (q : Fin 17) (st : State) : Res := onDev st (fun d => runOwn d i q 0x0039 (fun d c j => cmdTeardown d q j c))

/-- JOB_REGISTER (R499). -/
def execJobRegister (i : Fin 65) (q : Fin 17) (st : State) : Res := onDev st (fun d => runCmd d i q 0x0040 (fun d c => cmdJobRegister d q c))

/-- JOB_RELEASE (R405). -/
def execJobRelease (i : Fin 65) (q : Fin 17) (st : State) : Res := onDev st (fun d => runCmd d i q 0x0041 (fun d c => cmdJobRelease d q c))

/-- EXPORT_SET (R321). -/
def execExportSet (i : Fin 65) (q : Fin 17) (st : State) : Res := onDev st (fun d => runCmd d i q 0x0042 (fun d c => cmdExport d q c))

/-- CHOICE_READ (R319). -/
def execChoiceRead (i : Fin 65) (q : Fin 17) (st : State) : Res := onDev st (fun d => runCmd d i q 0x0043 (fun d c => cmdChoice d i q c))

/-- REPLAY_TO_STEP (R370). -/
def execReplayToStep (i : Fin 65) (q : Fin 17) (st : State) : Res := onDev st (fun d => runCmd d i q 0x0044 (fun d c => replayTarget d i q c))

end Sys2Proof.Machine
end

