-- ==== Sys2Proof/Machine/CoreRows.lean ====
section
/-!
DEFINITION. The meanings of the rows of the commands of the cores and their streams (R91-R123).
-/

namespace Sys2Proof.Machine

/-- An error in a core's registers or engine state (R121, R437). -/
def coreLost (d : Dev) (c : Nat) : Dev := if coreOn d c then noteStateLost (coreStateLost d c) c else d

/-- An uncorrectable error in a save counts against the core (R437). -/
def saveLost (c err : Nat) (saves : Bool) (d : Dev) : Dev := placeWork (if saves && err == 2 then noteStateLost d c else d)

/-- RECLAIM (R115). -/
def reclaimRow (d : Dev) (c ns err : Nat) : Dev :=
  saveLost c err (coreState d c != 3 && (coreSt d c).borrowed.isSome) (reclaim d c ns err)

/-- PREEMPT (R116). -/
def preemptRow (d : Dev) (c : Nat) (reached : Bool) (err : Nat) : Dev :=
  saveLost c err ((coreState d c == 1 || coreState d c == 2) && !coreFenced d c && reached) (preempt d c reached err)

/-- RECLAIM (R115). -/
def execReclaim (c : Fin 96) (ns : Nat) (st : State) (err : Nat := 0) : Res := onDev st (fun d => reclaimRow d c ns err)

/-- PREEMPT (R116). -/
def execPreempt (c : Fin 96) (st : State) (reached : Bool := true) (err : Nat := 0) : Res := onDev st (fun d => preemptRow d c reached err)

/-- CORE_RESTORE (R118). -/
def execCoreRestore (c : Fin 96) (st : State) (whole : Bool := true) : Res := onDev st (fun d => restoreCore d c whole)

/-- CORE_COMMIT (R123). -/
def execCoreCommit (c : Fin 96) (st : State) : Res := onDev st (fun d => coreCommit d c)

/-- CORE_STRM_ENABLE (R123). -/
def execCoreStrmEnable (c : Fin 96) (s : Fin 16) (value : Word) (st : State) : Res := onDev st (fun d => strmEnable d c s value.toNat)

/-- STREAM_COPY (R104). -/
def execStreamCopy (c : Fin 96) (s : Fin 16) (st : State) : Res := onDev st (fun d => runStream d c s [0])

/-- STREAM_GATHER (R102). -/
def execStreamGather (c : Fin 96) (s : Fin 16) (st : State) : Res := onDev st (fun d => runStream d c s [1])

/-- STREAM_SCATTER (R102). -/
def execStreamScatter (c : Fin 96) (s : Fin 16) (st : State) : Res := onDev st (fun d => runStream d c s [2])

/-- STREAM_FILL (R100). -/
def execStreamFill (c : Fin 96) (s : Fin 16) (st : State) : Res := onDev st (fun d => runStream d c s [3])

/-- PEER_CREDIT_RETURN (R99). -/
def execPeerCreditReturn (c : Fin 96) (s : Fin 16) (st : State) : Res := onDev st (fun d => peerCredit d c s)

/-- PAGE_FAULT (R106). -/
def execPageFault (c : Fin 96) (s : Fin 16) (st : State) (at_ : Nat := 0) (dest : Bool := false) : Res := onDev st (fun d => pageFault d c s at_ dest)

/-- PAGE_RESPONSE (R107). -/
def execPageResponse (c : Fin 96) (s : Fin 16) (ok : Bool) (st : State) : Res := onDev st (fun d => pageResponse d c s ok)

/-- PAGE_LIMIT_EXPIRY (R108). -/
def execPageLimitExpiry (c : Fin 96) (s : Fin 16) (st : State) : Res := onDev st (fun d => pageResponse d c s false)

/-- STALL_WATCH_EXPIRY (R114). -/
def execStallWatchExpiry (c : Fin 96) (i : Fin 65) (x : Fin 16) (st : State) : Res := onDev st (fun d => stallExpiry d c i x)

/-- CORE_STORE_SCRUB_READ (R95). -/
def execCoreStoreScrubRead (c : Fin 96) (word : Fin 131072) (outcome : Nat) (st : State) : Res := onDev st (fun d => storeScrub d c word outcome)

/-- CORE_STATE_LOST (R121). -/
def execCoreStateLost (c : Fin 96) (st : State) : Res := onDev st (fun d => coreLost d c)

end Sys2Proof.Machine
end

