-- ==== Sys2Proof/Machine/HealthRows.lean ====
section
/-!
DEFINITION. The meanings of the rows of instances, contexts, health and boot (R221, R393-R402, R427-R473).
-/

namespace Sys2Proof.Machine

/-- ITERATION_BOUNDARY (R224): the steps of the model plan that the composer handed on, with their images of the invocations (R411). -/
def iterationRow (d : Dev) (i x : Nat) (steps : List Nat) (images : List (List Nat × List Nat)) : Dev :=
  resumeLater (iterationEnd d i x (List.zipWith (fun k q => { step := k, t := q.1, p := q.2 }) steps images))

/-- FREEZE_DONE (R393). -/
def execFreezeDone (i : Fin 65) (st : State) : Res := onDev st (fun d => freezeDone d i)

/-- ITERATION_BOUNDARY (R221). -/
def execIterationBoundary (i : Fin 65) (x : Fin 16) (steps : List Nat) (images : List (List Nat × List Nat)) (st : State) : Res :=
  onDev st (fun d => iterationRow d i x steps images)

/-- CONTEXT_TEARDOWN (R434). -/
def execContextTeardown (i : Fin 65) (x : Fin 16) (st : State) : Res := onDev st (fun d => contextTeardown d i x)

/-- INSTANCE_TEARDOWN_RUN (R435). -/
def execInstanceTeardownRun (i : Fin 65) (st : State) : Res := onDev st (fun d => resumeLater (instanceTeardown d i))

/-- RECORD_DRAIN (R429). -/
def execRecordDrain (st : State) (fixed : Nat := 0) : Res := onDev st (fun d => drainRecord (sramFixed fixed d))

/-- HEALTH_SECOND (R442). -/
def execHealthSecond (st : State) : Res := onDev st (fun d => healthSecond d)

/-- TELEMETRY_SAMPLE (R447). -/
def execTelemetrySample (values : List Nat) (st : State) : Res := onDev st (fun d => telemetry d values)

/-- CREDIT_TICK (R410). -/
def execCreditTick (st : State) : Res := onDev st (fun d => creditTick d)

/-- RESIZE_TIMEOUT (R221). -/
def execResizeTimeout (i : Fin 65) (st : State) : Res := onDev st (fun d => resizeTimeout d i)

/-- WATCHDOG_EXPIRY (R459). -/
def execWatchdogExpiry (core : Fin 4) (imageOk : Bool) (st : State) (hit : Option (Nat × Nat) := none) : Res :=
  onDev st (fun d => watchdog d core imageOk hit)

/-- LOG_PERSIST (R468). -/
def execLogPersist (st : State) : Res := onDev st (fun d => logPersist d)

/-- PERST_N_RISE (R455). -/
def execPerstNRise (st : State) : Res := .next (if st.perstN then st else { st with perstN := true, dev := startBoot st.dev })

/-- PERST_N_FALL (R487). -/
def execPerstNFall (st : State) : Res := .next (if st.perstN then { st with perstN := false, dev := resetDev st.dev } else st)

/-- BOOT_STAGE_DONE (R455). -/
def execBootStageDone (refClock readable : Bool) (failed : List Nat) (ms : Nat) (st : State) : Res :=
  onDev st (fun d => bootStage d refClock readable failed ms)

/-- GET_VERSION (R464). -/
def execGetVersion (st : State) : Res := onDev st (fun d => spdmVersion d)

/-- GET_CAPABILITIES (R464). -/
def execGetCapabilities (st : State) : Res := onDev st (fun d => spdmCaps d)

/-- NEGOTIATE_ALGORITHMS (R464). -/
def execNegotiateAlgorithms (st : State) : Res := onDev st (fun d => spdmAlgs d)

/-- GET_DIGESTS (R464). -/
def execGetDigests (st : State) : Res := onDev st (fun d => spdmDigests d)

/-- GET_CERTIFICATE (R464). -/
def execGetCertificate (slot off len : Nat) (st : State) : Res := onDev st (fun d => spdmCert d slot off len)

/-- CHALLENGE (R464). -/
def execChallenge (slot : Nat) (nonce : List Byte) (st : State) : Res := onDev st (fun d => spdmChallenge d slot nonce)

/-- GET_MEASUREMENTS (R465). -/
def execGetMeasurements (index : Nat) (signed : Bool) (nonce : List Byte) (st : State) : Res := onDev st (fun d => spdmMeas d index signed nonce)

/-- SPDM_UNSUPPORTED_REQUEST (R464). -/
def execSpdmUnsupportedRequest (code : Nat) (st : State) : Res := onDev st (fun d => spdmRefuse d code 0x07)

/-- MGT_SRAM_UNCORRECTABLE (R459). -/
def execMgtSramUncorrectable (core : Fin 4) (imageOk : Bool) (st : State) (hit : Option (Nat × Nat) := none) : Res :=
  onDev st (fun d => mgtSram d core imageOk hit)

end Sys2Proof.Machine
end

