-- ==== Sys2Proof/Machine/OperatorRows.lean ====
section
/-!
DEFINITION. The meanings of the rows of the operators and the plan steps (R411-R418, R496, R500, R501).
-/

namespace Sys2Proof.Machine

/-- MATMUL (R39). -/
def execMatmul (i : Fin 65) (x : Fin 16) (st : State) : Res := onDev st (fun d => operRow d i x 0x0100)

/-- ATTENTION (R241). -/
def execAttention (i : Fin 65) (x : Fin 16) (st : State) : Res := onDev st (fun d => operRow d i x 0x0101)

/-- SOFTMAX (R414). -/
def execSoftmax (i : Fin 65) (x : Fin 16) (st : State) : Res := onDev st (fun d => operRow d i x 0x0102)

/-- RMSNORM (R496). -/
def execRmsnorm (i : Fin 65) (x : Fin 16) (st : State) : Res := onDev st (fun d => operRow d i x 0x0103)

/-- LAYERNORM (R496). -/
def execLayernorm (i : Fin 65) (x : Fin 16) (st : State) : Res := onDev st (fun d => operRow d i x 0x0104)

/-- ELEMENTWISE (R413). -/
def execElementwise (i : Fin 65) (x : Fin 16) (st : State) : Res := onDev st (fun d => operRow d i x 0x0105)

/-- CONVERT (R54). -/
def execConvert (i : Fin 65) (x : Fin 16) (st : State) : Res := onDev st (fun d => operRow d i x 0x0106)

/-- REDUCE_EXACT (R39). -/
def execReduceExact (i : Fin 65) (x : Fin 16) (st : State) : Res := onDev st (fun d => operRow d i x 0x0107)

/-- GATHER_ROWS (R103). -/
def execGatherRows (i : Fin 65) (x : Fin 16) (st : State) : Res := onDev st (fun d => operRow d i x 0x0110)

/-- GATHER_FIRST (R360). -/
def execGatherFirst (i : Fin 65) (x : Fin 16) (st : State) : Res := onDev st (fun d => operRow d i x 0x0111)

/-- MOE_ROUTE (R415). -/
def execMoeRoute (i : Fin 65) (x : Fin 16) (st : State) : Res := onDev st (fun d => operRow d i x 0x0120)

/-- MOE_COMBINE (R496). -/
def execMoeCombine (i : Fin 65) (x : Fin 16) (st : State) : Res := onDev st (fun d => operRow d i x 0x0121)

/-- SAMPLE (R416). -/
def execSample (i : Fin 65) (x : Fin 16) (st : State) : Res := onDev st (fun d => operRow d i x 0x0130)

/-- ALLREDUCE (R417). -/
def execAllreduce (i : Fin 65) (x : Fin 16) (st : State) : Res := onDev st (fun d => collRow d i x false)

/-- REDUCE_SCATTER (R417). -/
def execReduceScatter (i : Fin 65) (x : Fin 16) (st : State) : Res := onDev st (fun d => collRow d i x true)

/-- ALLGATHER (R417). -/
def execAllgather (i : Fin 65) (x : Fin 16) (blocks : List (List Byte × Bool)) (st : State) : Res := onDev st (fun d => moveRow d i x false blocks)

/-- ALLTOALL (R417). -/
def execAlltoall (i : Fin 65) (x : Fin 16) (blocks : List (List Byte × Bool)) (st : State) : Res := onDev st (fun d => moveRow d i x true blocks)

/-- END (R418). -/
def execPlanEnd (i : Fin 65) (x : Fin 16) (st : State) : Res := onDev st (fun d => planEnd d i x)

/-- OPERATOR (R418). -/
def execOperator (i : Fin 65) (x : Fin 16) (st : State) : Res := onDev st (fun d => planOperator d i x)

/-- STREAMS (R418). -/
def execStreams (i : Fin 65) (x : Fin 16) (st : State) : Res := onDev st (fun d => planStreams d i x)

/-- WAIT_HEAD (R418). -/
def execWaitHead (i : Fin 65) (x : Fin 16) (st : State) : Res := onDev st (fun d => planWaitHead d i x)

/-- ATOMIC (R501). -/
def execAtomic (i : Fin 65) (x : Fin 16) (st : State) : Res := onDev st (fun d => planAtomic d i x)

/-- RELEASE (R311). -/
def execRelease (i : Fin 65) (x : Fin 16) (st : State) : Res := onDev st (fun d => planRelease d i x)

/-- WAIT_VALUE (R501). -/
def execWaitValue (i : Fin 65) (x : Fin 16) (st : State) : Res := onDev st (fun d => planWaitValue d i x)

/-- FENCE (R312). -/
def execPlanFence (i : Fin 65) (x : Fin 16) (st : State) : Res := onDev st (fun d => planFence d i x)

/-- TIME_READ (R501). -/
def execTimeRead (i : Fin 65) (x : Fin 16) (st : State) : Res := onDev st (fun d => planTimeRead d i x)

end Sys2Proof.Machine
end

