-- ==== Sys2Proof/Machine/PierRows.lean ====
section
/-!
DEFINITION. The meanings of the rows of the piers and their engines (R228-R258).
-/

namespace Sys2Proof.Machine

/-- A half-line that a read found poisoned withdraws the ashlar copy that holds it (R284). -/
def afterRead (d : Dev) (read : Bool) (o : Nat) : Dev := if read && unitPoisoned d o then poisonFound d o else d

/-- A read of a half-line (R250, R284). -/
def pierReadRow (d : Dev) (w : Who) (o : Nat) (err : List (Nat × Nat)) : Dev :=
  afterRead (pierRead d w o err) (accessErr d w false o 64).isNone o

/-- A write of a half-line (R229, R284): one with a partial mask reads it. -/
def pierWriteRow (d : Dev) (w : Who) (o mask : Nat) (bs : List Byte) (p : Bool) (err : List (Nat × Nat)) : Dev :=
  afterRead (pierWrite d w o mask bs p err) ((accessErr d w true o 64).isNone && mask % 2 ^ 64 != 2 ^ 64 - 1) o

/-- A scrub read of a half-line (R252, R284). -/
def pierScrubRow (d : Dev) (o : Nat) (err : List (Nat × Nat)) : Dev := afterRead (pierScrub d o err) (scrubOpen d o) o

/-- A retraining slice (R255, R256, R284): a channel that is lost withdraws the ashlar copies of its pier. -/
def retrainRow (d : Dev) (p ch : Nat) (done ok : Bool) (group : Option Nat) (copied : Nat) : Dev :=
  let was := fget d (regPierStatus p) fldPierStatusState
  let d := retrainSlice d p ch done ok group copied
  if was ≠ 3 ∧ fget d (regPierStatus p) fldPierStatusState = 3 then pierLost d p else d

/-- PIER_READ (R250). -/
def execPierRead (who : Who) (line : Fin 8589934592) (st : State) (err : List (Nat × Nat) := []) : Res :=
  onDev st (fun d => pierReadRow d who (64 * line) err)

/-- PIER_WRITE (R229). -/
def execPierWrite (who : Who) (line : Fin 8589934592) (mask : Word) (half : HalfWrite) (poison : Bool) (st : State) : Res :=
  onDev st (fun d => pierWriteRow d who (64 * line) mask.toNat half.data poison half.err)

/-- REFRESH_DUE (R251). -/
def execRefreshDue (p : Fin 8) (ch : Fin 32) (bank : Fin 65536) (pending : Bool) (st : State) : Res :=
  onDev st (fun d => refreshDue d p ch bank pending)

/-- PIER_SCRUB_READ (R252). -/
def execPierScrubRead (line : Fin 8589934592) (err : List (Nat × Nat)) (st : State) : Res := onDev st (fun d => pierScrubRow d (64 * line) err)

/-- SCRUB_PASS_OVERRUN (R252). -/
def execScrubPassOverrun (p : Fin 8) (st : State) : Res := onDev st (fun d => scrubOverrun d p)

/-- ROW_SPARE (R253). -/
def execRowSpare (p : Fin 8) (ch : Fin 32) (row : Nat) (st : State) : Res := onDev st (fun d => rowSpare d p ch row)

/-- PIER_SPARE (R254). -/
def execPierSpare (p : Fin 8) (ch : Fin 32) (st : State) : Res := onDev st (fun d => spareChannel d p ch)

/-- CHANNEL_SPARE_COMPLETE (R254). -/
def execChannelSpareComplete (p : Fin 8) (st : State) : Res := onDev st (fun d => spareDone d p)

/-- PIER_RETRAIN (R256). -/
def execPierRetrain (p : Fin 8) (ch : Fin 32) (st : State) : Res := onDev st (fun d => retrainCh d p ch)

/-- RETRAIN_SLICE (R256). -/
def execRetrainSlice (p : Fin 8) (ch : Fin 32) (done ok : Bool) (group : Option (Fin 32)) (copied : Nat) (st : State) : Res :=
  onDev st (fun d => retrainRow d p ch done ok (group.map (·.val)) copied)

/-- GATHER (R243). -/
def execGather (p : Fin 8) (x : EngCmd) (st : State) (rows : Bool := false) : Res := onDev st (fun d => engGather d p x rows)

/-- ATTEND (R239). -/
def execAttend (p : Fin 8) (x : EngCmd) (st : State) : Res := onDev st (fun d => engAttend d p x)

/-- DEQUANT (R244). -/
def execDequant (p : Fin 8) (x : EngCmd) (st : State) : Res := onDev st (fun d => engDequant d p x)

/-- COPY (R245). -/
def execCopy (p : Fin 8) (x : EngCmd) (st : State) : Res := onDev st (fun d => engCopy d p x)

/-- MOVE (R245). -/
def execMove (p : Fin 8) (x : EngCmd) (st : State) : Res := onDev st (fun d => engMove d p x)

/-- CRC64 (R245). -/
def execCrc64 (p : Fin 8) (x : EngCmd) (st : State) : Res := onDev st (fun d => engCrc d p x)

/-- HARQ_COMBINE (R246). -/
def execHarqCombine (p : Fin 8) (x : EngCmd) (use : Option SoftUse) (st : State) : Res := onDev st (fun d => harqRow d p x use)

/-- FILL (R246). -/
def execFill (p : Fin 8) (x : EngCmd) (st : State) : Res := onDev st (fun d => engFill d p x)

/-- DIRTY_SCAN (R232). -/
def execDirtyScan (p : Fin 8) (x : EngCmd) (st : State) : Res := onDev st (fun d => engDirty d p x)

end Sys2Proof.Machine
end

