-- ==== Sys2Proof/Machine/RadioRows.lean ====
section
/-!
DEFINITION. The meanings of the rows of the slot planner, the fronthaul and the accelerators (R145-R217).
-/

namespace Sys2Proof.Machine

/-- LEND (R203) for `gap` ns to the context that the event names: one that is not the first waiting borrower does not fit the state (log entry 9). -/
def lendRow (d : Dev) (c gap : Nat) (who : Nat × Nat) : Dev := if firstBorrower d = some who then lend d c gap else d

/-- CODE_BLOCK_DECODE (R165) of the code block that the event names: one that is not at the head of the darners' queue does not fit the
state (log entry 9). -/
def decodeRow (d : Dev) (unit carrier frame slot pdu block : Nat) : Dev :=
  match firstJob (decJobs d) with
  | some j => if (j.carrier, j.frame, j.slot, j.pdu, j.block) = (carrier, frame, slot, pdu, block) then codeBlock d unit else d
  | none => d

/-- SYMBOL_TICK (R349). -/
def execSymbolTick (st : State) : Res := onDev st (fun d => symbolTick d)

/-- SLOT_BOUNDARY (R348). -/
def execSlotBoundary (code : Fin 3) (st : State) : Res := onDev st (fun d => slotBoundary d code)

/-- REQUEST_CUTOFF (R194). -/
def execRequestCutoff (n : Fin 512) (st : State) : Res := onDev st (fun d => requestCutoff d n)

/-- TASK_RELEASE (R212). -/
def execTaskRelease (task : Task) (side : Fin 2) (ns : Nat) (st : State) : Res := onDev st (fun d => taskRelease d task side ns)

/-- TASK_START (R213). -/
def execTaskStart (c : Fin 96) (code : List Nat) (start vector : Fin 2048) (st : State) (at_ : Nat := 0) : Res :=
  onDev st (fun d => taskStart d c code start vector at_)

/-- LEND (R203). -/
def execLend (c : Fin 96) (gap : Nat) (who : Nat × Nat) (st : State) : Res := onDev st (fun d => lendRow d c gap who)

/-- UPLANE_RECEIVE (R189). -/
def execUplaneReceive (p : Fin 32) (msg : UplaneMsg) (st : State) : Res := onDev st (fun d => uplaneReceive d p msg)

/-- RX_WINDOW_CLOSE (R187). -/
def execRxWindowClose (n : Fin 512) (sfn : Fin 1024) (slot : Fin 80) (sym : Fin 14) (st : State) : Res := onDev st (fun d => rxClose d n sfn slot sym)

/-- CPLANE_SEND (R185). -/
def execCplaneSend (n : Fin 512) (sfn : Fin 1024) (slot : Fin 80) (st : State) : Res := onDev st (fun d => cplaneSend d n sfn slot)

/-- DL_UPLANE_SEND (R186). -/
def execDlUplaneSend (n : Fin 512) (sfn : Fin 1024) (slot : Fin 80) (sym : Fin 14) (stream off : Nat) (st : State) : Res :=
  onDev st (fun d => dlSend d n sfn slot sym stream off)

/-- TX_WINDOW_CLOSE (R30). -/
def execTxWindowClose (n : Fin 512) (sfn : Fin 1024) (slot : Fin 80) (sym : Fin 14) (st : State) : Res := onDev st (fun d => txClose d n sfn slot sym)

/-- CODE_BLOCK_DECODE (R164). -/
def execCodeBlockDecode (unit : Fin 16) (carrier frame slot pdu block : Nat) (st : State) : Res :=
  onDev st (fun d => decodeRow d unit carrier frame slot pdu block)

/-- PREAMBLE_DETECT (R159). -/
def execPreambleDetect (job : PrachJob) (st : State) : Res := onDev st (fun d => preamble d job)

/-- ACCELERATOR_FAULT (R167). -/
def execAcceleratorFault (unit : Fin 44) (st : State) : Res := onDev st (fun d => fenceAccel d unit)

/-- CARRIER_ENABLE (R181). -/
def execCarrierEnable (n : Fin 512) (on : Bool) (st : State) : Res := onDev st (fun d => carEnable d n on)

/-- FLASH_SHARE (R165). -/
def execFlashShare (on : Bool) (st : State) : Res := onDev st (fun d => flashShare d (b2n on))

/-- LDPC_ENCODE (R166). -/
def execLdpcEncode (job : AccelJob) (st : State) : Res := onDev st (fun d => accelJob d 1 job)

/-- POLAR_JOB (R166). -/
def execPolarJob (job : AccelJob) (st : State) : Res := onDev st (fun d => accelJob d 2 job)

/-- TRANSFORM_JOB (R166). -/
def execTransformJob (job : AccelJob) (st : State) : Res := onDev st (fun d => accelJob d 3 job)

/-- PARAM_REQUEST (R190). -/
def execParamRequest (ch : Fin 16) (body : FapiBody) (st : State) : Res := onDev st (fun d => fapiParam d ch body)

/-- CONFIG_REQUEST (R190). -/
def execConfigRequest (ch : Fin 16) (body : FapiBody) (st : State) : Res :=
  onDev st (fun d => fapiConfig (fun d k v => regWrite d k (2 ^ 64 - 1) v) regHolds d ch body)

/-- START_REQUEST (R190). -/
def execStartRequest (ch : Fin 16) (body : FapiBody) (st : State) : Res := onDev st (fun d => fapiStart d ch body)

/-- STOP_REQUEST (R190). -/
def execStopRequest (ch : Fin 16) (body : FapiBody) (st : State) : Res := onDev st (fun d => fapiStop d ch body)

/-- DL_TTI_REQUEST (R188). -/
def execDlTtiRequest (ch : Fin 16) (body : FapiBody) (st : State) : Res := onDev st (fun d => takeDl d ch msgDlTti body)

/-- UL_DCI_REQUEST (R188). -/
def execUlDciRequest (ch : Fin 16) (body : FapiBody) (st : State) : Res := onDev st (fun d => takeDl d ch msgUlDci body)

/-- TX_DATA_REQUEST (R188). -/
def execTxDataRequest (ch : Fin 16) (body : FapiBody) (st : State) : Res := onDev st (fun d => takeDl d ch msgTxData body)

/-- UL_TTI_REQUEST (R188). -/
def execUlTtiRequest (ch : Fin 16) (body : FapiBody) (st : State) : Res := onDev st (fun d => fapiUlTti d ch body)

/-- UNSUPPORTED_FAPI_MESSAGE (R190). -/
def execUnsupportedFapiMessage (ch : Fin 16) (body : FapiBody) (st : State) : Res := onDev st (fun d => fapiUnknown d ch body)

/-- ETH_AUTONEG_COMPLETE (R179). -/
def execEthAutonegComplete (p : Fin 32) (modes : Nat) (ok : Bool) (st : State) : Res := onDev st (fun d => autonegDone d p modes ok)

/-- ETH_PORT_STATE_CHANGE (R180). -/
def execEthPortStateChange (p : Fin 32) (training : Bool) (st : State) : Res := onDev st (fun d => ethChange d p training)

/-- ETH_FRAME_DROP (R182). -/
def execEthFrameDrop (p : Fin 32) (fec : Nat) (st : State) : Res := onDev st (fun d => ethDrop d p fec)

end Sys2Proof.Machine
end

