-- ==== Sys2Proof/Machine/RegisterRows.lean ====
section
/-!
DEFINITION. The meanings of the rows of register writes without a row of their own (R7-R11).
-/

namespace Sys2Proof.Machine

/-- REGISTER_WRITE (R8). -/
def execRegisterWrite (key mask value : Nat) (st : State) : Res := onDev st (fun d => regWrite d key mask value)

end Sys2Proof.Machine
end

