-- ==== Sys2Proof/Machine/ServiceRows.lean ====
section
/-!
DEFINITION. The meanings of the rows of the Opgen commands of the service and health cores (R448, R461-R470).
-/

namespace Sys2Proof.Machine

/-- UNFENCE_UNIT (R440, R480): it waits while a self-test of `TST_BIST` runs on the unit. -/
def unfenceRow (d : Dev) (i q : Nat) (pass : Bool) : Dev :=
  match takeCmd d i q 0x00C2 with
  | some (c, _) => if bistOn d (c.arg 0) (c.arg 1) then d else runCmd d i q 0x00C2 (fun d c => cmdUnfence d q pass c)
  | none => d

/-- ERROR_READ (R448). -/
def execErrorRead (i : Fin 65) (q : Fin 17) (st : State) : Res := onDev st (fun d => runOwn d i q 0x00C0 (fun d c j => cmdErrorRead d i q j c))

/-- FENCE_UNIT (R438). -/
def execFenceUnit (i : Fin 65) (q : Fin 17) (st : State) : Res := onDev st (fun d => runCmd d i q 0x00C1 (fun d c => cmdFence d q c))

/-- UNFENCE_UNIT (R440). -/
def execUnfenceUnit (i : Fin 65) (q : Fin 17) (pass : Bool) (st : State) : Res := onDev st (fun d => unfenceRow d i q pass)

/-- HEALTH_SNAPSHOT (R502). -/
def execHealthSnapshot (i : Fin 65) (q : Fin 17) (st : State) : Res := onDev st (fun d => runCmd d i q 0x00C3 (fun d c => cmdSnapshot d q c))

/-- FW_STAGE (R461). -/
def execFwStage (i : Fin 65) (q : Fin 17) (st : State) : Res := onDev st (fun d => runCmd d i q 0x0080 (fun d c => cmdFwStage d q c))

/-- FW_COMMIT (R461). -/
def execFwCommit (i : Fin 65) (q : Fin 17) (ok : Bool) (st : State) : Res := onDev st (fun d => runCmd d i q 0x0081 (fun d c => cmdFwCommit d q ok c))

/-- FW_ACTIVATE (R461). -/
def execFwActivate (i : Fin 65) (q : Fin 17) (st : State) : Res := onDev st (fun d => runCmd d i q 0x0082 (fun d c => cmdFwActivate d q c))

/-- FW_RECOVER (R458). -/
def execFwRecover (i : Fin 65) (q : Fin 17) (st : State) : Res := onDev st (fun d => runCmd d i q 0x0083 (fun d c => cmdFwRecover d q c))

/-- LOG_READ (R468). -/
def execLogRead (i : Fin 65) (q : Fin 17) (st : State) : Res := onDev st (fun d => runCmd d i q 0x0084 (fun d c => cmdLogRead d q c))

/-- SVN_RAISE (R463). -/
def execSvnRaise (i : Fin 65) (q : Fin 17) (st : State) : Res := onDev st (fun d => runCmd d i q 0x0085 (fun d c => cmdSvnRaise d q c))

/-- MGT_QUERY (R470). -/
def execMgtQuery (i : Fin 65) (q : Fin 17) (st : State) : Res := onDev st (fun d => runCmd d i q 0x0086 (fun d c => cmdMgtQuery d q c))

end Sys2Proof.Machine
end

