-- ==== Sys2Proof/Machine/SignalRows.lean ====
section
/-!
DEFINITION. The meanings of the rows of the instructions and events of the signal datapath (R124-R144).
-/

namespace Sys2Proof.Machine

/-- SNOP (R130). -/
def execSnop (c : Fin 96) (st : State) (fixed : Bool := false) : Res := onDev st (fun d => sigRow d c 0x00 fixed (fun d _ => d))

/-- CMAC (R131). -/
def execCmac (c : Fin 96) (st : State) (fixed : Bool := false) : Res := onDev st (fun d => sigRow d c 0x01 fixed (fun d w => sigMac d c w false))

/-- CMUL (R130). -/
def execCmul (c : Fin 96) (st : State) (fixed : Bool := false) : Res := onDev st (fun d => sigRow d c 0x02 fixed (fun d w => sigMac d c w true))

/-- CADD (R130). -/
def execCadd (c : Fin 96) (st : State) (fixed : Bool := false) : Res := onDev st (fun d => sigRow d c 0x03 fixed (fun d w => sigAdd d c w 1))

/-- CSUB (R130). -/
def execCsub (c : Fin 96) (st : State) (fixed : Bool := false) : Res := onDev st (fun d => sigRow d c 0x04 fixed (fun d w => sigAdd d c w (-1)))

/-- CNCO (R132). -/
def execCnco (c : Fin 96) (st : State) (fixed : Bool := false) : Res := onDev st (fun d => sigRow d c 0x05 fixed (fun d w => sigNco d c w))

/-- SRND (R131). -/
def execSrnd (c : Fin 96) (st : State) (fixed : Bool := false) : Res := onDev st (fun d => sigRow d c 0x06 fixed (fun d w => sigRnd d c w))

/-- SNORM (R133). -/
def execSnorm (c : Fin 96) (st : State) (fixed : Bool := false) : Res := onDev st (fun d => sigRow d c 0x07 fixed (fun d w => sigNorm d c w))

/-- SEXP (R134). -/
def execSexp (c : Fin 96) (st : State) (fixed : Bool := false) : Res := onDev st (fun d => sigRow d c 0x08 fixed (fun d w => sigExp d c w))

/-- SBFPC (R135). -/
def execSbfpc (c : Fin 96) (st : State) (fixed : Bool := false) : Res := onDev st (fun d => sigRow d c 0x09 fixed (fun d w => sigBfpc d c w))

/-- SBFPX (R136). -/
def execSbfpx (c : Fin 96) (st : State) (fixed : Bool := false) : Res := onDev st (fun d => sigRow d c 0x0A fixed (fun d w => sigBfpx d c w))

/-- SSET (R130). -/
def execSset (c : Fin 96) (st : State) (fixed : Bool := false) : Res := onDev st (fun d => sigRow d c 0x0B fixed (fun d w => sigSet d c w))

/-- SACS (R130). -/
def execSacs (c : Fin 96) (st : State) (fixed : Bool := false) : Res := onDev st (fun d => sigRow d c 0x0C fixed (fun d w => sigAccStore d c w))

/-- SACL (R130). -/
def execSacl (c : Fin 96) (st : State) (fixed : Bool := false) : Res := onDev st (fun d => sigRow d c 0x0D fixed (fun d w => sigAccLoad d c w))

/-- SLOOP (R137). -/
def execSloop (c : Fin 96) (st : State) : Res := onDev st (fun d => sigJump d c 0x10 (fun d w => sigLoop d c w))

/-- SJMP (R130). -/
def execSjmp (c : Fin 96) (st : State) : Res := onDev st (fun d => sigJump d c 0x11 (fun d w => sigHop d c w))

/-- SEND (R141). -/
def execSend (c : Fin 96) (st : State) : Res := onDev st (fun d => sigSend d c)

/-- SRET (R139). -/
def execSret (c : Fin 96) (st : State) : Res := onDev st (fun d => sigRet d c)

/-- SSTL (R130). -/
def execSstl (c : Fin 96) (st : State) (fixed : Bool := false) : Res := onDev st (fun d => sigRow d c 0x14 fixed (fun d w => sigLoopStore d c w))

/-- SLDL (R130). -/
def execSldl (c : Fin 96) (st : State) (fixed : Bool := false) : Res := onDev st (fun d => sigRow d c 0x15 fixed (fun d w => sigLoopLoad d c w))

/-- SSTA (R130). -/
def execSsta (c : Fin 96) (st : State) (fixed : Bool := false) : Res := onDev st (fun d => sigRow d c 0x16 fixed (fun d w => sigAddrStore d c w))

/-- SLDA (R130). -/
def execSlda (c : Fin 96) (st : State) (fixed : Bool := false) : Res := onDev st (fun d => sigRow d c 0x17 fixed (fun d w => sigAddrLoad d c w))

/-- SIG_ILLEGAL (R142). -/
def execSigIllegal (c : Fin 96) (st : State) : Res := onDev st (fun d => sigIllegal d c)

/-- SIG_STATE_LOST (R142). -/
def execSigStateLost (c : Fin 96) (st : State) : Res := onDev st (fun d => sigStateLost d c)

/-- SIG_GO (R144). -/
def execSigGo (c : Fin 96) (st : State) : Res := onDev st (fun d => sigGo d c)

/-- SIG_IRQ (R139). -/
def execSigIrq (c : Fin 96) (st : State) : Res := onDev st (fun d => sigIrq d c)

/-- TASK_INTERRUPT_ENTRY (R139). -/
def execTaskInterruptEntry (c : Fin 96) (st : State) : Res := onDev st (fun d => sigEntry d c)

end Sys2Proof.Machine
end

