-- ==== Sys2Proof/Machine/HeatOps.lean ====
section
/-!
DEFINITION. The responses to heat, droop and supply (R17, R491-R494). Readings are in 1/64 °C or 0.25 mV; islands are numbered as the sensors'
are (R469): cores 0-95, keystones 96-99, radio accelerators 100-143 have a floor clock; the others follow to 180.
-/

namespace Sys2Proof.Machine

/-- Changes the state of the responses. -/
def modHeat (d : Dev) (f : HeatSt → HeatSt) : Dev := { d with heat := f d.heat }

/-- Whether an island has a floor clock (R16). -/
def hasFloor (island : Nat) : Bool := island < 144

/-- Whether an island with a floor clock holds work (R17; DESIGN CHOICE, log entry 142): a core that runs, stops or restores a context, a slot
task, an array invocation or an enabled stream; a keystone with an invocation; a radio accelerator while a carrier is not stopped. -/
def holdsWork (d : Dev) (island : Nat) : Bool :=
  if island < 96 then
    (1 ≤ coreState d island && coreState d island ≤ 3) || sigRuns d island
      || (List.range 4).any (fun b => (arrSt d (4 * island + b)).run.isSome)
      || (List.range 16).any (fun s => 1 ≤ strmState d island s && strmState d island s ≤ 5)
  else if island < 100 then (arrSt d (384 + (island - 96))).run.isSome
  else d.sp.cars.any (fun c => carState d c.carrier != 0)

/-- The two responses of an island together (R17, R493): an island that holds work and would run below 1.52 GHz trips, which is
device-fatal. -/
def clockCheck (d : Dev) (island : Nat) : Dev :=
  if hasFloor island && holdsWork d island then islandWork d island else d

/-- THERMAL_CHECK (R17, R492): the hottest diode of an island's region reads `reading`, read each 100 µs: a step down at 100 °C or more, at most
once per 1 ms, beside the lengthening that droop demands; a step up after 10 ms at 92 °C or less. -/
def thermalCheck (d : Dev) (island : Nat) (reading : Int) : Dev :=
  if !hasFloor island then d
  else
    let (l, last, cool) := heatOf d island
    let now := tb2 d
    let put := fun (x : Nat × Option Nat × Option Nat) => modHeat d (fun h => { h with level := tset h.level island x })
    if 6400 ≤ reading then
      let wait := match last with
        | some t => decide (now < t + 8000000)
        | none => false
      if l < 3 ∧ !wait then clockCheck (put (l + 1, some now, none)) island else put (l, last, none)
    else if reading ≤ 5888 then
      match cool with
      | none => put (l, last, some now)
      | some t => if t + 80000000 ≤ now then put (l - 1, last, if l ≤ 1 then some t else some now) else d
    else put (l, last, none)

/-- An island with a floor clock lengthens its cycles by `n` 64ths (R491). -/
def setDroop (d : Dev) (island n : Nat) : Dev :=
  if hasFloor island then modHeat d (fun h => { h with droop := tset h.droop island n }) else d

/-- CLOCK_TRIP (R17, R493): the droop response takes the island to `n` 64ths beside its thermal level. -/
def clockTrip (d : Dev) (island n : Nat) : Dev := clockCheck (setDroop d island n) island

/-- DROOP_DETECT (R17, R491): an island with a floor clock lengthens its cycles by the `n` 64ths that the detector demands, and trips where that
and its thermal level together would take it too low; others stretch single cycles. -/
def droopDetect (d : Dev) (island n : Nat) : Dev := clockCheck (setDroop d island n) island

/-- DROOP_RELEASE (R491). -/
def droopRelease (d : Dev) (island : Nat) : Dev := modHeat d (fun h => { h with droop := tdel h.droop island })

/-- THERMAL_TRIP (R493, R494): an island at level 3 reads 110 °C or more, any island 115 °C, or a pier's DRAM 105 °C. -/
def thermalTrip (d : Dev) (island : Nat) (reading : Int) (dram : Bool) : Dev :=
  if 181 ≤ island then d
  else if 7360 ≤ reading ∨ (7040 ≤ reading ∧ hasFloor island ∧ (heatOf d island).1 = 3) ∨ (dram ∧ 6720 ≤ reading) then
    let d := deviceFatal d { status := 0x6B08, detail := island + ofSigned 16 reading * 2 ^ 16 }
    { d with env := { d.env with thermtripN := false } }
  else d

/-- The nominal voltage of each rail in 0.25 mV (R488). -/
def railNominal (rail : Nat) : Nat := lget 0 [3000, 3000, 3000, 4400, 7200, 3200, 4800, 4800, 7200] rail

/-- SUPPLY_TRIP (R493-R495): a rail stays below 90% of nominal for 10 µs. The record is not persisted for VDD_FABRIC, which feeds the
management subsystem. -/
def supplyTrip (d : Dev) (rail reading : Nat) : Dev :=
  if 100 * reading < 90 * railNominal rail then
    deviceFatal d { status := 0x6B0A, detail := rail + reading % 65536 * 2 ^ 16 } (rail != 1)
  else d

/-- DIODE_CHECK (R469, R478): a diode passes its check, or its valid flag is cleared. -/
def diodeCheck (d : Dev) (diode : Nat) (ok : Bool) : Dev :=
  modHeat d (fun h => { h with bad := if ok then h.bad.filter (· != diode) else natPut h.bad diode })

/-- VOLTAGE_MONITOR_CHECK (R478): a monitor is compared with the internal reference, and the last value is held meanwhile: no state of the
model changes. -/
def monitorCheck (d : Dev) : Dev := d

end Sys2Proof.Machine
end

