-- ==== Sys2Proof/Machine/TestRows.lean ====
section
/-!
DEFINITION. The meanings of the rows of temperature, supplies, loop-backs and self-tests (R474-R493).
-/

namespace Sys2Proof.Machine

/-- THERMAL_CHECK (R492). -/
def execThermalCheck (island : Fin 144) (reading : Int) (st : State) : Res := onDev st (fun d => thermalCheck d island reading)

/-- DROOP_DETECT (R491). -/
def execDroopDetect (island : Fin 144) (n : Nat) (st : State) : Res := onDev st (fun d => droopDetect d island n)

/-- DROOP_RELEASE (R491). -/
def execDroopRelease (island : Fin 144) (st : State) : Res := onDev st (fun d => droopRelease d island)

/-- THERMAL_TRIP (R493). -/
def execThermalTrip (island : Fin 144) (reading : Int) (dram : Bool) (st : State) : Res := onDev st (fun d => thermalTrip d island reading dram)

/-- CLOCK_TRIP (R493). -/
def execClockTrip (island : Fin 144) (n : Nat) (st : State) : Res := onDev st (fun d => clockTrip d island n)

/-- SUPPLY_TRIP (R493). -/
def execSupplyTrip (rail reading : Nat) (st : State) : Res := onDev st (fun d => supplyTrip d rail reading)

/-- VOLTAGE_MONITOR_CHECK (R478). -/
def execVoltageMonitorCheck (st : State) : Res := onDev st (fun d => monitorCheck d)

/-- DIODE_CHECK (R478). -/
def execDiodeCheck (diode : Nat) (ok : Bool) (st : State) : Res := onDev st (fun d => diodeCheck d diode ok)

/-- ENTER (R476). -/
def execEnter (st : State) : Res := onDev st (fun d => lbEnter d)

/-- LEAVE (R476). -/
def execLeave (bits errors : Nat) (st : State) : Res := onDev st (fun d => lbLeave d bits errors)

/-- START (R477). -/
def execBistStart (value : Word) (st : State) : Res := onDev st (fun d => bistStart d (value.toNat ||| 1))

/-- BIST_COMPLETE (R477). -/
def execBistComplete (pass : Bool) (st : State) : Res := onDev st (fun d => bistDone d pass)

/-- LANES (R478). -/
def execLanes (mask : Fin 4294967296) (st : State) : Res := onDev st (fun d => calLanes d mask)

/-- ETH_LANE_RECAL (R478). -/
def execEthLaneRecal (lane : Fin 32) (st : State) : Res := onDev st (fun d => laneRecal d lane)

end Sys2Proof.Machine
end

