-- ==== Sys2Proof/Machine/TierRows.lean ====
section
/-!
DEFINITION. The meanings of the rows of the memory tiers, the ashlars and the flash (R260-R289, R498).
-/

namespace Sys2Proof.Machine

/-- An event of a data page of the flash (R275), named by its stripe row, its position there and its channel: one whose channel is not that of the
position does not fit the state (log entry 9). -/
def flashRow (d : Dev) (row pos ch : Nat) (f : Dev → Nat → Dev) : Dev := if posChannel row pos = ch then f d (row * 30 + pos) else d

/-- STRIPE_REBUILD (R279): `p` and `q` tell that the read of the parity page fails, `also` the positions of further data pages whose read fails. -/
def rebuildRow (d : Dev) (row : Nat) (p q : Bool) (also : List Nat) : Dev :=
  stripeRebuild d row (also.filter (· < 30) ++ (if p then [30] else []) ++ (if q then [31] else []))

/-- PREFETCH_LAYER (R272). -/
def execPrefetchLayer (i : Fin 65) (x : Fin 16) (layer : Nat) (st : State) : Res := onDev st (fun d => resumeLater (prefetchLayer d i x layer))

/-- ON_DEMAND_PROMOTION (R273). -/
def execOnDemandPromotion (i : Fin 65) (x : Fin 16) (ash : Nat) (st : State) : Res := onDev st (fun d => onDemand d i x ash)

/-- PROMOTION (R268). -/
def execPromotion (i : Fin 65) (ash : Nat) (tier : Fin 2) (st : State) : Res := onDev st (fun d => promoteRow d i ash tier)

/-- PROMOTION_COMPLETE (R268). -/
def execPromotionComplete (ash : Nat) (tier : Fin 2) (mismatches : Nat) (st : State) : Res :=
  onDev st (fun d => resumeLater (promoDone d ash tier mismatches))

/-- FETCH_LIMIT_EXPIRY (R273). -/
def execFetchLimitExpiry (i : Fin 65) (x : Fin 16) (st : State) : Res := onDev st (fun d => fetchLimit d i x)

/-- FLASH_CODEWORD_READ (R277). -/
def execFlashCodewordRead (row : Nat) (pos : Fin 30) (ch : Fin 32) (st : State) (cw : Nat := 0) (flips : List Nat := []) : Res :=
  onDev st (fun d => flashRow d row pos ch (fun d p => flashRead d p cw flips))

/-- FLASH_RETRY (R278). -/
def execFlashRetry (row : Nat) (pos : Fin 30) (ch : Fin 32) (cw : Nat) (mid : List Nat) (st : State) (low high : List Nat := []) : Res :=
  onDev st (fun d => flashRow d row pos ch (fun d p => darnerRetry d p cw mid low high))

/-- SOFT_WAIT_EXPIRY (R278). -/
def execSoftWaitExpiry (row : Nat) (pos : Fin 30) (ch : Fin 32) (cw : Nat) (st : State) : Res :=
  onDev st (fun d => flashRow d row pos ch (fun d p => softWait d p cw))

/-- STRIPE_REBUILD (R279). -/
def execStripeRebuild (row : Nat) (p q : Bool) (also : List Nat) (st : State) : Res := onDev st (fun d => resumeLater (rebuildRow d row p q also))

/-- BLOCK_RETIREMENT (R282). -/
def execBlockRetirement (ch : Fin 32) (target block : Nat) (failed : Bool) (st : State) : Res :=
  onDev st (fun d => resumeLater (retireBlock d ch target block failed))

/-- FLS_RECAL (R283). -/
def execFlsRecal (ch : Fin 32) (ok : Bool) (st : State) : Res := onDev st (fun d => resumeLater (flsRecal d ch ok))

/-- MORTAR_SCRUB_READ (R498). -/
def execMortarScrubRead (word : Fin 8388608) (outcome : Nat) (st : State) : Res := onDev st (fun d => mortarScrub d word outcome)

end Sys2Proof.Machine
end

