-- ==== Sys2Proof/Machine/TimeRows.lean ====
section
/-!
DEFINITION. The meanings of the rows of the time unit (R333-R355).
-/

namespace Sys2Proof.Machine

/-- SYNC (R339). -/
def execSync (p : Fin 32) (msg : PtpMsg) (st : State) : Res := onDev st (fun d => ptpSync d p msg)

/-- FOLLOW_UP (R341). -/
def execFollowUp (p : Fin 32) (msg : PtpMsg) (st : State) : Res := onDev st (fun d => ptpFollowUp d p msg)

/-- DELAY_RESP (R341). -/
def execDelayResp (p : Fin 32) (msg : PtpMsg) (st : State) : Res := onDev st (fun d => ptpDelayResp d p msg)

/-- ANNOUNCE (R340). -/
def execAnnounce (p : Fin 32) (domain : Nat) (msg : PtpAnnounce) (st : State) : Res := onDev st (fun d => ptpAnnounce d p domain msg)

/-- DELAY_REQ_SEND (R338). -/
def execDelayReqSend (k : Fin 2) (st : State) : Res := onDev st (fun d => ptpDelayReq d k)

/-- FOREIGN_MASTER_TIMEOUT (R340). -/
def execForeignMasterTimeout (k : Fin 2) (p : Fin 32) (ident num : Nat) (st : State) : Res := onDev st (fun d => masterTimeout d k p ident num)

/-- SERVO_UPDATE (R341). -/
def execServoUpdate (k : Fin 2) (st : State) : Res := onDev st (fun d => servoUpdate d k)

/-- DOMAIN_LOSS_TIMEOUT (R342). -/
def execDomainLossTimeout (k : Fin 2) (st : State) : Res := onDev st (fun d => domLoss d k)

/-- SYNCE_STATE_CHANGE (R343). -/
def execSynceStateChange (locked : Bool) (freq : Int) (st : State) : Res := onDev st (fun d => synceChange d locked freq)

/-- DOM_EN (R342). -/
def execDomEn (mask : Fin 4) (st : State) : Res := onDev st (fun d => domEnable d mask)

/-- SET (R355). -/
def execTimeSet (value : Word) (st : State) : Res := onDev st (fun d => timeSet d value.toNat)

/-- TB_READ (R334). -/
def execTbRead (n : Fin 4) (st : State) : Res := onDev st (fun d => tbRead d n)

/-- ARM (R350). -/
def execArm (n : Fin 8) (st : State) : Res := onDev st (fun d => tpoArm d n)

/-- DISARM (R350). -/
def execDisarm (n : Fin 8) (st : State) : Res := onDev st (fun d => tpoDisarm d n)

/-- TPO_PULSE (R350). -/
def execTpoPulse (n : Fin 8) (st : State) : Res := onDev st (fun d => tpoPulse d n)

/-- TCI_EDGE (R351). -/
def execTciEdge (n : Fin 8) (rising : Bool) (st : State) : Res := onDev st (fun d => tciEdge d n rising)

/-- TCI_READ (R351). -/
def execTciRead (n : Fin 8) (st : State) : Res := onDev st (fun d => tciRead d n)

/-- REF_CLOCK_LOST (R352). -/
def execRefClockLost (st : State) : Res := onDev st (fun d => refClockLost d)

end Sys2Proof.Machine
end

