-- ==== Sys2Proof/Machine/TreanRows.lean ====
section
/-!
DEFINITION. The meanings of the rows of the Trean fabric (R290-R332).
-/

namespace Sys2Proof.Machine

/-- READ_RESEND (R329): the event says whether 150 µs without progress have passed with no `DEV_SUSPECT` yet; one that does not fit the
state has no effect (log entry 9). -/
def readResendRow (d : Dev) (tag : Nat) (late : Bool) : Dev :=
  match sentReq d tag with
  | some o => if late = (decide (o.moved + progressTime ≤ tb2 d) && !o.suspect) then readResend d tag else d
  | none => d

/-- FLIT_RECEIVE (R301). -/
def execFlitReceive (port : Fin 8) (flit : Flit) (st : State) : Res := onDev st (fun d => flitReceive d port flit)

/-- FLIT_NAK (R301). -/
def execFlitNak (port : Fin 8) (seq : Nat) (st : State) : Res := onDev st (fun d => flitNak d port seq)

/-- TRN_SIGNAL_DETECT (R297). -/
def execTrnSignalDetect (port : Fin 8) (st : State) : Res := onDev st (fun d => signalDetect d port)

/-- TRN_ABILITY_DONE (R296). -/
def execTrnAbilityDone (port : Fin 8) (ability : Ability) (st : State) : Res := onDev st (fun d => abilityDone d port ability)

/-- TRN_ABILITY_TIMEOUT (R297). -/
def execTrnAbilityTimeout (port : Fin 8) (st : State) : Res := onDev st (fun d => abilityTimeout d port)

/-- TRN_TRAIN_DONE (R297). -/
def execTrnTrainDone (port : Fin 8) (ok : Bool) (st : State) : Res := onDev st (fun d => trainDone d port ok)

/-- TRN_INIT_DONE (R297). -/
def execTrnInitDone (port : Fin 8) (st : State) : Res := onDev st (fun d => initDone d port)

/-- TRN_ENABLE (R297). -/
def execTrnEnable (port : Fin 8) (on : Bool) (st : State) : Res := onDev st (fun d => portEnable d port on)

/-- TRN_RETRAIN (R297). -/
def execTrnRetrain (port : Fin 8) (st : State) : Res := onDev st (fun d => portRetrain d port)

/-- TRN_RECAL (R298). -/
def execTrnRecal (port : Fin 8) (lane : Fin 4) (done : Bool) (st : State) : Res := onDev st (fun d => portRecal d port lane done)

/-- GW_EN (R322). -/
def execGwEn (on : Bool) (ports : Fin 256) (st : State) : Res := onDev st (fun d => gwEnable d on ports)

/-- RD (R306). -/
def execRd (port : Fin 8) (req : TrnReq) (st : State) : Res := onDev st (fun d => reqArrive d port 0x01 req)

/-- WR (R313). -/
def execWr (port : Fin 8) (req : TrnReq) (st : State) : Res := onDev st (fun d => reqArrive d port 0x02 req)

/-- FADD (R306). -/
def execFadd (port : Fin 8) (req : TrnReq) (st : State) : Res := onDev st (fun d => reqArrive d port 0x03 req)

/-- CAS (R306). -/
def execCas (port : Fin 8) (req : TrnReq) (st : State) : Res := onDev st (fun d => reqArrive d port 0x04 req)

/-- MIN_S (R306). -/
def execMinS (port : Fin 8) (req : TrnReq) (st : State) : Res := onDev st (fun d => reqArrive d port 0x05 req)

/-- MAX_S (R306). -/
def execMaxS (port : Fin 8) (req : TrnReq) (st : State) : Res := onDev st (fun d => reqArrive d port 0x06 req)

/-- MIN_U (R306). -/
def execMinU (port : Fin 8) (req : TrnReq) (st : State) : Res := onDev st (fun d => reqArrive d port 0x07 req)

/-- MAX_U (R306). -/
def execMaxU (port : Fin 8) (req : TrnReq) (st : State) : Res := onDev st (fun d => reqArrive d port 0x08 req)

/-- OR (R306). -/
def execOrOp (port : Fin 8) (req : TrnReq) (st : State) : Res := onDev st (fun d => reqArrive d port 0x09 req)

/-- EXADD (R52). -/
def execExadd (port : Fin 8) (req : TrnReq) (st : State) : Res := onDev st (fun d => reqArrive d port 0x0A req)

/-- FFADD (R319). -/
def execFfadd (port : Fin 8) (req : TrnReq) (st : State) : Res := onDev st (fun d => reqArrive d port 0x0B req)

/-- REL_ST (R311). -/
def execRelSt (port : Fin 8) (req : TrnReq) (st : State) : Res := onDev st (fun d => reqArrive d port 0x0C req)

/-- REL_ADD (R311). -/
def execRelAdd (port : Fin 8) (req : TrnReq) (st : State) : Res := onDev st (fun d => reqArrive d port 0x0D req)

/-- BLK_REQ (R323). -/
def execBlkReq (port : Fin 8) (near epoch seq : Nat) (pkts : List TrnPkt) (st : State) : Res :=
  onDev st (fun d => blkArrive d port near epoch 0 seq pkts)

/-- BLK_RSP (R323). -/
def execBlkRsp (port : Fin 8) (near epoch seq : Nat) (pkts : List TrnPkt) (st : State) : Res :=
  onDev st (fun d => blkArrive d port near epoch 1 seq pkts)

/-- BLK_ACK (R323). -/
def execBlkAck (far : Nat) (chan : Fin 2) (seq : Nat) (st : State) : Res := onDev st (fun d => gwAck d far chan seq)

/-- RD_DATA (R306). -/
def execRdData (port : Fin 8) (rsp : TrnRsp) (st : State) : Res := onDev st (fun d => rspArrive d port 0x81 rsp)

/-- DONE (R314). -/
def execDone (port : Fin 8) (rsp : TrnRsp) (st : State) : Res := onDev st (fun d => rspArrive d port 0x82 rsp)

/-- ACCEPT (R314). -/
def execAccept (port : Fin 8) (rsp : TrnRsp) (st : State) : Res := onDev st (fun d => rspArrive d port 0x83 rsp)

/-- ATOM (R306). -/
def execAtom (port : Fin 8) (rsp : TrnRsp) (st : State) : Res := onDev st (fun d => rspArrive d port 0x84 rsp)

/-- NACK (R321). -/
def execNack (port : Fin 8) (rsp : TrnRsp) (st : State) : Res := onDev st (fun d => rspArrive d port 0x85 rsp)

/-- WRITE_RESEND_TIMER (R314). -/
def execWriteResendTimer (tag : Nat) (st : State) : Res := onDev st (fun d => writeResend d tag)

/-- WRITE_OUTCOME_UNKNOWN (R316). -/
def execWriteOutcomeUnknown (tag : Nat) (st : State) : Res := onDev st (fun d => writeUnknown d tag)

/-- READ_RESEND (R329). -/
def execReadResend (tag : Nat) (late : Bool) (st : State) : Res := onDev st (fun d => readResendRow d tag late)

/-- LOAD_LIMIT_EXPIRY (R329). -/
def execLoadLimitExpiry (tag : Nat) (st : State) : Res := onDev st (fun d => loadLimit d tag)

/-- REPLY_CACHE_EXPIRY (R313). -/
def execReplyCacheExpiry (agent : Fin 8) (src seq : Nat) (st : State) : Res := onDev st (fun d => cacheExpiry d agent src seq)

/-- AGE_EXPIRY (R315). -/
def execAgeExpiry (port : Fin 8) (st : State) : Res := onDev st (fun d => ageExpiry d port)

/-- GW_BLOCK_CLOSE (R323). -/
def execGwBlockClose (far : Nat) (chan : Fin 2) (st : State) : Res := onDev st (fun d => gwDue d far chan)

/-- GW_BLOCK_RESEND (R323). -/
def execGwBlockResend (far : Nat) (chan : Fin 2) (seq : Nat) (st : State) : Res := onDev st (fun d => gwResend d far chan seq)

/-- FM_EPOCH (R326). -/
def execFmEpoch (src epoch : Nat) (fences : List (Nat × Bool)) (jobs : List Nat) (st : State) : Res :=
  onDev st (fun d => fmEpoch d src epoch fences jobs)

/-- FM_JOB_TEARDOWN (R328). -/
def execFmJobTeardown (src job : Nat) (st : State) : Res := onDev st (fun d => fmTeardown d src job)

/-- FM_ROUTE (R322). -/
def execFmRoute (src pod : Nat) (gateways : List Nat) (st : State) : Res := onDev st (fun d => fmRoute d src pod gateways)

/-- FM_ADMIT (R327). -/
def execFmAdmit (src epoch : Nat) (st : State) : Res := onDev st (fun d => fmAdmit d src epoch)

/-- FM_PROBE (R325). -/
def execFmProbe (src nonce : Nat) (st : State) : Res := onDev st (fun d => fmProbe d src nonce)

/-- TRN_LINK_LOSS (R297). -/
def execTrnLinkLoss (port : Fin 8) (st : State) : Res := onDev st (fun d => linkLoss d port)

end Sys2Proof.Machine
end

