-- ==== Sys2Proof/Machine/Dispatch.lean ====
section
/-!
DEFINITION. The effect of a command on everything but the queue: one arm per row of the opcode table.
-/

namespace Sys2Proof.Machine

open Sys2Proof

def exec (i : Instr) (s : State) : Host.Outcome State Fault Refusal :=
  match i with
  | .registerWrite key mask value => Sys2Proof.Machine.execRegisterWrite key mask value s
  | .arrGo a => Sys2Proof.Machine.execArrGo a s
  | .arrStop a stopAt columns err => Sys2Proof.Machine.execArrStop a stopAt columns s err
  | .arrResume a => Sys2Proof.Machine.execArrResume a s
  | .arrQueuedStart a => Sys2Proof.Machine.execArrQueuedStart a s
  | .arrSwap a fixed => Sys2Proof.Machine.execArrSwap a s fixed
  | .arrInvocationComplete a fixed => Sys2Proof.Machine.execArrInvocationComplete a s fixed
  | .arrStateLost a => Sys2Proof.Machine.execArrStateLost a s
  | .reclaim c ns err => Sys2Proof.Machine.execReclaim c ns s err
  | .preempt c reached err => Sys2Proof.Machine.execPreempt c s reached err
  | .coreRestore c whole => Sys2Proof.Machine.execCoreRestore c s whole
  | .coreCommit c => Sys2Proof.Machine.execCoreCommit c s
  | .coreStrmEnable c s0 value => Sys2Proof.Machine.execCoreStrmEnable c s0 value s
  | .streamCopy c s0 => Sys2Proof.Machine.execStreamCopy c s0 s
  | .streamGather c s0 => Sys2Proof.Machine.execStreamGather c s0 s
  | .streamScatter c s0 => Sys2Proof.Machine.execStreamScatter c s0 s
  | .streamFill c s0 => Sys2Proof.Machine.execStreamFill c s0 s
  | .peerCreditReturn c s0 => Sys2Proof.Machine.execPeerCreditReturn c s0 s
  | .pageFault c s0 at_ dest => Sys2Proof.Machine.execPageFault c s0 s at_ dest
  | .pageResponse c s0 ok => Sys2Proof.Machine.execPageResponse c s0 ok s
  | .pageLimitExpiry c s0 => Sys2Proof.Machine.execPageLimitExpiry c s0 s
  | .stallWatchExpiry c i0 x => Sys2Proof.Machine.execStallWatchExpiry c i0 x s
  | .coreStoreScrubRead c word outcome => Sys2Proof.Machine.execCoreStoreScrubRead c word outcome s
  | .coreStateLost c => Sys2Proof.Machine.execCoreStateLost c s
  | .snop c fixed => Sys2Proof.Machine.execSnop c s fixed
  | .cmac c fixed => Sys2Proof.Machine.execCmac c s fixed
  | .cmul c fixed => Sys2Proof.Machine.execCmul c s fixed
  | .cadd c fixed => Sys2Proof.Machine.execCadd c s fixed
  | .csub c fixed => Sys2Proof.Machine.execCsub c s fixed
  | .cnco c fixed => Sys2Proof.Machine.execCnco c s fixed
  | .srnd c fixed => Sys2Proof.Machine.execSrnd c s fixed
  | .snorm c fixed => Sys2Proof.Machine.execSnorm c s fixed
  | .sexp c fixed => Sys2Proof.Machine.execSexp c s fixed
  | .sbfpc c fixed => Sys2Proof.Machine.execSbfpc c s fixed
  | .sbfpx c fixed => Sys2Proof.Machine.execSbfpx c s fixed
  | .sset c fixed => Sys2Proof.Machine.execSset c s fixed
  | .sacs c fixed => Sys2Proof.Machine.execSacs c s fixed
  | .sacl c fixed => Sys2Proof.Machine.execSacl c s fixed
  | .sloop c => Sys2Proof.Machine.execSloop c s
  | .sjmp c => Sys2Proof.Machine.execSjmp c s
  | .send c => Sys2Proof.Machine.execSend c s
  | .sret c => Sys2Proof.Machine.execSret c s
  | .sstl c fixed => Sys2Proof.Machine.execSstl c s fixed
  | .sldl c fixed => Sys2Proof.Machine.execSldl c s fixed
  | .ssta c fixed => Sys2Proof.Machine.execSsta c s fixed
  | .slda c fixed => Sys2Proof.Machine.execSlda c s fixed
  | .sigIllegal c => Sys2Proof.Machine.execSigIllegal c s
  | .sigStateLost c => Sys2Proof.Machine.execSigStateLost c s
  | .sigGo c => Sys2Proof.Machine.execSigGo c s
  | .sigIrq c => Sys2Proof.Machine.execSigIrq c s
  | .taskInterruptEntry c => Sys2Proof.Machine.execTaskInterruptEntry c s
  | .symbolTick => Sys2Proof.Machine.execSymbolTick s
  | .slotBoundary code => Sys2Proof.Machine.execSlotBoundary code s
  | .requestCutoff n => Sys2Proof.Machine.execRequestCutoff n s
  | .taskRelease task side ns => Sys2Proof.Machine.execTaskRelease task side ns s
  | .taskStart c code start vector at_ => Sys2Proof.Machine.execTaskStart c code start vector s at_
  | .lend c gap who => Sys2Proof.Machine.execLend c gap who s
  | .uplaneReceive p msg => Sys2Proof.Machine.execUplaneReceive p msg s
  | .rxWindowClose n sfn slot sym => Sys2Proof.Machine.execRxWindowClose n sfn slot sym s
  | .cplaneSend n sfn slot => Sys2Proof.Machine.execCplaneSend n sfn slot s
  | .dlUplaneSend n sfn slot sym stream off => Sys2Proof.Machine.execDlUplaneSend n sfn slot sym stream off s
  | .txWindowClose n sfn slot sym => Sys2Proof.Machine.execTxWindowClose n sfn slot sym s
  | .codeBlockDecode unit carrier frame slot pdu block => Sys2Proof.Machine.execCodeBlockDecode unit carrier frame slot pdu block s
  | .preambleDetect job => Sys2Proof.Machine.execPreambleDetect job s
  | .acceleratorFault unit => Sys2Proof.Machine.execAcceleratorFault unit s
  | .carrierEnable n on => Sys2Proof.Machine.execCarrierEnable n on s
  | .flashShare on => Sys2Proof.Machine.execFlashShare on s
  | .paramRequest ch body => Sys2Proof.Machine.execParamRequest ch body s
  | .configRequest ch body => Sys2Proof.Machine.execConfigRequest ch body s
  | .startRequest ch body => Sys2Proof.Machine.execStartRequest ch body s
  | .stopRequest ch body => Sys2Proof.Machine.execStopRequest ch body s
  | .dlTtiRequest ch body => Sys2Proof.Machine.execDlTtiRequest ch body s
  | .ulDciRequest ch body => Sys2Proof.Machine.execUlDciRequest ch body s
  | .txDataRequest ch body => Sys2Proof.Machine.execTxDataRequest ch body s
  | .ulTtiRequest ch body => Sys2Proof.Machine.execUlTtiRequest ch body s
  | .unsupportedFapiMessage ch body => Sys2Proof.Machine.execUnsupportedFapiMessage ch body s
  | .ethAutonegComplete p modes ok => Sys2Proof.Machine.execEthAutonegComplete p modes ok s
  | .ethPortStateChange p training => Sys2Proof.Machine.execEthPortStateChange p training s
  | .ethFrameDrop p fec => Sys2Proof.Machine.execEthFrameDrop p fec s
  | .ethLaneRecal lane => Sys2Proof.Machine.execEthLaneRecal lane s
  | .sync p msg => Sys2Proof.Machine.execSync p msg s
  | .followUp p msg => Sys2Proof.Machine.execFollowUp p msg s
  | .delayResp p msg => Sys2Proof.Machine.execDelayResp p msg s
  | .announce p domain msg => Sys2Proof.Machine.execAnnounce p domain msg s
  | .delayReqSend k => Sys2Proof.Machine.execDelayReqSend k s
  | .foreignMasterTimeout k p ident num => Sys2Proof.Machine.execForeignMasterTimeout k p ident num s
  | .servoUpdate k => Sys2Proof.Machine.execServoUpdate k s
  | .domainLossTimeout k => Sys2Proof.Machine.execDomainLossTimeout k s
  | .synceStateChange locked freq => Sys2Proof.Machine.execSynceStateChange locked freq s
  | .domEn mask => Sys2Proof.Machine.execDomEn mask s
  | .timeSet value => Sys2Proof.Machine.execTimeSet value s
  | .tbRead n => Sys2Proof.Machine.execTbRead n s
  | .arm n => Sys2Proof.Machine.execArm n s
  | .disarm n => Sys2Proof.Machine.execDisarm n s
  | .tpoPulse n => Sys2Proof.Machine.execTpoPulse n s
  | .tciEdge n rising => Sys2Proof.Machine.execTciEdge n rising s
  | .tciRead n => Sys2Proof.Machine.execTciRead n s
  | .refClockLost => Sys2Proof.Machine.execRefClockLost s
  | .pierRead who line err => Sys2Proof.Machine.execPierRead who line s err
  | .pierWrite who line mask half poison => Sys2Proof.Machine.execPierWrite who line mask half poison s
  | .refreshDue p ch bank pending => Sys2Proof.Machine.execRefreshDue p ch bank pending s
  | .pierScrubRead line err => Sys2Proof.Machine.execPierScrubRead line err s
  | .scrubPassOverrun p => Sys2Proof.Machine.execScrubPassOverrun p s
  | .rowSpare p ch row => Sys2Proof.Machine.execRowSpare p ch row s
  | .pierSpare p ch => Sys2Proof.Machine.execPierSpare p ch s
  | .channelSpareComplete p => Sys2Proof.Machine.execChannelSpareComplete p s
  | .pierRetrain p ch => Sys2Proof.Machine.execPierRetrain p ch s
  | .retrainSlice p ch done ok group copied => Sys2Proof.Machine.execRetrainSlice p ch done ok group copied s
  | .attend p x => Sys2Proof.Machine.execAttend p x s
  | .gather p x rows => Sys2Proof.Machine.execGather p x s rows
  | .dequant p x => Sys2Proof.Machine.execDequant p x s
  | .copy p x => Sys2Proof.Machine.execCopy p x s
  | .move p x => Sys2Proof.Machine.execMove p x s
  | .crc64 p x => Sys2Proof.Machine.execCrc64 p x s
  | .harqCombine p x use => Sys2Proof.Machine.execHarqCombine p x use s
  | .fill p x => Sys2Proof.Machine.execFill p x s
  | .dirtyScan p x => Sys2Proof.Machine.execDirtyScan p x s
  | .prefetchLayer i0 x layer => Sys2Proof.Machine.execPrefetchLayer i0 x layer s
  | .onDemandPromotion i0 x ash => Sys2Proof.Machine.execOnDemandPromotion i0 x ash s
  | .promotion i0 ash tier => Sys2Proof.Machine.execPromotion i0 ash tier s
  | .promotionComplete ash tier mismatches => Sys2Proof.Machine.execPromotionComplete ash tier mismatches s
  | .fetchLimitExpiry i0 x => Sys2Proof.Machine.execFetchLimitExpiry i0 x s
  | .flashCodewordRead row pos ch cw flips => Sys2Proof.Machine.execFlashCodewordRead row pos ch s cw flips
  | .flashRetry row pos ch cw mid low high => Sys2Proof.Machine.execFlashRetry row pos ch cw mid s low high
  | .softWaitExpiry row pos ch cw => Sys2Proof.Machine.execSoftWaitExpiry row pos ch cw s
  | .stripeRebuild row p q also => Sys2Proof.Machine.execStripeRebuild row p q also s
  | .blockRetirement ch target block failed => Sys2Proof.Machine.execBlockRetirement ch target block failed s
  | .flsRecal ch ok => Sys2Proof.Machine.execFlsRecal ch ok s
  | .mortarScrubRead word outcome => Sys2Proof.Machine.execMortarScrubRead word outcome s
  | .flitReceive port flit => Sys2Proof.Machine.execFlitReceive port flit s
  | .flitNak port seq => Sys2Proof.Machine.execFlitNak port seq s
  | .trnSignalDetect port => Sys2Proof.Machine.execTrnSignalDetect port s
  | .trnAbilityDone port ability => Sys2Proof.Machine.execTrnAbilityDone port ability s
  | .trnAbilityTimeout port => Sys2Proof.Machine.execTrnAbilityTimeout port s
  | .trnTrainDone port ok => Sys2Proof.Machine.execTrnTrainDone port ok s
  | .trnInitDone port => Sys2Proof.Machine.execTrnInitDone port s
  | .trnEnable port on => Sys2Proof.Machine.execTrnEnable port on s
  | .trnRetrain port => Sys2Proof.Machine.execTrnRetrain port s
  | .trnRecal port lane done => Sys2Proof.Machine.execTrnRecal port lane done s
  | .gwEn on ports => Sys2Proof.Machine.execGwEn on ports s
  | .rd port req => Sys2Proof.Machine.execRd port req s
  | .wr port req => Sys2Proof.Machine.execWr port req s
  | .fadd port req => Sys2Proof.Machine.execFadd port req s
  | .cas port req => Sys2Proof.Machine.execCas port req s
  | .minS port req => Sys2Proof.Machine.execMinS port req s
  | .maxS port req => Sys2Proof.Machine.execMaxS port req s
  | .minU port req => Sys2Proof.Machine.execMinU port req s
  | .maxU port req => Sys2Proof.Machine.execMaxU port req s
  | .orOp port req => Sys2Proof.Machine.execOrOp port req s
  | .exadd port req => Sys2Proof.Machine.execExadd port req s
  | .ffadd port req => Sys2Proof.Machine.execFfadd port req s
  | .relSt port req => Sys2Proof.Machine.execRelSt port req s
  | .relAdd port req => Sys2Proof.Machine.execRelAdd port req s
  | .blkReq port near epoch seq pkts => Sys2Proof.Machine.execBlkReq port near epoch seq pkts s
  | .blkRsp port near epoch seq pkts => Sys2Proof.Machine.execBlkRsp port near epoch seq pkts s
  | .blkAck far chan seq => Sys2Proof.Machine.execBlkAck far chan seq s
  | .rdData port rsp => Sys2Proof.Machine.execRdData port rsp s
  | .done port rsp => Sys2Proof.Machine.execDone port rsp s
  | .accept port rsp => Sys2Proof.Machine.execAccept port rsp s
  | .atom port rsp => Sys2Proof.Machine.execAtom port rsp s
  | .nack port rsp => Sys2Proof.Machine.execNack port rsp s
  | .writeResendTimer tag => Sys2Proof.Machine.execWriteResendTimer tag s
  | .writeOutcomeUnknown tag => Sys2Proof.Machine.execWriteOutcomeUnknown tag s
  | .readResend tag late => Sys2Proof.Machine.execReadResend tag late s
  | .loadLimitExpiry tag => Sys2Proof.Machine.execLoadLimitExpiry tag s
  | .replyCacheExpiry agent src seq => Sys2Proof.Machine.execReplyCacheExpiry agent src seq s
  | .ageExpiry port => Sys2Proof.Machine.execAgeExpiry port s
  | .gwBlockClose far chan => Sys2Proof.Machine.execGwBlockClose far chan s
  | .gwBlockResend far chan seq => Sys2Proof.Machine.execGwBlockResend far chan seq s
  | .fmEpoch src epoch fences jobs => Sys2Proof.Machine.execFmEpoch src epoch fences jobs s
  | .fmJobTeardown src job => Sys2Proof.Machine.execFmJobTeardown src job s
  | .fmRoute src pod gateways => Sys2Proof.Machine.execFmRoute src pod gateways s
  | .fmAdmit src epoch => Sys2Proof.Machine.execFmAdmit src epoch s
  | .fmProbe src nonce => Sys2Proof.Machine.execFmProbe src nonce s
  | .bar2Read i0 off n => Sys2Proof.Machine.execBar2Read i0 off n s
  | .bar2Write i0 off data ep => Sys2Proof.Machine.execBar2Write i0 off data ep s
  | .mbxSqTail i0 q index writes bad => Sys2Proof.Machine.execMbxSqTail i0 q index writes bad s
  | .mbxCqHead i0 q index => Sys2Proof.Machine.execMbxCqHead i0 q index s
  | .ringEnable i0 q on => Sys2Proof.Machine.execRingEnable i0 q on s
  | .ringFault i0 q command => Sys2Proof.Machine.execRingFault i0 q command s
  | .noticeWrite i0 => Sys2Proof.Machine.execNoticeWrite i0 s
  | .msixCoalesceExpiry i0 q => Sys2Proof.Machine.execMsixCoalesceExpiry i0 q s
  | .hostCompletion c s0 data kind => Sys2Proof.Machine.execHostCompletion c s0 data kind s
  | .pcieCompletionTimeout c s0 => Sys2Proof.Machine.execPcieCompletionTimeout c s0 s
  | .atsInvalidation tag page pages gone => Sys2Proof.Machine.execAtsInvalidation tag s page pages gone
  | .functionLevelReset i0 => Sys2Proof.Machine.execFunctionLevelReset i0 s
  | .hotReset => Sys2Proof.Machine.execHotReset s
  | .linkDown internal => Sys2Proof.Machine.execLinkDown s internal
  | .linkStateChange width rate flit => Sys2Proof.Machine.execLinkStateChange width rate flit s
  | .linkCorrected => Sys2Proof.Machine.execLinkCorrected s
  | .pcieLoopback on => Sys2Proof.Machine.execPcieLoopback on s
  | .vfEnable count => Sys2Proof.Machine.execVfEnable count s
  | .freezeDone i0 => Sys2Proof.Machine.execFreezeDone i0 s
  | .iterationBoundary i0 x steps images => Sys2Proof.Machine.execIterationBoundary i0 x steps images s
  | .contextTeardown i0 x => Sys2Proof.Machine.execContextTeardown i0 x s
  | .instanceTeardownRun i0 => Sys2Proof.Machine.execInstanceTeardownRun i0 s
  | .recordDrain fixed => Sys2Proof.Machine.execRecordDrain s fixed
  | .healthSecond => Sys2Proof.Machine.execHealthSecond s
  | .telemetrySample values => Sys2Proof.Machine.execTelemetrySample values s
  | .creditTick => Sys2Proof.Machine.execCreditTick s
  | .resizeTimeout i0 => Sys2Proof.Machine.execResizeTimeout i0 s
  | .watchdogExpiry core imageOk hit => Sys2Proof.Machine.execWatchdogExpiry core imageOk s hit
  | .logPersist => Sys2Proof.Machine.execLogPersist s
  | .perstNRise => Sys2Proof.Machine.execPerstNRise s
  | .perstNFall => Sys2Proof.Machine.execPerstNFall s
  | .bootStageDone refClock readable failed ms => Sys2Proof.Machine.execBootStageDone refClock readable failed ms s
  | .getVersion => Sys2Proof.Machine.execGetVersion s
  | .getCapabilities => Sys2Proof.Machine.execGetCapabilities s
  | .negotiateAlgorithms => Sys2Proof.Machine.execNegotiateAlgorithms s
  | .getDigests => Sys2Proof.Machine.execGetDigests s
  | .getCertificate slot off len => Sys2Proof.Machine.execGetCertificate slot off len s
  | .challenge slot nonce => Sys2Proof.Machine.execChallenge slot nonce s
  | .getMeasurements index signed nonce => Sys2Proof.Machine.execGetMeasurements index signed nonce s
  | .spdmUnsupportedRequest code => Sys2Proof.Machine.execSpdmUnsupportedRequest code s
  | .thermalCheck island reading => Sys2Proof.Machine.execThermalCheck island reading s
  | .droopDetect island n => Sys2Proof.Machine.execDroopDetect island n s
  | .droopRelease island => Sys2Proof.Machine.execDroopRelease island s
  | .thermalTrip island reading dram => Sys2Proof.Machine.execThermalTrip island reading dram s
  | .clockTrip island n => Sys2Proof.Machine.execClockTrip island n s
  | .supplyTrip rail reading => Sys2Proof.Machine.execSupplyTrip rail reading s
  | .voltageMonitorCheck => Sys2Proof.Machine.execVoltageMonitorCheck s
  | .diodeCheck diode ok => Sys2Proof.Machine.execDiodeCheck diode ok s
  | .enter => Sys2Proof.Machine.execEnter s
  | .leave bits errors => Sys2Proof.Machine.execLeave bits errors s
  | .bistStart value => Sys2Proof.Machine.execBistStart value s
  | .bistComplete pass => Sys2Proof.Machine.execBistComplete pass s
  | .lanes mask => Sys2Proof.Machine.execLanes mask s
  | .queryDevice i0 q => Sys2Proof.Machine.execQueryDevice i0 q s
  | .queryInstance i0 q => Sys2Proof.Machine.execQueryInstance i0 q s
  | .regRead i0 q => Sys2Proof.Machine.execRegRead i0 q s
  | .regWrite i0 q => Sys2Proof.Machine.execRegWrite i0 q s
  | .partitionSet i0 q => Sys2Proof.Machine.execPartitionSet i0 q s
  | .partitionRelease i0 q => Sys2Proof.Machine.execPartitionRelease i0 q s
  | .windowSet i0 q => Sys2Proof.Machine.execWindowSet i0 q s
  | .bar2Map i0 q => Sys2Proof.Machine.execBar2Map i0 q s
  | .lendSet i0 q => Sys2Proof.Machine.execLendSet i0 q s
  | .setCreate i0 q => Sys2Proof.Machine.execSetCreate i0 q s
  | .setGrant i0 q => Sys2Proof.Machine.execSetGrant i0 q s
  | .setDelete i0 q => Sys2Proof.Machine.execSetDelete i0 q s
  | .ashlarLoad i0 q => Sys2Proof.Machine.execAshlarLoad i0 q s
  | .ashlarHold i0 q => Sys2Proof.Machine.execAshlarHold i0 q s
  | .contextCreate i0 q => Sys2Proof.Machine.execContextCreate i0 q s
  | .contextDestroy i0 q => Sys2Proof.Machine.execContextDestroy i0 q s
  | .composerSet i0 q => Sys2Proof.Machine.execComposerSet i0 q s
  | .seqSubmit i0 q => Sys2Proof.Machine.execSeqSubmit i0 q s
  | .seqCancel i0 q => Sys2Proof.Machine.execSeqCancel i0 q s
  | .invoke i0 q => Sys2Proof.Machine.execInvoke i0 q s
  | .planRun i0 q => Sys2Proof.Machine.execPlanRun i0 q s
  | .auditRead i0 q => Sys2Proof.Machine.execAuditRead i0 q s
  | .radioAdmit i0 q => Sys2Proof.Machine.execRadioAdmit i0 q s
  | .fapiOpen i0 q => Sys2Proof.Machine.execFapiOpen i0 q s
  | .fapiClose i0 q => Sys2Proof.Machine.execFapiClose i0 q s
  | .timeExchange i0 q => Sys2Proof.Machine.execTimeExchange i0 q s
  | .freeze i0 q => Sys2Proof.Machine.execFreeze i0 q s
  | .thaw i0 q => Sys2Proof.Machine.execThaw i0 q s
  | .dirtyTrack i0 q => Sys2Proof.Machine.execDirtyTrack i0 q s
  | .save i0 q => Sys2Proof.Machine.execSave i0 q s
  | .restore i0 q => Sys2Proof.Machine.execRestore i0 q s
  | .instanceTeardown i0 q => Sys2Proof.Machine.execInstanceTeardown i0 q s
  | .jobRegister i0 q => Sys2Proof.Machine.execJobRegister i0 q s
  | .jobRelease i0 q => Sys2Proof.Machine.execJobRelease i0 q s
  | .exportSet i0 q => Sys2Proof.Machine.execExportSet i0 q s
  | .choiceRead i0 q => Sys2Proof.Machine.execChoiceRead i0 q s
  | .replayToStep i0 q => Sys2Proof.Machine.execReplayToStep i0 q s
  | .errorRead i0 q => Sys2Proof.Machine.execErrorRead i0 q s
  | .fenceUnit i0 q => Sys2Proof.Machine.execFenceUnit i0 q s
  | .unfenceUnit i0 q pass => Sys2Proof.Machine.execUnfenceUnit i0 q pass s
  | .healthSnapshot i0 q => Sys2Proof.Machine.execHealthSnapshot i0 q s
  | .fwStage i0 q => Sys2Proof.Machine.execFwStage i0 q s
  | .fwCommit i0 q ok => Sys2Proof.Machine.execFwCommit i0 q ok s
  | .fwActivate i0 q => Sys2Proof.Machine.execFwActivate i0 q s
  | .fwRecover i0 q => Sys2Proof.Machine.execFwRecover i0 q s
  | .logRead i0 q => Sys2Proof.Machine.execLogRead i0 q s
  | .svnRaise i0 q => Sys2Proof.Machine.execSvnRaise i0 q s
  | .mgtQuery i0 q => Sys2Proof.Machine.execMgtQuery i0 q s
  | .matmul i0 x => Sys2Proof.Machine.execMatmul i0 x s
  | .attention i0 x => Sys2Proof.Machine.execAttention i0 x s
  | .softmax i0 x => Sys2Proof.Machine.execSoftmax i0 x s
  | .rmsnorm i0 x => Sys2Proof.Machine.execRmsnorm i0 x s
  | .layernorm i0 x => Sys2Proof.Machine.execLayernorm i0 x s
  | .elementwise i0 x => Sys2Proof.Machine.execElementwise i0 x s
  | .convert i0 x => Sys2Proof.Machine.execConvert i0 x s
  | .reduceExact i0 x => Sys2Proof.Machine.execReduceExact i0 x s
  | .gatherRows i0 x => Sys2Proof.Machine.execGatherRows i0 x s
  | .gatherFirst i0 x => Sys2Proof.Machine.execGatherFirst i0 x s
  | .moeRoute i0 x => Sys2Proof.Machine.execMoeRoute i0 x s
  | .moeCombine i0 x => Sys2Proof.Machine.execMoeCombine i0 x s
  | .sample i0 x => Sys2Proof.Machine.execSample i0 x s
  | .allreduce i0 x => Sys2Proof.Machine.execAllreduce i0 x s
  | .reduceScatter i0 x => Sys2Proof.Machine.execReduceScatter i0 x s
  | .allgather i0 x blocks => Sys2Proof.Machine.execAllgather i0 x blocks s
  | .alltoall i0 x blocks => Sys2Proof.Machine.execAlltoall i0 x blocks s
  | .planEnd i0 x => Sys2Proof.Machine.execPlanEnd i0 x s
  | .operator i0 x => Sys2Proof.Machine.execOperator i0 x s
  | .streams i0 x => Sys2Proof.Machine.execStreams i0 x s
  | .waitHead i0 x => Sys2Proof.Machine.execWaitHead i0 x s
  | .atomic i0 x => Sys2Proof.Machine.execAtomic i0 x s
  | .release i0 x => Sys2Proof.Machine.execRelease i0 x s
  | .waitValue i0 x => Sys2Proof.Machine.execWaitValue i0 x s
  | .planFence i0 x => Sys2Proof.Machine.execPlanFence i0 x s
  | .timeRead i0 x => Sys2Proof.Machine.execTimeRead i0 x s
  | .trnLinkLoss port => Sys2Proof.Machine.execTrnLinkLoss port s
  | .msixUnmask i0 vector => Sys2Proof.Machine.execMsixUnmask i0 vector s
  | .mgtSramUncorrectable core imageOk hit => Sys2Proof.Machine.execMgtSramUncorrectable core imageOk s hit
  | .ldpcEncode job => Sys2Proof.Machine.execLdpcEncode job s
  | .polarJob job => Sys2Proof.Machine.execPolarJob job s
  | .transformJob job => Sys2Proof.Machine.execTransformJob job s

end Sys2Proof.Machine
end

