-- ==== Sys2Proof/Machine/Step.lean ====
section
/-!
DEFINITION. A step: the command at the front of the queue, or one cycle of the time unit when no command waits (log entry 2).
-/

namespace Sys2Proof.Machine

/-- A nanosecond with no command (R333, R334; log entry 2): the time bases and the domain clocks advance, and the home agents serve the
requests that wait on their lines. -/
def clockTick (st : State) : Res := onDev st (fun d => drainLines (timeTick d))

/-- One step: the command at the front of the queue acts with the queue's rest; an empty queue lets time pass. -/
def step (s : State) : Host.Outcome State Fault Refusal :=
  match s.pending with
  | [] => clockTick s
  | c :: rest => exec c { s with pending := rest }

/-- The command that a word spells is put in front of the queue: no row of the opcode table gives bits, so no word spells one (log
entry 3). -/
def State.withFetchWord (s : State) (nbits w : Nat) : State :=
  match Sys2Proof.decodeTableWord nbits w with
  | none => s
  | some c => { s with pending := c :: s.pending }

end Sys2Proof.Machine
end

