-- ==== Sys2Proof/WellFormed.lean ====
section
/-!
DEFINITION. Which operands a command can have: those that fit the fields of the packets, headers and descriptors the spec lays out. `exec`
gives every command a meaning, well-formed or not.
-/

namespace Sys2Proof

/-- Whether a number fits in `w` bits. -/
def fits (w n : Nat) : Bool := decide (n < 2 ^ w)

/-- The fields of a request header and its operands fit their widths (R304, R306). -/
def TrnReq.wf (r : TrnReq) : Bool :=
  fits 2 r.cls && fits 16 r.dst && fits 16 r.src && fits 16 r.age && fits 12 r.tag && fits 20 r.job && fits 32 r.epoch && fits 32 r.seq
    && fits 48 r.addr && fits 11 r.sctx && fits 16 r.via && fits 64 r.a && fits 64 r.b && fits 128 r.mask

/-- The bytes of data that a request carries by its `OP` (R306): 128 with WR and FFADD, 80 with EXADD. -/
def reqBytes (op : Nat) : Nat := if op = 0x02 ∨ op = 0x0B then 128 else if op = 0x0A then 80 else 0

/-- A request packet with an `OP` is well-formed (R304, R306). -/
def TrnReq.wfOp (op : Nat) (r : TrnReq) : Bool := r.wf && decide (r.data.length = reqBytes op)

/-- The fields of a reply header fit their widths, and an RD_DATA carries a line (R305, R306). -/
def TrnRsp.wfOp (op : Nat) (r : TrnRsp) : Bool :=
  fits 16 r.dst && fits 16 r.src && fits 16 r.age && fits 16 r.status && fits 12 r.tag && fits 16 r.via && fits 64 r.value
    && decide (r.data.length = if op = 0x81 then 128 else 0)

/-- A packet of a gateway block is well-formed. -/
def TrnPkt.wf : TrnPkt → Bool
  | .req op r => r.wfOp op
  | .rsp op r => r.wfOp op

/-- A flit has its 256 bytes, and at most four lanes carried it (R295, R299). -/
def Flit.wf (f : Flit) : Bool := decide (f.raw.length = 256) && decide (f.laneSym.length ≤ 4)

/-- An error pattern of a half-line names symbols of its word and values that change them (R248). -/
def errWf (err : List (Nat × Nat)) : Bool := err.all (fun e => decide (e.1 < 68) && decide (1 ≤ e.2 ∧ e.2 < 256))

/-- The fields of an engine command fit their widths; its payload is at most 4,096 bytes in multiples of 8, its arguments 24 bytes (R234).
Its `OPCODE` is the one of its row, or one that is reserved (R235). -/
def EngCmd.wf (code : Nat) (x : EngCmd) : Bool :=
  fits 8 x.opcode && (x.opcode == code || x.opcode == 0 || decide (9 < x.opcode))
    && x.errs.all (fun e => decide (e.1 < 2 ^ 39) && decide (e.1 % 64 = 0) && errWf e.2) && fits 8 x.cls && fits 8 x.inst && fits 8 x.ctx && decide (x.payload.length ≤ 4096) && decide (x.payload.length % 8 = 0) && fits 32 x.tag
    && fits 64 x.src && fits 64 x.dst && fits 64 x.aux && decide (x.args.length = 24)

/-- A PTP message carries a byte of domain number, a clock identity, a port number and a sequence number (R338). -/
def PtpMsg.wf (m : PtpMsg) : Bool := fits 8 m.domain && fits 64 m.ident && fits 16 m.num && fits 16 m.seq

/-- The fields of an Announce message fit their widths (R340). -/
def PtpAnnounce.wf (m : PtpAnnounce) : Bool :=
  fits 64 m.ident && fits 16 m.num && fits 8 m.cls && fits 8 m.acc && fits 16 m.var && fits 8 m.prio2 && fits 64 m.gm && fits 16 m.steps

/-- An uplink message: a MAC address, a VLAN identifier, an eAxC identifier, a sequence ID and E bit, a time within a cycle of SFNs and
a mantissa width of at most 16 bits (R181-R183, R189). -/
def UplaneMsg.wf (m : UplaneMsg) : Bool :=
  fits 48 m.mac && fits 12 m.vlan && fits 16 m.eaxc && fits 16 m.seq && fits 4 m.rev && fits 8 m.mtype && fits 7 m.subseq && fits 10 m.sfn && decide (m.slot < 80) && decide (m.sym < 14)
    && decide (1 ≤ m.width ∧ m.width ≤ 16)

/-- An accessor names an instance and a context that the device can have (R219, R403). -/
def Who.wf : Who → Bool
  | .ctx i c => decide (i < 65) && decide (c ≤ 16)
  | _ => true

/-- A range of bytes lies in a core store's twin-access region (R90). -/
def twinRange (a n : Nat) : Bool := decide (a + n ≤ 0x80000)

/-- The ranges of an accelerator's job lie in the twin-access region of a core that can exist. -/
def AccelJob.wf (j : AccelJob) : Bool := decide (j.unit < 44) && decide (j.core < 96) && twinRange j.src j.len && twinRange j.dst j.outLen

/-- A PRACH occasion names a preamble detector, a carrier, a core, and a time within a cycle of SFNs (R158). -/
def PrachJob.wf (j : PrachJob) : Bool :=
  decide (j.unit < 8) && decide (j.carrier < 512) && decide (j.core < 96) && fits 10 j.sfn && decide (j.slot < 80)

/-- Whether a command can occur as written. -/
def Instr.wf : Instr → Bool
  | .arrStop _ stopAt _ _ => decide (stopAt ≤ 3)
  | .coreStoreScrubRead _ _ outcome => decide (outcome ≤ 2)
  | .mortarScrubRead _ outcome => decide (outcome ≤ 2)
  | .taskRelease t _ _ => decide (t.carrier < 512)
  | .taskStart _ code _ _ at_ => decide (code.length ≤ 2048) && twinRange at_ 0
  | .preambleDetect j => j.wf
  | .ldpcEncode j => j.wf
  | .polarJob j => j.wf
  | .transformJob j => j.wf
  | .uplaneReceive _ msg => msg.wf
  | .sync _ m => m.wf
  | .followUp _ m => m.wf
  | .delayResp _ m => m.wf
  | .announce _ domain m => fits 8 domain && m.wf
  | .pierWrite who _ _ half _ => who.wf && decide (half.data.length = 64) && errWf half.err
  | .attend _ x => x.wf 0x01
  | .pierRead who _ err => who.wf && errWf err
  | .pierScrubRead _ err => errWf err
  | .gather _ x _ => x.wf 0x02
  | .dequant _ x => x.wf 0x03
  | .copy _ x => x.wf 0x04
  | .move _ x => x.wf 0x05
  | .crc64 _ x => x.wf 0x06
  | .harqCombine _ x _ => x.wf 0x07
  | .fill _ x => x.wf 0x08
  | .dirtyScan _ x => x.wf 0x09
  | .flashCodewordRead _ _ _ cw l => decide (cw < 16) && l.all (· < 9216)
  | .flashRetry _ _ _ cw m l h => decide (cw < 16) && m.all (· < 9216) && l.all (· < 9216) && h.all (· < 9216)
  | .softWaitExpiry _ _ _ cw => decide (cw < 16)
  | .flitReceive _ f => f.wf
  | .flitNak _ seq => fits 12 seq
  | .rd _ r => r.wfOp 0x01
  | .wr _ r => r.wfOp 0x02
  | .fadd _ r => r.wfOp 0x03
  | .cas _ r => r.wfOp 0x04
  | .minS _ r => r.wfOp 0x05
  | .maxS _ r => r.wfOp 0x06
  | .minU _ r => r.wfOp 0x07
  | .maxU _ r => r.wfOp 0x08
  | .orOp _ r => r.wfOp 0x09
  | .exadd _ r => r.wfOp 0x0A
  | .ffadd _ r => r.wfOp 0x0B
  | .relSt _ r => r.wfOp 0x0C
  | .relAdd _ r => r.wfOp 0x0D
  | .blkReq _ near _ seq pkts => fits 16 near && fits 32 seq && pkts.all TrnPkt.wf
  | .blkRsp _ near _ seq pkts => fits 16 near && fits 32 seq && pkts.all TrnPkt.wf
  | .rdData _ r => r.wfOp 0x81
  | .done _ r => r.wfOp 0x82
  | .accept _ r => r.wfOp 0x83
  | .atom _ r => r.wfOp 0x84
  | .nack _ r => r.wfOp 0x85
  | .msixUnmask i vector => decide (vector < if i.val = 0 then 2048 else 64)
  | .linkStateChange width rate _ => decide (width.val ∈ [1, 2, 4, 8]) && decide (1 ≤ rate.val ∧ rate.val ≤ 6)
  | _ => true

end Sys2Proof
end

