-- ==== Sys2Proof/Safety.lean ====
section
/-!
DEFINITION. What counts as a safe state, and the conditions under which a command acts, in the terms the statements use.
-/

namespace Sys2Proof

open Machine

/-- The device works: PERST_N is high and no device-fatal error is in force (R436, R487). -/
abbrev Runs (s : State) : Prop := s.perstN = true ∧ alive s.dev = true

/-- The state with its device replaced: the queue and PERST_N stay. -/
abbrev withDev (s : State) (d : Dev) : State := { s with dev := d }

/-- A fetched command of an opcode starts on ring `q` of instance `i` (R386, R404): `c` is the command, `d` the device with `c`
among the ring's running commands, and none of the common checks refuses it. -/
abbrev Starts (s : State) (i q op : Nat) (c : Cmd) (d : Dev) : Prop :=
  Runs s ∧ takeCmd s.dev i q op = some (c, d) ∧ cmdErr d i q c = none

/-- The device as a fundamental reset holds it (R487, R489): every register at its reset value (but for the fused register), every
unit at its reset state, no error in force, FATAL_N and THERMTRIP_N released, memory empty but for card flash. -/
structure Held (d : Dev) : Prop where
  regs   : d.regs = resetRegs (getReg d regSecFuse)
  act    : d.act = d.regs
  mem    : ∀ c ∈ d.mem, flashBase ≤ c.1 ∧ c.1 < hostBase
  poison : ∀ b ∈ d.poison, flashBase ≤ b ∧ b < hostBase
  pins   : d.env.fatalN = true ∧ d.env.thermtripN = true
  life   : d.env.fatal = none ∧ d.env.boot = 0 ∧ d.env.linkDown = true ∧ d.env.numVfs = 0
  tbs    : d.tbs = [{}, {}, {}, {}]
  cores  : d.cores = [] ∧ d.strms = [] ∧ d.arrs = [] ∧ d.sigs = []
  shares : d.shares = [] ∧ d.reruns = [] ∧ d.unput = []
  owners : d.mortar = [] ∧ d.keyOwn = [] ∧ d.jobs = []
  units  : d.pier = {} ∧ d.trn = {} ∧ d.tier = {} ∧ d.sp = {}
  works  : d.insts = [] ∧ d.ctxs = [] ∧ d.rings = []
  health : d.flt = {} ∧ d.heat = {} ∧ d.tst = {} ∧ d.time = {}

/-- A signal datapath whose numbers are of their formats (R124, R130): int16 samples, 40-bit accumulators, MW from 8 to 14, SH up to 24,
exponents of four bits, and address registers inside the twin-access region. -/
structure SigOk (s : SigSt) : Prop where
  x   : ∀ n, -32768 ≤ (tget {} s.x n).i ∧ (tget {} s.x n).i ≤ 32767 ∧ -32768 ≤ (tget {} s.x n).q ∧ (tget {} s.x n).q ≤ 32767
  acc : ∀ n, -(2 ^ 39) ≤ (tget {} s.acc n).i ∧ (tget {} s.acc n).i < 2 ^ 39 ∧ -(2 ^ 39) ≤ (tget {} s.acc n).q ∧ (tget {} s.acc n).q < 2 ^ 39
  mw  : 8 ≤ s.mw ∧ s.mw ≤ 14
  sh  : s.sh ≤ 24
  be  : ∀ e ∈ s.be, e < 16
  ar  : ∀ a, (tget {} s.ar a).base < 0x80000 ∧ (tget {} s.ar a).off < 0x80000 ∧ (tget {} s.ar a).len ≤ 0x80000

/-- The signal commands of a core that neither start nor end a task. -/
def signalOps (c : Fin 96) (fixed : Bool) : List Instr :=
  [.snop c fixed, .cmac c fixed, .cmul c fixed, .cadd c fixed, .csub c fixed, .cnco c fixed, .srnd c fixed, .snorm c fixed, .sexp c fixed,
   .sbfpc c fixed, .sbfpx c fixed, .sset c fixed, .sacs c fixed, .sacl c fixed, .sloop c, .sjmp c, .sret c, .sstl c fixed, .sldl c fixed,
   .ssta c fixed, .slda c fixed, .sigIrq c, .taskInterruptEntry c]

/-- A register whose writes only change its own fields: no write-only field, and no field whose change is an operation of a row of its
own (CORE_STRM_ENABLE, CARRIER_ENABLE, FLASH_SHARE, TRN_ENABLE, GW_EN, DOM_EN, RING_ENABLE, an Ethernet layout, an event input) or waits
for a slot boundary of the planner. -/
def plainReg (r : RegDesc) : Bool :=
  r.flds.all (fun x => x.acc != .wo) && !([regCoreStrmCfg 0 0, regRadioCarCtrl 0, regRadioDarner, regFhuGrpCfg 0, regTrnPortCtrl 0, regTrnGw,
    regTimeSel, regTimeTciCtrl 0, regTimeSpLend, regTstBist, regTstLbCtrl, regMbxRingCfg 0 0].contains r.base)

/-- Whether bit `b` of a register lies in a field with a property. -/
def bitIn (r : RegDesc) (f : FldDesc → Bool) (b : Nat) : Bool := r.flds.any (fun x => f x && (decide (x.lo ≤ b) && decide (b < x.lo + x.w)))

/-- The commands of the time unit but the loss of the reference clock, with any operands. -/
inductive TimeOp : Instr → Prop where
  | sync (p : Fin 32) (m : PtpMsg) : TimeOp (.sync p m)
  | followUp (p : Fin 32) (m : PtpMsg) : TimeOp (.followUp p m)
  | delayResp (p : Fin 32) (m : PtpMsg) : TimeOp (.delayResp p m)
  | announce (p : Fin 32) (n : Nat) (m : PtpAnnounce) : TimeOp (.announce p n m)
  | delayReqSend (k : Fin 2) : TimeOp (.delayReqSend k)
  | foreignMasterTimeout (k : Fin 2) (p : Fin 32) (ident num : Nat) : TimeOp (.foreignMasterTimeout k p ident num)
  | servoUpdate (k : Fin 2) : TimeOp (.servoUpdate k)
  | domainLossTimeout (k : Fin 2) : TimeOp (.domainLossTimeout k)
  | synceStateChange (locked : Bool) (f : Int) : TimeOp (.synceStateChange locked f)
  | domEn (m : Fin 4) : TimeOp (.domEn m)
  | timeSet (v : Word) : TimeOp (.timeSet v)
  | tbRead (n : Fin 4) : TimeOp (.tbRead n)
  | arm (n : Fin 8) : TimeOp (.arm n)
  | disarm (n : Fin 8) : TimeOp (.disarm n)
  | tpoPulse (n : Fin 8) : TimeOp (.tpoPulse n)
  | tciEdge (n : Fin 8) (r : Bool) : TimeOp (.tciEdge n r)
  | tciRead (n : Fin 8) : TimeOp (.tciRead n)

/-- The commands of the piers and their engines, with any operands. -/
inductive PierOp : Instr → Prop where
  | pierRead (w : Who) (l : Fin 8589934592) (err : List (Nat × Nat)) : PierOp (.pierRead w l err)
  | pierWrite (w : Who) (l : Fin 8589934592) (m : Word) (h : HalfWrite) (p : Bool) : PierOp (.pierWrite w l m h p)
  | refreshDue (p : Fin 8) (ch : Fin 32) (bank : Fin 65536) (pending : Bool) : PierOp (.refreshDue p ch bank pending)
  | rowSpare (p : Fin 8) (ch : Fin 32) (row : Nat) : PierOp (.rowSpare p ch row)
  | pierSpare (p : Fin 8) (ch : Fin 32) : PierOp (.pierSpare p ch)
  | channelSpareComplete (p : Fin 8) : PierOp (.channelSpareComplete p)
  | pierRetrain (p : Fin 8) (ch : Fin 32) : PierOp (.pierRetrain p ch)
  | gather (p : Fin 8) (x : EngCmd) (rows : Bool) : PierOp (.gather p x rows)
  | dequant (p : Fin 8) (x : EngCmd) : PierOp (.dequant p x)
  | copy (p : Fin 8) (x : EngCmd) : PierOp (.copy p x)
  | move (p : Fin 8) (x : EngCmd) : PierOp (.move p x)
  | crc64 (p : Fin 8) (x : EngCmd) : PierOp (.crc64 p x)
  | fill (p : Fin 8) (x : EngCmd) : PierOp (.fill p x)
  | dirtyScan (p : Fin 8) (x : EngCmd) : PierOp (.dirtyScan p x)

/-- A request of an operation that the device's home agents serve (R293, R297, R306, R315, R321, R326): its port is live, its source is not
fenced, it is not aged, it is for this device, aligned, without a host-window fault, and an export entry allows it. -/
abbrev HomeServes (d : Dev) (p : Fin 8) (op : Nat) (r : TrnReq) : Prop :=
  portLive d p = true ∧ fenceDrops d r.src r.epoch = false ∧ r.age < maxAge ∧ r.dst = ownEndpoint d ∧ opAligned op r.addr = true ∧
    r.hostFault = false ∧ homeRefusal d op r = none

/-- A write-type request that its home applies at once (R313, R317, R318): no entry of the reply cache, room there, and an idle line. -/
abbrev HomeApplies (d : Dev) (p : Fin 8) (op : Nat) (r : TrnReq) : Prop :=
  HomeServes d p op r ∧ tget? d.trn.cache (cacheKey r) = none ∧ cacheUsed d (treanHash r.addr) < 65536 ∧
    (tget {} d.trn.lines (r.addr / 128)).waiting = [] ∧ (tget {} d.trn.lines (r.addr / 128)).until_ ≤ tb2 d

/-- A reply of an operation that reaches the request of this device that it answers (R297, R305, R315, R326). -/
abbrev Answers (d : Dev) (p : Fin 8) (r : TrnRsp) (o : OutReq) : Prop :=
  portLive d p = true ∧ (tget (false, 0) d.trn.fence r.src).1 = false ∧ r.age < maxAge ∧ r.dst = ownEndpoint d ∧
    tget? d.trn.reqs r.tag = some o ∧ o.held = false ∧ o.pkt.dst = r.src

/-- A block of a near gateway that a gateway takes now: of the pod's epoch, next in sequence, none of its channel waiting (R323, R326). -/
abbrev BlockNext (d : Dev) (p : Fin 8) (near epoch chan seq : Nat) : Prop :=
  portLive d p = true ∧ isGateway d = true ∧ fenceDrops d near epoch = false ∧ seq = tget 0 d.trn.gwSeen (gwKey near chan) ∧ seq < 2 ^ 32 ∧
    d.trn.gwEarly = []

/-- The port that a Trean port command acts on; the flits and replies, which can fence the whole device, apart. -/
inductive PortOp (p : Fin 8) : Instr → Prop where
  | detect : PortOp p (.trnSignalDetect p)
  | ability (a : Ability) : PortOp p (.trnAbilityDone p a)
  | timeout : PortOp p (.trnAbilityTimeout p)
  | train (ok : Bool) : PortOp p (.trnTrainDone p ok)
  | init : PortOp p (.trnInitDone p)
  | enable (on : Bool) : PortOp p (.trnEnable p on)
  | retrain : PortOp p (.trnRetrain p)
  | recal (l : Fin 4) (done : Bool) : PortOp p (.trnRecal p l done)
  | loss : PortOp p (.trnLinkLoss p)
  | nak (seq : Nat) : PortOp p (.flitNak p seq)
  | age : PortOp p (.ageExpiry p)

/-- While PERST_N is low the device is held in fundamental reset (R487). -/
def Inv (s : State) : Prop := s.perstN = false → Held s.dev

end Sys2Proof
end

