-- ==== Sys2Proof/Certificates/Slice0/Obligations.lean ====
section
/-!
DEFINITION. The statements for the provers.
-/

open Sys2Proof Sys2Proof.Machine

/-- A step takes the command at the front of the queue and runs it with the queue's rest; on an empty queue time passes (log entry 2). -/
def Obligations.StepRunsFront : Prop :=
  (∀ (c : Instr) (rest : List Instr) (s : State), step { s with pending := c :: rest } = exec c { s with pending := rest }) ∧
  (∀ s : State, s.pending = [] → Runs s → step s = .next { s with dev := drainLines (timeTick s.dev) }) ∧
  (∀ s : State, s.pending = [] → ¬ Runs s → step s = .next s)

/-- No command stops the block or touches the queue; PERST_N changes by its own two rows alone. -/
def Obligations.QueueKept : Prop :=
  ∀ (c : Instr) (s : State), ∃ t, exec c s = .next t ∧ t.pending = s.pending ∧
    (c ≠ .perstNRise → c ≠ .perstNFall → t.perstN = s.perstN)

/-- With PERST_N low the device is held in fundamental reset, and every step keeps it so. -/
def Obligations.HeldInReset : Prop := ∀ s t : State, Inv s → step s = .next t → Inv t

/-- The state right after reset: boot stage 0, instance 0 bare, no virtual function (R391, R455). -/
def Obligations.ResetHeld : Prop :=
  Inv State.reset ∧ Held State.reset.dev ∧ State.reset.pending = [] ∧ State.reset.perstN = true ∧
  fget State.reset.dev regMgtBoot fldMgtBootStage = 0 ∧ instState State.reset.dev 0 = 1 ∧
  (∀ i, 1 ≤ i → i < 65 → instState State.reset.dev i = 0) ∧ ∀ a, memGet State.reset.dev.mem a = 0

/-- A device-fatal error leaves nothing working, and only PERST_N_FALL clears it. -/
def Obligations.FatalFreezes : Prop :=
  ∀ s : State, s.perstN = true → alive s.dev = false →
    (∀ c : Instr, c ≠ .perstNFall → (∀ i off n, c ≠ .bar2Read i off n) → exec c s = .next s) ∧
    (∀ i off n, exec (.bar2Read i off n) s = .next { s with dev := emit s.dev (.cplData true false []) }) ∧
    (∃ t, exec .perstNFall s = .next t ∧ t.perstN = false ∧ t.dev.env.fatal = none ∧ t.dev.env.fatalN = true)

/-- PERST_N holds the device in reset while low (R487). -/
def Obligations.ResetPin : Prop :=
  (∀ s : State, s.perstN = true → ∃ t, exec .perstNFall s = .next t ∧ t.perstN = false ∧ Held t.dev ∧
    t.dev.hmem = s.dev.hmem ∧ t.dev.env.serial = s.dev.env.serial ∧ t.dev.env.cores = s.dev.env.cores ∧
    getReg t.dev regSecFuse = getReg s.dev regSecFuse ∧ t.dev.mgt.pages = s.dev.mgt.pages ∧ t.dev.mgt.flash = s.dev.mgt.flash ∧
    (∀ c : Host.Cell, flashBase ≤ c.1 → c.1 < hostBase → (c ∈ t.dev.mem ↔ c ∈ s.dev.mem))) ∧
  (∀ (c : Instr) (s : State), s.perstN = false → c ≠ .perstNRise → exec c s = .next s) ∧
  (∀ s : State, s.perstN = false → ∃ t, exec .perstNRise s = .next t ∧ t.perstN = true ∧ t.dev.regs = s.dev.regs ∧
    t.dev.mgt.boots = s.dev.mgt.boots + 1 ∧ t.dev.env = s.dev.env)

/-- GO, GO with RESUME, GO on a busy array, and the start of the queued invocation (R85, R90). -/
def Obligations.ArrayStarts : Prop :=
  ∀ (s : State) (a : Fin 388), Runs s → arrOn s.dev a = true →
    let r := newRun s.dev a (getReg s.dev (regArrDescBase a))
    let key := arrIsKey a
    let who := arrWho r.cls r.inst r.ctx
    let d1 := forceRun s.dev a r
    let d2 := setArr (setArr d1 a fldArrStatusFault 0) a fldArrStatusSaved 0
    let e := arrDesc a r.desc
    let r2 := { r with acc := groupAcc d2 e key 0, active := none, back := some (loadTile d2 e key 0), since := tb2 d2 }
    ((arrSt s.dev a).run = none → (arrSt s.dev a).queued = none → submitErr d2 a r = none → arrAccess d2 e key who = none →
      exec (.arrGo a) s = .next (withDev s (islandWork (showPos (setArr
        (modArr (showAcc d2 e key r2 0) a (fun x => { x with run := some r2 })) a fldArrStatusBusy 1) a r2) (arrIsland a)))) ∧
    (∀ r3, (arrSt s.dev a).run = none → (arrSt s.dev a).queued = none →
      loadSave d2 a { r with from_ := some r.save } r.save = some r3 →
      arrAccess d2 (arrDesc a r3.desc) key (arrWho r3.cls r3.inst r3.ctx) = none →
      exec (.arrResume a) s = .next (withDev s (islandWork (showPos (setArr
        (modArr d2 a (fun x => { x with run := some { r3 with since := tb2 d2 } })) a fldArrStatusBusy 1) a r3) (arrIsland a)))) ∧
    ((arrSt s.dev a).run.isSome → (arrSt s.dev a).queued = none → submitErr s.dev a r = none →
      exec (.arrGo a) s = .next (withDev s (setArr (modArr s.dev a (fun x => { x with queued := some r })) a fldArrStatusQueued 1))) ∧
    (∀ r4, (arrSt s.dev a).queued = some r4 → exec (.arrQueuedStart a) s = .next (withDev s (
      let d := setArr (modArr (arrComplete s.dev a) a (fun x => { x with queued := none })) a fldArrStatusQueued 0
      beginRun (forceRun d a r4) a r4)))

/-- What swaps, completions, stops and lost state do to a running invocation (R65, R82, R88). -/
def Obligations.ArrayRuns : Prop :=
  ∀ (s : State) (a : Fin 388) (r : ArrRun), Runs s → (arrSt s.dev a).run = some r →
    let key := arrIsKey a
    let e := arrDesc a r.desc
    (∀ fixed : Bool,
      let d0 := arrCorrected s.dev a fixed
      (r.active = none → allEntered e key r = false →
        exec (.arrSwap a fixed) s = .next (withDev s (keepRun d0 a (swapTile d0 e key r)))) ∧
      (let p := slotsWhile a e (fun x => x.group == r.group && x.dtile == r.dtile) (5 * groupCols key) d0 r
       r.active.isSome → p.2.bad = false → exec (.arrSwap a fixed) s = .next (withDev s (keepRun p.1 a p.2))) ∧
      (let p := slotsWhile a e (fun _ => true) (slotBound e key) d0 r
       let w := writeGroup p.1 e key (foldWindows p.2) (e.groups key - 1)
       p.2.bad = false → w.2.poison = false →
        exec (.arrInvocationComplete a fixed) s = .next (withDev s (placeWork (endRun (showPos w.1 a w.2) a 0))))) ∧
    (∀ columns : Nat,
     let d1 := fset s.dev (regArrCtrl a) fldArrCtrlStopAt 0
     let p := slotsWhile a e (fun _ => true) columns d1 r
     let r1 := if chunkGoesOn e key p.2 then scanChunk p.1 e key p.2 else foldWindows p.2
     let r2 := { r1 with step := (ctxSt p.1 r1.inst r1.ctx).step }
     let d2 := setArr (modArr (showPos p.1 a r2) a (fun x => { x with queued := none })) a fldArrStatusQueued 0
     let d3 := showAcc d2 e key r2 r2.group
     fget d1 (regArrStatus a) fldArrStatusStopping ≠ 1 → e.cls ≠ 3 → p.2.bad = false → allEntered e key p.2 = false →
      fget (writeSave d3 a r2) (regArrStatus a) fldArrStatusFault ≠ 1 →
      exec (.arrStop a 0 columns 0) s = .next (withDev s (placeWork (writeSave d3 a r2)))) ∧
    exec (.arrStateLost a) s = .next (withDev s (noteStateLost
      (setArr (arrFail (endRun s.dev a 0x4205) a r.inst r.ctx r.cls 0x4205 r.addr) a fldArrStatusFault 1) (arrUnit a)))

/-- A commit applies every shadowed field of a core; a second one without a write between does nothing (R10, R123). -/
def Obligations.CoreCommits : Prop :=
  ∀ (s : State) (c : Fin 96), Runs s → coreOn s.dev c = true →
    (s.dev.unput.contains c.val = false → exec (.coreCommit c) s = .next s) ∧
    (s.dev.unput.contains c.val = true → ∃ t, exec (.coreCommit c) s = .next t ∧ (belowFloor s.dev c = false →
      let v := getReg s.dev (regCoreCtx c)
      let cls := bitsAt v fldCoreCtxWorkClass.lo fldCoreCtxWorkClass.w
      let i := bitsAt v fldCoreCtxInstance.lo fldCoreCtxInstance.w
      let x := bitsAt v fldCoreCtxContext.lo fldCoreCtxContext.w
      let live := (ctxSt s.dev i x).live
      getAct t.dev (regCoreSaveBase c) = getReg s.dev (regCoreSaveBase c) ∧
      getAct t.dev (regCoreCtx c) = (if live ∧ ¬ (cls = 0 ∧ slotHeld s.dev c) then ((ctxSt s.dev i x).cls * 2048 + i * 16 + x) % 2 ^ 64 else v) ∧
      (∀ n : Fin 16, getAct t.dev (regCoreStrmDesc c n) = getReg s.dev (regCoreStrmDesc c n)) ∧
      (∀ k, (∀ n : Fin 16, k ≠ regCoreStrmPtr c n) → k ≠ regCoreStatus c → getReg t.dev k = getReg s.dev k) ∧
      t.dev.mem = s.dev.mem ∧ t.dev.poison = s.dev.poison ∧ t.dev.ctxs = s.dev.ctxs ∧ t.dev.flt = s.dev.flt ∧ t.dev.strms = s.dev.strms ∧
      (∀ k, k ≠ c.val → coreSt t.dev k = coreSt s.dev k) ∧
      coreState t.dev c = (if coreState s.dev c = 0 ∧ live then 1 else coreState s.dev c)))

/-- Stops, saves and restores of a core (R115 to R122). -/
def Obligations.CoreStops : Prop :=
  ∀ (s : State) (c : Fin 96), Runs s →
    let lost := fun (err : Nat) (d : Dev) => placeWork (if err = 2 then noteStateLost d c else d)
    (∀ (i x ns err : Nat), (coreSt s.dev c).borrowed = some (i, x) → coreState s.dev c ≠ 3 →
      let d1 := saveCore s.dev c i x 0 err
      let d2 := fset d1 (regCoreStatus c) fldCoreStatusLent 0
      let d2 := if (ctxSt d2 i x).away.contains c.val then fset d2 (regCoreStatus c) fldCoreStatusLentSaved 1 else d2
      let d3 := fsat (modCore (setCoreState d2 c 0) c (fun t => { t with borrowed := none })) regTimeSpCount fldTimeSpCountReclaims 1
      let d4 := fset d3 regTimeSpReclaimMax fldTimeSpReclaimMaxReclaimMax
        (max (fget d3 regTimeSpReclaimMax fldTimeSpReclaimMaxReclaimMax) (min ns 65535))
      exec (.reclaim c ns err) s = .next (withDev s (lost err (if (ctxSt d4 i x).away.contains c.val then
        { d4 with sp := { d4.sp with saved := d4.sp.saved ++ [(c.val, i, x)] } } else d4)))) ∧
    (∀ ns err : Nat, coreState s.dev c = 3 → exec (.reclaim c ns err) s = .next (withDev s (placeWork (setCoreState (modCore s.dev c
      (fun k => { watch := k.watch, scrubBad := k.scrubBad, scrubAt := k.scrubAt })) c 0)))) ∧
    ((coreSt s.dev c).borrowed = none → coreState s.dev c = 1 ∨ coreState s.dev c = 2 → coreFenced s.dev c = false → ∀ err : Nat,
      exec (.preempt c false err) s = .next (withDev s (placeWork (setCoreState s.dev c 2))) ∧
      exec (.preempt c true err) s = .next (withDev s (lost err (setCoreState (modCore
        (saveCore s.dev c (coreCtx s.dev c).2.1 (coreCtx s.dev c).2.2 1 err) c (fun k => { k with borrowed := none })) c 0)))) ∧
    (let base := getAct s.dev (regCoreSaveBase c)
     let si := devNat s.dev (base + 4) 4 / 16 % 128
     let sx := devNat s.dev (base + 4) 4 % 16
     let d1 := modCore s.dev c (fun k => { savedRegs s.dev base with watch := k.watch, scrubBad := k.scrubBad, scrubAt := k.scrubAt })
     let d2 := modCore d1 c (fun k => { k with borrowed := none })
     let d3 := { d2 with sp := { d2.sp with saved := d2.sp.saved.filter (fun p => p.2 != (si, sx)) } }
     let d4 := (List.range 16).foldl (restoreStream base c si sx (savedStreams d3 si sx c base)) (startCore (ctxBack d3 si sx c base) c)
     coreOn s.dev c = true → coreState s.dev c = 0 ∨ coreState s.dev c = 3 → coreFenced s.dev c = false →
     fget d1 (regCorePart c) fldCorePartSlotReserved ≠ 1 →
     accessErr s.dev (.ctx (coreCtx s.dev c).2.1 (coreCtx s.dev c).2.2) false base 16384 = none → isPoisoned s.dev base 64 = false →
     devNat s.dev base 2 = 0x0101 → devNat s.dev (base + 2) 1 = 1 →
      exec (.coreRestore c false) s = .next (withDev s (setCoreState d1 c 3)) ∧
      exec (.coreRestore c true) s = .next (withDev s ((List.range 4).foldl (restoreBrick base c ((coreCtx s.dev c).1 * 2048 + si * 16 + sx)) d4))) ∧
    ((coreSt s.dev c).borrowed = none → coreOn s.dev c = true →
      exec (.coreStateLost c) s = .next (withDev s
        (noteStateLost (endCtx s.dev (coreCtx s.dev c).2.1 (coreCtx s.dev c).2.2 0x410C 0 c) c)))

/-- The delivery of a descriptor's only element by each kind (R100 to R105). -/
def Obligations.StreamsRun : Prop :=
  ∀ (st : State) (c : Fin 96) (s : Fin 16), Runs st → strmRuns st.dev c s = true →
    let e := parseDesc (devRead st.dev (storeAddr c (descOff st.dev c s)) 128)
    let d0 := setStrmState st.dev c s 2
    let ended := fun (d : Dev) =>
      let d3 := noteDelivery (modStrm d c s (fun t => { t with left := 1 })) c s e
      endDesc d3 c s e (strmSt d3 c s).failing
    descValid st.dev c s e = true → strmGuard st.dev c s e = none → e.pstate = 0 → e.counts = [1, 1, 1, 1] → (strmSt st.dev c s).left = 0 →
    (strmSt st.dev c s).failing = 0 →
    (∀ d1 bs p d2, fetchElem d0 c s e 0 none = .data d1 bs p → putElem d1 c s e 0 none bs p = .ok d2 →
      (e.kind = 0 → exec (.streamCopy c s) st = .next (withDev st (ended (releaseSource d2 c s e 0 none)))) ∧
      (e.kind = 3 → exec (.streamFill c s) st = .next (withDev st (ended (releaseSource d2 c s e 0 none))))) ∧
    (∀ x d1 bs p d2, readIndex d0 c e.idx = some (x, false) → x < e.limit →
      (e.kind = 1 → fetchElem d0 c s e 0 (some x) = .data d1 bs p → putElem d1 c s e 0 none bs p = .ok d2 →
        exec (.streamGather c s) st = .next (withDev st (ended (advanceHead (releaseSource d2 c s e 0 (some x)) c e.idx 4)))) ∧
      (e.kind = 2 → fetchElem d0 c s e 0 none = .data d1 bs p → putElem d1 c s e 0 (some x) bs p = .ok d2 →
        exec (.streamScatter c s) st = .next (withDev st (ended (advanceHead (releaseSource d2 c s e 0 none) c e.idx 4)))))

/-- What reaches a stream from outside (R96, R99, R106 to R109, R112 to R114). -/
def Obligations.StreamEvents : Prop :=
  ∀ (st : State) (c : Fin 96) (s : Fin 16), Runs st →
    let d := st.dev
    let t := strmSt d c s
    let e := parseDesc (devRead d (storeAddr c (descOff d c s)) 128)
    (∀ v : Word, coreOn d c = true → strmState d c s = 0 ∨ strmState d c s = 1 ∨ strmState d c s = 6 ∨ strmState d c s = 7 →
      bitOf v.toNat 0 = true → strmCfgOk v.toNat ((coreCtx d c).1 == 0) = true → ((coreCtx d c).1 = 0 → slotHeld d c = true) →
      let d1 := commitReg (setReg d (regCoreStrmCfg c s) v.toNat) (regCoreStrmCfg c s)
      let d2 := fset (fset d1 (regCoreStrmPtr c s) fldCoreStrmPtrHead 0) (regCoreStrmPtr c s) fldCoreStrmPtrTail 0
      exec (.coreStrmEnable c s v) st = .next (withDev st (islandWork (setStrmState (modStrm d2 c s
        (fun _ => { inst := (coreCtx d c).2.1, ctx := (coreCtx d c).2.2, slot := (coreCtx d c).1 == 0 })) c s 1) c))) ∧
    (∀ (at_ : Nat) (dest : Bool), strmRuns d c s = true → strmGuard d c s e = none → descValid d c s e = true → e.pstate < 4 →
      (e.kind = 0 ∧ (e.sspace = 3 ∨ e.dspace = 3)) ∨ (e.kind = 3 ∧ e.dspace = 3) →
      at_ ≤ startElem d c s e → at_ < descTotal e → startElem (setStrmState d c s 2) c s e = startElem d c s e →
      t.failing = 0 → strmState (setStrmState d c s 2) c s = 2 →
      let l := startElem d c s e
      let d1 := modStrm (writeProgress (setStrmState d c s 2) c s e l 2 0) c s (fun t => { t with inBytes := [], asked := [], lines := [], wrElem := none })
      let a := if faultsDest e dest then sideAddr e.dst e.dstr e.esize (coordOf e l) none else sideAddr e.src e.sstr e.esize (coordOf e l) none
      exec (.pageFault c s at_ dest) st = .next (withDev st (sendPageReq (setStrmState d1 c s 5) c s e.pasid a.toNat))) ∧
    (t.pageReq.isSome → savedAsk d c s = none →
      let d1 := nextPageReq (modStrm d c s (fun t => { t with pageReq := none }))
      let goes := fun (f : Nat) =>
        runStream (noteProgress (setStrmState (modStrm d1 c s (fun t => { t with failing := f })) c s 1) c s) c s [0, 1, 2, 3]
      strmEnding d1 t = false → strmState d1 c s = 5 →
      exec (.pageResponse c s true) st = .next (withDev st (goes 0)) ∧
      exec (.pageResponse c s false) st = .next (withDev st (goes 0x3103)) ∧
      exec (.pageLimitExpiry c s) st = .next (withDev st (goes 0x3103))) ∧
    (∀ data : List Byte, e.sspace = 3 → t.asked ≠ [] → d.env.pcieLoop = false →
      let want := 2 ^ e.esize - t.inBytes.length % 2 ^ e.esize
      exec (.hostCompletion c s data .ok) st = .next (withDev st (runStream (modStrm d c s (fun t =>
        { t with inBytes := t.inBytes ++ (data.take want).map (fun b => (b, false)) })) c s [0, 1, 2])) ∧
      exec (.pcieCompletionTimeout c s) st = .next (withDev st (runStream (modStrm d c s (fun t =>
        { t with inBytes := t.inBytes ++ List.replicate want (0, true), inErr := true })) c s [0, 1, 2]))) ∧
    (cfgOf d c s fldCoreStrmCfgDir = 2 → isRing d c s = true →
      peerCredits d c s + (strmUsed d c s + (if t.fill = 0 then 0 else 1)) < ringSlots d c s →
      exec (.peerCreditReturn c s) st = .next (withDev st
        (modStrm d c s (fun t => { t with credits := some (peerCredits d c s + 1) })))) ∧
    (∀ (i : Fin 65) (x : Fin 16),
      let ss := strmsOf d c i x
      let blocked := ss.filter (fun s => strmState d c s == 3 || strmState d c s == 4 || headWait d c i x == some s)
      let k := regCoreStallLast c
      tget (fget d (regCoreStall c) fldCoreStallStallLimit) (coreSt d c).watch (ctxKey i x) ≠ 0 → blocked.isEmpty = false →
      ss.any (fun s => strmState d c s == 5) = false → coreFenced d c = false → coreState d c ≠ 2 → coreState d c ≠ 3 →
      openTeardown d i x = none → (ctxSt d i x).away.contains c.val = false → d.tier.waits.any (fun w => w.inst == i.val && w.ctx == x.val) = false →
      exec (.stallWatchExpiry c i x) st = .next (withDev st (ss.foldl (fun d s => setStrmState d c s 7)
        (endCtx (fset (fset (fset d k fldCoreStallLastBlocked (bitMap blocked)) k fldCoreStallLastInstance i) k fldCoreStallLastContext x)
          i x 0x4107 0 (c + bitMap blocked * 2 ^ 32)))))

/-- Scrubbing of a core store (R95, R437). -/
def Obligations.CoreScrub : Prop :=
  ∀ (s : State) (c : Fin 96) (w : Fin 131072), Runs s → coreOn s.dev c = true →
    let a := storeAddr c (32 * w)
    exec (.coreStoreScrubRead c w 0) s = .next s ∧
    exec (.coreStoreScrubRead c w 1) s = .next (withDev s (record (fsat s.dev (regCoreSramErr c) fldCoreSramErrCorrected 1)
      { status := 0x2102, addr := a, detail := c })) ∧
    (s.dev.poison.contains a = false →
      let d1 := { s.dev with poison := natPut s.dev.poison a }
      let d2 := record (fsat d1 (regCoreSramErr c) fldCoreSramErrPoisoned 1) { status := 0x1108, addr := a, detail := c }
      let seen := if (coreSt d2 c).scrubAt = scrubPeriod d2 then (coreSt d2 c).scrubBad else []
      let d3 := modCore d2 c (fun t => { t with scrubAt := scrubPeriod d2, scrubBad := storeBank (32 * w) :: seen })
      exec (.coreStoreScrubRead c w 2) s = .next (withDev s (if seen.any (· != storeBank (32 * w)) then fenceCore d3 c else d3)))

/-- Each instruction that does not set the PC completes (R130). -/
def Obligations.SignalInstructions : Prop :=
  ∀ (s : State) (c : Fin 96) (fixed : Bool), Runs s → sigRuns s.dev c = true → sigLegal s.dev c (sigWord s.dev c) = true →
    let w := sigWord s.dev c
    let d := if fixed ∧ readsStore w then storeCorrected s.dev c (storeAddr c (arAddr s.dev c w.ma1)) else s.dev
    let goes := fun (d1 : Dev) => (.next (withDev s (sigThen d c w d1)) : Host.Outcome State Fault Refusal)
    (w.op = 0x00 → exec (.snop c fixed) s = goes d) ∧
    (w.op = 0x01 → exec (.cmac c fixed) s = goes (sigMac d c w false)) ∧
    (w.op = 0x02 → exec (.cmul c fixed) s = goes (sigMac d c w true)) ∧
    (w.op = 0x03 → exec (.cadd c fixed) s = goes (sigAdd d c w 1)) ∧
    (w.op = 0x04 → exec (.csub c fixed) s = goes (sigAdd d c w (-1))) ∧
    (w.op = 0x05 → exec (.cnco c fixed) s = goes (sigNco d c w)) ∧
    (w.op = 0x06 → exec (.srnd c fixed) s = goes (sigRnd d c w)) ∧
    (w.op = 0x07 → exec (.snorm c fixed) s = goes (sigNorm d c w)) ∧
    (w.op = 0x08 → exec (.sexp c fixed) s = goes (sigExp d c w)) ∧
    (w.op = 0x09 → exec (.sbfpc c fixed) s = goes (sigBfpc d c w)) ∧
    (w.op = 0x0A → exec (.sbfpx c fixed) s = goes (sigBfpx d c w)) ∧
    (w.op = 0x0B → exec (.sset c fixed) s = goes (sigSet d c w)) ∧
    (w.op = 0x0C → exec (.sacs c fixed) s = goes (sigAccStore d c w)) ∧
    (w.op = 0x0D → exec (.sacl c fixed) s = goes (sigAccLoad d c w)) ∧
    (w.op = 0x14 → exec (.sstl c fixed) s = goes (sigLoopStore d c w)) ∧
    (w.op = 0x15 → exec (.sldl c fixed) s = goes (sigLoopLoad d c w)) ∧
    (w.op = 0x16 → exec (.ssta c fixed) s = goes (sigAddrStore d c w)) ∧
    (w.op = 0x17 → exec (.slda c fixed) s = goes (sigAddrLoad d c w))

/-- The instructions and events that steer a task (R137 to R144). -/
def Obligations.SignalFlow : Prop :=
  ∀ (s : State) (c : Fin 96), Runs s →
    let d := s.dev
    let w := sigWord d c
    let p := regSigPc c
    let st := regSigStatus c
    (sigRuns d c = true → sigLegal d c w = true →
      (w.op = 0x10 → bitsAt w.imm 11 15 = 0 → exec (.sloop c) s = .next (withDev s (fset d p fldSigPcPc (bitsAt w.imm 0 11 + 1)))) ∧
      (w.op = 0x10 → bitsAt w.imm 11 15 ≠ 0 →
        let r := loopReg c (fget d p fldSigPcLdepth)
        let d1 := fset (fset (fset (setReg d r 0) r fldSigLoop0Lstart (fget d p fldSigPcPc + 1)) r fldSigLoop0Lend (bitsAt w.imm 0 11)) r
          fldSigLoop0Lcount (bitsAt w.imm 11 15)
        exec (.sloop c) s = .next (withDev s (fset (fset d1 p fldSigPcLdepth (fget d p fldSigPcLdepth + 1)) p fldSigPcPc
          (fget d p fldSigPcPc + 1)))) ∧
      (w.op = 0x11 → (sigDepth d c = 0 ∨ fget d (loopReg c (sigDepth d c - 1)) fldSigLoop0Lend ≠ fget d p fldSigPcPc) →
        exec (.sjmp c) s = .next (withDev s (fset d p fldSigPcPc w.imm))) ∧
      (w.op = 0x12 → exec (.send c) s = .next (withDev s (sigFinish d c (if (sigSt d c).ate ∨ taskPoison d c then 0x310D else 0)))) ∧
      (w.op = 0x13 →
        let d1 := sigNext d c (fget d p fldSigPcPc)
        let d2 := fset (fset (fset d1 p fldSigPcPc (fget d1 p fldSigPcIrpPc)) p fldSigPcLdepth (fget d1 p fldSigPcIrpDepth)) st fldSigStatusInHandler 0
        exec (.sret c) s = .next (withDev s (if fget d st fldSigStatusInHandler = 1 then urgentDone d2 c else d2)))) ∧
    (sigRuns d c = true → sigLegal d c w = false → exec (.sigIllegal c) s = .next (withDev s (sigFinish d c 0x310E))) ∧
    (sigRuns d c = true → exec (.sigStateLost c) s = .next (withDev s (sigFinish d c 0x310F))) ∧
    (coreOn d c = true → coreFenced d c = false → sigRuns d c = false → slotHeld d c = true → exec (.sigGo c) s = .next (withDev s (sigStart d c))) ∧
    (coreOn d c = true → coreFenced d c = false → sigRuns d c = true ∨ slotHeld d c = false → exec (.sigGo c) s =
      .next (withDev s (cfgReject d st fldSigStatusCfgReject 0x1116 (regSigCtrl c) c))) ∧
    (coreFenced d c = true → exec (.sigGo c) s = .next s ∧ exec (.sigIrq c) s = .next s) ∧
    (coreOn d c = true → coreFenced d c = false → exec (.sigIrq c) s = .next (withDev s (fset d st fldSigStatusIrqPending 1))) ∧
    (sigRuns d c = true → fget d (regSigCtrl c) fldSigCtrlIrqEn = 1 → fget d st fldSigStatusInHandler = 0 →
      fget d st fldSigStatusIrqPending = 1 →
      let d1 := fset (fset d p fldSigPcIrpPc (fget d p fldSigPcPc)) p fldSigPcIrpDepth (fget d p fldSigPcLdepth)
      exec (.taskInterruptEntry c) s = .next (withDev s (fset (fset (fset (fset d1 p fldSigPcLdepth 0) p fldSigPcPc
        (fget d (regSigEntry c) fldSigEntryVector)) st fldSigStatusInHandler 1) st fldSigStatusIrqPending 0)))

/-- SNORM's shift and the SRND after it (R133). -/
def Obligations.SnormFits : Prop :=
  ∀ (s : State) (c : Fin 96), Runs s → sigRuns s.dev c = true → sigLegal s.dev c (sigWord s.dev c) = true → (sigWord s.dev c).op = 0x07 →
    let fit := fun (k : Nat) (x : Int) => -(2 ^ 15) ≤ (2 * x + 2 ^ k) / 2 ^ (k + 1) ∧ (2 * x + 2 ^ k) / 2 ^ (k + 1) ≤ 2 ^ 15 - 1
    let fits := fun (k : Nat) => ∀ n < 16, fit k (accOf s.dev c (sigWord s.dev c).srcA n).i ∧ fit k (accOf s.dev c (sigWord s.dev c).srcA n).q
    ∀ fixed : Bool, ∃ t, exec (.snorm c fixed) s = .next t ∧
      (∀ k ≤ 24, fits k → (∀ j < k, ¬ fits j) → (sigSt t.dev c).sh = k) ∧
      ((∀ k ≤ 24, ¬ fits k) → (sigSt t.dev c).sh = 24) ∧
      (∀ (u : State) (f : Bool), (sigWord t.dev c).op = 0x06 → (sigWord t.dev c).srcA = (sigWord s.dev c).srcA → bitOf (sigWord t.dev c).imm 5 = true →
        exec (.srnd c f) t = .next u → (sigSt t.dev c).sh ≠ 24 →
        fget u.dev (regSigSatCount c) fldSigSatCountOutSat = fget s.dev (regSigSatCount c) fldSigSatCountOutSat)

/-- The exponents of SEXP (R134). -/
def Obligations.SexpExponents : Prop :=
  ∀ (s : State) (c : Fin 96), Runs s → sigRuns s.dev c = true → sigLegal s.dev c (sigWord s.dev c) = true → (sigWord s.dev c).op = 0x08 →
    let m := (sigSt s.dev c).mw
    let fit := fun (k : Nat) (x : Int) => -(2 ^ (m - 1)) ≤ (2 * x + 2 ^ k) / 2 ^ (k + 1) ∧ (2 * x + 2 ^ k) / 2 ^ (k + 1) ≤ 2 ^ (m - 1) - 1
    let sample := fun (j : Nat) => laneOf s.dev c ((sigWord s.dev c).srcA + j / 16) (j % 16)
    let fits := fun (p k : Nat) => ∀ j < 12, fit k (sample (12 * p + j)).i ∧ fit k (sample (12 * p + j)).q
    ∀ fixed : Bool, ∃ t, exec (.sexp c fixed) s = .next t ∧ (sigSt t.dev c).be.length = 4 ∧ ∀ p < 4, ∃ e, (sigSt t.dev c).be[p]? = some e ∧
      (∀ k ≤ 15, fits p k → fits p e ∧ e ≤ k) ∧
      (8 ≤ m → m ≤ 14 → (∀ j < 48, -32768 ≤ (sample j).i ∧ (sample j).i ≤ 32767 ∧ -32768 ≤ (sample j).q ∧ (sample j).q ≤ 32767) →
        fits p e ∧ e ≤ 9)

/-- The frame of the signal commands, and the invariant they keep. -/
def Obligations.SignalFrame : Prop :=
  ∀ (s t : State) (c : Fin 96) (fixed : Bool) (i : Instr), i ∈ signalOps c fixed → (i = .sret c → tget [] s.dev.sp.urgent c = []) → exec i s = .next t →
    let w := sigWord s.dev c
    ((∀ n, SigOk (sigSt s.dev n)) → ∀ n, SigOk (sigSt t.dev n)) ∧
    (∀ n, n ≠ c.val → sigSt t.dev n = sigSt s.dev n) ∧
    (t.dev.hmem = s.dev.hmem ∧ t.dev.pier = s.dev.pier ∧ t.dev.trn = s.dev.trn ∧ t.dev.tier = s.dev.tier ∧
      t.dev.rings = s.dev.rings ∧ t.dev.time = s.dev.time ∧
      t.dev.sp = s.dev.sp ∧ t.dev.cores = s.dev.cores ∧ t.dev.strms = s.dev.strms ∧ t.dev.arrs = s.dev.arrs ∧ t.dev.act = s.dev.act) ∧
    (fixed = false → t.dev.insts = s.dev.insts ∧ t.dev.ctxs = s.dev.ctxs ∧ t.dev.flt = s.dev.flt) ∧
    (∀ k, (fixed = true → k ∉ [regCoreSramErr c, regCoreStatus c, regMgtFhRecords]) → k ∉ [regSigPc c, regSigStatus c, regSigSatCount c, regSigLoop0 c, regSigLoop1 c, regSigLoop2 c] → getReg t.dev k = getReg s.dev k) ∧
    (∀ b, b < storeAddr c 0 ∨ storeAddr c 0x80000 ≤ b → devRead t.dev b 1 = devRead s.dev b 1) ∧
    ((w.mop ≤ 2 ∧ w.op ∉ [0x09, 0x0C, 0x14, 0x16] ∨ i = .sigIrq c ∨ i = .taskInterruptEntry c) →
      t.dev.mem = s.dev.mem ∧ t.dev.poison = s.dev.poison) ∧
    (i = .snop c fixed → w.mop = 3 → ∀ b, (∀ r ∈ twinSegs c (arAddr s.dev c w.ma1) 64, b < r.1 ∨ r.1 + r.2 ≤ b) →
      devRead t.dev b 1 = devRead s.dev b 1)

/-- What a write leaves in a register (R7 to R11). -/
def Obligations.RegisterWrites : Prop :=
  ∀ (s : State) (key mask v : Nat) (r : RegDesc), Runs s → regAt key = some r → key < 0x100000000 → fusedOff s.dev key = false →
    plainReg r = true →
    let m := mask % 2 ^ r.width
    let held := fun (x : FldDesc) => x.cls == .q && !partStopped s.dev (partOf key)
    let refused := r.flds.any (fun x => held x && touches m x)
    let new := (mergeWrite s.dev r key m (v % 2 ^ r.width)).1
    (refused = false → regInRange s.dev r.base key m new = true → ∃ t, exec (.registerWrite key mask v) s = .next t ∧
      (∀ b, bitOf (getReg t.dev key) b =
        (if bitOf m b = true ∧ bitIn r (fun x => x.acc == .rw && !held x) b = true then bitOf v b
         else if bitOf m b = true ∧ bitOf v b = true ∧ bitIn r (fun x => x.acc == .w1c) b = true then false
         else bitOf (getReg s.dev key) b)) ∧
      (∀ k, k ≠ key → getReg t.dev k = getReg s.dev k ∧ getAct t.dev k = getAct s.dev k) ∧
      getAct t.dev key = (if r.flds.any (fun x => x.cls == .s) = true ∨ waitsBoundary s.dev r.base key = true ∨
        getReg t.dev key = getReg s.dev key then getAct s.dev key else getReg t.dev key) ∧
      t.dev.mem = s.dev.mem ∧ t.dev.ctxs = s.dev.ctxs ∧ t.dev.insts = s.dev.insts ∧ t.dev.flt = s.dev.flt) ∧
    (refused = true → regInRange s.dev r.base key m new = true →
      let d1 := if r.flds.any (fun x => x.acc == .rw && touches m x) then noteUnput (partReject s.dev (partOf key) key) r (partOf key)
        else partReject s.dev (partOf key) key
      (∀ b, bitIn r held b = true → bitOf new b = bitOf (getReg s.dev key) b) ∧
      exec (.registerWrite key mask v) s = .next (withDev s (if new = getReg s.dev key then d1 else storeReg d1 r key new))) ∧
    (regInRange s.dev r.base key m new = false → r.flds.any (fun x => x.acc == .rw && touches m x) = true →
      exec (.registerWrite key mask v) s = .next (withDev s (if refused then noteUnput (partReject s.dev (partOf key) key) r (partOf key)
        else partReject (noteUnput s.dev r (partOf key)) (partOf key) key)))

/-- The slot planner's events (R203, R212, R213, R225). -/
def Obligations.PlannerEvents : Prop :=
  ∀ s : State, Runs s →
    let d := s.dev
    exec .symbolTick s = .next (withDev s (d.sp.chans.foldl (fun d p =>
      let d := modChan (readTail d p.1) p.1 (fun c => { c with raised := c.waits, waits := false })
      if p.2.waits then raiseVector d 0 p.2.vector else d) d)) ∧
    (∀ code : Fin 3, (tickCars d code).isEmpty = false →
      let frame := frameOf d (slotNow d)
      let slot := slotOf d (muOf code) (slotNow d)
      let d1 := commitRegs (countCars ((tickCars d code).foldl (carBoundary frame slot) d)) [regTimeSpLend, regRadioDarner]
      let d2 := d1.sp.chans.foldl (fun d p => hdrPut d p.2.ind 4 (frame % 1024 * 2 ^ 16 + slot)) d1
      exec (.slotBoundary code) s = .next (withDev s (planBoundary (releaseOld (modSp d2 (fun s => { s with
        chans := s.chans.filter (fun p => !p.2.closing)
        slots := s.slots.filter (fun w => !w.pdus.isEmpty || decide (frame < w.frame + 8)) })))))) ∧
    (∀ (n : Fin 512) (ch : Nat), chanOf d n = some ch → carEnabled d n = true → exec (.requestCutoff n) s = .next (withDev s (readTail d ch))) ∧
    (∀ (t : Task) (side : Fin 2) (ns : Nat) (k : AdmCar), carOf d t.carrier = some k → carState d t.carrier ≠ 0 →
      pairCore d k.pair side ≠ noCore → inputsGone d t side = false →
      (taskDue d t = false → exec (.taskRelease t side ns) s = .next (withDev s d)) ∧
      (taskDue d t = true →
      let c := pairCore d k.pair side
      let d1 := reclaim d c ns 0
      let t1 := { t with again := false }
      (t.urgent = false → exec (.taskRelease t side ns) s = .next (withDev s (modSp d1 (fun s =>
        { s with queue := tmod [] s.queue c (fun l => l ++ [t1]) })))) ∧
      (t.urgent = true → (tget? d1.sp.running c).isSome → exec (.taskRelease t side ns) s = .next (withDev s (sigIrq (modSp d1 (fun s =>
        { s with urgent := tmod [] s.urgent c (fun l => l ++ [t1]) })) c))))) ∧
    (∀ (c : Fin 96) (code : List Nat) (start vector : Fin 2048) (at_ : Nat) (t : Task), firstTask (tget [] d.sp.queue c) = some t →
      tget? d.sp.running c = none → sigRuns d c = false → coreFenced d c = false → (coreSt d c).borrowed = none → code.length ≤ 2048 →
      let d0 := devWrite d (storeAddr c at_) ((taskInput d t).take (0x80000 - at_)) false
      let d1 := modSp d0 (fun s => { s with
        queue := tset s.queue c (dropFirst (· == t) (tget [] s.queue c))
        running := tset s.running c t })
      let d2 := modSig d1 c (fun s => { s with code := code.zipIdx.map (fun p => (p.2, p.1)) })
      let d3 := fset (fset d2 (regSigEntry c) fldSigEntryStart start) (regSigEntry c) fldSigEntryVector vector
      exec (.taskStart c code start vector at_) s = .next (withDev s (sigStart (commitReg (setReg d3 (regCoreCtx c) 0) (regCoreCtx c)) c))) ∧
    (∀ (c : Fin 96) (gap i x : Nat), fact d regTimeSpLend fldTimeSpLendLendEn = 1 → inReserve d c = true → coreOn d c = true →
      coreFenced d c = false → coreState d c = 0 → (coreSt d c).borrowed = none → coreTasks d c = [] → sigRuns d c = false →
      fact d regTimeSpLend fldTimeSpLendMinGap * 1000 ≤ gap → (nextRelease d c).all (fun ns => decide (gap ≤ ns)) = true → firstBorrower d = some (i, x) →
      storeAddr c (fget d (regCorePart c) fldCorePartLendBase * 262144) ≤ getAct d (regCoreSaveBase c) →
      getAct d (regCoreSaveBase c) + 16384 ≤ storeAddr c 0x400000 →
      let k := regCoreCtx c
      let d1 := fset (fset (fset d k fldCoreCtxWorkClass (ctxSt d i x).cls) k fldCoreCtxInstance i) k fldCoreCtxContext x
      let d2 := fsat (commitReg d1 k) regTimeSpCount fldTimeSpCountLends 1
      let d3 := modCore d2 c (fun t => { t with borrowed := some (i, x) })
      exec (.lend c gap (i, x)) s = .next (withDev s (if d.sp.saved.any (fun s => s.2 == (i, x)) then d2
        else startCore (fset (fset d3 (regCoreStatus c) fldCoreStatusLent 1) (regCoreStatus c) fldCoreStatusLentSaved 0) c)))

/-- The fronthaul unit (R178 to R189). -/
def Obligations.FronthaulMoves : Prop :=
  ∀ s : State, Runs s →
    let d := s.dev
    (∀ (p : Fin 32) (m0 : UplaneMsg) (n stream : Nat) (k : AdmCar), portExists d p = true → ethLooped d (p / 4) = false →
      3 ≤ ethState d p → ethState d p ≤ 6 → inSubset m0 = true → matchCar d p m0 = some (n, stream) →
      let m := fullPrbs d n m0
      placeable d n stream m = true →
      portCarries d n = true → carOf d n = some k →
      let d1 := seqCheck d n stream m.seq
      let frame := frameNear d1 m.sfn
      let now := slotNow d1
      let old := tget 0 (slotW d1 n frame m.slot).got (m.sym * 128 + stream)
      let fresh := (rangeFrom m.start m.num).filter (fun b => !bitOf old b)
      let d2 := fsat d1 (regFhuCarCnt n) fldFhuCarCntRxSeqErr (m.num - fresh.length)
      let c := pairCore d k.pair (m.sym % 2)
      let o := pairCore d k.pair (1 - m.sym % 2)
      let recs := (runsOf fresh).map (fun r => (({ carrier := n, frame := frame, slot := m.slot, sym := m.sym, stream := stream
                                                   first := r.1, num := r.2, off := 0, len := (landBytes n stream m r.1 r.2).length } : LandRec), landBytes n stream m r.1 r.2))
      let need := recsLen (recs.map (fun r => r.1))
      symTime d1 (carMu d n) frame m.slot m.sym ≤ now →
      now ≤ symTime d1 (carMu d n) frame m.slot (m.sym + 1) + fact d1 (regFhuCarWin n) fldFhuCarWinRxMax * 800 → fresh ≠ [] →
      c ≠ noCore → o ≠ noCore → recsLen (ringsOf d2 c).land + need ≤ (landRing c).2 → recsLen (ringsOf d2 o).mirror + need ≤ (mirrorRing d2 o).2 →
      let d3 := ringAdd d2 c (landRing c) recs (fun x => x.land) (fun x l => { x with land := l })
      let d4 := ringAdd d3 o (mirrorRing d3 o) recs (fun x => x.mirror) (fun x l => { x with mirror := l })
      exec (.uplaneReceive p m0) s = .next (withDev s (modSlot d4 n frame m.slot (fun w =>
        { w with got := tmod 0 w.got (m.sym * 128 + stream) (fun g => fresh.foldl (fun g b => g ||| 2 ^ b) g) })))) ∧
    (∀ (n : Fin 512) (sfn : Fin 1024) (slot : Fin 80) (sym : Fin 14), carState d n ≠ 0 →
      let frame := frameNear d sfn
      let w := slotW d n frame slot
      let mu := carMu d n
      let ants := kindAnts (fget d (regRadioCarCfg n) fldRadioCarCfgKind)
      let now := slotNow d
      (w.ul = true → w.short = false →
        symTime d mu frame slot (sym + 1) + fact d (regFhuCarWin n) fldFhuCarWinRxMax * 800 ≤ now →
        missingPrbs d n sym w = true →
        exec (.rxWindowClose n sfn slot sym) s = .next (withDev s (record (fsat (modSlot d n frame slot (fun w => { w with short := true }))
          (regFhuCarCnt n) fldFhuCarCntRxMissing 1) { status := 0x1804, inst := 0, detail := fhuDetail d n 0 }))) ∧
      (portCarries d n = true → w.dl = true ∨ w.ul = true →
        slotStart d mu frame slot ≤ now + fact d (regFhuCarWin n) fldFhuCarWinCpAdv * 800 →
        now + fact d (regFhuCarWin n) fldFhuCarWinCpAdv * 800 ≤ slotStart d mu frame slot + 80000 →
        let msgs := w.sects.flatMap (fun x => (List.range ants).map (fun a =>
          ({ stream := if x.1 = 2 then 64 + a else a, dl := 4 ≤ x.1, prach := x.1 == 2, sect := x.2 } : CMsg)))
        exec (.cplaneSend n sfn slot) s = .next (withDev s (msgs.zipIdx.foldl (fun d1 m =>
          sendMsg d1 1 m.1.dl n m.1.sect.sym m.1.stream m.1.sect.prb m.1.sect.prbs (cplaneBody [n, frame, slot, m.1.stream, m.2] m.1.dl m.1.prach mu frame slot
            (fget d (regFhuCarBfp n) fldFhuCarBfpUlMw) m.1.sect)) d))) ∧
      (∀ k : AdmCar, carOf d n = some k → usesSym w sym = true → missRoute d k w sym = true → w.dead = false →
        symTime d mu frame slot sym < now + fact d (regFhuCarWin n) fldFhuCarWinTxMin * 800 →
        ((List.range ants).all (fun a => w.sent.contains (sym * 128 + a))) = false →
        exec (.txWindowClose n sfn slot sym) s = .next (withDev s (slotMiss d n frame slot (fun _ => false) true))) ∧
      (∀ (stream : Nat) (k : AdmCar) (r : LandRec), carOf d n = some k → usesSym w sym = true → w.dead = false → stream < ants →
        madeSym d (pairCore d k.pair (sym % 2)) n frame slot sym stream = some r →
        let c := pairCore d k.pair (sym % 2)
        let mw := fget d (regFhuCarBfp n) fldFhuCarBfpDlMw
        let prb := fget d (regRadioCarCfg n) fldRadioCarCfgPrb
        let per := 3 * mw + 1
        let off := r.off
        let d1 := modRings (modSlot d n frame slot (fun w => { w with sent := (sym * 128 + stream) :: w.sent })) c (fun x =>
          { x with tx := dropFree (x.tx.map (fun y => if y == r then { y with free := true } else y)) })
        symTime d mu frame slot sym ≤ now + fact d (regFhuCarWin n) fldFhuCarWinTxMax * 800 →
        now + fact d (regFhuCarWin n) fldFhuCarWinTxMin * 800 ≤ symTime d mu frame slot sym →
        w.sent.contains (sym * 128 + stream) = false → portCarries d1 n = true →
        (∀ i < prb, (txPrb d1 c off per i).2 = false) →
        exec (.dlUplaneSend n sfn slot sym stream off) s = .next (withDev s ((chunksOf prb mw).foldl (fun d x =>
          let num := if x.2 = prb then 0 else x.2
          sendMsg d 0 true n sym stream x.1 num (oranHead true 0 mu frame slot sym
            ++ uSection (Config.sectionId [0, n, frame, slot, stream, sym]) x.1 num mw ++ cleanPrbs d c off per x.1 x.2)) d1)))) ∧
    (∀ p : Fin 32, portExists d p = true →
      (∀ (modes b : Nat), ethLooped d (p / 4) = false →
        (if fget d (regFhuGrpCfg (p / 4)) fldFhuGrpCfgAnEn = 0 then some (portMode d p) else
          ((List.range (portMode d p + 1)).reverse).find? (bitOf modes)) = some b →
        exec (.ethAutonegComplete p modes true) s = .next (withDev s (ethUp d p (modeRate b)))) ∧
      (∀ training : Bool, ethLooped d (p / 4) = false →
        exec (.ethPortStateChange p training) s = .next (withDev s (ethDown d p (if training then 2 else 1)))) ∧
      exec (.ethFrameDrop p 0) s = .next (withDev s (fsat d (regFhuGrpState (p / 4)) fldFhuGrpStateRxUnmatched 1)) ∧
      (∀ fec : Nat, fec ≠ 0 → exec (.ethFrameDrop p fec) s = .next (withDev s (fsat d (regFhuGrpState (p / 4)) fldFhuGrpStateFecUncorr fec))))

/-- The radio accelerators and switches (R159 to R181). -/
def Obligations.RadioWork : Prop :=
  ∀ s : State, Runs s →
    let d := s.dev
    (∀ (unit : Fin 16) (j : DecJob) (p : UlPdu), accelOk d unit 0 = true → firstJob (decJobs d) = some j →
      pduAt (slotW d j.carrier j.frame j.slot) 0 j.pdu = some p → tooLate d j.carrier j.frame j.slot 0 = false → p.status ≠ 0x3705 →
      let soft := tget { addr := 0, len := 0 } p.soft j.block
      isPoisoned d soft.addr soft.len = false →
      let bits := darner (j.block :: p.params) (fact d (regRadioCarLdpc j.carrier) fldRadioCarLdpcMaxIter) ((devRead d soft.addr soft.len).map BitVec.toInt)
      let p1 := { p with hard := tset p.hard j.block bits, failed := p.failed || !Config.blockCrcOk (j.block :: p.params) bits }
      let d1 := modSlot d j.carrier j.frame j.slot (fun w => { w with pdus := w.pdus.map (fun x => if x.idx == p.idx then p1 else x) })
      exec (.codeBlockDecode unit j.carrier j.frame j.slot j.pdu j.block) s = .next (withDev s (if p1.hard.length < p.blocks then d1
        else tbDone d1 (slotW d j.carrier j.frame j.slot) p1))) ∧
    (∀ (j : PrachJob) (p : UlPdu),
      let frame := frameNear d j.sfn
      pduAt (slotW d j.carrier frame j.slot) 2 j.pdu = some p → accelOk d j.unit 4 = true → j.core < 96 → coreFenced d j.core = false → slotHeld d j.core = true →
      j.src + prachLen j ≤ 0x80000 → prachOk (carMu d j.carrier) j.long j.scs = true →
      tooLate d j.carrier frame j.slot 4 = false → isPoisoned d (storeAddr j.core j.src) (prachLen j) = false →
      let d1 := commitReg d (regRadioCarPrach j.carrier)
      let mu := carMu d j.carrier
      let hits := detect (prachProfiles j (devRead d1 (storeAddr j.core j.src) (prachLen j)))
        (fact d1 (regRadioCarPrach j.carrier) fldRadioCarPrachThresh) j.pres
      let content := hits.flatMap (fun h => [h.index, prachAdvance mu (prachPoints j) j.scs h.delay, stdField 5 (some (prachPower d1 j h.peak))])
      let tlvs := hits.flatMap (fun h => [({ tag := 0xA005, len := 2, val := prachNs (prachPoints j) j.scs h.delay } : Tlv),
        { tag := 0xA006, len := 2, val := prachPower d1 j h.peak }])
      exec (.preambleDetect j) s = .next (withDev s (releaseRecs (tellL2 (dropPdu d1 (slotW d j.carrier frame j.slot) p) msgRach j.carrier frame j.slot 0
        (j.pdu :: hits.length :: content) (tlvStatus 0 :: tlvs)) { carrier := j.carrier, index := 0, frame := frame, slot := j.slot }))) ∧
    (∀ j : AccelJob, j.core < 96 → coreOn d j.core = true → coreFenced d j.core = false → slotHeld d j.core = true →
      j.src + j.len ≤ 0x80000 → j.dst + j.outLen ≤ 0x80000 →
      let onTime := fun (k : Nat) => ∀ u, j.use = some u → jobLate d k u = false
      let a := storeAddr j.core j.src
      let out := fun (k : Nat) (bs : List Byte) => (.next (withDev s (noteCoded (devWrite d (storeAddr j.core j.dst)
        (padTo j.outLen bs) (isPoisoned d a j.len)) k j)) : Host.Outcome State Fault Refusal)
      (accelOk d j.unit 1 = true → exec (.ldpcEncode j) s = out 1 (Config.accelOutput 1 j.params (devRead d a j.len))) ∧
      (∀ bs, accelOk d j.unit 2 = true → encodes 2 j = true ∨ onTime 2 → polarOut j.params (devRead d a j.len) = some bs →
        exec (.polarJob j) s = out 2 bs) ∧
      (accelOk d j.unit 3 = true → onTime 3 → transformOk (lget 0 j.params 0) = true → exec (.transformJob j) s = out 3 (c16Bytes
        (transform (lget 0 j.params 1 == 1) (lget 0 j.params 2 % 32) (padList (0, 0) (lget 0 j.params 0) (c16List (devRead d a j.len))))))) ∧
    (∀ u : Fin 44, bitOf (getReg d regRadioAccelFence) u = false → ∃ t, exec (.acceleratorFault u) s = .next t ∧
      bitOf (getReg t.dev regRadioAccelFence) u = true ∧ (∀ v : Fin 44, v ≠ u → bitOf (getReg t.dev regRadioAccelFence) v = bitOf (getReg d regRadioAccelFence) v)) ∧
    (∀ n : Fin 512, let on := fset d (regRadioCarCtrl n) fldRadioCarCtrlEnable 1
      (carLooped d n = false → eaxcClash d n = false → exec (.carrierEnable n true) s = .next (withDev s
        (if carState on n = 2 then countCars (fset on (regRadioCarStatus n) fldRadioCarStatusState 1) else on))) ∧
      (let off := fset d (regRadioCarCtrl n) fldRadioCarCtrlEnable 0
       exec (.carrierEnable n false) s = .next (withDev s (if carState off n = 1 then
        countCars (fset off (regRadioCarStatus n) fldRadioCarStatusState 2) else off)))) ∧
    (∀ on : Bool, (on = false ∨ fget d regRadioDarner fldRadioDarnerFlashShare = 1 ∨ admitted d = false ∨ d.sp.flash40 = true) →
      exec (.flashShare on) s = .next (withDev s (commitSoon (fset d regRadioDarner fldRadioDarnerFlashShare (b2n on)) regRadioDarner)))

/-- The FAPI requests (R188 to R194). -/
def Obligations.FapiRequests : Prop :=
  ∀ (s : State) (ch : Fin 16) (b : FapiBody) (e : ReqEnt), Runs s → nextEnt s.dev ch = some e →
    let d := s.dev
    let goes := fun (d1 : Dev) => (.next (withDev s (advanceHead32 d1 ch)) : Host.Outcome State Fault Refusal)
    let mu := carMu d e.carrier
    let frame := frameNear d e.sfn
    let open_ := fun (lead : Fld) => inChan d ch e = true ∧ (carOf d e.carrier).isSome ∧ carEnabled d e.carrier = true ∧
      e.slot < slotsPerFrame mu ∧ e.sfn < 1024 ∧
      slotNow d + fact d (regFhuCarLead e.carrier) lead * 80000 ≤ slotStart d mu frame e.slot
    let taken := takePdus d ch e.carrier frame e.slot b.pdus.zipIdx
    ((e.faults = true ∨ b.faults = true ∨ b.bad = true) → e.msg = msgParamReq →
      exec (.paramRequest ch b) s = goes (record d { status := 0x380A, inst := 0, detail := fhuDetail d e.carrier ch })) ∧
    (e.faults = false → b.faults = false → b.bad = false →
    (e.msg = msgParamReq → inChan d ch e = true → exec (.paramRequest ch b) s =
      goes (indicate d ch msgParamRsp e.carrier e.sfn e.slot 0 (errOk :: paramLimits) [])) ∧
    (e.msg = msgConfigReq → inChan d ch e = true → carState d e.carrier = 0 →
      let mine := b.words.filter (fun x => (carRegs e.carrier).contains x.1)
      let bad := b.tags ++ (mine.filter (fun x => !regHolds d x.1 x.2)).map (fun x => x.1)
      (bad = [] → exec (.configRequest ch b) s = goes (indicate (mine.foldl (fun d x => regWrite d x.1 (2 ^ 64 - 1) x.2) d) ch
        msgConfigRsp e.carrier e.sfn e.slot 0 [errOk] [])) ∧
      (bad ≠ [] → exec (.configRequest ch b) s = goes (indicate d ch msgConfigRsp e.carrier e.sfn e.slot 0 (errConfig :: bad) []))) ∧
    (e.msg = msgStartReq → inChan d ch e = true → (carOf d e.carrier).isSome → carEnabled d e.carrier = false → eaxcClash d e.carrier = false →
      exec (.startRequest ch b) s = goes (carEnable d e.carrier true)) ∧
    (e.msg = msgStopReq → inChan d ch e = true → fget d (regRadioCarCtrl e.carrier) fldRadioCarCtrlEnable ≠ 0 →
      let d1 := carEnable d e.carrier false
      exec (.stopRequest ch b) s = goes (if carState d1 e.carrier = 0 then indicate d1 ch msgStopInd e.carrier e.sfn e.slot 0 [] [] else d1)) ∧
    (open_ fldFhuCarLeadDlLead →
      let d1 := modSlot taken.1 e.carrier frame e.slot (fun w => { w with
        dl := true
        dlPdus := w.dlPdus ++ (taken.2.filter (fun p => 4 ≤ p.1.kind)).zipIdx.map (fun p => { idx := w.dlPdus.length + p.2, tx := p.1.1.tx })
        refs := w.refs ++ { addr := e.addr, len := e.len } :: b.refs.map (fun r => { addr := r.1, len := r.2 }) })
      (e.msg = msgDlTti → exec (.dlTtiRequest ch b) s = goes d1) ∧ (e.msg = msgUlDci → exec (.ulDciRequest ch b) s = goes d1) ∧
      (e.msg = msgTxData → exec (.txDataRequest ch b) s = goes d1)) ∧
    (e.msg = msgUlTti → open_ fldFhuCarLeadUlLead →
      let add := taken.2.filterMap (fun p => if p.1.kind ≤ 3 then
        some ({ kind := p.1.kind, idx := p.2, rnti := p.1.rnti, harq := p.1.harq, newData := p.1.newData, blocks := p.1.blocks
                params := p.1.params, uci := p.1.uci, rx := p.1.rx } : UlPdu) else none)
      let d1 := modSlot taken.1 e.carrier frame e.slot (fun w => { w with ul := true, pdus := w.pdus ++ add })
      add.filter (fun p => p.kind == 0 && decide (softBlocks d1 e.carrier < p.blocks)) = [] →
      exec (.ulTtiRequest ch b) s = goes d1) ∧
    (knownMsgs.contains e.msg = false → exec (.unsupportedFapiMessage ch b) s = goes (fapiErr d ch e.carrier e.sfn e.slot errState 0x380A true)))

/-- The PTP messages (R338 to R342). -/
def Obligations.PtpMessages : Prop :=
  ∀ s : State, Runs s →
    let d := s.dev
    (∀ (p : Fin 32) (k : Nat) (m : PtpMsg), ptpDoms d p m.domain = [k] → fromParent d k p m = true →
      (m.twoStep = false → exec (.sync p m) s = .next (withDev s (modDom d k (fun x =>
        { x with sync := some { seq := m.seq, t2 := domNow d k, t1 := some m.time, c1 := m.corr } })))) ∧
      (∀ w : SyncWait, (domSt d k).sync = some w → w.seq = m.seq → w.t1 = none →
        exec (.followUp p m) s = .next (withDev s (modDom d k (fun x =>
          { x with sync := some { w with t1 := some m.time, c1 := w.c1 + m.corr } })))) ∧
      (∀ (w : SyncWait) (t1 t3 : Int), (domSt d k).sync = some w → w.t1 = some t1 → (domSt d k).dreq = some (m.seq, t3) → m.mine = true →
        exec (.delayResp p m) s = .next (withDev s (addExch (modDom d k (fun x => { x with sync := none, dreq := none })) k
          { t1 := t1, t2 := w.t2, t3 := t3, t4 := m.time, c1 := w.c1, c2 := m.corr })))) ∧
    (∀ (p : Fin 32) (num k : Nat) (m : PtpAnnounce), ptpDoms d p num = [k] →
      let e : Master := { port := p, ident := m.ident, num := m.num, cls := m.cls, acc := m.acc, var := m.var, prio2 := m.prio2, gm := m.gm,
                          steps := m.steps, seen := tb2 d }
      exec (.announce p num m) s = .next (withDev s (showDom (modDom d k (fun x => { x with
        masters := x.masters.filter (fun y => !(y.port == p.val && y.ident == m.ident && y.num == m.num)) ++ [e]
        cls := if x.parent = some (p.val, m.ident, m.num) then m.cls else x.cls })) k))) ∧
    (∀ (k : Fin 2) (port ident num : Nat), (domSt d k).parent = some (port, ident, num) → domEnabled d k = true → domSource d k = 1 →
      exec (.delayReqSend k) s = .next (withDev s (emit (modDom d k (fun x =>
        { x with dreq := some (x.dseq, domNow d k), dseq := (x.dseq + 1) % 65536 })) (.delayReq k port (domSt d k).dseq)))) ∧
    (∀ (k : Fin 2) (p : Fin 32) (ident num : Nat), exec (.foreignMasterTimeout k p ident num) s = .next (withDev s (modDom d k (fun x =>
      { x with masters := x.masters.filter (fun y => !(y.port == p.val && y.ident == ident && y.num == num && decide (y.seen + 3 * (subPerSec / 8) ≤ tb2 d))) }))))

/-- The servo and the time bases (R336 to R355). -/
def Obligations.TimeServo : Prop :=
  ∀ s : State, Runs s →
    let d := s.dev
    (∀ k : Fin 2,
      let d1 := synceOff (commitEdges (commitRegs d [regTimeSel, regTimeAdj, regTimeDomGain k, regTimeDomLimit k]))
      let quiet := (domSt d k).seen + fact d (regTimeDomLimit k) fldTimeDomLimitLossLimit * (subPerSec / 8) ≤ tb2 d
      (domEnabled d1 k = true → exec (.servoUpdate k) s = .next (withDev s ([0, 1, 3].foldl (fun d b =>
        if followOf (moveTb d b) b = some k.val then followTb (moveTb d b) b k else moveTb d b) (chooseParent (servo d1 k) k)))) ∧
      (domState d k = 3 → quiet →
        let x := domSt d k
        let f := if synceLocked d then d.time.synce else meanFreq x
        exec (.domainLossTimeout k) s = .next (withDev s (setFreq (setDomState d k 4) k f f))) ∧
      (domState d k = 2 → quiet → exec (.domainLossTimeout k) s = .next (withDev s (setDomState d k 1)))) ∧
    (∀ f : Int, (synceLocked d = false → fact d regTimeSel fldTimeSelSynceEn = 1 → synceFit d f = true → exec (.synceStateChange true f) s = .next (withDev s (record
        ([0, 1].foldl (fun d k => if domState d k = 4 then setFreq d k f f else d)
          (modTime (fset d regTimeStatus fldTimeStatusSynceState 1) (fun t => { t with synce := f }))) { status := 0x1908 }))) ∧
      (synceLocked d = true → fact d regTimeSel fldTimeSelSynceEn = 1 →
        let d1 := fset d regTimeStatus fldTimeStatusSynceState 2
        exec (.synceStateChange false f) s = .next (withDev s (record ([0, 1].foldl (fun d k =>
          let hold := domState d k = 4
          modDom d k (fun x => { x with
            freq := d.time.synce
            clk := if hold then { x.clk with rate := rateWord (meanFreq x) } else x.clk })) d1) { status := 0x1908 })))) ∧
    (∃ t, exec (.domEn 1) s = .next t ∧ domEnabled t.dev 0 = true ∧ domEnabled t.dev 1 = false ∧ domState t.dev 0 ≠ 0 ∧ domState t.dev 1 = 0) ∧
    (∀ v : Word, let b := bitsAt v.toNat 48 2
      let k := regTimeSetSub
      let d1 := commitRegs (fset (fset d k fldTimeSetSubTarget b) k fldTimeSetSubSub (bitsAt v.toNat 0 33)) [regTimeSetSec, k]
      b ≠ 2 → bitsAt v.toNat 0 33 < subPerSec → (b = 0 → carrierRuns d = false) →
        exec (.timeSet v) s = .next (withDev s (stepTb d1 b (setValue d1 (bitsAt v.toNat 0 33))))) ∧
    (∃ t, exec .refClockLost s = .next t ∧ t.dev.env.fatal = some 0x6907 ∧ t.dev.env.fatalN = false ∧ t.pending = s.pending)

/-- Time pins (R334, R344, R350, R351). -/
def Obligations.TimePins : Prop :=
  ∀ s : State, Runs s →
    let d := s.dev
    (∀ n : Fin 4, let t := lget {} d.tbs n
      exec (.tbRead n) s = .next (withDev s (emit (setReg (setReg d (regTimeTbSec n) t.sec) (regTimeTbSub n) t.sub) (.regData t.sec)))) ∧
    (∀ n : Fin 8, let k := regTimeTpoCtrl n
      let p := tpoSt d n
      (p.until_ = none →
        let d1 := commitRegs d [k, regTimeTpoStartSec n, regTimeTpoStartSub n, regTimeTpoShape n]
        let q := tpoOf d1 n
        let d2 := fset (fset d1 k fldTimeTpoCtrlMissed 0) k fldTimeTpoCtrlArmed 1
        (∀ e, firstEdge q (tbTime d2 q.tb) = some e → exec (.arm n) s = .next (withDev s (modTpo d2 n (fun _ => { q with next := some e })))) ∧
        exec (.disarm n) s = .next (withDev s (fset (modTpo d n (fun p => { p with next := none })) k fldTimeTpoCtrlArmed 0))) ∧
      (∀ e, p.until_ = none → p.next = some e → e ≤ tbTime d p.tb → pairLooped d n = false →
        exec (.tpoPulse n) s = .next (withDev s (emit (modTpo d n (fun p =>
          { p with next := if p.period = 0 then none else some (e + p.period), until_ := some (e + p.width) })) (.pulse n (!p.pol))))) ∧
      (∀ u, p.until_ = some u → u ≤ tbTime d p.tb → pairLooped d n = false → p.rearm = false → p.period = 0 →
        exec (.tpoPulse n) s = .next (withDev s (fset (modTpo (emit (modTpo d n (fun p => { p with until_ := none })) (.pulse n p.pol)) n
          (fun p => { p with next := none, stop := false })) k fldTimeTpoCtrlArmed 0))) ∧
      (∀ rising : Bool, let edge := fact d (regTimeTciCtrl n) fldTimeTciCtrlEdge
        let d1 := setAct d (regTimeTciCtrl n) (setBits (getReg d (regTimeTciCtrl n)) fldTimeTciCtrlEdge.lo fldTimeTciCtrlEdge.w edge)
        let b := fact d1 (regTimeTciCtrl n) fldTimeTciCtrlTb
        pairLooped d n = false → pulseDoms d n = [] → fact d1 (regTimeTciCtrl n) fldTimeTciCtrlEnable = 1 →
        (edge = 0 ∧ rising = true ∨ edge = 1 ∧ rising = false ∨ edge = 2) → (∀ x, (tciSt d n).last = some x → x + 800 ≤ tb2 d) →
        (tciSt d n).queue.length < 16 →
        exec (.tciEdge n rising) s = .next (withDev s (modTci d1 n (fun t => { t with
          queue := t.queue ++ [((lget {} d.tbs b).sec, (lget {} d.tbs b).sub, tget? d.time.stepped b == some (tb2 d))]
          last := some (tb2 d) })))) ∧
      ((tciSt d n).queue = [] → exec (.tciRead n) s = .next (withDev s
        (emit (setReg (setReg d (regTimeTciSec n) 0) (regTimeTciSub n) 0) (.regData 0)))) ∧
      (∀ sec sub st l, (tciSt d n).queue = (sec, sub, st) :: l → exec (.tciRead n) s = .next (withDev s (emit
        (setReg (setReg (modTci d n (fun t => { t with queue := l })) (regTimeTciSec n) sec) (regTimeTciSub n) (2 ^ 63 + b2n st * 2 ^ 62 + sub))
        (.regData sec)))))

/-- TB2 is monotonic (R335). -/
def Obligations.MonotonicTb2 : Prop :=
  tb2 State.reset.dev = 0 ∧ (lget {} State.reset.dev.tbs 2).rate = 8 * 2 ^ 40 ∧
  (∀ (i : Instr) (s t : State), TimeOp i → 2 < s.dev.tbs.length → exec i s = .next t → lget {} t.dev.tbs 2 = lget {} s.dev.tbs 2) ∧
  (∀ (s t : State) (n : Nat), Runs s → s.pending = [] → n < s.dev.tbs.length → step s = .next t →
    let a := lget {} s.dev.tbs n
    let b := lget {} t.dev.tbs n
    a.sub < subPerSec → a.frac < 2 ^ 40 → a.sec < 2 ^ 48 →
    b.rate = a.rate ∧ b.sub < subPerSec ∧ b.frac < 2 ^ 40 ∧ b.sec < 2 ^ 48 ∧
    ((b.sec * subPerSec + b.sub) * 2 ^ 40 + b.frac) % (2 ^ 48 * subPerSec * 2 ^ 40) =
      ((a.sec * subPerSec + a.sub) * 2 ^ 40 + a.frac + a.rate) % (2 ^ 48 * subPerSec * 2 ^ 40))

/-- The pier map (R230). -/
def Obligations.PierMapBijects : Prop :=
  (∀ o < 2 ^ 39, (pierMap o).1 = (o >>> 36 &&& 7) ^^^ (o >>> 21 &&& 7) ∧ (pierMap o).2.1 = (o >>> 21 &&& 0x7FFF) ∧
    (pierMap o).2.2.1 = (o >>> 8 &&& 31) ^^^ (o >>> 13 &&& 31) ^^^ (o >>> 18 &&& 31) ∧
    (pierMap o).2.2.2.1 = ((o >>> 13 &&& 0x7FFFFF) * 256 + (o &&& 255)) / 2048 ∧
    (pierMap o).2.2.2.2 = ((o >>> 13 &&& 0x7FFFFF) * 256 + (o &&& 255)) % 2048 / 64 ∧
    rowAddr (pierMap o).1 (pierMap o).2.2.1 (pierMap o).2.2.2.1 (pierMap o).2.2.2.2 + o % 64 = o) ∧
  (∀ p < 8, ∀ ch < 32, ∀ row < 2 ^ 20, ∀ half < 32, rowAddr p ch row half < 2 ^ 39 ∧ rowAddr p ch row half % 64 = 0 ∧
    (pierMap (rowAddr p ch row half)).1 = p ∧ (pierMap (rowAddr p ch row half)).2.2 = (ch, row, half)) ∧
  (∀ o < 2 ^ 39, (pierMap o).1 = (pierMap (o / 2097152 * 2097152)).1) ∧
  (∀ P < 2 ^ 18, ∀ ch < 32, ((List.range 8192).filter (fun g => (pierMap (P * 2097152 + g * 256)).2.2.1 == ch)).length = 256)

/-- One wrong symbol of a half-line (R249, R250). -/
def Obligations.PierCorrectsOneSymbol : Prop :=
  ∀ (s : State) (w : Who) (l : Fin 8589934592) (i v : Nat), Runs s → i < 68 → 1 ≤ v → v < 256 → memWf s.dev.mem = true →
    accessErr s.dev w false (64 * l) 64 = none → unitPoisoned s.dev (64 * l) = false → rowLost s.dev (64 * l) = false → ∃ t, exec (.pierRead w l [(i, v)]) s = .next t ∧
      t.dev.outs.getLast? = some (.halfLine (64 * l) (devRead s.dev (64 * l) 64) false) ∧
      (∀ b, devRead t.dev b 1 = devRead s.dev b 1) ∧ (∀ b, unitPoisoned t.dev b = unitPoisoned s.dev b) ∧
      fget t.dev (regPierErr (pierMap (64 * l)).1) fldPierErrCorrected =
        min (2 ^ fldPierErrCorrected.w - 1) (fget s.dev (regPierErr (pierMap (64 * l)).1) fldPierErrCorrected + 1)

/-- Plain accesses, scrubbing and refresh (R229 to R252). -/
def Obligations.PierAccess : Prop :=
  ∀ s : State, Runs s →
    let d := s.dev
    (∀ (w : Who) (l : Fin 8589934592), accessErr d w false (64 * l) 64 = none → unitPoisoned d (64 * l) = false →
      rowLost d (64 * l) = false →
      exec (.pierRead w l []) s = .next (withDev s (emit d (.halfLine (64 * l) (devRead d (64 * l) 64) false)))) ∧
    (∀ (w : Who) (l : Fin 8589934592) (m : Word) (bs : List Byte) (p : Bool), accessErr d w true (64 * l) 64 = none → bs.length = 64 →
      (m.toNat = 2 ^ 64 - 1 → exec (.pierWrite w l m { data := bs } p) s = .next (withDev s (devWrite d (64 * l) bs p))) ∧
      (∀ err, m.toNat ≠ 2 ^ 64 - 1 →
        let r := readHalf d (64 * l) err
        exec (.pierWrite w l m { data := bs, err := err } p) s = .next (withDev s (afterRead (devWrite r.1 (64 * l)
          ((List.range 64).map (fun i => if bitOf m.toNat i then lget 0 bs i else lget 0 r.2.1 i)) (p || r.2.2)) true (64 * l))))) ∧
    (∀ l : Fin 8589934592, let p := (pierMap (64 * l)).1
      fget d (regPierScrub p) fldPierScrubScrubEn = 1 → tget 0 d.pier.passFrom p ≤ tb2 d →
      fget d (regPierChState p (pierMap (64 * l)).2.2.1) fldPierChStateState < 3 → d.pier.passOn.contains p = true →
      unitPoisoned d (64 * l) = false → rowLost d (64 * l) = false →
      let half := (pierMap (64 * l)).2.2.2.2
      let was := tget 0 d.pier.scrub (rowKey (64 * l))
      let d1 := { d with pier := { d.pier with scrub := tset d.pier.scrub (rowKey (64 * l)) (setBits was half 1 1) } }
      let rows := fget d (regPierScrubState p) fldPierScrubStateProgress + 1
      let d2 := fset d1 (regPierScrubState p) fldPierScrubStateProgress rows
      (bitOf was half = true ∨ setBits was half 1 1 ≠ 2 ^ 32 - 1 → exec (.pierScrubRead l []) s = .next (withDev s d1)) ∧
      (bitOf was half = false → was < 2 ^ 32 → setBits was half 1 1 = 2 ^ 32 - 1 → rows < rowsInService d2 p →
        exec (.pierScrubRead l []) s = .next (withDev s d2))) ∧
    (∀ (p : Fin 8) (ch : Fin 32) (bank : Fin 65536), let k := (p.val * 32 + ch.val) * 65536 + bank.val
      (tget 0 d.pier.postpone k < 8 → exec (.refreshDue p ch bank true) s = .next (withDev s
        { d with pier := { d.pier with postpone := tset d.pier.postpone k (tget 0 d.pier.postpone k + 1) } })) ∧
      (8 ≤ tget 0 d.pier.postpone k → exec (.refreshDue p ch bank true) s = .next (withDev s
        { d with pier := { d.pier with postpone := tdel d.pier.postpone k } })) ∧
      exec (.refreshDue p ch bank false) s = .next (withDev s { d with pier := { d.pier with postpone := tdel d.pier.postpone k } }))

/-- Sparing and retraining (R252 to R256). -/
def Obligations.PierCare : Prop :=
  ∀ (s : State) (p : Fin 8), Runs s →
    let d := s.dev
    let put := fun (d : Dev) (x : PierSt) => ({ d with pier := x } : Dev)
    (tget 0 d.pier.passFrom p + fact d (regPierScrub p) fldPierScrubScrubHours * 3600 * subPerSec * 3 / 2 < tb2 d →
      d.pier.overrun.contains p.val = false → fget d (regPierScrub p) fldPierScrubScrubEn = 1 →
      exec (.scrubPassOverrun p) s = .next (withDev s (record (put d { d.pier with overrun := natPut d.pier.overrun p })
        { status := 0x1309, detail := p }))) ∧
    (∀ (ch : Fin 32) (row : Nat), let k := (p.val * 32 + ch.val) * 2 ^ 20 + row
      let c := (physRow d p ch row).1
      let used := fget d (regPierChState p c) fldPierChStateRowsSpared
      fget d (regPierSpareCfg p) fldPierSpareCfgAutoRow ≠ 0 → d.pier.due.contains k = true → used < 16384 →
      let d1 := fset (put d { d.pier with due := d.pier.due.filter (· != k) }) (regPierChState p c) fldPierChStateRowsSpared (used + 1)
      exec (.rowSpare p ch row) s = .next (withDev s (record
        (put d1 { d1.pier with rowMap := tset d1.pier.rowMap k used, rowCorr := tdel d1.pier.rowCorr k })
        { status := 0x2304, addr := rowAddr p ch row 0, detail := chDetail p ch row }))) ∧
    (∀ ch : Fin 32, fget d (regPierStatus p) fldPierStatusState = 0 →
      let d1 := fset (fset d (regPierStatus p) fldPierStatusState 1) (regPierStatus p) fldPierStatusSpareCh ch
      exec (.pierSpare p ch) s = .next (withDev s (fset (put d1 { d1.pier with copied := tdel d1.pier.copied p })
        (regPierChState p ch) fldPierChStateState 2))) ∧
    (fget d (regPierStatus p) fldPierStatusState = 1 →
      let ch := fget d (regPierStatus p) fldPierStatusSpareCh
      let d1 := fset (fset d (regPierStatus p) fldPierStatusState 2) (regPierChState p ch) fldPierChStateState 3
      exec (.channelSpareComplete p) s = .next (withDev s (record (put d1 (mapChannel d1.pier p ch))
        { status := 0x2305, detail := chDetail p ch 0 }))) ∧
    (∀ ch : Fin 32, let st := fget d (regPierChState p ch) fldPierChStateState
      let k := p.val * 32 + ch.val
      let r0 := tget {} d.pier.retrain k
      let r1 := tmod {} d.pier.retrain k (fun r => { r with active := true, slices := 0 })
      let r2 := tset d.pier.retrain k { r0 with active := true, slices := r0.slices + 1 }
      (st = 0 → exec (.pierRetrain p ch) s = .next (withDev s
        (fset (put d { d.pier with retrain := r1 }) (regPierChState p ch) fldPierChStateState 1))) ∧
      (st = 1 → r0.slices + 1 < 64 →
        exec (.retrainSlice p ch false true none 0) s = .next (withDev s (put d { d.pier with retrain := r2 }))) ∧
      (st = 1 → exec (.retrainSlice p ch true true none 0) s = .next (withDev s (record
        (fset (fsat (put d { d.pier with retrain := tset d.pier.retrain k {} }) (regPierChState p ch) fldPierChStateRetrains 1)
          (regPierChState p ch) fldPierChStateState 0) { status := 0x2306, detail := chDetail p ch 0 }))))

/-- The engine commands (R234 to R246). -/
def Obligations.PlinthEngines : Prop :=
  ∀ (s : State) (p : Fin 8) (x : EngCmd), Runs s →
    let d := s.dev
    let n := engArg x 0 4
    let w := engWho x
    let free := fun (rs : List (Bool × Nat × Nat)) => firstErr d w rs = none
    let met := fun (reads : List (Nat × Nat)) => meetErrs d x reads
    let goes := fun (reads : List (Nat × Nat)) (d1 : Dev) (st flags res at_ : Nat) =>
      (.next (withDev s (foundIn reads (engEnd d1 p x st flags res at_))) : Host.Outcome State Fault Refusal)
    let wrote := fun (d0 : Dev) (hs : List AttnAcc) (r : List Byte × Nat) => (hs.zipIdx.filter (fun h => h.1.poison)).foldl (fun d h =>
      markPoison d (x.dst + 0x50 + h.2 * r.2) 0 (8 * (r.2 - 16))) (devWrite d0 x.dst r.1 false)
    (let reads := (attendPages x).map (fun a => (a, 65536))
     attendOk p x = true → free (reads.map (fun r => (false, r))) →
      let hs := attendHeads (met reads) x
      let r := attnPartial (engArg x 14 1) (engArg x 12 2) (engArg x 16 2) n x.tag hs
      accessErr (met reads) w true x.dst r.1.length = none →
      exec (.attend p x) s = goes reads (wrote (met reads) hs r)
        (if hs.any (fun h => h.poison) then 0x3307 else 0) (8 * b2n (hs.any (fun h => h.s.invalid || h.v.any (fun v => v.invalid)))) 0
        ((firstPoison (wrote (met reads) hs r) (attendUses x)).getD x.dst)) ∧
    (let m := engArg x 4 4
     let idx := (List.range m).map (fun i => (fieldLe x.payload (4 * i) 4, bitOf x.pmap i))
     let used := idx.takeWhile (fun i => !i.2 && i.1 < engArg x 8 4)
     let reads := used.map (fun i => (x.src + i.1 * n, n))
     let g := gatherRows n (engArg x 8 4) x.src x.dst idx 0 0 (met reads)
     gatherOk p x = true → free (reads.map (fun r => (false, r)) ++ [(true, x.dst, m * n)]) →
     ∀ rows, exec (.gather p x rows) s = .next (withDev s (foundIn reads (if rows = true ∧ g.2 ≠ 0 then
         emit (endRequest g.1 x.inst x.ctx (if g.2 = 1 then 0x3104 else 0x3105) used.length 0)
           (.engDone x.tag (if g.2 = 1 then 0x3307 else 0x330F) 0 0)
       else engEnd g.1 p x (if g.2 = 0 then 0 else if g.2 = 1 then 0x3307 else 0x330F) 0 0 x.src)))) ∧
    (let f := outElem (engArg x 4 1) (engArg x 5 1)
     let g := outElem (engArg x 6 1) 0
     let reads := [(x.src, n * f.bits / 8), (x.aux, n / 32)]
     let rs := (List.range n).map (fun i => (roundVal g (mxVal f (elemAt (met reads) x.src (f.bits * i) f.bits).1 (elemAt (met reads) x.aux (8 * (i / 32)) 8).1)
       (engArg x 7 1 == 1), (elemAt (met reads) x.src (f.bits * i) f.bits).2 || (elemAt (met reads) x.aux (8 * (i / 32)) 8).2))
     dequantOk x = true → free (reads.map (fun r => (false, r)) ++ [(true, x.dst, n * g.bits / 8)]) →
     let d1 := (rs.zipIdx.filter (fun r => r.1.2)).foldl (fun d r => markPoison d x.dst (g.bits * r.2) g.bits)
       (devWrite (met reads) x.dst (packElems g.bits (rs.map (fun r => r.1.1))) false)
     exec (.dequant p x) s = goes reads d1 (if rs.any (fun r => r.2) then 0x3307 else 0) (Flags.union (rs.map (fun r => r.1.2))).toNat 0
       ((firstPoison d1 reads).getD x.src)) ∧
    (copyOk p x = true → free [(false, x.src, n), (true, x.dst, n)] →
      let d0 := met [(x.src, n)]
      let c := crcEnd x (bitOf (engArg x 4 4) 0) (bitOf (engArg x 4 4) 1) (devRead d0 x.src n)
      exec (.copy p x) s = goes [(x.src, n)] (copyBytes d0 x.src x.dst n) c.1 0 c.2 x.src) ∧
    (moveOk p x = true → free [(true, x.src, n), (true, x.dst, n)] →
      exec (.move p x) s = goes [(x.src, n)] (freePages (copyBytes (met [(x.src, n)]) x.src x.dst n) x.src n) 0 0 0 x.src) ∧
    (crcOk x = true → free [(false, x.src, n)] →
      let d0 := met [(x.src, n)]
      let c := crc64 (devRead d0 x.src n)
      exec (.crc64 p x) s = goes [(x.src, n)] d0 (if bitOf (engArg x 4 4) 1 = true ∧ c ≠ x.aux then 0x3310 else 0) 0 c x.src) ∧
    (harqOk x = true → free [(false, x.src, n), (true, x.aux, n), (true, x.dst, n)] →
      (bitOf (engArg x 4 4) 0 = true →
        let d0 := met [(x.src, n)]
        isPoisoned d0 x.src n = false → exec (.harqCombine p x none) s =
        goes [(x.src, n)] (devWrite (devWrite d0 x.aux (devRead d0 x.src n) false) x.dst (devRead d0 x.src n) false) 0 0 0 x.aux) ∧
      (bitOf (engArg x 4 4) 0 = false →
        let reads := [(x.src, n), (x.aux, n)]
        let d0 := met reads
        isPoisoned d0 x.src n = false → isPoisoned d0 x.aux n = false →
        let out := ((devRead d0 x.src n).zip (devRead d0 x.aux n)).map (fun q => softAdd q.1 q.2)
        exec (.harqCombine p x none) s = goes reads (devWrite (devWrite d0 x.aux out false) x.dst out false) 0 0 0 x.aux)) ∧
    (fillOk x = true → free [(true, x.dst, n)] → exec (.fill p x) s =
      goes [] (devWrite (met []) x.dst ((List.range n).map (fun i => lget 0 (natLe 8 x.src) (i % 8))) false) 0 0 0 x.dst) ∧
    (let keys := rangeFrom (pageKey x.src) n
     let bits := keys.map (fun k => (tget {} d.pier.pages k).dirty)
     dirtyOk p x = true → (keys.any (fun k => !pageAllows (tget {} d.pier.pages k) w true)) = false →
     accessErr d w true x.dst ((n + 7) / 8) = none →
     exec (.dirtyScan p x) s = .next (withDev s (engEnd (devWrite (keys.foldl (fun d k =>
         { d with pier := { d.pier with pages := tmod {} d.pier.pages k (fun e => { e with dirty := false }) } }) d) x.dst
       (natLe ((n + 7) / 8) (bits.zipIdx.foldl (fun a b => a + b2n b.1 * 2 ^ b.2) 0)) false) p x 0 0 ((bits.filter id).length) x.src)))

/-- Page ownership (R231, R232). -/
def Obligations.PageRules : Prop :=
  ∀ (s : State) (i x : Nat) (l : Fin 8589934592) (m : Word) (bs : List Byte), Runs s → bs.length = 64 → memWf s.dev.mem = true →
    let o := 64 * l.val
    let e := pageOf s.dev o
    (e.owner = i → e.slot = false → mapMeets s.dev (.ctx i x) o 64 = false → (m.toNat = 2 ^ 64 - 1 ∨ unitPoisoned s.dev o = false) →
      ∃ t, exec (.pierWrite (.ctx i x) l m { data := bs } false) s = .next t ∧
        (∀ j < 64, devRead t.dev (o + j) 1 = if bitOf m.toNat j then [lget 0 bs j] else devRead s.dev (o + j) 1) ∧
        (∀ b, b < o ∨ o + 64 ≤ b → devRead t.dev b 1 = devRead s.dev b 1) ∧ unitPoisoned t.dev o = false ∧
        (pageOf t.dev o).dirty = true ∧ (pageOf t.dev o).owner = i ∧ memWf t.dev.mem = true ∧
        t.dev.regs = s.dev.regs ∧ t.dev.ctxs = s.dev.ctxs ∧ t.dev.insts = s.dev.insts) ∧
    (e.slot = true ∨ e.owner ≠ i → ∃ t, exec (.pierWrite (.ctx i x) l m { data := bs } false) s = .next t ∧
      t.dev = endCtx s.dev i x 0x4308 o (pierDetail o) ∧ t.dev.mem = s.dev.mem ∧ t.dev.poison = s.dev.poison ∧ t.dev.pier = s.dev.pier)

/-- Memory keeps its canonical form. -/
def Obligations.MemoryForm : Prop :=
  memWf State.reset.dev.mem = true ∧
  ∀ (s t : State) (i : Instr), (PierOp i ∨ ∃ c fixed, i ∈ signalOps c fixed) → memWf s.dev.mem = true → memWf s.dev.hmem = true → exec i s = .next t →
    memWf t.dev.mem = true ∧ memWf t.dev.hmem = true

/-- The tiers manager (R267 to R273). -/
def Obligations.TierRequests : Prop :=
  ∀ (s : State) (i : Fin 65) (x : Fin 16) (a : Nat) (k : Fin 2), Runs s →
    let d := s.dev
    let e := getAsh d a
    (refErr d i a = none → refOf d i a k = none → e.integ ≠ 2 →
      (k.val = 0 → refBytes d i 0 true + ashBytes e ≤ (instSt d i).part.cap * 1048576 ∧
        refBytes d i 0 false + ashBytes e ≤ (instSt d i).part.cap * 1048576) →
      (resident e k = true → exec (.promotion i a k) s = .next (withDev s (addRef d i a k false))) ∧
      (resident e k = false → (promoOf d a k).isSome = true → exec (.promotion i a k) s = .next (withDev s (joinPromo d i a k false))) ∧
      (resident e k = false → promoOf d a k = none → d.tier.later = [] → ∀ dst d1, allocCopy d e k = some (dst, d1) →
        exec (.promotion i a k) s = .next (withDev s (startPromo d1 a k dst i false)))) ∧
    (∀ p, promoOf d a k = some p → promoFull d p = true → p.again = false →
      (p.allLost = true ∨ p.lostCw ≠ [] ∨
        (p.pier && isPoisoned d (tierAddr 1 e.pier) (ashBytes e)) = false ∧ crc64 (promoBytes d p) = e.crc) →
      exec (.promotionComplete a k 0) s = .next (withDev s (resumeLater (settlePromo (landPromo d p) p)))) ∧
    ((ctxSt d i x).live = true → (ctxSt d i x).ending = none →
      let r := ask d { inst := i, ash := a, tier := 0, cls := (ctxSt d i x).cls, demand := true, ctx := some x.val }
      let d2 := modCtx (fsat r.1 regTierCount fldTierCountOndemand 1) i x
        (fun y => { y with tele := { y.tele with onDemand := satAdd 64 y.tele.onDemand 1 } })
      (r.2 = .done → exec (.onDemandPromotion i x a) s = .next (withDev s d2)) ∧
      (r.2 = .flying ∨ r.2 = .waits →
        (d2.tier.waits.any (fun w => w.inst == i.val && w.ctx == x.val && w.ash == a)) = false →
        exec (.onDemandPromotion i x a) s =
          .next (withDev s (modTier d2 (fun t => { t with waits := { inst := i, ctx := x, ash := a } :: t.waits }))))) ∧
    (∀ w, d.tier.waits.find? (fun w => w.inst == i.val && w.ctx == x.val) = some w → (ctxSt (stopWaits d i x) i x).queue ≠ [] →
      exec (.fetchLimitExpiry i x) s = .next (withDev s (stepDone (stopWaits d i x) i x 0x340E w.ash 0 0 true))) ∧
    (∀ layer : Nat, let c := ctxSt d i x
      c.live = true → c.ending = none → c.comp.entries ≠ 0 → accessErr d (.ctx i x) false c.comp.schedule (16 * c.comp.entries) = none →
      let ahead := fact d regTierPrefetch fldTierPrefetchLookahead
      let d1 := match c.layer with
        | none => d
        | some l => ((scheduleOf d i x).filter (fun e => e.layer == l)).foldl (fun d e =>
            if bitOf e.flags 1 then dropRef d i e.ash e.dest else if bitOf e.flags 0 then unpin d i e.ash e.dest else d)
            (modCtx d i x (fun y => { y with layer := none }))
      let d2 := if c.layer = some layer then d else modCtx d1 i x (fun y => { y with layer := some layer })
      exec (.prefetchLayer i x layer) s = .next (withDev s (resumeLater
        ((scheduleOf d2 i x).foldl (fun d e =>
          if (ctxSt d i x).ending.isNone ∧ layer < e.layer ∧ e.layer ≤ layer + ahead ∧ (!bitOf e.flags 2 ∨ e.dest = 1) then
            let r := ask d { inst := i, ash := e.ash, tier := e.dest, pin := bitOf e.flags 0, cls := c.cls, ctx := some x.val }
            match r.2 with
            | .refused st => if st / 4096 = 4 then endCtx r.1 i x st e.ash (ashDetail r.1 e.ash) else endRequest r.1 i x st e.ash (ashDetail r.1 e.ash)
            | _ => r.1
          else d) d2))))

/-- Where an ashlar is read from shows in no byte (R271). -/
def Obligations.PromotionKeepsBytes : Prop :=
  ∀ (s : State) (a : Nat) (k : Fin 2) (p : Promo), Runs s → memWf s.dev.mem = true → a < ashMax → promoOf s.dev a k = some p → p.tier = k →
    promoFull s.dev p = true → p.lostCw = [] → p.allLost = false → p.again = false → p.got = [] → s.dev.tier.later = [] →
    let d := s.dev
    let e := getAsh d a
    let n := ashBytes e
    let src := if p.pier then tierAddr 1 e.pier else flashPage e.flash
    let dst := tierAddr k p.dst
    let base := fget d regTierMapBase fldTierMapBaseBase
    (p.pier && isPoisoned d src n) = false → crc64 (memRead d.mem src n) = e.crc → (dst + n ≤ base ∨ base + 65 * 2097152 ≤ dst) →
    ∃ t, exec (.promotionComplete a k 0) s = .next t ∧
      (∀ j < n, memGet t.dev.mem (dst + j) = memGet d.mem (src + j)) ∧
      (∀ b, (b < dst ∨ dst + n ≤ b) → (b < base ∨ base + 65 * 2097152 ≤ b) → memGet t.dev.mem b = memGet d.mem b) ∧
      memWf t.dev.mem = true ∧ (∀ r, r ≠ regTierStatus → getReg t.dev r = getReg d r)

/-- The layout of an ashlar map entry (R265). -/
def Obligations.AshlarEntryBits : Prop :=
  ∀ e : AshEnt, e.crc < 2 ^ 64 → e.flash < 2 ^ 32 → e.pier < 2 ^ 24 → e.mortar < 4096 → e.set < 4096 → e.owner < 128 → e.mrefs < 256 →
    e.prefs < 256 → e.mpins < 256 → e.ppins < 256 → e.promo < 4 → e.integ < 8 → e.resident < 8 → e.layout < 16 → e.size < 2 →
    ashOfBits (ashBits e) = e ∧ ashBits e < 2 ^ 256 ∧
    ashBits e >>> 192 = e.crc ∧ ashBits e >>> 160 % 2 ^ 32 = e.flash ∧ ashBits e >>> 136 % 2 ^ 24 = e.pier ∧
    ashBits e >>> 124 % 4096 = e.mortar ∧ ashBits e >>> 112 % 4096 = e.set ∧ ashBits e >>> 105 % 128 = e.owner ∧
    (ashBits e).testBit 104 = e.shared ∧ ashBits e >>> 96 % 256 = e.mrefs ∧ ashBits e >>> 88 % 256 = e.prefs ∧
    ashBits e >>> 80 % 256 = e.mpins ∧ ashBits e >>> 72 % 256 = e.ppins ∧ ashBits e >>> 70 % 4 = e.promo ∧
    ashBits e >>> 67 % 8 = e.integ ∧ ashBits e >>> 64 % 8 = e.resident ∧ ashBits e >>> 60 % 16 = e.layout ∧ ashBits e >>> 59 % 2 = e.size

/-- The flash controller and the mortar scrubber (R277 to R283, R498). -/
def Obligations.FlashRepair : Prop :=
  ∀ (s : State) (row cw target block a : Nat) (pos : Fin 30) (at_ : Fin 32), let page := row * 30 + pos
    Runs s → posChannel row pos = at_ → cw < 16 → ashOfPage s.dev page = some a → memWf s.dev.mem = true →
    let d := s.dev
    let e := getAsh d a
    let ch := pageChannel page
    (∀ flips, d.tier.promos.any (fun q => q.ash == a && !q.pier) = true → pageAway d page = false →
      (wrongBits flips = [] → exec (.flashCodewordRead row pos at_ cw flips) s = .next (withDev s (deliverCw d a page cw (cwBytes d page cw)))) ∧
      (∀ bs, hardDecode d page cw flips = some bs → exec (.flashCodewordRead row pos at_ cw flips) s = .next (withDev s (deliverCw d a page cw bs))) ∧
      (hardDecode d page cw flips = none → fact d regRadioDarner fldRadioDarnerFlashShare = 1 →
        exec (.flashCodewordRead row pos at_ cw flips) s = .next (withDev s (modTier (modTier d (fun t => { t with promos := t.promos.map (fun q =>
          if q.ash == a && !q.pier then { q with badCw := natPut q.badCw ((page - e.flash) * 16 + cw) } else q) }))
          (fun t => { t with soft := natPut t.soft (page * 16 + cw) }))))) ∧
    (∀ mid low high, d.tier.soft.contains (page * 16 + cw) = true → (decJobs d).isEmpty = true → (∃ u < 16, accelOk d u 0 = true) →
      tget 0 d.tier.blkSoft (pageBlk d page) + 1 < fact d regFlsRetire fldFlsRetireRetireSoft →
      let d1 := fsat (modTier d (fun t => { t with soft := t.soft.filter (· != page * 16 + cw) })) (regFlsChState ch) fldFlsChStateSoftRetries 1
      let k := pageBlk d page
      let d2 := modTier d1 (fun t => { t with blkSoft := tset t.blkSoft k (tget 0 d.tier.blkSoft k + 1) })
      let d3 := fsat d2 regFlsErr fldFlsErrSoftCorrected 1
      exec (.flashRetry row pos at_ cw mid low high) s = .next (withDev s
        (match flashDecode d (sensed d page cw mid) (sensed d page cw low) (sensed d page cw high) with
        | some bs => deliverCw (record d3 { status := 0x2402, addr := a, detail := pageDetail d3 a page }) a page cw bs
        | none => toRebuild d2 page))) ∧
    (d.tier.soft.contains (page * 16 + cw) = true → exec (.softWaitExpiry row pos at_ cw) s = .next (withDev s
      (toRebuild (record d { status := 0x140D, addr := a, detail := pageDetail d a page }) page))) ∧
    (d.tier.rebuild = [page] → (∀ c < 32, chAway d c = false) → d.tier.blkFail = [] → d.tier.later = [] → e.integ = 2 →
      ∃ t, exec (.stripeRebuild row false false []) s = .next t ∧ (getAsh t.dev a).integ = 1 ∧ t.dev.tier.rebuild = [] ∧
        t.dev.tier.blkDue.contains (pageBlk d page) = true ∧
        fget t.dev regFlsErr fldFlsErrRebuilt = min (2 ^ fldFlsErrRebuilt.w - 1) (fget d regFlsErr fldFlsErrRebuilt + 1)) ∧
    (∀ c : Fin 32, d.tier.blkDue.contains (blkKey c target block) = true → d.tier.rebuild = [] → d.tier.remap = [] →
      fact d regFlsRetire fldFlsRetireSpareLow + 1 < fget d (regFlsChState c) fldFlsChStateSpares →
      let k := blkKey c target block
      let d1 := modTier d (fun t => { t with
        blkDue := t.blkDue.filter (· != k), blkSoft := tdel t.blkSoft k, blkFail := t.blkFail.filter (· != k)
        remap := tset t.remap k (Config.spareBlock c target (fget d (regFlsChState c) fldFlsChStateRetired)) })
      let d2 := fset d1 (regFlsChState c) fldFlsChStateSpares (fget d (regFlsChState c) fldFlsChStateSpares - 1)
      exec (.blockRetirement c target block false) s = .next (withDev s (resumeLater (record (fsat d2 (regFlsChState c) fldFlsChStateRetired 1)
        { status := 0x1404, detail := c.val * 2 ^ 16 + target * 2 ^ 24 + block * 2 ^ 32 })))) ∧
    (∀ c : Fin 32, (fget d (regFlsChState c) fldFlsChStateState = 1 ∨ fget d (regFlsChState c) fldFlsChStateState = 2) → chLooped d c = false →
      exec (.flsRecal c true) s = .next (withDev s (resumeLater (record (modTier (fset d (regFlsChState c) fldFlsChStateState 1)
        (fun t => { t with recFails := tdel t.recFails c })) { status := 0x240C, detail := c.val * 2 ^ 16 })))) ∧
    (∀ w : Fin 8388608, mortarBase + w.val * 32 < mortarEnd →
      exec (.mortarScrubRead w 1) s = .next (withDev s (record d { status := 0x2412, addr := mortarBase + w.val * 32 })) ∧
      exec (.mortarScrubRead w 0) s = .next s)

/-- The ports (R296 to R302, R315). -/
def Obligations.TreanPorts : Prop :=
  ∀ (s : State) (p : Fin 8), Runs s →
    let d := s.dev
    let st := portState d p
    let cfg := getReg d (regTrnPortCfg p)
    (st = 0 → let d1 := commitReg (fset d (regTrnPortCtrl p) fldTrnPortCtrlEnable 1) (regTrnPortCtrl p)
      exec (.trnEnable p true) s = .next (withDev s
        (setPortState (modPort d1 p (fun x => { x with struck := [], ability := none, mode := none })) p 1))) ∧
    (st ≠ 8 → let d1 := commitReg (fset d (regTrnPortCtrl p) fldTrnPortCtrlEnable 0) (regTrnPortCtrl p)
      exec (.trnEnable p false) s = .next (withDev s (setPortState (modPort d1 p (fun x => { x with recal := none })) p 0))) ∧
    (st = 1 → exec (.trnSignalDetect p) s = .next (withDev s (setPortState d p 2))) ∧
    (st = 2 → exec (.trnAbilityTimeout p) s = .next (withDev s (setPortState d p 1))) ∧
    (st = 2 → ∀ (a : Ability) (m : TrnMode),
      let d1 := fset d (regTrnPortState p) fldTrnPortStatePeer (if a.isSwitch then 0 else a.endpoint)
      let d2 := modPort d1 p (fun x => { x with ability := some a })
      partnerFits d2 p a = true → bestMode cfg a (portSt d p).struck = some m →
      exec (.trnAbilityDone p a) s = .next (withDev s (setPortState (showMode (modPort d2 p (fun x => { x with mode := some m })) p m) p 3))) ∧
    (st = 3 → exec (.trnTrainDone p true) s = .next (withDev s (setPortState d p 4))) ∧
    (st = 4 → fget d regTrnStatus fldTrnStatusFenced = 0 → ∀ m, (portSt d p).mode = some m →
      let d1 := modPort d p (fun x => { x with nextSend := 0, expect := 0, replay := [], nakCount := 0, credReq := 4096, credRsp := 4096
                                               credMgt := 512, recal := none })
      exec (.trnInitDone p) s = .next (withDev s (setPortState (fset d1 (regTrnPortState p) fldTrnPortStateLanesActive (laneMask m)) p 5))) ∧
    (3 ≤ st ∧ st ≤ 7 → exec (.trnRetrain p) s = .next (withDev s
      (setPortState (modPort (retrainPort d p) p (fun x => { x with struck := [], recal := none })) p 2))) ∧
    (∀ (l : Fin 4) (m : TrnMode), (portSt d p).mode = some m → m.lanes ≤ 2 → l.val < 2 ^ m.lanes →
      (st = 5 → (m.lanes = 1 ∨ m.lanes = 2) → exec (.trnRecal p l false) s = .next (withDev s
        (fset (setPortState (modPort d p (fun x => { x with recal := some l.val })) p 6) (regTrnPortState p) fldTrnPortStateLanesActive
          (if m.lanes = 2 then (if l.val < 2 then 12 else 3) else 2 ^ (1 - l.val))))) ∧
      (st = 6 → (portSt d p).recal = some l.val → fget d regTrnStatus fldTrnStatusFenced = 0 → ∃ t, exec (.trnRecal p l true) s = .next t ∧
        portState t.dev p = 5 ∧ (portSt t.dev p).recal = none ∧
        fget t.dev (regTrnPortState p) fldTrnPortStateLanesActive = 2 ^ 2 ^ m.lanes - 1)) ∧
    (portLive d p = true →
      exec (.trnLinkLoss p) s = .next (withDev s (setPortState (modPort d p (fun x => { x with recal := none })) p 0)) ∧
      (∀ f : Flit, flitGood f = true → flitFld f 84 12 = (portSt d p).expect → f.laneSym = [] → f.fecCorr = 0 →
        let d1 := fsat d (regTrnPortErr p) fldTrnPortErrFecCorr 0
        let d2 := fset d1 (regTrnPortRx p) fldTrnPortRxFlits (fget d1 (regTrnPortRx p) fldTrnPortRxFlits + 1)
        let d3 := modPort d2 p (fun x => { x with expect := (flitFld f 84 12 + 1) % 4096 })
        exec (.flitReceive p f) s = .next (withDev s (flitHeader (emit d3 (.flitAck p 1 (flitFld f 84 12))) p f))) ∧
      (∀ f : Flit, flitGood f = false → ∃ t, exec (.flitReceive p f) s = .next t ∧
        t.dev.outs.getLast? = some (.flitAck p 2 (portSt d p).expect) ∧ (portSt t.dev p).expect = (portSt d p).expect) ∧
      (∀ seq, (portSt d p).nakSeq ≠ seq ∨ (portSt d p).nakCount < 7 →
        let n := if (portSt d p).nakCount ≠ 0 ∧ (portSt d p).nakSeq = seq then (portSt d p).nakCount + 1 else 1
        let d1 := modPort (fsat d (regTrnPortRetry p) fldTrnPortRetryReplays 1) p (fun x =>
          { x with replay := x.replay.dropWhile (fun q => q != seq), nakCount := n, nakSeq := seq })
        let again := (portSt d1 p).replay
        exec (.flitNak p seq) s = .next (withDev s (emit
          (fset d1 (regTrnPortTx p) fldTrnPortTxFlits (fget d1 (regTrnPortTx p) fldTrnPortTxFlits + again.length)) (.flitReplay p again)))) ∧
      (∀ w, (portSt d p).wait = [w] → agedOut d w = true → d.trn.portWait = [] → exec (.ageExpiry p) s =
        .next (withDev s (fsat (modPort d p (fun x => { x with wait := [] })) (regTrnPortRetry p) fldTrnPortRetryAged 1))))

/-- The table of port states (R297). -/
def Obligations.PortStatesMove : Prop :=
  ∀ (s t : State) (p : Fin 8) (i : Instr), PortOp p i → exec i s = .next t →
    (∀ q : Fin 8, q ≠ p → portState t.dev q = portState s.dev q) ∧ t.dev.mem = s.dev.mem ∧ t.dev.poison = s.dev.poison ∧
    (portState t.dev p = portState s.dev p ∨ (portState s.dev p, portState t.dev p) ∈
      [(0, 1), (1, 2), (2, 1), (2, 3), (2, 0), (3, 4), (3, 0), (4, 5), (4, 7), (5, 6), (6, 5), (6, 7), (1, 0), (4, 0), (5, 0), (6, 0),
       (7, 0), (3, 2), (4, 2), (5, 2), (6, 2), (7, 2), (5, 3), (6, 3), (7, 3), (0, 5), (0, 7)] ∨
      (8 < portState s.dev p ∧ portState t.dev p = 0))

/-- Table: Trean operations (R306). -/
def Obligations.HomeOperations : Prop :=
  ∀ (s : State) (p : Fin 8) (r : TrnReq), Runs s →
    let d := s.dev
    let line := r.addr / 128 * 128
    let m := devNat d r.addr 8
    let sg := fun v => toSigned 64 v
    let fin := fun (d1 : Dev) (op : Nat) (reply : TrnPkt) =>
      let l := tget {} d1.trn.lines (r.addr / 128)
      let l1 := { l with until_ := tb2 d1 + (if op = 2 then 32 else 64), isWr := op == 2, src := r.src, job := r.job, counted := false }
      let e : CacheEnt := { reply := some reply, job := r.job, at_ := tb2 d1 }
      let t := { d1.trn with lines := tset d1.trn.lines (r.addr / 128) l1, cache := tset d1.trn.cache (cacheKey r) e }
      (.next (withDev s (sendPkt { d1 with trn := t } p reply)) : Host.Outcome State Fault Refusal)
    let good := r.poison = false ∧ isPoisoned d line 128 = false
    let old := (replyTo d r 0 false m)
    let put := fun v => devPut d r.addr 8 v
    (HomeServes d p 1 r → exec (.rd p r) s = .next (withDev s
      (sendPkt d p (.rsp 0x81 (replyTo d r 0 (isPoisoned d r.addr 128) 0 (devRead d r.addr 128)))))) ∧
    (HomeApplies d p 2 r → exec (.wr p r) s = fin (maskedWrite d line r.mask r.data r.poison) 2 (.rsp 0x82 (replyTo d r))) ∧
    (HomeApplies d p 3 r → good → exec (.fadd p r) s = fin (put ((m + r.a) % 2 ^ 64)) 3 (.rsp 0x84 old)) ∧
    (HomeApplies d p 4 r → good → exec (.cas p r) s = fin (put (if m = r.b then r.a else m)) 4 (.rsp 0x84 old)) ∧
    (HomeApplies d p 5 r → good → exec (.minS p r) s = fin (put (if sg r.a < sg m then r.a else m)) 5 (.rsp 0x84 old)) ∧
    (HomeApplies d p 6 r → good → exec (.maxS p r) s = fin (put (if sg m < sg r.a then r.a else m)) 6 (.rsp 0x84 old)) ∧
    (HomeApplies d p 7 r → good → exec (.minU p r) s = fin (put (min m r.a)) 7 (.rsp 0x84 old)) ∧
    (HomeApplies d p 8 r → good → exec (.maxU p r) s = fin (put (max m r.a)) 8 (.rsp 0x84 old)) ∧
    (HomeApplies d p 9 r → good → exec (.orOp p r) s = fin (put (m ||| r.a)) 9 (.rsp 0x84 old)) ∧
    (HomeApplies d p 0x0A r → good → exec (.exadd p r) s =
      fin (devWrite d line (exaddLine (devRead d line 128) r.data) false) 0x0A (.rsp 0x82 (replyTo d r))) ∧
    (HomeApplies d p 0x0B r → good →
      let d1 := devWrite d line (ffaddLine (devRead d line 128) r.data) false
      exec (.ffadd p r) s = fin (countJobChoice (fsat d1 regTrnChoice fldTrnChoiceFfaddApplied 1) r.job) 0x0B (.rsp 0x82 (replyTo d r))) ∧
    (HomeApplies d p 0x0C r → good → exec (.relSt p r) s = fin (put r.a) 0x0C (.rsp 0x82 (replyTo d r 0 false 0))) ∧
    (HomeApplies d p 0x0D r → good → exec (.relAdd p r) s = fin (put ((m + r.a) % 2 ^ 64)) 0x0D (.rsp 0x84 old)) ∧
    (∀ st, portLive d p = true → fenceDrops d r.src r.epoch = false → r.age < maxAge → r.dst = ownEndpoint d → r.addr % 128 = 0 →
      r.hostFault = false → homeRefusal d 1 r = some st →
      exec (.rd p r) s = .next (withDev s (sendPkt d p (.rsp 0x85 (replyTo d r st)))))

/-- Exactly once (R313). -/
def Obligations.WriteAppliedOnce : Prop :=
  ∀ (p : Fin 8) (r : TrnReq) (op : Nat) (i : Instr),
    (op, i) ∈ [(2, Instr.wr p r), (3, .fadd p r), (4, .cas p r), (5, .minS p r), (6, .maxS p r), (7, .minU p r), (8, .maxU p r), (9, .orOp p r),
      (0x0A, .exadd p r), (0x0B, .ffadd p r), (0x0C, .relSt p r), (0x0D, .relAdd p r)] →
    (∀ s : State, Runs s → (tget? s.dev.trn.cache (cacheKey r)).isSome = true → r.hostFault = false → ∃ t, exec i s = .next t ∧
      t.dev.mem = s.dev.mem ∧ t.dev.poison = s.dev.poison ∧ t.dev.trn.lines = s.dev.trn.lines ∧ t.dev.trn.cache = s.dev.trn.cache ∧
      t.dev.trn.exports = s.dev.trn.exports ∧ t.dev.jobs = s.dev.jobs) ∧
    (∀ s : State, Runs s → HomeApplies s.dev p op r → ∃ t u, exec i s = .next t ∧
      (tget? t.dev.trn.cache (cacheKey r)).isSome = true ∧ exec i t = .next u ∧ u.dev.mem = t.dev.mem ∧ u.dev.poison = t.dev.poison)

/-- The requester's side (R305 to R316, R329). -/
def Obligations.ReplyEnds : Prop :=
  ∀ (s : State) (p : Fin 8) (r : TrnRsp) (o : OutReq) (tag : Nat), Runs s →
    let d := s.dev
    (Answers d p r o →
      (o.op = 1 → exec (.rdData p r) s = .next (withDev s (readDone d r.tag o r))) ∧
      (o.op ∈ [2, 0x0A, 0x0B, 0x0C] → exec (.done p r) s = .next (withDev s (writeDone d r.tag o none))) ∧
      (o.op ∈ [3, 4, 5, 6, 7, 8, 9, 0x0D] → exec (.atom p r) s = .next (withDev s (writeDone d r.tag o (some (r.value, r.poison))))) ∧
      exec (.nack p r) s = .next (withDev s (endReq d r.tag r.status)) ∧ exec (.accept p r) s = .next (withDev s
        { d with trn := { d.trn with reqs := tset d.trn.reqs r.tag { o with moved := tb2 d, sent := tb2 d } } })) ∧
    (tget? d.trn.reqs tag = some o → o.held = false → (ctxSt d o.inst o.ctx).ending = none → (instSt d o.inst).ending = none →
      (isWriteType o.op = true →
        (o.sent + copyTime ≤ tb2 d → tb2 d < o.moved + progressTime → exec (.writeResendTimer tag) s = .next (withDev s (resend d tag))) ∧
        (o.moved + progressTime ≤ tb2 d → exec (.writeOutcomeUnknown tag) s = .next (withDev s
          (failReq (toFm (fsat d regTrnReqCnt fldTrnReqCntOutcomeUnknown 1) 0xD1 [o.pkt.dst, o.pkt.job, 1]) tag 0x4502)))) ∧
      (o.op = 1 →
        (o.sent + copyTime ≤ tb2 d → (tb2 d < o.moved + progressTime ∨ o.suspect = true) →
          exec (.readResend tag false) s = .next (withDev s (resend d tag))) ∧
        (o.sent + copyTime ≤ tb2 d → o.moved + progressTime ≤ tb2 d → o.suspect = false →
          let t := { d.trn with reqs := tset d.trn.reqs tag { o with suspect := true } }
          exec (.readResend tag true) s = .next (withDev s (resend (toFm { d with trn := t } 0xD1 [o.pkt.dst, o.pkt.job, 0]) tag))) ∧
        (o.moved + o.limit * 8000000 ≤ tb2 d → exec (.loadLimitExpiry tag) s = .next (withDev s (failReq (fsat d regTrnReqCnt fldTrnReqCntReadTimeout 1) tag 0x4505))))) ∧
    (∀ (h : Fin 8) (src seq at_ job : Nat) (q : TrnPkt), src < 65536 → seq < 2 ^ 32 →
      let k := h.val * 2 ^ 48 + src * 2 ^ 32 + seq
      tget? d.trn.cache k = some { reply := some q, job := job, at_ := at_ } → at_ + 1600000 ≤ tb2 d → d.trn.portWait = [] →
      exec (.replyCacheExpiry h src seq) s = .next (withDev s { d with trn := { d.trn with cache := tdel d.trn.cache k } }))

/-- Gateways (R322, R323). -/
def Obligations.Gateways : Prop :=
  ∀ (s : State), Runs s →
    let d := s.dev
    (∀ n : Fin 256, ((List.range 8).any (fun p => portState d p != 0)) = false →
      let free := (List.range 256).filter (fun r => tget 127 d.mortar r == 127)
      (fget d regTrnTopo fldTrnTopoMesh ≠ 1 → 1 ≤ (bitList 8 n).length → (bitList 8 n).length ≤ 7 → isGateway d = false → 32 ≤ free.length →
        let d1 := commitReg (setReg d regTrnGw (256 + n)) regTrnGw
        exec (.gwEn true n) s = .next (withDev s { d1 with mortar := (free.take 32).foldl (fun m r => tset m r 101) d.mortar })) ∧
      (let d1 := { d with mortar := d.mortar.filter (fun p => p.2 != 101), trn := { d.trn with gwOpen := [], gwSent := [], gwEarly := [] } }
       exec (.gwEn false n) s = .next (withDev s (commitReg (setReg d1 regTrnGw n) regTrnGw)))) ∧
    (∀ (far : Nat) (c : Fin 2) (b : GwBlock), d.trn.gwOpen = [b] → b.far = far → b.chan = c.val → b.came.any (fun q => decide (q.1 + 16000 ≤ tb2 d)) = true →
      let seq := tget 0 d.trn.gwSeq (gwKey far c)
      let aged := (b.pkts.zip b.came).map (fun q => agePkt (tb2 d - q.2.1 + hopTime) q.1)
      (∀ q ∈ aged, pktAge q < maxAge) → exec (.gwBlockClose far c) s = .next (withDev s (emit { d with trn := { d.trn with
        gwOpen := [], gwSent := d.trn.gwSent ++ [{ b with seq := seq, pkts := aged, bytes := (aged.map pktBytes).sum, came := [], sent := tb2 d }], gwSeq := tset d.trn.gwSeq (gwKey far c) ((seq + 1) % 2 ^ 32) } }
        (.block (if c.val = 0 then 0x20 else 0xA0) far seq (32 + (aged.map pktBytes).sum) aged)))) ∧
    (∀ (far seq : Nat) (c : Fin 2) (b : GwBlock), d.trn.gwSent.find? (fun b => b.far == far && b.chan == c.val && b.seq == seq) = some b →
      (let d1 := { d with trn := { d.trn with gwSent := d.trn.gwSent.map (fun y => if y == b then { y with sent := tb2 d } else y) } }
       b.sent + 160000 ≤ tb2 d → exec (.gwBlockResend far c seq) s = .next (withDev s
        (record (emit d1 (.block (if c.val = 0 then 0x20 else 0xA0) far seq (32 + b.bytes) b.pkts))
          { status := 0x250B, detail := trnDetail far 0 seq (if c.val = 0 then 0x20 else 0xA0) }))) ∧
      exec (.blkAck far c seq) s = .next (withDev s { d with trn := { d.trn with
        gwSent := d.trn.gwSent.filter (fun b => !(b.far == far && b.chan == c.val && b.seq == seq)) } })) ∧
    (∀ (p : Fin 8) (near epoch seq : Nat) (pkts : List TrnPkt),
      let took := fun (chan : Nat) =>
        let d1 := emit d (.block 0xA1 near seq 32 [])
        unpack { d1 with trn := { d1.trn with gwSeen := tset d1.trn.gwSeen (gwKey near chan) ((seq + 1) % 2 ^ 32) } } p (pkts.map (agePkt 0))
      (BlockNext d p near epoch 0 seq → exec (.blkReq p near epoch seq pkts) s = .next (withDev s (took 0))) ∧
      (BlockNext d p near epoch 1 seq → exec (.blkRsp p near epoch seq pkts) s = .next (withDev s (took 1))) ∧
      (portLive d p = true → isGateway d = true → fenceDrops d near epoch = false → seq < 2 ^ 32 →
        (seq + 1) % 2 ^ 32 = tget 0 d.trn.gwSeen (gwKey near 0) →
        exec (.blkReq p near epoch seq pkts) s = .next (withDev s (emit d (.block 0xA1 near seq 32 [])))))

/-- Fabric-manager messages (R325 to R328). -/
def Obligations.FabricManager : Prop :=
  ∀ (s : State) (src epoch : Nat), Runs s →
    let d := s.dev
    let fm := fget d regTrnFm fldTrnFmFmValid = 1 ∧ fget d regTrnFm fldTrnFmFmEndpoint = src
    let goes := fun (d1 : Dev) => (.next (withDev s d1) : Host.Outcome State Fault Refusal)
    (fm →
      (∀ (pairs : List (Nat × Bool)) (jobs : List Nat), fget d regTrnEpoch fldTrnEpochEpoch < epoch → epoch < 2 ^ 32 →
        (∀ q ∈ pairs, q.2 = true → q.1 ≠ ownEndpoint d) →
        let d1 := record (fset d regTrnEpoch fldTrnEpochEpoch epoch) { status := 0x150A, detail := trnDetail src 0 0 0xC0 }
        let f := pairs.foldl (fun f p => if p.2 then tmod (false, 0) f p.1 (fun x => (true, x.2)) else tset f p.1 (false, epoch)) d.trn.fence
        exec (.fmEpoch src epoch pairs jobs) s = goes { d1 with trn := { d1.trn with fence := f } }) ∧
      (∀ job : Nat, let d1 := endJobs { d with trn := { d.trn with deadJobs := natPut d.trn.deadJobs job } } [job] 0x4506
        exec (.fmJobTeardown src job) s = goes ((d.trn.reqs.filter (fun p => p.2.pkt.job == job)).foldl (fun d p =>
          let d := { d with trn := { d.trn with reqs := tdel d.trn.reqs p.1 } }
          match p.2.use with
          | .strmRead k l => if strmAsked d k l p.2 then modStrm d (k / 16) (k % 16) (fun t =>
              { t with lines := t.lines ++ [(l, List.replicate 128 0, true)], asked := t.asked.filter (· != l) }) else d
          | _ => d) d1)) ∧
      (∀ (pod : Nat) (gws : List Nat), tget [] d.trn.routes pod = [] →
        exec (.fmRoute src pod gws) s = goes { d with trn := { d.trn with routes := tset d.trn.routes pod (gws.take 8) } }) ∧
      (fget d regTrnStatus fldTrnStatusFenced = 1 → fget d regTrnEpoch fldTrnEpochEpoch < epoch → epoch < 2 ^ 32 →
        let d1 := fset (fset d regTrnEpoch fldTrnEpochEpoch epoch) regTrnEpoch fldTrnEpochAdmitEpoch epoch
        let d2 := fset d1 regTrnStatus fldTrnStatusFenced 0
        exec (.fmAdmit src epoch) s = goes ((List.range 8).foldl (fun d p => if portState d p = 7 then setPortState d p 4 else d)
          { d2 with trn := { d2.trn with fence := tset d2.trn.fence (ownEndpoint d) (false, epoch) } })) ∧
      exec (.fmProbe src epoch) s = goes (toFm d 0xD0 (epoch :: fget d regTrnEpoch fldTrnEpochEpoch :: (List.range 8).map (portState d)))) ∧
    (¬ fm → ∀ i ∈ [Instr.fmEpoch src epoch [] [], .fmJobTeardown src epoch, .fmRoute src epoch [], .fmAdmit src epoch, .fmProbe src epoch],
      exec i s = goes (fsat d regTrnDropCnt fldTrnDropCntMgtDrop 1))

/-- The address hash (R308). -/
def Obligations.HashSpreads : Prop :=
  (∀ a : Nat, treanHash a < 8 ∧ treanHash a = treanHash (a / 128 * 128)) ∧
  (∀ a i j : Nat, i < 8 → j < 8 → treanHash (a / 1024 * 1024 + 128 * i) = treanHash (a / 1024 * 1024 + 128 * j) → i = j) ∧
  (∀ a b : Nat, treanHash (128 * (a ^^^ b)) = treanHash (128 * a) ^^^ treanHash (128 * b))

/-- Accesses of the host (R376 to R390). -/
def Obligations.HostAccess : Prop :=
  ∀ (s : State) (i : Fin 65) (q : Fin 17), Runs s → hostReaches s.dev i = true →
    let d := s.dev
    let k := regMbxRingState i q
    (∀ off n : Nat, (∀ p ∈ bar2Parts d i off n, bar2Ok d i p.1 p.2 false = true) → exec (.bar2Read i off n) s = .next (withDev s (emit d
      (.cplData false ((bar2Parts d i off n).any (fun p => isPoisoned d (bar2Addr d i p.1) p.2))
        ((bar2Parts d i off n).flatMap (fun p => devRead d (bar2Addr d i p.1) p.2)))))) ∧
    (∀ (off : Nat) (bs : List Byte) (ep : Bool), bar2Parts d i off bs.length = [(off, bs.length)] → bar2Ok d i off bs.length true = true →
      let d1 := devWrite d (bar2Addr d i off) bs ep
      exec (.bar2Write i off bs ep) s = .next (withDev s (if ep then emit d1 .aerAdvisory else d1))) ∧
    (∀ (ix : Fin 4096) (ws : List (Nat × List Byte)) (bad : List (Nat × Nat)),
      let d1 := ws.foldl (fun d w => hostWrite d w.1 w.2) d
      let d2 := { d1 with hbad := bad ++ d1.hbad }
      ix.val < ringEntries d i q → instState d2 i = instState d i → d2.env = d.env → ringEntries d2 i q = ringEntries d i q →
      exec (.mbxSqTail i q ix ws bad) s = .next (withDev s (fetchRing (modRing d2 i q (fun r => { r with sqTail := ix })) i q))) ∧
    (∀ ix : Fin 4096, let n := ringEntries d i q
      let steps := (ix + n - (ringSt d i q).cqHead) % n
      ix.val < n → steps ≤ (ringSt d i q).used → q.val ≠ 0 → exec (.mbxCqHead i q ix) s = .next (withDev s
        (fetchRing (modRing d i q (fun r => { r with cqHead := ix, used := r.used - steps })) i q))) ∧
    (fget d (regMbxRingCfg i q) fldMbxRingCfgEnable = 0 → (ringSt d i q).held = [] → (q.val = 0 → (instSt d i).notices = []) →
      instState d i ≠ 3 →
      let d1 := fset (fset (fset (fset (fset d (regMbxRingCfg i q) fldMbxRingCfgEnable 1) k fldMbxRingStateSqHead 0) k fldMbxRingStateCqTail 0) k
        fldMbxRingStateCqPhase 1) k fldMbxRingStateState 1
      exec (.ringEnable i q true) s = .next (withDev s
        (modRing d1 i q (fun r => { r with sqTail := 0, cqHead := 0, used := 0, fetched := [], held := [] })))) ∧
    exec (.ringEnable i q false) s = .next (withDev s (fset (fset d (regMbxRingCfg i q) fldMbxRingCfgEnable 0) k fldMbxRingStateState 0)) ∧
    (fget d k fldMbxRingStateState ≠ 0 → exec (.ringFault i q none) s = .next (withDev s
      (record (fset d k fldMbxRingStateState 2) { status := 0x3605, inst := i, detail := q.val * 2 ^ 32 }))) ∧
    (∀ st res rest, (instSt d i).notices = (st, res) :: rest →
      (fget d (regMbxRingState i 0) fldMbxRingStateState = 1 ∨ fget d (regMbxRingState i 0) fldMbxRingStateState = 3) → freeEntries d i 0 > 0 →
      exec (.noticeWrite i) s = .next (withDev s (raiseVector (writeEntry (modInst d i (fun x => { x with notices := rest })) i 0
        (cplBytes 0xFFFFFFFF st 0 0 0 noStep res) false) i 0))) ∧
    (∀ v : Nat, v < vectorsOf i →
      let d1 := modInst d i (fun x => { x with unmasked := natPut x.unmasked v, vecPend := x.vecPend.filter (· != v) })
      exec (.msixUnmask i v) s = .next (withDev s (if (instSt d i).vecPend.contains v then emit d1 (.msix i v) else d1))) ∧
    ((ringSt d i q).coalOpen = true →
      ((ringSt d i q).coalPend = true → exec (.msixCoalesceExpiry i q) s = .next (withDev s (raiseVector
        (modRing d i q (fun r => { r with coalPend := false })) i (fget d (regMbxRingCfg i q) fldMbxRingCfgVector)))) ∧
      ((ringSt d i q).coalPend = false → exec (.msixCoalesceExpiry i q) s =
        .next (withDev s (modRing d i q (fun r => { r with coalOpen := false })))))

/-- Fetching on credit (R385, R410). -/
def Obligations.DoorbellFetches : Prop :=
  ∀ (s : State) (i : Fin 65) (q : Fin 17) (ix : Fin 4096), Runs s → hostReaches s.dev i = true → fetches s.dev i q = true →
    s.dev.env.boot = 1 → instState s.dev i ≠ 1 →
    let d := s.dev
    let h := fget d (regMbxRingState i q) fldMbxRingStateSqHead
    let n := ringEntries d i q
    let next := if h + 1 = n then 0 else h + 1
    let bs := hostRead d (fget d (regMbxSqBase i q) fldMbxSqBaseBase * 4096 + 64 * h) 64
    let c := parseCmd bs next
    (ringSt d i q).sqTail = h → ix.val = next → h < n → 2 ≤ n → next < 2 ^ fldMbxRingStateSqHead.w → 1 ≤ freeEntries d i q → malformed i q bs = false →
    credit d i < 2 ^ fldMbxCreditCredit.w →
    ∃ t, exec (.mbxSqTail i q ix [] []) s = .next t ∧ fget t.dev (regMbxRingState i q) fldMbxRingStateSqHead = next ∧
      (cmdCost c ≤ credit d i → (ringSt t.dev i q).fetched = (ringSt d i q).fetched ++ [c] ∧ credit t.dev i = credit d i - cmdCost c ∧
        t.dev.mem = d.mem ∧ t.dev.hmem = d.hmem) ∧
      (credit d i < cmdCost c → (ringSt t.dev i q).fetched = (ringSt d i q).fetched ∧ credit t.dev i = credit d i ∧
        t.dev = answerBusy (fset (modRing d i q (fun r => { r with sqTail := ix })) (regMbxRingState i q) fldMbxRingStateSqHead next) i q c
          (retryHint d i (cmdCost c)))

/-- The host link (R109, R375 to R392). -/
def Obligations.HostLinks : Prop :=
  ∀ s : State, Runs s →
    let d := s.dev
    (∀ (c : Fin 96) (k : Fin 16) (data : List Byte), (parseDesc (devRead d (storeAddr c (descOff d c k)) 128)).sspace = 3 →
      (strmSt d c k).asked ≠ [] → d.env.pcieLoop = false →
      let e := parseDesc (devRead d (storeAddr c (descOff d c k)) 128)
      let want := 2 ^ e.esize - (strmSt d c k).inBytes.length % 2 ^ e.esize
      let got := fun (bs : List (Byte × Bool)) (bad : Bool) => (.next (withDev s (runStream
        (modStrm d c k (fun t => { t with inBytes := t.inBytes ++ bs, inErr := t.inErr || bad })) c k [0, 1, 2])) : Host.Outcome State Fault Refusal)
      exec (.hostCompletion c k data .ok) s = got ((data.take want).map (fun b => (b, false))) false ∧
      exec (.hostCompletion c k data .ep) s = got ((data.take want).map (fun b => (b, true))) false ∧
      exec (.hostCompletion c k data .ur) s = got (List.replicate want (0, true)) true ∧
      exec (.pcieCompletionTimeout c k) s = got (List.replicate want (0, true)) true) ∧
    (∀ tag page pages : Nat, let kept := d.sp.away.filter (fun q => decide (q < page) || decide (page + pages ≤ q))
      exec (.atsInvalidation tag page pages false) s =
        .next (withDev s (emit { d with sp := { d.sp with away := kept } } (.atsDone tag))) ∧
      exec (.atsInvalidation tag page pages true) s =
        .next (withDev s (emit { d with sp := { d.sp with away := (rangeFrom page pages).foldl natPut kept } } (.atsDone tag)))) ∧
    (∀ i : Fin 65, i.val ≠ 0 → instState d i ≠ 0 → exec (.functionLevelReset i) s = .next (withDev s (endInst d i 0x5607))) ∧
    (instState d 0 ≠ 0 → exec (.functionLevelReset 0) s = exec .hotReset s) ∧
    exec .hotReset s = .next (withDev s (stopCarriers ((presentInsts d).foldl (fun d i => endInst d i 0x5607) d))) ∧
    (let d1 := setReg d (regHostLink 0) 0
     let d2 := { d1 with env := { d1.env with linkDown := true, pcieLoop := false } }
     let d3 := { d2 with outs := .aerFatal :: d2.outs }
     exec (.linkDown false) s = .next (withDev s (stopCarriers ((presentInsts d2).foldl (fun d i => endInst d i 0x5608) d2))) ∧
     exec (.linkDown true) s = .next (withDev s (stopCarriers ((presentInsts d3).foldl (fun d i => endInst d i 0x5608) d3)))) ∧
    (∀ (w r : Fin 16) (f : Bool), w.val ∈ [1, 2, 4, 8] → 1 ≤ r.val → r.val ≤ 6 →
      let k := regHostLink 0
      let d1 := fset (fset (fset d k fldHostLinkWidth w) k fldHostLinkRate r) k fldHostLinkFlit (b2n f)
      exec (.linkStateChange w r f) s = .next (withDev s
        (record { d1 with env := { d1.env with linkDown := false } } { status := 0x1602, inst := 0 }))) ∧
    exec .linkCorrected s = .next (withDev s (record (emit d .aerCorrected) { status := 0x2603, inst := 0 })) ∧
    exec (.pcieLoopback true) s = .next (withDev s { d with env := { d.env with pcieLoop := true } }) ∧
    (let d1 := { d with env := { d.env with pcieLoop := false } }
     exec (.pcieLoopback false) s = .next (withDev s ((presentInsts d1).foldl fetchAll d1))) ∧
    (∀ n : Fin 65, (∀ i : Fin 65, n < i → instState d i = 0) → ∃ t, exec (.vfEnable n) s = .next t ∧ t.dev.env.numVfs = n ∧
      (∀ i : Fin 65, i.val ≠ 0 → i ≤ n → instState d i = 0 → instState t.dev i = 1) ∧
      (∀ i : Fin 65, (i.val = 0 ∨ n < i ∨ instState d i ≠ 0) → instState t.dev i = instState d i) ∧ t.dev.mem = d.mem ∧ t.dev.insts = d.insts) ∧
    (∃ t, exec (.vfEnable 0) s = .next t ∧ t.dev.env.numVfs = 0 ∧ (∀ i : Fin 65, i.val ≠ 0 → instState t.dev i = 0))

/-- Isolation of BAR 2 writes (R231, R378). -/
def Obligations.Bar2Isolates : Prop :=
  ∀ (s t : State) (i : Fin 65) (off : Nat) (bs : List Byte) (ep : Bool), memWf s.dev.mem = true → exec (.bar2Write i off bs ep) s = .next t →
    ∀ b < pierEnd, (pageOf s.dev b).owner ≠ i.val ∨ (pageOf s.dev b).slot = true →
      memGet t.dev.mem b = memGet s.dev.mem b ∧ t.dev.poison.contains (b / 64 * 64) = s.dev.poison.contains (b / 64 * 64) ∧
      pageOf t.dev b = pageOf s.dev b

/-- Instances, contexts and the health core (R221, R393, R410, R434 to R447). -/
def Obligations.Teardowns : Prop :=
  ∀ (s : State) (i : Fin 65) (x : Fin 16), Runs s →
    let d := s.dev
    let y := ctxSt d i x
    (∀ a c, (instSt d i).freezing = some (a, c) → (instSt d i).ending = none → (instSt d i).resize = none → d.trn.reqs = [] → (∀ k < 96, coreState d k ≠ 1) →
      (∀ k < 16, freezeKeys d i k = d) →
      let d1 := (List.range 16).foldl (fun d q =>
        if fget d (regMbxRingState i (q + 1)) fldMbxRingStateState = 1 then fset d (regMbxRingState i (q + 1)) fldMbxRingStateState 3 else d) d
      exec (.freezeDone i) s =
        .next (withDev s (cmdEnd (setInstState (modInst d1 i (fun s => { s with freezing := none })) i 3) a 0 c 0))) ∧
    ((instSt d i).resize = none → y.live = true → y.ending = none → y.destroy = none → y.queue = [] →
      instState d i = 2 → (instSt d i).freezing = none → y.batch = [] → d.waiting.contains (i.val, x.val) = false →
      let fin := fun (d1 : Dev) =>
        let d2 := commitReg (leaveLayer (modCtx d1 i x (fun c => { c with comp := c.pending.getD c.comp, pending := none, iter := c.iter + 1 })) i x) regTierPrefetch
        (.next (withDev s (resumeLater (giveBack (passBoundary (settle (modCtx d2 i x (fun c => { c with batch := nextBatch d2 i x })) i x) i x) i x))) :
          Host.Outcome State Fault Refusal)
      (y.seqs = [] → exec (.iterationBoundary i x [] []) s = fin d) ∧
      (∀ (r : ComposerRun) (ps : PlanStep), y.comp.planSteps[r.step]? = some ps →
        let o0 : OpIn := { i := i, x := x, word := bitsAt ps.f1 0 32, tensor := bitsAt ps.f1 32 32, step := y.step, t := r.t, p := r.p }
        let o := { o0 with ready := noteReady d i (ps.f0 % 65536) o0 }
        let q := runOperator (modCtx d i x (fun c => { c with lastStep := some y.step })) (ps.f0 % 65536) o
        composerBad ps o = false → q.waits = false → q.status = 0 → (ctxSt q.dev i x).seqs = [] →
        let n := (y.step + 1) % 2 ^ 64
        exec (.iterationBoundary i x [r.step] [(r.t, r.p)]) s = fin (modCtx q.dev i x (fun c => { c with
          step := n
          lastRun := max c.lastRun n
          tele := { c.tele with invocations := satAdd 64 c.tele.invocations 1 } }))) ∧
      (∀ (r : ComposerRun) (ps : PlanStep), y.comp.planSteps[r.step]? = some ps → isCollective (ps.f0 % 65536) = true → y.level = 3 →
        let o : OpIn := { i := i, x := x, word := bitsAt ps.f1 0 32, tensor := bitsAt ps.f1 32 32, step := y.step, t := r.t, p := r.p }
        composerBad ps o = false → exec (.iterationBoundary i x [r.step] [(r.t, r.p)]) s =
          .next (withDev s (resumeLater (queueRun d i x (ps.f0 % 65536) o))))) ∧
    (∀ st seq, y.ending = some (st, seq) → exec (.contextTeardown i x) s = .next (withDev s
      (mapRec (tearContext d i x st seq) seq (fun r => { r with flags := r.flags ||| 4 })))) ∧
    (∀ st seq, (instSt d i).ending = some (st, seq) → (∀ k < 16, (ctxSt d i k).live = false ∧ (ctxSt d i k).ending = none) → (instSt d i).freezing = none →
      let d1 := dropExports (dropInstRefs (clearInstData ((List.range 17).foldl (fun d q => resetRing d i q) d) i) i) i
      let d2 := modInst (mapRec d1 seq (fun r => { r with flags := r.flags ||| 12 })) i (fun s => { s with ending := none, dirty := false })
      exec (.instanceTeardownRun i) s =
        .next (withDev s (resumeLater (notice (setInstState d2 i (if i.val = 0 ∨ (instSt d2 i).held = true then 2 else 1)) 0 st seq)))) ∧
    (∀ (n : Nat) (r : Rec) (rs : List Rec), let d1 := (List.range n).foldl (fun d _ =>
        record (fsat d regMgtSramErr fldMgtSramErrCorrected 1) { status := 0x2A53, detail := mgtDetail 0 2 0 d.mgt.running.version }) d
      d1.flt.queue = r :: rs → let k := if r.inst < 65 then r.inst else 0
      exec (.recordDrain n) s = .next (withDev s (modInst (toLog { d1 with flt := { d1.flt with queue := rs } } r) k (fun s =>
        { s with recs := (s.recs ++ [r]).drop (s.recs.length + 1 - 1024)
                 tele := { s.tele with lastSeq := r.seq, records := satAdd 64 s.tele.records 1 } })))) ∧
    (∃ t, exec .healthSecond s = .next t ∧ t.dev.mem = d.mem ∧ ∀ p < 453, inService d p = true →
      tget 0 t.dev.flt.bad p = tget 0 d.flt.bad p - tget 0 d.flt.bad p / 2 ^ fget d regMgtFhScore fldMgtFhScoreDamp + tget 0 d.flt.weight p / 16) ∧
    (∀ vs : List Nat, exec (.telemetrySample vs) s = .next (withDev s { d with flt := { d.flt with
      shown := (vs.take 373).zipIdx.map (fun v => if v.2 < 128 && d.heat.bad.contains v.2 then setBits v.1 48 1 0 else v.1)
      sample := if 1024 < d.flt.queue.length then 10000 else 1000 } })) ∧
    (∃ t, exec .creditTick s = .next t ∧ ∀ j : Fin 65, credit d j ≤ 10 * accrual d j → 10 * accrual d j < 2 ^ fldMbxCreditCredit.w →
      credit t.dev j = min (10 * accrual d j) (credit d j + accrual d j)) ∧
    (∀ p at_ c, (instSt d i).resize = some (p, at_, c) → memFree d i (instSt d i).part p = false →
      (at_ + 800000000 ≤ tb2 d → exec (.resizeTimeout i) s = .next (withDev s
        (cmdEnd (modInst d i (fun s => { s with part := joinPart s.part p, resize := none, due := [] })) 0 0 c 0x3A0A))) ∧
      (tb2 d < at_ + 800000000 → exec (.resizeTimeout i) s = .next s))

/-- The record queue (R427 to R429). -/
def Obligations.RecordsCoalesce : Prop :=
  ∀ s : State, Runs s → (instSt s.dev 0).ending = none →
    let d := s.dev
    let n := fget d regMgtFhRecords fldMgtFhRecordsNextSeq
    let isOpen := d.flt.coal.any (fun x => x.1 == 0x2603 && x.2.1 == 0 && x.2.2.1 == tb2Sec d)
    (d.flt.queue.length < 4096 → n + 1 < 2 ^ fldMgtFhRecordsNextSeq.w → (∀ r ∈ d.flt.queue, r.seq < n) → ∃ t u,
      exec .linkCorrected s = .next t ∧ exec .linkCorrected t = .next u ∧
      u.dev.flt.queue.length = d.flt.queue.length + (if isOpen then 0 else 1) ∧
      fget u.dev regMgtFhRecords fldMgtFhRecordsNextSeq = n + (if isOpen then 0 else 1) ∧
      u.dev.outs = d.outs ++ [.aerCorrected, .aerCorrected] ∧
      (isOpen = false → u.dev.flt.queue.getLast? = some { status := 0x2603, inst := 0, seq := n, time := tb2 d, repeats := 2 })) ∧
    (4096 ≤ d.flt.queue.length → isOpen = false → ∃ t, exec .linkCorrected s = .next t ∧ t.dev.flt.queue = d.flt.queue ∧
      fget t.dev regMgtFhRecords fldMgtFhRecordsNextSeq = n ∧
      fget t.dev regMgtFhRecords fldMgtFhRecordsRecordsLost =
        min (2 ^ fldMgtFhRecordsRecordsLost.w - 1) (fget d regMgtFhRecords fldMgtFhRecordsRecordsLost + 1))

/-- Boot, the watchdog, the log and SPDM (R455 to R468). -/
def Obligations.BootAndAttest : Prop :=
  ∀ s : State, Runs s →
    let d := s.dev
    let goes := fun (d1 : Dev) => (.next (withDev s d1) : Host.Outcome State Fault Refusal)
    (∀ (readable : Bool) (failed : List Nat) (ms : Nat), d.env.boot = 0 →
      let n := fget d regMgtBoot fldMgtBootStage
      n ≤ 7 → fget d regSecFuse fldSecFuseDebugBlown ≠ 0 → (n = 1 → (bootImage d readable).isSome = true) →
      let d1 := stageWork d n ms failed
      let d2 := logOnly d1 { status := 0x1A40 + n, detail := mgtDetail 0 3 n d1.mgt.running.version }
      exec (.bootStageDone true readable failed ms) s =
        goes (showBoot (if n < 7 then fset d2 regMgtBoot fldMgtBootStage (n + 1) else d2) (0x1A40 + n))) ∧
    (∀ k : Fin 4, (∀ t, d.mgt.lastWd = some t → t + 10 * subPerSec ≤ tb2 d) → d.mgt.areaOk = true →
      let restart := fun (d : Dev) =>
        let d1 := fsat (modMgt d (fun m => { m with lastWd := some (tb2 d), areaOk := true })) regMgtWd fldMgtWdRestarts 1
        let d2 := fset (fset d1 regMgtWd fldMgtWdLastCore k) regMgtWd fldMgtWdLastSec (tb2Sec d1)
        logOnly (charge d2 partMgt (500 * wUnit)) { status := 0x1A48, detail := mgtDetail 0 k 0 d.mgt.running.version }
      ∀ hit : Option (Nat × Nat), let after := fun (d : Dev) => if k.val < 2 then interrupt (restart d) hit else restart d
      exec (.watchdogExpiry k true hit) s = goes (after d) ∧
      exec (.mgtSramUncorrectable k true hit) s = goes (after (fsat d regMgtSramErr fldMgtSramErrUncorrected 1)) ∧
      (∀ i q c e, let r := restart d
        hit = some (i, q) → k.val < 2 → (∀ j < 65, (instSt r j).resize = none ∧ (instSt r j).freezing = none) → liveCtxs r = [] →
        (ringSt r i q).fetched.head? = some c → takeCmd r i q c.opcode = some (c, e) → onlyQueries c.opcode = false → cmdErr r i q c = none →
        c.opcode ≠ 0x37 → c.opcode ≠ 0x81 → exec (.watchdogExpiry k true hit) s = goes (cmdEnd e i q c 0x3A10))) ∧
    (d.mgt.unsaved ≠ 0 → ∃ t, exec .logPersist s = .next t ∧ t.dev.mgt.unsaved = d.mgt.unsaved - min 255 d.mgt.unsaved ∧
      t.dev.mgt.nextPg = (fget d regMgtLog fldMgtLogNextPage + 1) % 16384 ∧ fget t.dev regMgtLog fldMgtLogNextPage = t.dev.mgt.nextPg ∧
      (∃ p, tget? t.dev.mgt.pages (fget d regMgtLog fldMgtLogNextPage) = some p ∧ p.time = tb2 d ∧ p.boots = d.mgt.boots ∧
        p.recs = (d.flt.log.drop (d.flt.log.length - d.mgt.unsaved)).take (min 255 d.mgt.unsaved))) ∧
    exec .getVersion s = goes (spdmAnswer (modMgt d (fun m => { m with script := [] })) [0x84] 0x04 [0x00, 0x01, 0x00, 0x13]) ∧
    exec .getCapabilities s = goes (spdmAnswer d [0xE1] 0x61 (natLe 4 0x36)) ∧
    exec .negotiateAlgorithms s = goes (spdmAnswer d [0xE3] 0x63 (natLe 4 8 ++ natLe 4 0x40 ++ natLe 4 4)) ∧
    exec .getDigests s = goes (spdmAnswer d [0x81] 0x01 (0x01 :: sha512 d.mgt.cert)) ∧
    (∀ off len : Nat, let part := (d.mgt.cert.drop off).take len
      exec (.getCertificate 0 off len) s = goes (spdmAnswer d (0x82 :: natLe 2 off ++ natLe 2 len) 0x02
        (natLe 2 part.length ++ natLe 2 (d.mgt.cert.length - off - part.length) ++ part))) ∧
    (∀ nonce : List Byte, let f := takeFree d
      let body := sha512 d.mgt.cert ++ natLe 32 (Config.freeNat f.1)
      exec (.challenge 0 nonce) s = goes (spdmAnswer f.2 (0x83 :: nonce) 0x03 (body ++ Config.identitySign (d.mgt.script ++ 0x83 :: nonce ++ body)))) ∧
    (∀ (k : Nat) (nonce : List Byte), 1 ≤ k → k ≤ 5 → let f := takeFree d
      let body := measBlock d k ++ natLe 32 (Config.freeNat f.1)
      let req := 0xE0 :: natLe 1 k ++ nonce
      exec (.getMeasurements k true nonce) s = goes (spdmAnswer f.2 req 0x60 (body ++ Config.identitySign (d.mgt.script ++ req ++ body)))) ∧
    (∀ code : Nat, let d1 := fsat (fsat d regSecSpdm fldSecSpdmRequests 1) regSecSpdm fldSecSpdmRefused 1
      exec (.spdmUnsupportedRequest code) s =
        goes (record (emit d1 (.spdm 0x7F [7])) { status := 0x1B03, detail := code % 256 + 7 * 256 }))

/-- Heat, droop and supply (R491 to R495). -/
def Obligations.ThermalAndSupply : Prop :=
  ∀ (s : State) (i : Fin 144), Runs s →
    let d := s.dev
    let h := heatOf d i
    let put := fun (x : Nat × Option Nat × Option Nat) => (.next (withDev s (modHeat d (fun h => { h with level := tset h.level i x }))) : Host.Outcome State Fault Refusal)
    let droop := tget 0 d.heat.droop i
    let check := fun (level n : Nat) (d1 : Dev) => (.next (withDev s (if holdsWork d i = true ∧ (1900 - 100 * level) * (64 - n) < 1520 * 64 then
      deviceFatal d1 { status := 0x6B09, detail := i } else d1)) : Host.Outcome State Fault Refusal)
    (∀ t : Int, 6400 ≤ t → h.1 < 3 → (∀ u, h.2.1 = some u → u + 8000000 ≤ tb2 d) → exec (.thermalCheck i t) s =
      check (h.1 + 1) droop (modHeat d (fun x => { x with level := tset x.level i (h.1 + 1, some (tb2 d), none) }))) ∧
    (∀ t : Int, 6400 ≤ t → (3 ≤ h.1 ∨ ∃ u, h.2.1 = some u ∧ tb2 d < u + 8000000) → exec (.thermalCheck i t) s = put (h.1, h.2.1, none)) ∧
    (∀ t : Int, 5888 < t → t < 6400 → exec (.thermalCheck i t) s = put (h.1, h.2.1, none)) ∧
    (∀ t : Int, t ≤ 5888 →
      (h.2.2 = none → exec (.thermalCheck i t) s = put (h.1, h.2.1, some (tb2 d))) ∧
      (∀ u, h.2.2 = some u → (tb2 d < u + 80000000 → exec (.thermalCheck i t) s = .next s) ∧
        (u + 80000000 ≤ tb2 d → exec (.thermalCheck i t) s = put (h.1 - 1, h.2.1, if h.1 ≤ 1 then some u else some (tb2 d))))) ∧
    (∀ n : Nat, let d1 := modHeat d (fun h => { h with droop := tset h.droop i n })
      exec (.droopDetect i n) s = check h.1 n d1 ∧ exec (.clockTrip i n) s = check h.1 n d1) ∧
    exec (.droopRelease i) s = .next (withDev s (modHeat d (fun h => { h with droop := tdel h.droop i }))) ∧
    (∀ (t : Int) (dram : Bool), 7360 ≤ t ∨ (7040 ≤ t ∧ h.1 = 3) ∨ (dram = true ∧ 6720 ≤ t) →
      let d1 := deviceFatal d { status := 0x6B08, detail := i + ofSigned 16 t * 2 ^ 16 }
      exec (.thermalTrip i t dram) s = .next (withDev s { d1 with env := { d1.env with thermtripN := false } })) ∧
    (∀ rail v : Nat, 100 * v < 90 * railNominal rail → exec (.supplyTrip rail v) s = .next (withDev s
      (deviceFatal d { status := 0x6B0A, detail := rail + v % 65536 * 2 ^ 16 } (rail != 1)))) ∧
    exec .voltageMonitorCheck s = .next s ∧
    (∀ n : Nat, exec (.diodeCheck n true) s = .next (withDev s (modHeat d (fun h => { h with bad := h.bad.filter (· != n) }))) ∧
      exec (.diodeCheck n false) s = .next (withDev s (modHeat d (fun h => { h with bad := natPut h.bad n }))))

/-- Loop-backs and self-tests (R474 to R480). -/
def Obligations.LoopBacksAndTests : Prop :=
  ∀ s : State, Runs s →
    let d := s.dev
    let goes := fun (d1 : Dev) => (.next (withDev s d1) : Host.Outcome State Fault Refusal)
    let k := regTstBist
    (∀ i u depth : Nat, d.tst.looped = none → fget d regTstLbSel fldTstLbSelIface = i → fget d regTstLbSel fldTstLbSelUnit = u →
      fget d regTstLbSel fldTstLbSelDepth = depth → lbOk d i u depth = true →
      let d1 := { d with tst := { d.tst with looped := some (i, u, depth) } }
      let d2 := fset (setReg (setReg d1 regTstLbBits 0) regTstLbErr 0) regTstStatus fldTstStatusLbState 2
      exec .enter s = goes (lbRecord (if i = 0 then setPortState d2 u 8 else if i = 1 then
          (List.range 4).foldl (fun d q => if portExists d (4 * u + q) then ethDown d (4 * u + q) 1 else d) d2
        else if i = 3 then fset d2 (regFlsChState u) fldFlsChStateState 2 else d2) i u)) ∧
    (∀ i u depth bits errs : Nat, d.tst.looped = some (i, u, depth) →
      let d1 := fset { d with tst := { d.tst with looped := none } } regTstStatus fldTstStatusLbState 0
      let d2 := if depth = 4 ∨ i = 4 then d1 else setReg (setReg d1 regTstLbBits (min bits (2 ^ 64 - 1))) regTstLbErr (min errs (2 ^ 64 - 1))
      exec (.leave bits errs) s =
        goes (lbRecord (if i = 0 then setPortState d2 u 0 else if i = 3 then fset d2 (regFlsChState u) fldFlsChStateState 1 else d2) i u)) ∧
    (∀ w : Word, let v := w.toNat ||| 1
      bitsAt v 8 8 < bistUnits (bitsAt v 4 3) → fget d k fldTstBistBusy = 0 → bistFenced d (bitsAt v 4 3) (bitsAt v 8 8) = true →
      exec (.bistStart w) s = goes (commitReg (fset (fset (fset d k fldTstBistUnit (bitsAt v 8 8)) k fldTstBistKind (bitsAt v 4 3))
        k fldTstBistBusy 1) k)) ∧
    (fget d k fldTstBistBusy = 1 →
      exec (.bistComplete true) s = goes (fset (fset d k fldTstBistBusy 0) k fldTstBistPass 1) ∧
      (let d1 := fset (fset d k fldTstBistBusy 0) k fldTstBistPass 0
       exec (.bistComplete false) s =
         goes (record d1 { status := 0x1B07, detail := fact d1 k fldTstBistKind + fact d1 k fldTstBistUnit * 2 ^ 8 }))) ∧
    (∀ m : Fin 4294967296, exec (.lanes m) s = goes { d with tst := { d.tst with cal := (bitList 32 m).foldl natPut d.tst.cal } }) ∧
    (∀ l : Fin 32, let p := lanePort d l
      exec (.ethLaneRecal l) s = goes (record (dropExchs { d with tst := { d.tst with cal := d.tst.cal.filter (· != l.val) } } p)
        { status := 0x2803, inst := 0, detail := p * 2 ^ 16 + l.val * 2 ^ 24 }))

/-- Commands of the device, of instances, jobs and exports (R405 to R407). The layout of the instance record is the model's choice (log
entry 34). -/
def Obligations.CommandsDevice : Prop :=
  ∀ (s : State) (i : Fin 65) (q : Fin 17) (c : Cmd) (d : Dev),
    let j := actor i q c
    let a := c.arg
    let ends := fun (d1 : Dev) (k res : Nat) => (.next (withDev s (cmdEnd d1 k q c 0 res)) : Host.Outcome State Fault Refusal)
    let frees := fun (d1 : Dev) => (.next (withDev s (resumeLater (cmdEnd d1 0 q c 0))) : Host.Outcome State Fault Refusal)
    (Starts s i q 0x0001 c d → exec (.queryDevice i q) s = ends (hostWrite d (a 0) (identBytes d i)) i 256) ∧
    (Starts s i q 0x0002 c d → exec (.queryInstance i q) s = ends (hostWrite d (a 0) (instBytes d j)) i 128) ∧
    (Starts s i q 0x0003 c d → regAccessOk (a 0) (a 1) = true → a 0 < regSpaceEnd →
      let k := regSlice (a 0) (a 1)
      exec (.regRead i q) s = ends (readReg d k.1).2 0 ((readReg d k.1).1 / 2 ^ k.2 % 2 ^ a 1)) ∧
    (∀ r, Starts s i q 0x0004 c d → regAccessOk (a 0) (a 1) = true → a 2 < 2 ^ a 1 → a 3 < 2 ^ a 1 → a 0 < regSpaceEnd →
      let k := regSlice (a 0) (a 1)
      regAt k.1 = some r → managerMay r (a 3 * 2 ^ k.2) = true →
      exec (.regWrite i q) s = ends (Machine.regWrite d k.1 (a 3 * 2 ^ k.2) (a 2 * 2 ^ k.2)) 0 0) ∧
    (∀ regs, Starts s i q 0x0010 c d → (instSt d j).resize = none → (parsePart d c).2 = true →
      (if a 6 ≠ 0 then some (hostNat d (a 6) 32) else chooseRegions d j (instSt d j).part.regions (bitsAt (a 1) 49 9)) = some regs →
      (a 6 ≠ 0 → (bitList 256 regs).length = bitsAt (a 1) 49 9) →
      let old := (instSt d j).part
      let new := { (parsePart d c).1 with regions := regs }
      (addedBits 96 old.cores new.cores).all (coreFree d j) = true → (addedBits 4 old.keys new.keys).all (keyFree d j) = true →
      (addedBits 256 old.regions regs).all (regionFree d j) = true → (new.pages.filter (fun n => !old.pages.contains n)).all (pageFree d j) = true →
      (j ≠ 0 → ((List.range 65).map (fun k => if k = 0 ∨ k = j then 0 else promised d k (·.rate))).foldl (· + ·) 0 + new.rate ≤ 1500) →
      ((List.range 65).map (fun k => if k = j then 0 else promised d k (·.share))).foldl (· + ·) 0 + new.share ≤ 64 →
      let d1 := addUnits d j old new
      let d2 := modInst d1 j (fun s => { s with part := new, held := true, tele := {} })
      let d3 := (List.range 16).foldl (fun d x => modCtx d j x (fun y => { y with tele := {} })) d2
      let due := (List.range 16).filter (ctxBusy d1 j)
      let e2 := endLoans (modInst d1 j (fun s => { s with held := true, due := due })) j old new
      (instState d1 j = 1 → j ≠ 0 → exec (.partitionSet i q) s = frees (setCredit (setInstState d3 j 2) j (10 * new.rate))) ∧
      let now := (∀ x ∈ (instSt e2 j).due, ctxBusy e2 j x = false) ∧ unitsIdle e2 (instSt e2 j).part new = true ∧ memFree e2 j (instSt e2 j).part new = true
      (instState d1 j ≠ 1 → now → exec (.partitionSet i q) s = frees (takePart e2 j new)) ∧
      (instState d1 j ≠ 1 → ¬now → exec (.partitionSet i q) s =
        .next (withDev s (resumeLater (modInst e2 j (fun s => { s with resize := some (new, tb2 e2, c) })))))) ∧
    (Starts s i q 0x0011 c d → j ≠ 0 → (instSt d j).held = true → (instSt d j).resize = none →
      (instState d j = 3 ∨ (instState d j = 2 ∧ ∀ x < 16, (ctxSt d j x).live = false)) → exec (.partitionRelease i q) s = frees (releaseInst d j)) ∧
    (Starts s i q 0x0012 c d → a 0 < 16 → a 1 < 2 ^ 20 → a 3 % 4096 = 0 → a 3 ≤ 2 ^ 36 → a 2 + a 3 ≤ 2 ^ 64 →
      exec (.windowSet i q) s = ends (modInst d j (fun s => { s with
        windows := if a 3 = 0 then tdel s.windows (a 0) else tset s.windows (a 0) { pasid := a 1, base := a 2, len := a 3 } })) 0 0) ∧
    (Starts s i q 0x0013 c d → a 0 < 64 → a 1 < 2 ^ 40 → a 1 % segBytes d j = 0 → a 1 % 4194304 = 0 → a 2 < 4 → a 1 + segBytes d j ≤ mortarEnd →
      let k := regHostBar2Seg j (a 0)
      let d1 := fset (fset d k fldHostBar2SegBase (a 1 / 4194304)) k fldHostBar2SegWrite (b2n (bitOf (a 2) 0))
      exec (.bar2Map i q) s = ends (commitReg (fset d1 k fldHostBar2SegValid (b2n (bitOf (a 2) 1))) k) 0 0) ∧
    (Starts s i q 0x0014 c d → a 1 ≤ 1 →
      let m := a 0 + a 1 * 2 ^ 64
      let d1 := (List.range 65).foldl (fun d k => modInst d k (fun s => { s with borrower := bitOf m k })) d
      exec (.lendSet i q) s = ends { d1 with sp := { d1.sp with borrowers := bitList 65 m } } 0 0) ∧
    (∀ k p, Starts s i q 0x0033 c d → a 0 = k → k < 2 → domSource d k = 2 →
      let bs := hostRead d (a 1) 96
      (∀ o ∈ [0x00, 0x10, 0x20, 0x30], fieldLe bs (o + 6) 2 = 0 ∧ fieldLe bs (o + 8) 8 < 1000000000 * 65536) →
      fieldLe bs 0x5D 1 < 2 → fieldLe bs 0x5E 2 = 0 →
      let d1 := showDom (modDom d k (fun x => { x with parent := some (0, fieldLe bs 0x50 8, fieldLe bs 0x58 2), cls := fieldLe bs 0x5C 1 })) k
      let d2 := if fieldLe bs 0x5D 1 = 1 ∧ (domState d1 k = 3 ∨ domState d1 k = 4) then setDomState d1 k 2 else d1
      let sec : Int := fieldLe bs 0x10 6 * (1000000000 * 65536)
      ((domSt d2 k).capt = none → exec (.timeExchange i q) s = ends d2 0 0) ∧
      ((domSt d2 k).capt = some p → domEnabled d2 k = true → domNow d2 k - (p + (recTime bs 0x10 - sec)) ≤ 2 * 1000000000 * 65536 →
      exec (.timeExchange i q) s = ends (addExch d2 k
        { t1 := recTime bs 0, t2 := p + (recTime bs 0x10 - sec), t3 := p + (recTime bs 0x20 - sec), t4 := recTime bs 0x30
          c1 := toSigned 64 (fieldLe bs 0x40 8), c2 := toSigned 64 (fieldLe bs 0x48 8) }) 0 0)) ∧
    (Starts s i q 0x0040 c d → 0 < a 0 → a 0 < 2 ^ 20 → a 2 ≤ 1 → (tget {} d.jobs (a 0)).live = false →
      exec (.jobRegister i q) s = ends { d with
        jobs := tset d.jobs (a 0) { insts := a 1 + a 2 * 2 ^ 64, live := true }
        trn := { d.trn with deadJobs := d.trn.deadJobs.filter (· != a 0) } } 0 0) ∧
    (Starts s i q 0x0041 c d → 0 < a 0 → a 0 < 2 ^ 20 → (tget {} d.jobs (a 0)).live = true →
      (∀ p ∈ liveCtxs d, (ctxSt d p.1 p.2).job ≠ a 0) → exec (.jobRelease i q) s = ends { d with jobs := tdel d.jobs (a 0) } 0 0) ∧
    (Starts s i q 0x0042 c d → a 0 < 256 → a 2 = 0 →
      exec (.exportSet i q) s = ends { d with trn := { d.trn with exports := tdel d.trn.exports (a 0) } } 0 0) ∧
    (∀ m, Starts s i q 0x0042 c d → a 0 < 256 → a 2 ≠ 0 → a 3 < 2 ^ 31 → bitsAt (a 3) 27 1 = 0 →
      let e : Export := { base := a 1, len := a 2, job := bitsAt (a 3) 0 20, inst := bitsAt (a 3) 20 7, rights := bitsAt (a 3) 28 3 }
      e.job ≠ 0 → e.inst ≤ 64 → exportAlign (a 1) (a 2) e.inst = some m → a 1 % m = 0 → a 2 % m = 0 → (tget {} d.jobs e.job).live = true →
      exec (.exportSet i q) s = ends { d with trn := { d.trn with exports := tset d.trn.exports (a 0) e } } 0 0) ∧
    (Starts s i q 0x0043 c d → a 0 < 2 ^ 20 → (tget {} d.jobs (a 0)).live = true →
      exec (.choiceRead i q) s = ends d i (tget {} d.jobs (a 0)).choice)

/-- Commands of sets, ashlars and contexts (R223, R264 to R276, R364 to R370, R405, R411, R418 to R421). -/
def Obligations.CommandsContexts : Prop :=
  ∀ (s : State) (i : Fin 65) (q : Fin 17) (c : Cmd) (d : Dev),
    let x := q.val - 1
    let a := c.arg
    let goes := fun (d1 : Dev) => (.next (withDev s d1) : Host.Outcome State Fault Refusal)
    let ends := fun (d1 : Dev) (k res : Nat) => goes (cmdEnd d1 k q c 0 res)
    (Starts s i q 0x0015 c d → a 0 < 4096 → a 1 ≤ 1 → a 2 ≤ 64 → tget? d.tier.sets (a 0) = none →
      exec (.setCreate i q) s = ends (modTier (putSet d (a 0) {}) (fun t => { t with sets := tset t.sets (a 0) (a 1 == 1, a 2) })) 0 0) ∧
    (Starts s i q 0x0016 c d → a 0 < 4096 → a 2 ≤ 1 → a 3 ≤ 1 → (tget (false, 0) d.tier.sets (a 0)).1 = true → (getSet d (a 0)).deleting = false →
      let grant := fun (d : Dev) (k : Nat) =>
        putSet (modTier d (fun t => { t with revoke := t.revoke.filter (· != a 0 * 128 + k) })) (a 0)
          { getSet d (a 0) with grant := setBits (getSet d (a 0)).grant k 1 1 }
      let revoke := fun (d : Dev) (k : Nat) => if bitOf (getSet d (a 0)).grant k = true
        then settleRevoke (modTier d (fun t => { t with revoke := natPut t.revoke (a 0 * 128 + k) })) (a 0) k else d
      exec (.setGrant i q) s = ends ((bitList 65 (a 1 + a 2 * 2 ^ 64)).foldl (if a 3 = 1 then grant else revoke) d) 0 0) ∧
    (Starts s i q 0x0017 c d → a 0 < 4096 → (tget? d.tier.sets (a 0)).isSome = true → (getSet d (a 0)).deleting = false →
      let es := d.tier.live.filter (fun k => (getAsh d k).set == a 0)
      let d1 := es.foldl freeEntry (putSet d (a 0) { getSet d (a 0) with deleting := true })
      exec (.setDelete i q) s =
        goes (resumeLater (cmdEnd (if es = [] then modTier (putSet d1 (a 0) {}) (fun t => { t with sets := tdel t.sets (a 0) }) else d1) 0 q c 0))) ∧
    (∀ src d1, Starts s i q 0x0018 c d → a 0 < 4096 → 0 < a 2 → a 2 ≤ 65536 → a 1 + a 2 ≤ ashMax → a 3 < 256 → bitsAt (a 3) 1 3 = 0 →
      bitsAt (a 3) 4 4 ≤ 6 → a 5 ≤ 1 → (tget? d.tier.sets (a 0)).isSome = true → (getSet d (a 0)).deleting = false →
      let own := tget (false, 0) d.tier.sets (a 0)
      let j : LoadJob := { set := a 0, layout := bitsAt (a 3) 4 4, size := a 3 % 2, shared := own.1, owner := own.2, pierOnly := a 5 == 1, first := a 1, n := a 2 }
      let as := rangeFrom (a 1) (a 2)
      let d0 := as.foldl clearLost d
      (i.val = 0 ∨ (own.1 = false ∧ own.2 = i)) → (∀ k ∈ as, (getAsh d k).integ = 0 ∨ (getAsh d k).integ = 3) →
      iovaKey d i (a 4) (a 2 * j.len) = some src →
      let bs := memRead d.hmem src (a 2 * j.len)
      (if a 5 = 1 then (List.range (a 2)).foldl (fun o k => o.bind (fun d => loadPier j bs d k)) (some d0) else loadFlash j bs d0) = some d1 →
      let d2 := putSet d1 (a 0) { getSet d1 (a 0) with count := (getSet d1 (a 0)).count + a 2 }
      exec (.ashlarLoad i q) s =
        goes (resumeLater (cmdEnd ((as.flatMap (askersOf d)).foldl (fun d r => (ask d r).1) d2) i q c 0 (a 2)))) ∧
    (∀ d1, Starts s i q 0x0019 c d → 0 < a 1 → a 1 ≤ 4096 → a 0 + a 1 ≤ ashMax → a 2 ≤ 1 →
      let as := rangeFrom (a 0) (a 1)
      (a 3 ≤ 1 → holdAll i (a 2) (a 3 == 1) as d = (d1, none) → exec (.ashlarHold i q) s = goes (resumeLater (cmdEnd d1 i q c 0))) ∧
      (a 3 = 2 → exec (.ashlarHold i q) s =
        goes (resumeLater (cmdEnd (as.foldl (fun d k => if holdsRef d i k (a 2) then unpin d i k (a 2) else d) d) i q c 0))) ∧
      (a 3 = 3 → exec (.ashlarHold i q) s =
        goes (resumeLater (cmdEnd (as.foldl (fun d k => if holdsRef d i k (a 2) then dropRef d i k (a 2) else d) d) i q c 0)))) ∧
    (Starts s i q 0x0020 c d → createErr d i x c = 0 → a 5 = 0 →
      exec (.contextCreate i q) s = ends (modCtx d i x (fun y => newCtx c y.tele)) i 0) ∧
    (∀ bufs r refs, Starts s i q 0x0020 c d → createErr d i x c = 0 → a 5 ≠ 0 → readBufs d.hmem (bufList d (a 4) (a 5)) = some bufs →
      endOk bufs = true → let rs := bufs.flatten
      (recOf rs 1).isSome = true →
      let fits := rs.filter (fun r => r.type == 4 && fieldLe r.payload 0x10 8 == a 3)
      (fits.find? (fun r => r.target == x)).or fits.head? = some r → mapRefs d i (fun s => s) (payOf rs 5) = some refs →
      fieldLe (payOf rs 1) 4 2 ≤ 0x0300 → placesOk d i rs = true → (∀ w ∈ savedWindows (payOf rs 2), (tget? (instSt d i).windows w.1).isSome = true) →
      exec (.contextCreate i q) s = ends (loadReplay (loadRefs (loadPlaces d rs) i refs) i x r (newCtx c (ctxSt d i x).tele)) i 0) ∧
    (Starts s i q 0x0021 c d → exec (.contextDestroy i q) s = goes (finishDestroy (modCtx d i x (fun y => { y with destroy := some c })) i x)) ∧
    (∀ steps, Starts s i q 0x0022 c d → 0 < a 0 → a 0 ≤ 4096 → a 1 % 256 = 0 → 256 ≤ a 1 → a 1 ≤ 4096 → a 2 ≤ 16 → a 4 ≤ 1048576 → a 6 ≤ 4096 →
      accessErr d (.ctx i x) false (a 5) (32 * a 6) = none → readPlan d (ctxSt d i x).level (a 5) (a 6) 0 [] = (steps, 0) →
      let k : Composer := { decodeCap := a 0, chunk := a 1, prefillChunks := a 2, schedule := a 3, entries := a 4, plan := a 5
                            planSteps := steps, planCount := a 6 }
      exec (.composerSet i q) s = ends (modCtx d i x (fun y => { y with pending := some k })) i 0) ∧
    (∀ tk rk, Starts s i q 0x0023 c d → 0 < a 2 → a 2 ≤ 2 ^ 32 → 0 < a 3 → a 3 < 2 ^ 32 → a 4 % 4096 = 0 → 4 ≤ a 5 % 32 → a 5 % 32 ≤ 16 →
      bitsAt (a 5) 5 11 = 0 → a 5 < 2 ^ 28 → bitsAt (a 5) 16 12 < (if i.val = 0 then 2048 else 64) → a 6 < 2 ^ 33 → (bitOf (a 6) 32 = true ∨ a 6 = 0) →
      (∀ t ∈ (ctxSt d i x).seqs, t.id ≠ a 0) → iovaKey d i (a 1) (4 * a 2) = some tk → iovaKey d i (a 4) (64 + 16 * 2 ^ (a 5 % 32)) = some rk →
      let t : SeqSt := { id := a 0, tokens := a 1, count := a 2, maxNew := a 3, ring := a 4, k := a 5 % 32, vector := bitsAt (a 5) 16 12
                         endTok := if bitOf (a 6) 32 = true then some (bitsAt (a 6) 0 32) else none, pasid := rk / 2 ^ 64 - 1 }
      exec (.seqSubmit i q) s = ends (makeRoom (modCtx (ringPut d i t 0 (seqHeader t 0 0)).1 i x (fun y => { y with seqs := y.seqs ++ [t] })) i x) i 0) ∧
    (Starts s i q 0x0024 c d → (∃ t ∈ (ctxSt d i x).seqs, t.id = a 0 ∧ t.cancel = none) →
      exec (.seqCancel i q) s = goes (modCtx d i x (fun y =>
        { y with seqs := y.seqs.map (fun t => if t.id == a 0 then { t with cancel := some c } else t) }))) ∧
    (Starts s i q 0x0025 c d → preCheck d i x (a 0) (a 1) ((c.args.drop 2).take 4) (a 6) = 0 →
      let v : Inv := { op := a 0 % 65536, tensor := bitsAt (a 0) 16 32, attr := a 1, a := c.args.drop 2, step := (ctxSt d i x).step, cmd := some c,
                       since := tb2 d }
      exec (.invoke i q) s = goes (settle (makeRoom (modCtx d i x (fun y => { y with queue := y.queue ++ [v], step := (y.step + 1) % 2 ^ 64 })) i x) i x)) ∧
    (∀ steps, Starts s i q 0x0026 c d → 0 < a 3 → a 3 ≤ 4096 → accessErr d (.ctx i x) false (a 2) (32 * a 3) = none →
      readPlan d (ctxSt d i x).level (a 2) (a 3) 0 [] = (steps, 0) →
      let n := (ctxSt d i x).step
      let v : Inv := { op := 0, tensor := 0, attr := 0, a := [], step := n, cmd := some c, isPlan := true, plan := steps, next := n,
                       since := tb2 d }
      let k := max 1 (steps.filter (fun p => p.kind == 1)).length
      exec (.planRun i q) s = goes (settle (makeRoom (modCtx d i x (fun y => { y with queue := y.queue ++ [v], step := (y.step + k) % 2 ^ 64 })) i x) i x)) ∧
    (Starts s i q 0x0027 c d → exec (.auditRead i q) s = ends (hostWrite d (a 0) (auditBytes (ctxSt d i x))) i 0) ∧
    (Starts s i q 0x0044 c d → (ctxSt d i x).replay = true →
      let d1 := modCtx d i x (fun y => { y with waitRep := y.waitRep ++ [(a 0, c)] })
      let d2 := settle (if (ctxSt d i x).waitRep = [] then activateReplay i x 1 d1 else d1) i x
      exec (.replayToStep i q) s = goes (if (ctxSt d i x).replayTo = 0 ∧ (ctxSt d2 i x).replayTo ≠ 0 then settle (thawCtx d2 i x) i x else d2))

/-- Commands of an instance's life (R393 to R398, R435), of the radio (R193, R409), of firmware (R461 to R470) and of faults (R440, R448). -/
def Obligations.CommandsLife : Prop :=
  ∀ (s : State) (i : Fin 65) (q : Fin 17) (c : Cmd) (d : Dev),
    let j := actor i q c
    let a := c.arg
    let goes := fun (d1 : Dev) => (.next (withDev s d1) : Host.Outcome State Fault Refusal)
    let ends := fun (d1 : Dev) (k res : Nat) => goes (cmdEnd d1 k q c 0 res)
    (Starts s i q 0x0034 c d → j ≠ 0 → instState d j = 2 → exec (.freeze i q) s = goes (modInst d j (fun s => { s with freezing := some (i, c) }))) ∧
    (Starts s i q 0x0035 c d → instState d j = 3 →
      let d1 := (List.range 16).foldl (fun d x => if (ctxSt d j x).live = true then thawCtx d j x else d) (setInstState d j 2)
      let d2 := (List.range 16).foldl (fun d n =>
        let k := regMbxRingState j (n + 1)
        if fget d k fldMbxRingStateState = 3 then fset d k fldMbxRingStateState 1 else d) d1
      exec (.thaw i q) s = goes (fetchAll (cmdEnd ((List.range 16).foldl (fun d x => settle d j x) (placeWork d2)) i q c 0) j)) ∧
    (Starts s i q 0x0036 c d → a 0 ≤ 1 →
      let d1 := if a 0 = 1 then (instPages d j).foldl (fun d o => modPage d o (fun p => { p with dirty := false })) d else d
      exec (.dirtyTrack i q) s = ends (modInst d1 j (fun s => { s with dirty := a 0 == 1 })) i 0) ∧
    (Starts s i q 0x0037 c d → a 0 ≤ 1 → (instState d j = 2 ∨ instState d j = 3) →
      let own := (instPages d j).reverse
      let pages := if a 0 = 0 then own else own.filter (fun o => (pageOf d o).dirty)
      let ctxs := ((List.range 16).filter (fun x => (ctxSt d j x).live)).map (ctxRecord d j)
      let all := pages.map (pageRec d) ++ ([headRec d j own.length, partRec d j, mboxRec d j] ++ ctxs ++ [refsRec d j] ++ (instRegions d j).map (regionRec d))
      let bs := saveAll 0 (if instState d j = 2 then pages.map (pageRec d) else all ++ [endRec all])
      bs.length ≤ a 2 → exec (.save i q) s =
        ends (hostWrite (pages.foldl (fun d o => modPage d o (fun p => { p with dirty := false })) d) (a 1) bs) i bs.length) ∧
    (∀ bufs refs, Starts s i q 0x0038 c d → instState d j = 2 → (∀ x < 16, (ctxSt d j x).live = false) →
      readBufs d.hmem (bufList d (a 0) (a 1)) = some bufs → endOk bufs = true →
      let rs := bufs.flatten
      let h := payOf rs 1
      let pasids := (List.range (savedWindows (payOf rs 2)).length).map (fun k => hostNat d (a 3 + 4 * k) 4)
      (recOf rs 1).isSome = true → fieldLe h 0 2 ≤ d.env.grade → fieldLe h 4 2 ≤ 0x0300 → countsOk d j h = true → placesOk d j rs = true →
      (savedWindows (payOf rs 2) = [] ∨ (a 3 ≠ 0 ∧ ∀ p ∈ pasids, p < 2 ^ 20)) →
      (if (recOf rs 5).isSome = true then mapRefs d j (fun t => hostNat d (a 2 + 2 * t) 2) (payOf rs 5) else some []) = some refs →
      let d1 := loadPlaces (setInstState d j 4) rs
      let d2 := if (recOf rs 2).isSome = true then loadPart d1 j pasids (payOf rs 2) else d1
      let d3 := if (recOf rs 3).isSome = true then loadMbox d2 j (payOf rs 3) else d2
      let d4 := (rs.filter (fun r => r.type == 4)).foldl (fun d r => loadCtx d j r) d3
      exec (.restore i q) s = ends (setInstState (loadRefs d4 j refs) j 3) i 0) ∧
    (Starts s i q 0x0039 c d → (instState d j = 2 ∨ instState d j = 3) → exec (.instanceTeardown i q) s = goes (endInst (cmdEnd d 0 q c 0) j 0x5607)) ∧
    (Starts s i q 0x0030 c d → 0 < a 1 → a 1 ≤ 512 → a 2 ≤ 1 →
      let recs := (List.range (a 1)).map (fun k => (a 0 + 64 * k, readCar d (a 0 + 64 * k)))
      (∀ x ∈ recs, recOk d x.1 x.2 = true) → (recs.map (fun x => x.2.carrier)).eraseDups.length = a 1 →
      let cars := recs.map (fun x => x.2)
      let r := admission d cars (a 2 == 1)
      let d1 := hostWrite d (a 3) (resBytes d cars r)
      exec (.radioAdmit i q) s = if r.failed = 0 then ends (admitApply d1 cars (a 2 == 1) r) 0 0 else goes (cmdEnd d1 0 q c 0x3A0B r.failed)) ∧
    (Starts s i q 0x0031 c d → onlyBits (a 0) 0x00000FFF001FFF0F = true → bitsAt (a 0) 8 4 ≤ 12 → bitsAt (a 0) 12 4 ≤ 12 → 16 ≤ bitsAt (a 0) 16 5 →
      bitsAt (a 0) 16 5 ≤ 21 → bitsAt (a 0) 32 12 ≤ 2047 → a 4 ≠ 0 → (∀ r ∈ [a 1, a 2, a 5], r % 4096 = 0) →
      let ch := bitsAt (a 0) 0 4
      let cars := hostNat d (a 6) 64
      tget? d.sp.chans ch = none → (∀ p ∈ d.sp.chans, p.2.cars &&& cars = 0) →
      let x : FapiCh := { cars := cars, req := a 1, ind := a 2, arena := a 3, arenaLen := a 4, free := a 5, reqLog := bitsAt (a 0) 8 4 + 4
                          indLog := bitsAt (a 0) 12 4 + 4, payLog := bitsAt (a 0) 16 5, vector := bitsAt (a 0) 32 12
                          tail := hostNat d (a 1 + 0x40) 4, head := hostNat d (a 1 + 0x40) 4, prod := hostNat d (a 2) 4
                          freeHead := hostNat d (a 5 + 0x40) 4 }
      exec (.fapiOpen i q) s = ends (modSp d (fun s => { s with chans := tset s.chans ch x })) 0 0) ∧
    (∀ x, Starts s i q 0x0032 c d → a 0 ≤ 15 → tget? d.sp.chans (a 0) = some x →
      let busy := (List.range 512).any (fun n => bitOf x.cars n && (carOf d n).isSome && carEnabled d n)
      exec (.fapiClose i q) s = ends (if busy = true then modChan d (a 0) (fun y => { y with closing := true })
        else modSp d (fun s => { s with chans := tdel s.chans (a 0) })) 0 0) ∧
    (∀ bs, Starts s i q 0x0080 c d → 0 < a 1 → a 1 ≤ 12582912 → imageBytes d c = some bs → imageOk d bs = true →
      (imageOf bs).handMin ≤ d.mgt.running.handover →
      let d1 := setStaged (modMgt (devWrite d (fwPages d 71) bs false) (fun m => { m with staged := some (imageOf bs) })) 1
      exec (.fwStage i q) s = ends (logOnly d1 { status := 0x1A4B, detail := mgtDetail 0x80 3 0 (imageOf bs).version }) 0 (imageOf bs).version) ∧
    (∀ f, Starts s i q 0x0081 c d → d.mgt.staged = some f →
      let d1 := setStaged (modMgt d (fun m => { m with flash := some f })) 2
      exec (.fwCommit i q true) s = ends (logOnly d1 { status := 0x1A4C, detail := mgtDetail 0x81 3 0 f.version }) 0 0 ∧
      exec (.fwCommit i q false) s = goes (cmdEnd (setStaged (modMgt d (fun m => { m with flash := none })) 3) 0 q c 0x3A4F)) ∧
    (∀ f, Starts s i q 0x0082 c d → d.mgt.flash = some f → f ≠ d.mgt.running →
      let d1 := { d with mem := memWrite (memClear d.mem (fwPages d 65) 12582912) (fwPages d 65) (f.tables.take 12582912) }
      let d2 := modMgt d1 (fun m => { m with running := f, staged := none, areaOk := true, actCount := m.actCount + 1 })
      exec (.fwActivate i q) s = ends (logOnly (showFw (setStaged d2 0)) { status := 0x1A4D, detail := mgtDetail 0x82 3 0 f.version }) 0 0) ∧
    (∀ bs, Starts s i q 0x0083 c d → d.env.boot = 3 → imageBytes d c = some bs → imageOk d bs = true →
      let d1 := cmdEnd (modMgt d (fun m => { m with flash := some (imageOf bs) })) 0 q c 0
      let d2 := showBoot (fset d1 regMgtBoot fldMgtBootStage 2) 0x1A41
      exec (.fwRecover i q) s = goes { d2 with env := { d2.env with boot := 0 } }) ∧
    (Starts s i q 0x0084 c d → 0 < a 1 → a 1 ≤ 64 → a 0 < 2 ^ 32 →
      exec (.logRead i q) s = ends (hostWrite d (a 2) ((rangeFrom (a 0) (a 1)).flatMap (fun n =>
        ((logEntry d (n % 2 ^ 32)).map recBytes).getD (List.replicate 64 0)))) 0 (a 1)) ∧
    (Starts s i q 0x0085 c d →
      let v := d.mgt.running.svn
      let old := fget d regSecFuse fldSecFuseMinSvn
      (old < v → exec (.svnRaise i q) s =
        ends (record (fset d regSecFuse fldSecFuseMinSvn v) { status := 0x1B04, detail := d.mgt.running.keySlot * 2 ^ 16 + v * 2 ^ 32 }) 0 v) ∧
      (v ≤ old → exec (.svnRaise i q) s = ends d 0 old)) ∧
    (Starts s i q 0x0086 c d →
      exec (.mgtQuery i q) s = ends (hostWrite d (a 0) ([regMgtBoot, regMgtWd, regMgtFw, regSecFuse].flatMap (fun k => natLe 8 (getReg d k)))) 0 32) ∧
    (Starts s i q 0x00C0 c d →
      (a 3 = 0 → 1 ≤ a 1 → a 1 ≤ 64 →
        exec (.errorRead i q) s = ends (hostWrite d (a 2) ((rangeFrom (a 0) (a 1)).flatMap (fun n => heldRec d j (n % 2 ^ 32)))) i (a 1)) ∧
      (a 3 = 1 → 1 ≤ a 1 → a 0 + a 1 ≤ 16 →
        exec (.errorRead i q) s = ends (hostWrite d (a 2) ((rangeFrom (a 0) (a 1)).flatMap (fun n =>
          ((tget? (instSt d j).slots n).map (fun r => recBytes r.1 ++ padTo 64 r.2)).getD (List.replicate 128 0)))) i (a 1))) ∧
    (Starts s i q 0x00C1 c d → unitErr d (a 0) (a 1) = none → exec (.fenceUnit i q) s = ends (Machine.fenceUnit d (a 0) (a 1)) 0 0) ∧
    (Starts s i q 0x00C2 c d → bistOn s.dev (a 0) (a 1) = false → unitErr d (a 0) (a 1) = none → unitFenced d (a 0) (a 1) = true →
      exec (.unfenceUnit i q true) s = ends (Machine.unfenceUnit d (a 0) (a 1)) 0 0 ∧
      exec (.unfenceUnit i q false) s =
        goes (cmdEnd (record d { status := 0x3113, inst := 0, detail := unitDetail (a 0) (a 1) }) 0 q c 0x3113)) ∧
    (Starts s i q 0x00C3 c d →
      exec (.healthSnapshot i q) s = ends (hostWrite d (a 0) (headerBytes d ++ (List.range 453).flatMap (partBytes d))) 0 7504)

/-- Operators, collectives and plan steps (R411 to R418, R500, R501). The exchange of the collectives and the consumer's side of WAIT_HEAD
are the model's choices (log entries 39 and 121). -/
def Obligations.OperatorsAndPlans : Prop :=
  ∀ (s : State) (i : Fin 65) (x : Fin 16) (v : Machine.Inv), Runs s → headReady s.dev i x = some v →
    let d := beginStep s.dev i x v
    let goes := fun (d1 : Dev) => (.next (withDev s d1) : Host.Outcome State Fault Refusal)
    let o := headIn d i x v
    (∀ p ∈ ([(.matmul i x, 0x0100), (.attention i x, 0x0101), (.softmax i x, 0x0102), (.rmsnorm i x, 0x0103), (.layernorm i x, 0x0104),
        (.elementwise i x, 0x0105), (.convert i x, 0x0106), (.reduceExact i x, 0x0107), (.gatherRows i x, 0x0110),
        (.gatherFirst i x, 0x0111), (.moeRoute i x, 0x0120), (.moeCombine i x, 0x0121), (.sample i x, 0x0130)] : List (Instr × Nat)),
      headOp v = some p.2 → headErr d i x v = none →
      let r := runOperator d p.2 { o with ready := noteReady d i p.2 o }
      (r.waits = false → exec p.1 s =
        goes (stepDone (modHead r.dev i x (fun w => { w with ready := [] })) i x r.status r.addr r.flags.toNat r.result true)) ∧
      (r.waits = true → exec p.1 s = goes (modHead r.dev i x (fun w => { w with ready := noteReady d i p.2 o }))) ∧
      (v.isPlan = true → exec (.operator i x) s = exec p.1 s)) ∧
    (∀ sc : Bool, headOp v = some (if sc = true then 0x0141 else 0x0140) →
      let run := exec (if sc = true then .reduceScatter i x else .allreduce i x) s
      let g := groupAt d (groupField o)
      let f := bitsAt (o.fld 2) 0 4
      (v.started = false → headErr d i x v = none → groupErr d o = none → collBad o g sc = false →
        firstAccess d o.who [(false, o.ten 0, inBytes f (bitsAt (o.fld 2) 4 2) 1 (o.fld 0)),
          (true, o.ten 1, outBytes o.attr 1 (collOutLen o g sc)), (true, g.scratch, 128 * blockLen o g + 128)] = none →
        run = goes (collPump (modHead d i x (fun w => { w with phase := 0, pos := 0, lines := [] })) i x)) ∧
      (v.started = true →
        let o2 := headIn s.dev i x v
        let g2 := groupAt s.dev (groupField o2)
        run = goes (collPump s.dev i x) ∧
        (v.phase = 3 → 10 * collOutLen o2 g2 sc ≤ v.pos → collOut s.dev o2 = 0 → run = goes (collFinish s.dev o2 g2 sc)))) ∧
    (∀ (all : Bool) (blocks : List (List Byte × Bool)), headOp v = some (if all = true then 0x0143 else 0x0142) →
      headErr d i x v = none → groupErr d o = none →
      let g := groupAt d (groupField o)
      let n := o.fld 0
      firstAccess d o.who [(false, o.ten 0, if all = true then n * g.n else n), (true, o.ten 1, n * g.n)] = none →
      blocks.length + 1 = g.n → (∀ b ∈ blocks, b.1.length = n) →
      let own := o.ten 0 + (if all = true then g.rank * n else 0)
      let ys := blocks.take g.rank ++ [(devRead d own n, false)] ++ blocks.drop g.rank
      let d2 := ys.zipIdx.foldl (fun d p => devWrite d (o.ten 1 + p.2 * n) p.1.1 false) d
      let d3 := ys.zipIdx.foldl (fun d p => if p.1.2 = true then markPoison d (o.ten 1 + p.2 * n) 0 (8 * n) else d) d2
      exec (if all = true then .alltoall i x blocks else .allgather i x blocks) s =
        goes (stepDone ((poisonedParts d own n).foldl (fun d p => markPoison d (o.ten 1 + g.rank * n + p.1) 0 (8 * p.2)) d3) i x 0 0 0 0 true)) ∧
    (∀ p, v.isPlan = true → v.plan.head? = some p → v.started = false →
      (p.kind = 0 → exec (.planEnd i x) s = goes (popHead d i x
        (if v.next = v.step ∧ opsLeft v = 0 then v.step + 1 else v.next + opsLeft v) { v with started := false } 0 0 0)) ∧
      (∀ c, p.kind = 2 → planCore d i x = some c →
        let d2 := (bitList 16 p.f0).foldl (fun d n =>
          if strmOf d c n i x = true then
            let k := regCoreStrmDesc c n
            let d := fset (fset d k fldCoreStrmDescDescBase p.f1) k fldCoreStrmDescDescCount (p.f2 % 65536)
            let d := fset (commitReg d k) (regCoreStrmPtr c n) fldCoreStrmPtrDescNext 0
            if strmState d c n = 0 then setStrmState d c n 1 else d
          else d) d
        exec (.streams i x) s = goes (stepDone (modCtx d2 i x (fun y => { y with hand := natPut y.hand c })) i x 0)) ∧
      (∀ c, p.kind = 3 → planCore s.dev i x = some c →
        (cfgOf d c (p.f0 % 16) fldCoreStrmCfgDir = 1 → headReached d c (p.f0 % 16) p.f1 = true → exec (.waitHead i x) s = goes (stepDone d i x 0)) ∧
        (cfgOf d c (p.f0 % 16) fldCoreStrmCfgDir ≠ 1 → countFilled d c (p.f0 % 16) p.f1 = true →
          exec (.waitHead i x) s =
            goes (stepDone (if strmOf d c (p.f0 % 16) i x = true then releaseTo d c (p.f0 % 16) p.f1 else d) i x 0))) ∧
      (p.kind = 4 → let n := if p.f0 = 0x0A then 80 else if p.f0 = 0x0B then 128 else if p.f0 = 4 then 16 else 8
        let bs := devRead d p.f2 n
        let b := isPoisoned d p.f2 n
        let pkt : TrnReq := if n ≤ 16 then { blankReq with a := fieldLe bs 0 8, b := fieldLe bs 8 8, poison := b }
          else { blankReq with data := bs, poison := b }
        accessErr d (.ctx i x) false p.f2 n = none → issueRefusal d i x p.f0 (p.f1 % 2 ^ 48) = none →
        (p.f1 / 2 ^ 48 ≠ ownEndpoint d → exec (.atomic i x) s = goes (issue d i x p.f0 p.f1 pkt (.planAtomic p.f3))) ∧
        (p.f1 / 2 ^ 48 = ownEndpoint d → 3 ≤ p.f0 → p.f0 ≤ 0x0B →
          let r : TrnReq := { pkt with
            dst := ownEndpoint d
            src := ownEndpoint d
            job := (ctxSt d i x).job
            addr := p.f1 % 2 ^ 48
            cls := (ctxSt d i x).cls }
          ∀ d2 q, homeRefusal d p.f0 r = none → applyWriteType d p.f0 r = (d2, .rsp 0x84 q) → accessErr d2 (.ctx i x) true p.f3 8 = none →
            exec (.atomic i x) s = goes (stepDone (devPut d2 p.f3 8 q.value q.poison) i x 0))) ∧
      (p.kind = 5 → issueRefusal d i x p.f0 (p.f1 % 2 ^ 48) = none → p.f1 / 2 ^ 48 ≠ ownEndpoint d →
        exec (.release i x) s = goes (issue d i x p.f0 p.f1 { blankReq with a := p.f2 } (.planAtomic p.f3))) ∧
      (p.kind = 5 → p.f0 = 0x0C ∨ p.f0 = 0x0D → issueRefusal d i x p.f0 (p.f1 % 2 ^ 48) = none → p.f1 / 2 ^ 48 = ownEndpoint d →
        ((ctxReqs d i x).any (fun r => isWriteType r.2.op) = true →
          exec (.release i x) s = goes (modHead d i x (fun v => { v with started := false }))) ∧
        (∀ d2 k q, (ctxReqs d i x).any (fun r => isWriteType r.2.op) = false →
          let r : TrnReq := { blankReq with
            a := p.f2
            dst := ownEndpoint d
            src := ownEndpoint d
            job := (ctxSt d i x).job
            addr := p.f1 % 2 ^ 48
            cls := (ctxSt d i x).cls }
          homeRefusal d p.f0 r = none → applyWriteType d p.f0 r = (d2, .rsp k q) →
          (k = 0x82 → exec (.release i x) s = goes (stepDone d2 i x 0)) ∧
          (k = 0x84 → accessErr d2 (.ctx i x) true p.f3 8 = none →
            exec (.release i x) s = goes (stepDone (devPut d2 p.f3 8 q.value q.poison) i x 0)))) ∧
      (p.kind = 6 → p.f1 % 8 = 0 → let line := p.f1 / 128 * 128
        issueRefusal d i x 1 (line % 2 ^ 48) = none →
        (p.f1 / 2 ^ 48 ≠ ownEndpoint d → exec (.waitValue i x) s = goes (issue d i x 1 line blankReq .planWait)) ∧
        (∀ r, p.f1 / 2 ^ 48 = ownEndpoint d → ownLine d i x line = .rsp 0x81 r → r.poison = false → p.f2 ≤ fieldLe r.data (p.f1 % 128) 8 →
          exec (.waitValue i x) s = goes (stepDone d i x 0))) ∧
      (p.kind = 7 → (ctxReqs d i x = [] → exec (.planFence i x) s = goes (stepDone d i x 0)) ∧
        (ctxReqs d i x ≠ [] → exec (.planFence i x) s = goes (modHead d i x (fun v => { v with pos := d.trn.order })))) ∧
      (p.kind = 8 → (ctxSt d i x).detOff = true → accessErr d (.ctx i x) true p.f1 16 = none →
        let t := lget {} d.tbs 1
        exec (.timeRead i x) s =
          goes (stepDone (devWrite (countChoice d i x (stepOwner v)) p.f1 (natLe 8 t.sec ++ natLe 8 t.sub) false) i x 0)))

/-- A command that a common check refuses (R386, R391, R404, R405): its completion, and nothing else of the device. -/
def Obligations.CommandsChecked : Prop :=
  ∀ (s : State) (i : Fin 65) (q : Fin 17) (c : Cmd) (d : Dev), Runs s →
    (∀ p ∈ ([(.queryDevice i q, 0x0001), (.queryInstance i q, 0x0002), (.regRead i q, 0x0003), (.regWrite i q, 0x0004),
        (.partitionSet i q, 0x0010), (.partitionRelease i q, 0x0011), (.windowSet i q, 0x0012), (.bar2Map i q, 0x0013), (.lendSet i q, 0x0014),
        (.setCreate i q, 0x0015), (.setGrant i q, 0x0016), (.setDelete i q, 0x0017), (.ashlarLoad i q, 0x0018), (.ashlarHold i q, 0x0019),
        (.contextCreate i q, 0x0020), (.contextDestroy i q, 0x0021), (.composerSet i q, 0x0022), (.seqSubmit i q, 0x0023),
        (.seqCancel i q, 0x0024), (.invoke i q, 0x0025), (.planRun i q, 0x0026), (.auditRead i q, 0x0027), (.radioAdmit i q, 0x0030), (.fapiOpen i q, 0x0031),
        (.fapiClose i q, 0x0032), (.timeExchange i q, 0x0033), (.freeze i q, 0x0034), (.thaw i q, 0x0035), (.dirtyTrack i q, 0x0036),
        (.save i q, 0x0037), (.restore i q, 0x0038), (.instanceTeardown i q, 0x0039), (.jobRegister i q, 0x0040), (.jobRelease i q, 0x0041),
        (.exportSet i q, 0x0042), (.choiceRead i q, 0x0043), (.replayToStep i q, 0x0044), (.fwStage i q, 0x0080),
        (.fwActivate i q, 0x0082), (.logRead i q, 0x0084), (.svnRaise i q, 0x0085), (.mgtQuery i q, 0x0086),
        (.errorRead i q, 0x00C0), (.fenceUnit i q, 0x00C1), (.healthSnapshot i q, 0x00C3), (.fwRecover i q, 0x0083), (.fwCommit i q true, 0x0081),
        (.fwCommit i q false, 0x0081)] : List (Instr × Nat)),
      takeCmd s.dev i q p.2 = some (c, d) → ∀ st arg, cmdErr d i q c = some (st, arg) →
        exec p.1 s = .next (withDev s (cmdEnd d i q c st 0 arg)) ∧
        (let t := cmdEnd d i q c st 0 arg
         t.mem = s.dev.mem ∧ t.poison = s.dev.poison ∧ t.cores = s.dev.cores ∧ t.strms = s.dev.strms ∧ t.arrs = s.dev.arrs ∧
           t.tier = s.dev.tier ∧ t.jobs = s.dev.jobs ∧ t.pier = s.dev.pier ∧ t.trn.reqs = s.dev.trn.reqs)) ∧
    (∀ k, opInfo c.opcode = some k → (d.env.boot = 3 → c.opcode = 0x0083) →
      let pf := k.issuer = .pf ∧ i.val ≠ 0
      let own := k.issuer = .own ∧ i.val = 0 ∧ q.val = 0 ∧ c.target ≠ 0
      (pf ∨ own → cmdErr d i q c = some (0x3A04, 0)) ∧
      (¬ pf → ¬ own → (k.isCtx = true ↔ q.val = 0) → cmdErr d i q c = some (0x3A05, 0)) ∧
      (¬ pf → ¬ own → (k.isCtx = true ↔ q.val ≠ 0) →
        (k.dev = true → c.target ≠ 0 → cmdErr d i q c = some (0x3A03, c.target)) ∧
        ((k.dev = true → c.target = 0) → ∀ n < 7, c.arg n ≠ 0 → k.args.contains n = false →
          (∀ m < n, c.arg m = 0 ∨ k.args.contains m = true) → cmdErr d i q c = some (0x3A03, c.arg n))))
end

