-- ==== Sys2Proof/Laws/State.lean ====
section
/-!
SUPPORT. What each update of the state leaves as it was, and what a command may do to a state.
-/

namespace Sys2Proof.Machine

set_option Elab.async false

/-! ### `setReg` changes `regs` alone -/

@[simp] theorem setReg_env (d : Dev) (k v : Nat) : (setReg d k v).env = d.env := rfl
@[simp] theorem setReg_act (d : Dev) (k v : Nat) : (setReg d k v).act = d.act := rfl
@[simp] theorem setReg_mem (d : Dev) (k v : Nat) : (setReg d k v).mem = d.mem := rfl
@[simp] theorem setReg_poison (d : Dev) (k v : Nat) : (setReg d k v).poison = d.poison := rfl
@[simp] theorem setReg_hmem (d : Dev) (k v : Nat) : (setReg d k v).hmem = d.hmem := rfl
@[simp] theorem setReg_hbad (d : Dev) (k v : Nat) : (setReg d k v).hbad = d.hbad := rfl
@[simp] theorem setReg_tbs (d : Dev) (k v : Nat) : (setReg d k v).tbs = d.tbs := rfl
@[simp] theorem setReg_arrs (d : Dev) (k v : Nat) : (setReg d k v).arrs = d.arrs := rfl
@[simp] theorem setReg_shares (d : Dev) (k v : Nat) : (setReg d k v).shares = d.shares := rfl
@[simp] theorem setReg_reruns (d : Dev) (k v : Nat) : (setReg d k v).reruns = d.reruns := rfl
@[simp] theorem setReg_unput (d : Dev) (k v : Nat) : (setReg d k v).unput = d.unput := rfl
@[simp] theorem setReg_taken (d : Dev) (k v : Nat) : (setReg d k v).taken = d.taken := rfl
@[simp] theorem setReg_waiting (d : Dev) (k v : Nat) : (setReg d k v).waiting = d.waiting := rfl
@[simp] theorem setReg_parked (d : Dev) (k v : Nat) : (setReg d k v).parked = d.parked := rfl
@[simp] theorem setReg_cores (d : Dev) (k v : Nat) : (setReg d k v).cores = d.cores := rfl
@[simp] theorem setReg_strms (d : Dev) (k v : Nat) : (setReg d k v).strms = d.strms := rfl
@[simp] theorem setReg_mortar (d : Dev) (k v : Nat) : (setReg d k v).mortar = d.mortar := rfl
@[simp] theorem setReg_keyOwn (d : Dev) (k v : Nat) : (setReg d k v).keyOwn = d.keyOwn := rfl
@[simp] theorem setReg_pier (d : Dev) (k v : Nat) : (setReg d k v).pier = d.pier := rfl
@[simp] theorem setReg_trn (d : Dev) (k v : Nat) : (setReg d k v).trn = d.trn := rfl
@[simp] theorem setReg_tier (d : Dev) (k v : Nat) : (setReg d k v).tier = d.tier := rfl
@[simp] theorem setReg_insts (d : Dev) (k v : Nat) : (setReg d k v).insts = d.insts := rfl
@[simp] theorem setReg_rings (d : Dev) (k v : Nat) : (setReg d k v).rings = d.rings := rfl
@[simp] theorem setReg_ctxs (d : Dev) (k v : Nat) : (setReg d k v).ctxs = d.ctxs := rfl
@[simp] theorem setReg_jobs (d : Dev) (k v : Nat) : (setReg d k v).jobs = d.jobs := rfl
@[simp] theorem setReg_flt (d : Dev) (k v : Nat) : (setReg d k v).flt = d.flt := rfl
@[simp] theorem setReg_sp (d : Dev) (k v : Nat) : (setReg d k v).sp = d.sp := rfl
@[simp] theorem setReg_sigs (d : Dev) (k v : Nat) : (setReg d k v).sigs = d.sigs := rfl
@[simp] theorem setReg_mgt (d : Dev) (k v : Nat) : (setReg d k v).mgt = d.mgt := rfl
@[simp] theorem setReg_time (d : Dev) (k v : Nat) : (setReg d k v).time = d.time := rfl
@[simp] theorem setReg_tst (d : Dev) (k v : Nat) : (setReg d k v).tst = d.tst := rfl
@[simp] theorem setReg_heat (d : Dev) (k v : Nat) : (setReg d k v).heat = d.heat := rfl
@[simp] theorem setReg_outs (d : Dev) (k v : Nat) : (setReg d k v).outs = d.outs := rfl
@[simp] theorem setReg_freeCtr (d : Dev) (k v : Nat) : (setReg d k v).freeCtr = d.freeCtr := rfl

/-! ### `commitReg` changes `act` alone -/

@[simp] theorem commitReg_env (d : Dev) (k : Nat) : (commitReg d k).env = d.env := rfl
@[simp] theorem commitReg_regs (d : Dev) (k : Nat) : (commitReg d k).regs = d.regs := rfl
@[simp] theorem commitReg_mem (d : Dev) (k : Nat) : (commitReg d k).mem = d.mem := rfl
@[simp] theorem commitReg_poison (d : Dev) (k : Nat) : (commitReg d k).poison = d.poison := rfl
@[simp] theorem commitReg_hmem (d : Dev) (k : Nat) : (commitReg d k).hmem = d.hmem := rfl
@[simp] theorem commitReg_hbad (d : Dev) (k : Nat) : (commitReg d k).hbad = d.hbad := rfl
@[simp] theorem commitReg_tbs (d : Dev) (k : Nat) : (commitReg d k).tbs = d.tbs := rfl
@[simp] theorem commitReg_arrs (d : Dev) (k : Nat) : (commitReg d k).arrs = d.arrs := rfl
@[simp] theorem commitReg_shares (d : Dev) (k : Nat) : (commitReg d k).shares = d.shares := rfl
@[simp] theorem commitReg_reruns (d : Dev) (k : Nat) : (commitReg d k).reruns = d.reruns := rfl
@[simp] theorem commitReg_unput (d : Dev) (k : Nat) : (commitReg d k).unput = d.unput := rfl
@[simp] theorem commitReg_taken (d : Dev) (k : Nat) : (commitReg d k).taken = d.taken := rfl
@[simp] theorem commitReg_waiting (d : Dev) (k : Nat) : (commitReg d k).waiting = d.waiting := rfl
@[simp] theorem commitReg_parked (d : Dev) (k : Nat) : (commitReg d k).parked = d.parked := rfl
@[simp] theorem commitReg_cores (d : Dev) (k : Nat) : (commitReg d k).cores = d.cores := rfl
@[simp] theorem commitReg_strms (d : Dev) (k : Nat) : (commitReg d k).strms = d.strms := rfl
@[simp] theorem commitReg_mortar (d : Dev) (k : Nat) : (commitReg d k).mortar = d.mortar := rfl
@[simp] theorem commitReg_keyOwn (d : Dev) (k : Nat) : (commitReg d k).keyOwn = d.keyOwn := rfl
@[simp] theorem commitReg_pier (d : Dev) (k : Nat) : (commitReg d k).pier = d.pier := rfl
@[simp] theorem commitReg_trn (d : Dev) (k : Nat) : (commitReg d k).trn = d.trn := rfl
@[simp] theorem commitReg_tier (d : Dev) (k : Nat) : (commitReg d k).tier = d.tier := rfl
@[simp] theorem commitReg_insts (d : Dev) (k : Nat) : (commitReg d k).insts = d.insts := rfl
@[simp] theorem commitReg_rings (d : Dev) (k : Nat) : (commitReg d k).rings = d.rings := rfl
@[simp] theorem commitReg_ctxs (d : Dev) (k : Nat) : (commitReg d k).ctxs = d.ctxs := rfl
@[simp] theorem commitReg_jobs (d : Dev) (k : Nat) : (commitReg d k).jobs = d.jobs := rfl
@[simp] theorem commitReg_flt (d : Dev) (k : Nat) : (commitReg d k).flt = d.flt := rfl
@[simp] theorem commitReg_sp (d : Dev) (k : Nat) : (commitReg d k).sp = d.sp := rfl
@[simp] theorem commitReg_sigs (d : Dev) (k : Nat) : (commitReg d k).sigs = d.sigs := rfl
@[simp] theorem commitReg_mgt (d : Dev) (k : Nat) : (commitReg d k).mgt = d.mgt := rfl
@[simp] theorem commitReg_time (d : Dev) (k : Nat) : (commitReg d k).time = d.time := rfl
@[simp] theorem commitReg_tst (d : Dev) (k : Nat) : (commitReg d k).tst = d.tst := rfl
@[simp] theorem commitReg_heat (d : Dev) (k : Nat) : (commitReg d k).heat = d.heat := rfl
@[simp] theorem commitReg_outs (d : Dev) (k : Nat) : (commitReg d k).outs = d.outs := rfl
@[simp] theorem commitReg_freeCtr (d : Dev) (k : Nat) : (commitReg d k).freeCtr = d.freeCtr := rfl

/-! ### `emit` changes `outs` alone -/

@[simp] theorem emit_env (d : Dev) (o : Out) : (emit d o).env = d.env := rfl
@[simp] theorem emit_regs (d : Dev) (o : Out) : (emit d o).regs = d.regs := rfl
@[simp] theorem emit_act (d : Dev) (o : Out) : (emit d o).act = d.act := rfl
@[simp] theorem emit_mem (d : Dev) (o : Out) : (emit d o).mem = d.mem := rfl
@[simp] theorem emit_poison (d : Dev) (o : Out) : (emit d o).poison = d.poison := rfl
@[simp] theorem emit_hmem (d : Dev) (o : Out) : (emit d o).hmem = d.hmem := rfl
@[simp] theorem emit_hbad (d : Dev) (o : Out) : (emit d o).hbad = d.hbad := rfl
@[simp] theorem emit_tbs (d : Dev) (o : Out) : (emit d o).tbs = d.tbs := rfl
@[simp] theorem emit_arrs (d : Dev) (o : Out) : (emit d o).arrs = d.arrs := rfl
@[simp] theorem emit_shares (d : Dev) (o : Out) : (emit d o).shares = d.shares := rfl
@[simp] theorem emit_reruns (d : Dev) (o : Out) : (emit d o).reruns = d.reruns := rfl
@[simp] theorem emit_unput (d : Dev) (o : Out) : (emit d o).unput = d.unput := rfl
@[simp] theorem emit_taken (d : Dev) (o : Out) : (emit d o).taken = d.taken := rfl
@[simp] theorem emit_waiting (d : Dev) (o : Out) : (emit d o).waiting = d.waiting := rfl
@[simp] theorem emit_parked (d : Dev) (o : Out) : (emit d o).parked = d.parked := rfl
@[simp] theorem emit_cores (d : Dev) (o : Out) : (emit d o).cores = d.cores := rfl
@[simp] theorem emit_strms (d : Dev) (o : Out) : (emit d o).strms = d.strms := rfl
@[simp] theorem emit_mortar (d : Dev) (o : Out) : (emit d o).mortar = d.mortar := rfl
@[simp] theorem emit_keyOwn (d : Dev) (o : Out) : (emit d o).keyOwn = d.keyOwn := rfl
@[simp] theorem emit_pier (d : Dev) (o : Out) : (emit d o).pier = d.pier := rfl
@[simp] theorem emit_trn (d : Dev) (o : Out) : (emit d o).trn = d.trn := rfl
@[simp] theorem emit_tier (d : Dev) (o : Out) : (emit d o).tier = d.tier := rfl
@[simp] theorem emit_insts (d : Dev) (o : Out) : (emit d o).insts = d.insts := rfl
@[simp] theorem emit_rings (d : Dev) (o : Out) : (emit d o).rings = d.rings := rfl
@[simp] theorem emit_ctxs (d : Dev) (o : Out) : (emit d o).ctxs = d.ctxs := rfl
@[simp] theorem emit_jobs (d : Dev) (o : Out) : (emit d o).jobs = d.jobs := rfl
@[simp] theorem emit_flt (d : Dev) (o : Out) : (emit d o).flt = d.flt := rfl
@[simp] theorem emit_sp (d : Dev) (o : Out) : (emit d o).sp = d.sp := rfl
@[simp] theorem emit_sigs (d : Dev) (o : Out) : (emit d o).sigs = d.sigs := rfl
@[simp] theorem emit_mgt (d : Dev) (o : Out) : (emit d o).mgt = d.mgt := rfl
@[simp] theorem emit_time (d : Dev) (o : Out) : (emit d o).time = d.time := rfl
@[simp] theorem emit_tst (d : Dev) (o : Out) : (emit d o).tst = d.tst := rfl
@[simp] theorem emit_heat (d : Dev) (o : Out) : (emit d o).heat = d.heat := rfl
@[simp] theorem emit_freeCtr (d : Dev) (o : Out) : (emit d o).freeCtr = d.freeCtr := rfl

/-! ### `modInst` changes `insts` alone -/

@[simp] theorem modInst_env (d : Dev) (i : Nat) (f : InstSt → InstSt) : (modInst d i f).env = d.env := rfl
@[simp] theorem modInst_regs (d : Dev) (i : Nat) (f : InstSt → InstSt) : (modInst d i f).regs = d.regs := rfl
@[simp] theorem modInst_act (d : Dev) (i : Nat) (f : InstSt → InstSt) : (modInst d i f).act = d.act := rfl
@[simp] theorem modInst_mem (d : Dev) (i : Nat) (f : InstSt → InstSt) : (modInst d i f).mem = d.mem := rfl
@[simp] theorem modInst_poison (d : Dev) (i : Nat) (f : InstSt → InstSt) : (modInst d i f).poison = d.poison := rfl
@[simp] theorem modInst_hmem (d : Dev) (i : Nat) (f : InstSt → InstSt) : (modInst d i f).hmem = d.hmem := rfl
@[simp] theorem modInst_hbad (d : Dev) (i : Nat) (f : InstSt → InstSt) : (modInst d i f).hbad = d.hbad := rfl
@[simp] theorem modInst_tbs (d : Dev) (i : Nat) (f : InstSt → InstSt) : (modInst d i f).tbs = d.tbs := rfl
@[simp] theorem modInst_arrs (d : Dev) (i : Nat) (f : InstSt → InstSt) : (modInst d i f).arrs = d.arrs := rfl
@[simp] theorem modInst_shares (d : Dev) (i : Nat) (f : InstSt → InstSt) : (modInst d i f).shares = d.shares := rfl
@[simp] theorem modInst_reruns (d : Dev) (i : Nat) (f : InstSt → InstSt) : (modInst d i f).reruns = d.reruns := rfl
@[simp] theorem modInst_unput (d : Dev) (i : Nat) (f : InstSt → InstSt) : (modInst d i f).unput = d.unput := rfl
@[simp] theorem modInst_taken (d : Dev) (i : Nat) (f : InstSt → InstSt) : (modInst d i f).taken = d.taken := rfl
@[simp] theorem modInst_waiting (d : Dev) (i : Nat) (f : InstSt → InstSt) : (modInst d i f).waiting = d.waiting := rfl
@[simp] theorem modInst_parked (d : Dev) (i : Nat) (f : InstSt → InstSt) : (modInst d i f).parked = d.parked := rfl
@[simp] theorem modInst_cores (d : Dev) (i : Nat) (f : InstSt → InstSt) : (modInst d i f).cores = d.cores := rfl
@[simp] theorem modInst_strms (d : Dev) (i : Nat) (f : InstSt → InstSt) : (modInst d i f).strms = d.strms := rfl
@[simp] theorem modInst_mortar (d : Dev) (i : Nat) (f : InstSt → InstSt) : (modInst d i f).mortar = d.mortar := rfl
@[simp] theorem modInst_keyOwn (d : Dev) (i : Nat) (f : InstSt → InstSt) : (modInst d i f).keyOwn = d.keyOwn := rfl
@[simp] theorem modInst_pier (d : Dev) (i : Nat) (f : InstSt → InstSt) : (modInst d i f).pier = d.pier := rfl
@[simp] theorem modInst_trn (d : Dev) (i : Nat) (f : InstSt → InstSt) : (modInst d i f).trn = d.trn := rfl
@[simp] theorem modInst_tier (d : Dev) (i : Nat) (f : InstSt → InstSt) : (modInst d i f).tier = d.tier := rfl
@[simp] theorem modInst_rings (d : Dev) (i : Nat) (f : InstSt → InstSt) : (modInst d i f).rings = d.rings := rfl
@[simp] theorem modInst_ctxs (d : Dev) (i : Nat) (f : InstSt → InstSt) : (modInst d i f).ctxs = d.ctxs := rfl
@[simp] theorem modInst_jobs (d : Dev) (i : Nat) (f : InstSt → InstSt) : (modInst d i f).jobs = d.jobs := rfl
@[simp] theorem modInst_flt (d : Dev) (i : Nat) (f : InstSt → InstSt) : (modInst d i f).flt = d.flt := rfl
@[simp] theorem modInst_sp (d : Dev) (i : Nat) (f : InstSt → InstSt) : (modInst d i f).sp = d.sp := rfl
@[simp] theorem modInst_sigs (d : Dev) (i : Nat) (f : InstSt → InstSt) : (modInst d i f).sigs = d.sigs := rfl
@[simp] theorem modInst_mgt (d : Dev) (i : Nat) (f : InstSt → InstSt) : (modInst d i f).mgt = d.mgt := rfl
@[simp] theorem modInst_time (d : Dev) (i : Nat) (f : InstSt → InstSt) : (modInst d i f).time = d.time := rfl
@[simp] theorem modInst_tst (d : Dev) (i : Nat) (f : InstSt → InstSt) : (modInst d i f).tst = d.tst := rfl
@[simp] theorem modInst_heat (d : Dev) (i : Nat) (f : InstSt → InstSt) : (modInst d i f).heat = d.heat := rfl
@[simp] theorem modInst_outs (d : Dev) (i : Nat) (f : InstSt → InstSt) : (modInst d i f).outs = d.outs := rfl
@[simp] theorem modInst_freeCtr (d : Dev) (i : Nat) (f : InstSt → InstSt) : (modInst d i f).freeCtr = d.freeCtr := rfl

/-! ### `modCtx` changes `ctxs` alone -/

@[simp] theorem modCtx_env (d : Dev) (i c : Nat) (f : CtxSt → CtxSt) : (modCtx d i c f).env = d.env := rfl
@[simp] theorem modCtx_regs (d : Dev) (i c : Nat) (f : CtxSt → CtxSt) : (modCtx d i c f).regs = d.regs := rfl
@[simp] theorem modCtx_act (d : Dev) (i c : Nat) (f : CtxSt → CtxSt) : (modCtx d i c f).act = d.act := rfl
@[simp] theorem modCtx_mem (d : Dev) (i c : Nat) (f : CtxSt → CtxSt) : (modCtx d i c f).mem = d.mem := rfl
@[simp] theorem modCtx_poison (d : Dev) (i c : Nat) (f : CtxSt → CtxSt) : (modCtx d i c f).poison = d.poison := rfl
@[simp] theorem modCtx_hmem (d : Dev) (i c : Nat) (f : CtxSt → CtxSt) : (modCtx d i c f).hmem = d.hmem := rfl
@[simp] theorem modCtx_hbad (d : Dev) (i c : Nat) (f : CtxSt → CtxSt) : (modCtx d i c f).hbad = d.hbad := rfl
@[simp] theorem modCtx_tbs (d : Dev) (i c : Nat) (f : CtxSt → CtxSt) : (modCtx d i c f).tbs = d.tbs := rfl
@[simp] theorem modCtx_arrs (d : Dev) (i c : Nat) (f : CtxSt → CtxSt) : (modCtx d i c f).arrs = d.arrs := rfl
@[simp] theorem modCtx_shares (d : Dev) (i c : Nat) (f : CtxSt → CtxSt) : (modCtx d i c f).shares = d.shares := rfl
@[simp] theorem modCtx_reruns (d : Dev) (i c : Nat) (f : CtxSt → CtxSt) : (modCtx d i c f).reruns = d.reruns := rfl
@[simp] theorem modCtx_unput (d : Dev) (i c : Nat) (f : CtxSt → CtxSt) : (modCtx d i c f).unput = d.unput := rfl
@[simp] theorem modCtx_taken (d : Dev) (i c : Nat) (f : CtxSt → CtxSt) : (modCtx d i c f).taken = d.taken := rfl
@[simp] theorem modCtx_waiting (d : Dev) (i c : Nat) (f : CtxSt → CtxSt) : (modCtx d i c f).waiting = d.waiting := rfl
@[simp] theorem modCtx_parked (d : Dev) (i c : Nat) (f : CtxSt → CtxSt) : (modCtx d i c f).parked = d.parked := rfl
@[simp] theorem modCtx_cores (d : Dev) (i c : Nat) (f : CtxSt → CtxSt) : (modCtx d i c f).cores = d.cores := rfl
@[simp] theorem modCtx_strms (d : Dev) (i c : Nat) (f : CtxSt → CtxSt) : (modCtx d i c f).strms = d.strms := rfl
@[simp] theorem modCtx_mortar (d : Dev) (i c : Nat) (f : CtxSt → CtxSt) : (modCtx d i c f).mortar = d.mortar := rfl
@[simp] theorem modCtx_keyOwn (d : Dev) (i c : Nat) (f : CtxSt → CtxSt) : (modCtx d i c f).keyOwn = d.keyOwn := rfl
@[simp] theorem modCtx_pier (d : Dev) (i c : Nat) (f : CtxSt → CtxSt) : (modCtx d i c f).pier = d.pier := rfl
@[simp] theorem modCtx_trn (d : Dev) (i c : Nat) (f : CtxSt → CtxSt) : (modCtx d i c f).trn = d.trn := rfl
@[simp] theorem modCtx_tier (d : Dev) (i c : Nat) (f : CtxSt → CtxSt) : (modCtx d i c f).tier = d.tier := rfl
@[simp] theorem modCtx_insts (d : Dev) (i c : Nat) (f : CtxSt → CtxSt) : (modCtx d i c f).insts = d.insts := rfl
@[simp] theorem modCtx_rings (d : Dev) (i c : Nat) (f : CtxSt → CtxSt) : (modCtx d i c f).rings = d.rings := rfl
@[simp] theorem modCtx_jobs (d : Dev) (i c : Nat) (f : CtxSt → CtxSt) : (modCtx d i c f).jobs = d.jobs := rfl
@[simp] theorem modCtx_flt (d : Dev) (i c : Nat) (f : CtxSt → CtxSt) : (modCtx d i c f).flt = d.flt := rfl
@[simp] theorem modCtx_sp (d : Dev) (i c : Nat) (f : CtxSt → CtxSt) : (modCtx d i c f).sp = d.sp := rfl
@[simp] theorem modCtx_sigs (d : Dev) (i c : Nat) (f : CtxSt → CtxSt) : (modCtx d i c f).sigs = d.sigs := rfl
@[simp] theorem modCtx_mgt (d : Dev) (i c : Nat) (f : CtxSt → CtxSt) : (modCtx d i c f).mgt = d.mgt := rfl
@[simp] theorem modCtx_time (d : Dev) (i c : Nat) (f : CtxSt → CtxSt) : (modCtx d i c f).time = d.time := rfl
@[simp] theorem modCtx_tst (d : Dev) (i c : Nat) (f : CtxSt → CtxSt) : (modCtx d i c f).tst = d.tst := rfl
@[simp] theorem modCtx_heat (d : Dev) (i c : Nat) (f : CtxSt → CtxSt) : (modCtx d i c f).heat = d.heat := rfl
@[simp] theorem modCtx_outs (d : Dev) (i c : Nat) (f : CtxSt → CtxSt) : (modCtx d i c f).outs = d.outs := rfl
@[simp] theorem modCtx_freeCtr (d : Dev) (i c : Nat) (f : CtxSt → CtxSt) : (modCtx d i c f).freeCtr = d.freeCtr := rfl

/-! ### `modRing` changes `rings` alone -/

@[simp] theorem modRing_env (d : Dev) (i q : Nat) (f : RingSt → RingSt) : (modRing d i q f).env = d.env := rfl
@[simp] theorem modRing_regs (d : Dev) (i q : Nat) (f : RingSt → RingSt) : (modRing d i q f).regs = d.regs := rfl
@[simp] theorem modRing_act (d : Dev) (i q : Nat) (f : RingSt → RingSt) : (modRing d i q f).act = d.act := rfl
@[simp] theorem modRing_mem (d : Dev) (i q : Nat) (f : RingSt → RingSt) : (modRing d i q f).mem = d.mem := rfl
@[simp] theorem modRing_poison (d : Dev) (i q : Nat) (f : RingSt → RingSt) : (modRing d i q f).poison = d.poison := rfl
@[simp] theorem modRing_hmem (d : Dev) (i q : Nat) (f : RingSt → RingSt) : (modRing d i q f).hmem = d.hmem := rfl
@[simp] theorem modRing_hbad (d : Dev) (i q : Nat) (f : RingSt → RingSt) : (modRing d i q f).hbad = d.hbad := rfl
@[simp] theorem modRing_tbs (d : Dev) (i q : Nat) (f : RingSt → RingSt) : (modRing d i q f).tbs = d.tbs := rfl
@[simp] theorem modRing_arrs (d : Dev) (i q : Nat) (f : RingSt → RingSt) : (modRing d i q f).arrs = d.arrs := rfl
@[simp] theorem modRing_shares (d : Dev) (i q : Nat) (f : RingSt → RingSt) : (modRing d i q f).shares = d.shares := rfl
@[simp] theorem modRing_reruns (d : Dev) (i q : Nat) (f : RingSt → RingSt) : (modRing d i q f).reruns = d.reruns := rfl
@[simp] theorem modRing_unput (d : Dev) (i q : Nat) (f : RingSt → RingSt) : (modRing d i q f).unput = d.unput := rfl
@[simp] theorem modRing_taken (d : Dev) (i q : Nat) (f : RingSt → RingSt) : (modRing d i q f).taken = d.taken := rfl
@[simp] theorem modRing_waiting (d : Dev) (i q : Nat) (f : RingSt → RingSt) : (modRing d i q f).waiting = d.waiting := rfl
@[simp] theorem modRing_parked (d : Dev) (i q : Nat) (f : RingSt → RingSt) : (modRing d i q f).parked = d.parked := rfl
@[simp] theorem modRing_cores (d : Dev) (i q : Nat) (f : RingSt → RingSt) : (modRing d i q f).cores = d.cores := rfl
@[simp] theorem modRing_strms (d : Dev) (i q : Nat) (f : RingSt → RingSt) : (modRing d i q f).strms = d.strms := rfl
@[simp] theorem modRing_mortar (d : Dev) (i q : Nat) (f : RingSt → RingSt) : (modRing d i q f).mortar = d.mortar := rfl
@[simp] theorem modRing_keyOwn (d : Dev) (i q : Nat) (f : RingSt → RingSt) : (modRing d i q f).keyOwn = d.keyOwn := rfl
@[simp] theorem modRing_pier (d : Dev) (i q : Nat) (f : RingSt → RingSt) : (modRing d i q f).pier = d.pier := rfl
@[simp] theorem modRing_trn (d : Dev) (i q : Nat) (f : RingSt → RingSt) : (modRing d i q f).trn = d.trn := rfl
@[simp] theorem modRing_tier (d : Dev) (i q : Nat) (f : RingSt → RingSt) : (modRing d i q f).tier = d.tier := rfl
@[simp] theorem modRing_insts (d : Dev) (i q : Nat) (f : RingSt → RingSt) : (modRing d i q f).insts = d.insts := rfl
@[simp] theorem modRing_ctxs (d : Dev) (i q : Nat) (f : RingSt → RingSt) : (modRing d i q f).ctxs = d.ctxs := rfl
@[simp] theorem modRing_jobs (d : Dev) (i q : Nat) (f : RingSt → RingSt) : (modRing d i q f).jobs = d.jobs := rfl
@[simp] theorem modRing_flt (d : Dev) (i q : Nat) (f : RingSt → RingSt) : (modRing d i q f).flt = d.flt := rfl
@[simp] theorem modRing_sp (d : Dev) (i q : Nat) (f : RingSt → RingSt) : (modRing d i q f).sp = d.sp := rfl
@[simp] theorem modRing_sigs (d : Dev) (i q : Nat) (f : RingSt → RingSt) : (modRing d i q f).sigs = d.sigs := rfl
@[simp] theorem modRing_mgt (d : Dev) (i q : Nat) (f : RingSt → RingSt) : (modRing d i q f).mgt = d.mgt := rfl
@[simp] theorem modRing_time (d : Dev) (i q : Nat) (f : RingSt → RingSt) : (modRing d i q f).time = d.time := rfl
@[simp] theorem modRing_tst (d : Dev) (i q : Nat) (f : RingSt → RingSt) : (modRing d i q f).tst = d.tst := rfl
@[simp] theorem modRing_heat (d : Dev) (i q : Nat) (f : RingSt → RingSt) : (modRing d i q f).heat = d.heat := rfl
@[simp] theorem modRing_outs (d : Dev) (i q : Nat) (f : RingSt → RingSt) : (modRing d i q f).outs = d.outs := rfl
@[simp] theorem modRing_freeCtr (d : Dev) (i q : Nat) (f : RingSt → RingSt) : (modRing d i q f).freeCtr = d.freeCtr := rfl

/-! ### `modPage` changes `pier` alone -/

@[simp] theorem modPage_env (d : Dev) (o : Nat) (f : PageEnt → PageEnt) : (modPage d o f).env = d.env := rfl
@[simp] theorem modPage_regs (d : Dev) (o : Nat) (f : PageEnt → PageEnt) : (modPage d o f).regs = d.regs := rfl
@[simp] theorem modPage_act (d : Dev) (o : Nat) (f : PageEnt → PageEnt) : (modPage d o f).act = d.act := rfl
@[simp] theorem modPage_mem (d : Dev) (o : Nat) (f : PageEnt → PageEnt) : (modPage d o f).mem = d.mem := rfl
@[simp] theorem modPage_poison (d : Dev) (o : Nat) (f : PageEnt → PageEnt) : (modPage d o f).poison = d.poison := rfl
@[simp] theorem modPage_hmem (d : Dev) (o : Nat) (f : PageEnt → PageEnt) : (modPage d o f).hmem = d.hmem := rfl
@[simp] theorem modPage_hbad (d : Dev) (o : Nat) (f : PageEnt → PageEnt) : (modPage d o f).hbad = d.hbad := rfl
@[simp] theorem modPage_tbs (d : Dev) (o : Nat) (f : PageEnt → PageEnt) : (modPage d o f).tbs = d.tbs := rfl
@[simp] theorem modPage_arrs (d : Dev) (o : Nat) (f : PageEnt → PageEnt) : (modPage d o f).arrs = d.arrs := rfl
@[simp] theorem modPage_shares (d : Dev) (o : Nat) (f : PageEnt → PageEnt) : (modPage d o f).shares = d.shares := rfl
@[simp] theorem modPage_reruns (d : Dev) (o : Nat) (f : PageEnt → PageEnt) : (modPage d o f).reruns = d.reruns := rfl
@[simp] theorem modPage_unput (d : Dev) (o : Nat) (f : PageEnt → PageEnt) : (modPage d o f).unput = d.unput := rfl
@[simp] theorem modPage_taken (d : Dev) (o : Nat) (f : PageEnt → PageEnt) : (modPage d o f).taken = d.taken := rfl
@[simp] theorem modPage_waiting (d : Dev) (o : Nat) (f : PageEnt → PageEnt) : (modPage d o f).waiting = d.waiting := rfl
@[simp] theorem modPage_parked (d : Dev) (o : Nat) (f : PageEnt → PageEnt) : (modPage d o f).parked = d.parked := rfl
@[simp] theorem modPage_cores (d : Dev) (o : Nat) (f : PageEnt → PageEnt) : (modPage d o f).cores = d.cores := rfl
@[simp] theorem modPage_strms (d : Dev) (o : Nat) (f : PageEnt → PageEnt) : (modPage d o f).strms = d.strms := rfl
@[simp] theorem modPage_mortar (d : Dev) (o : Nat) (f : PageEnt → PageEnt) : (modPage d o f).mortar = d.mortar := rfl
@[simp] theorem modPage_keyOwn (d : Dev) (o : Nat) (f : PageEnt → PageEnt) : (modPage d o f).keyOwn = d.keyOwn := rfl
@[simp] theorem modPage_trn (d : Dev) (o : Nat) (f : PageEnt → PageEnt) : (modPage d o f).trn = d.trn := rfl
@[simp] theorem modPage_tier (d : Dev) (o : Nat) (f : PageEnt → PageEnt) : (modPage d o f).tier = d.tier := rfl
@[simp] theorem modPage_insts (d : Dev) (o : Nat) (f : PageEnt → PageEnt) : (modPage d o f).insts = d.insts := rfl
@[simp] theorem modPage_rings (d : Dev) (o : Nat) (f : PageEnt → PageEnt) : (modPage d o f).rings = d.rings := rfl
@[simp] theorem modPage_ctxs (d : Dev) (o : Nat) (f : PageEnt → PageEnt) : (modPage d o f).ctxs = d.ctxs := rfl
@[simp] theorem modPage_jobs (d : Dev) (o : Nat) (f : PageEnt → PageEnt) : (modPage d o f).jobs = d.jobs := rfl
@[simp] theorem modPage_flt (d : Dev) (o : Nat) (f : PageEnt → PageEnt) : (modPage d o f).flt = d.flt := rfl
@[simp] theorem modPage_sp (d : Dev) (o : Nat) (f : PageEnt → PageEnt) : (modPage d o f).sp = d.sp := rfl
@[simp] theorem modPage_sigs (d : Dev) (o : Nat) (f : PageEnt → PageEnt) : (modPage d o f).sigs = d.sigs := rfl
@[simp] theorem modPage_mgt (d : Dev) (o : Nat) (f : PageEnt → PageEnt) : (modPage d o f).mgt = d.mgt := rfl
@[simp] theorem modPage_time (d : Dev) (o : Nat) (f : PageEnt → PageEnt) : (modPage d o f).time = d.time := rfl
@[simp] theorem modPage_tst (d : Dev) (o : Nat) (f : PageEnt → PageEnt) : (modPage d o f).tst = d.tst := rfl
@[simp] theorem modPage_heat (d : Dev) (o : Nat) (f : PageEnt → PageEnt) : (modPage d o f).heat = d.heat := rfl
@[simp] theorem modPage_outs (d : Dev) (o : Nat) (f : PageEnt → PageEnt) : (modPage d o f).outs = d.outs := rfl
@[simp] theorem modPage_freeCtr (d : Dev) (o : Nat) (f : PageEnt → PageEnt) : (modPage d o f).freeCtr = d.freeCtr := rfl

/-! ### `modArr` changes `arrs` alone -/

@[simp] theorem modArr_env (d : Dev) (a : Nat) (f : ArrSt → ArrSt) : (modArr d a f).env = d.env := rfl
@[simp] theorem modArr_regs (d : Dev) (a : Nat) (f : ArrSt → ArrSt) : (modArr d a f).regs = d.regs := rfl
@[simp] theorem modArr_act (d : Dev) (a : Nat) (f : ArrSt → ArrSt) : (modArr d a f).act = d.act := rfl
@[simp] theorem modArr_mem (d : Dev) (a : Nat) (f : ArrSt → ArrSt) : (modArr d a f).mem = d.mem := rfl
@[simp] theorem modArr_poison (d : Dev) (a : Nat) (f : ArrSt → ArrSt) : (modArr d a f).poison = d.poison := rfl
@[simp] theorem modArr_hmem (d : Dev) (a : Nat) (f : ArrSt → ArrSt) : (modArr d a f).hmem = d.hmem := rfl
@[simp] theorem modArr_hbad (d : Dev) (a : Nat) (f : ArrSt → ArrSt) : (modArr d a f).hbad = d.hbad := rfl
@[simp] theorem modArr_tbs (d : Dev) (a : Nat) (f : ArrSt → ArrSt) : (modArr d a f).tbs = d.tbs := rfl
@[simp] theorem modArr_shares (d : Dev) (a : Nat) (f : ArrSt → ArrSt) : (modArr d a f).shares = d.shares := rfl
@[simp] theorem modArr_reruns (d : Dev) (a : Nat) (f : ArrSt → ArrSt) : (modArr d a f).reruns = d.reruns := rfl
@[simp] theorem modArr_unput (d : Dev) (a : Nat) (f : ArrSt → ArrSt) : (modArr d a f).unput = d.unput := rfl
@[simp] theorem modArr_taken (d : Dev) (a : Nat) (f : ArrSt → ArrSt) : (modArr d a f).taken = d.taken := rfl
@[simp] theorem modArr_waiting (d : Dev) (a : Nat) (f : ArrSt → ArrSt) : (modArr d a f).waiting = d.waiting := rfl
@[simp] theorem modArr_parked (d : Dev) (a : Nat) (f : ArrSt → ArrSt) : (modArr d a f).parked = d.parked := rfl
@[simp] theorem modArr_cores (d : Dev) (a : Nat) (f : ArrSt → ArrSt) : (modArr d a f).cores = d.cores := rfl
@[simp] theorem modArr_strms (d : Dev) (a : Nat) (f : ArrSt → ArrSt) : (modArr d a f).strms = d.strms := rfl
@[simp] theorem modArr_mortar (d : Dev) (a : Nat) (f : ArrSt → ArrSt) : (modArr d a f).mortar = d.mortar := rfl
@[simp] theorem modArr_keyOwn (d : Dev) (a : Nat) (f : ArrSt → ArrSt) : (modArr d a f).keyOwn = d.keyOwn := rfl
@[simp] theorem modArr_pier (d : Dev) (a : Nat) (f : ArrSt → ArrSt) : (modArr d a f).pier = d.pier := rfl
@[simp] theorem modArr_trn (d : Dev) (a : Nat) (f : ArrSt → ArrSt) : (modArr d a f).trn = d.trn := rfl
@[simp] theorem modArr_tier (d : Dev) (a : Nat) (f : ArrSt → ArrSt) : (modArr d a f).tier = d.tier := rfl
@[simp] theorem modArr_insts (d : Dev) (a : Nat) (f : ArrSt → ArrSt) : (modArr d a f).insts = d.insts := rfl
@[simp] theorem modArr_rings (d : Dev) (a : Nat) (f : ArrSt → ArrSt) : (modArr d a f).rings = d.rings := rfl
@[simp] theorem modArr_ctxs (d : Dev) (a : Nat) (f : ArrSt → ArrSt) : (modArr d a f).ctxs = d.ctxs := rfl
@[simp] theorem modArr_jobs (d : Dev) (a : Nat) (f : ArrSt → ArrSt) : (modArr d a f).jobs = d.jobs := rfl
@[simp] theorem modArr_flt (d : Dev) (a : Nat) (f : ArrSt → ArrSt) : (modArr d a f).flt = d.flt := rfl
@[simp] theorem modArr_sp (d : Dev) (a : Nat) (f : ArrSt → ArrSt) : (modArr d a f).sp = d.sp := rfl
@[simp] theorem modArr_sigs (d : Dev) (a : Nat) (f : ArrSt → ArrSt) : (modArr d a f).sigs = d.sigs := rfl
@[simp] theorem modArr_mgt (d : Dev) (a : Nat) (f : ArrSt → ArrSt) : (modArr d a f).mgt = d.mgt := rfl
@[simp] theorem modArr_time (d : Dev) (a : Nat) (f : ArrSt → ArrSt) : (modArr d a f).time = d.time := rfl
@[simp] theorem modArr_tst (d : Dev) (a : Nat) (f : ArrSt → ArrSt) : (modArr d a f).tst = d.tst := rfl
@[simp] theorem modArr_heat (d : Dev) (a : Nat) (f : ArrSt → ArrSt) : (modArr d a f).heat = d.heat := rfl
@[simp] theorem modArr_outs (d : Dev) (a : Nat) (f : ArrSt → ArrSt) : (modArr d a f).outs = d.outs := rfl
@[simp] theorem modArr_freeCtr (d : Dev) (a : Nat) (f : ArrSt → ArrSt) : (modArr d a f).freeCtr = d.freeCtr := rfl

/-! ### `modStrm` changes `strms` alone -/

@[simp] theorem modStrm_env (d : Dev) (c s : Nat) (f : StrmSt → StrmSt) : (modStrm d c s f).env = d.env := rfl
@[simp] theorem modStrm_regs (d : Dev) (c s : Nat) (f : StrmSt → StrmSt) : (modStrm d c s f).regs = d.regs := rfl
@[simp] theorem modStrm_act (d : Dev) (c s : Nat) (f : StrmSt → StrmSt) : (modStrm d c s f).act = d.act := rfl
@[simp] theorem modStrm_mem (d : Dev) (c s : Nat) (f : StrmSt → StrmSt) : (modStrm d c s f).mem = d.mem := rfl
@[simp] theorem modStrm_poison (d : Dev) (c s : Nat) (f : StrmSt → StrmSt) : (modStrm d c s f).poison = d.poison := rfl
@[simp] theorem modStrm_hmem (d : Dev) (c s : Nat) (f : StrmSt → StrmSt) : (modStrm d c s f).hmem = d.hmem := rfl
@[simp] theorem modStrm_hbad (d : Dev) (c s : Nat) (f : StrmSt → StrmSt) : (modStrm d c s f).hbad = d.hbad := rfl
@[simp] theorem modStrm_tbs (d : Dev) (c s : Nat) (f : StrmSt → StrmSt) : (modStrm d c s f).tbs = d.tbs := rfl
@[simp] theorem modStrm_arrs (d : Dev) (c s : Nat) (f : StrmSt → StrmSt) : (modStrm d c s f).arrs = d.arrs := rfl
@[simp] theorem modStrm_shares (d : Dev) (c s : Nat) (f : StrmSt → StrmSt) : (modStrm d c s f).shares = d.shares := rfl
@[simp] theorem modStrm_reruns (d : Dev) (c s : Nat) (f : StrmSt → StrmSt) : (modStrm d c s f).reruns = d.reruns := rfl
@[simp] theorem modStrm_unput (d : Dev) (c s : Nat) (f : StrmSt → StrmSt) : (modStrm d c s f).unput = d.unput := rfl
@[simp] theorem modStrm_taken (d : Dev) (c s : Nat) (f : StrmSt → StrmSt) : (modStrm d c s f).taken = d.taken := rfl
@[simp] theorem modStrm_waiting (d : Dev) (c s : Nat) (f : StrmSt → StrmSt) : (modStrm d c s f).waiting = d.waiting := rfl
@[simp] theorem modStrm_parked (d : Dev) (c s : Nat) (f : StrmSt → StrmSt) : (modStrm d c s f).parked = d.parked := rfl
@[simp] theorem modStrm_cores (d : Dev) (c s : Nat) (f : StrmSt → StrmSt) : (modStrm d c s f).cores = d.cores := rfl
@[simp] theorem modStrm_mortar (d : Dev) (c s : Nat) (f : StrmSt → StrmSt) : (modStrm d c s f).mortar = d.mortar := rfl
@[simp] theorem modStrm_keyOwn (d : Dev) (c s : Nat) (f : StrmSt → StrmSt) : (modStrm d c s f).keyOwn = d.keyOwn := rfl
@[simp] theorem modStrm_pier (d : Dev) (c s : Nat) (f : StrmSt → StrmSt) : (modStrm d c s f).pier = d.pier := rfl
@[simp] theorem modStrm_trn (d : Dev) (c s : Nat) (f : StrmSt → StrmSt) : (modStrm d c s f).trn = d.trn := rfl
@[simp] theorem modStrm_tier (d : Dev) (c s : Nat) (f : StrmSt → StrmSt) : (modStrm d c s f).tier = d.tier := rfl
@[simp] theorem modStrm_insts (d : Dev) (c s : Nat) (f : StrmSt → StrmSt) : (modStrm d c s f).insts = d.insts := rfl
@[simp] theorem modStrm_rings (d : Dev) (c s : Nat) (f : StrmSt → StrmSt) : (modStrm d c s f).rings = d.rings := rfl
@[simp] theorem modStrm_ctxs (d : Dev) (c s : Nat) (f : StrmSt → StrmSt) : (modStrm d c s f).ctxs = d.ctxs := rfl
@[simp] theorem modStrm_jobs (d : Dev) (c s : Nat) (f : StrmSt → StrmSt) : (modStrm d c s f).jobs = d.jobs := rfl
@[simp] theorem modStrm_flt (d : Dev) (c s : Nat) (f : StrmSt → StrmSt) : (modStrm d c s f).flt = d.flt := rfl
@[simp] theorem modStrm_sp (d : Dev) (c s : Nat) (f : StrmSt → StrmSt) : (modStrm d c s f).sp = d.sp := rfl
@[simp] theorem modStrm_sigs (d : Dev) (c s : Nat) (f : StrmSt → StrmSt) : (modStrm d c s f).sigs = d.sigs := rfl
@[simp] theorem modStrm_mgt (d : Dev) (c s : Nat) (f : StrmSt → StrmSt) : (modStrm d c s f).mgt = d.mgt := rfl
@[simp] theorem modStrm_time (d : Dev) (c s : Nat) (f : StrmSt → StrmSt) : (modStrm d c s f).time = d.time := rfl
@[simp] theorem modStrm_tst (d : Dev) (c s : Nat) (f : StrmSt → StrmSt) : (modStrm d c s f).tst = d.tst := rfl
@[simp] theorem modStrm_heat (d : Dev) (c s : Nat) (f : StrmSt → StrmSt) : (modStrm d c s f).heat = d.heat := rfl
@[simp] theorem modStrm_outs (d : Dev) (c s : Nat) (f : StrmSt → StrmSt) : (modStrm d c s f).outs = d.outs := rfl
@[simp] theorem modStrm_freeCtr (d : Dev) (c s : Nat) (f : StrmSt → StrmSt) : (modStrm d c s f).freeCtr = d.freeCtr := rfl

/-! ### `modCore` changes `cores` alone -/

@[simp] theorem modCore_env (d : Dev) (c : Nat) (f : CoreSt → CoreSt) : (modCore d c f).env = d.env := rfl
@[simp] theorem modCore_regs (d : Dev) (c : Nat) (f : CoreSt → CoreSt) : (modCore d c f).regs = d.regs := rfl
@[simp] theorem modCore_act (d : Dev) (c : Nat) (f : CoreSt → CoreSt) : (modCore d c f).act = d.act := rfl
@[simp] theorem modCore_mem (d : Dev) (c : Nat) (f : CoreSt → CoreSt) : (modCore d c f).mem = d.mem := rfl
@[simp] theorem modCore_poison (d : Dev) (c : Nat) (f : CoreSt → CoreSt) : (modCore d c f).poison = d.poison := rfl
@[simp] theorem modCore_hmem (d : Dev) (c : Nat) (f : CoreSt → CoreSt) : (modCore d c f).hmem = d.hmem := rfl
@[simp] theorem modCore_hbad (d : Dev) (c : Nat) (f : CoreSt → CoreSt) : (modCore d c f).hbad = d.hbad := rfl
@[simp] theorem modCore_tbs (d : Dev) (c : Nat) (f : CoreSt → CoreSt) : (modCore d c f).tbs = d.tbs := rfl
@[simp] theorem modCore_arrs (d : Dev) (c : Nat) (f : CoreSt → CoreSt) : (modCore d c f).arrs = d.arrs := rfl
@[simp] theorem modCore_shares (d : Dev) (c : Nat) (f : CoreSt → CoreSt) : (modCore d c f).shares = d.shares := rfl
@[simp] theorem modCore_reruns (d : Dev) (c : Nat) (f : CoreSt → CoreSt) : (modCore d c f).reruns = d.reruns := rfl
@[simp] theorem modCore_unput (d : Dev) (c : Nat) (f : CoreSt → CoreSt) : (modCore d c f).unput = d.unput := rfl
@[simp] theorem modCore_taken (d : Dev) (c : Nat) (f : CoreSt → CoreSt) : (modCore d c f).taken = d.taken := rfl
@[simp] theorem modCore_waiting (d : Dev) (c : Nat) (f : CoreSt → CoreSt) : (modCore d c f).waiting = d.waiting := rfl
@[simp] theorem modCore_parked (d : Dev) (c : Nat) (f : CoreSt → CoreSt) : (modCore d c f).parked = d.parked := rfl
@[simp] theorem modCore_strms (d : Dev) (c : Nat) (f : CoreSt → CoreSt) : (modCore d c f).strms = d.strms := rfl
@[simp] theorem modCore_mortar (d : Dev) (c : Nat) (f : CoreSt → CoreSt) : (modCore d c f).mortar = d.mortar := rfl
@[simp] theorem modCore_keyOwn (d : Dev) (c : Nat) (f : CoreSt → CoreSt) : (modCore d c f).keyOwn = d.keyOwn := rfl
@[simp] theorem modCore_pier (d : Dev) (c : Nat) (f : CoreSt → CoreSt) : (modCore d c f).pier = d.pier := rfl
@[simp] theorem modCore_trn (d : Dev) (c : Nat) (f : CoreSt → CoreSt) : (modCore d c f).trn = d.trn := rfl
@[simp] theorem modCore_tier (d : Dev) (c : Nat) (f : CoreSt → CoreSt) : (modCore d c f).tier = d.tier := rfl
@[simp] theorem modCore_insts (d : Dev) (c : Nat) (f : CoreSt → CoreSt) : (modCore d c f).insts = d.insts := rfl
@[simp] theorem modCore_rings (d : Dev) (c : Nat) (f : CoreSt → CoreSt) : (modCore d c f).rings = d.rings := rfl
@[simp] theorem modCore_ctxs (d : Dev) (c : Nat) (f : CoreSt → CoreSt) : (modCore d c f).ctxs = d.ctxs := rfl
@[simp] theorem modCore_jobs (d : Dev) (c : Nat) (f : CoreSt → CoreSt) : (modCore d c f).jobs = d.jobs := rfl
@[simp] theorem modCore_flt (d : Dev) (c : Nat) (f : CoreSt → CoreSt) : (modCore d c f).flt = d.flt := rfl
@[simp] theorem modCore_sp (d : Dev) (c : Nat) (f : CoreSt → CoreSt) : (modCore d c f).sp = d.sp := rfl
@[simp] theorem modCore_sigs (d : Dev) (c : Nat) (f : CoreSt → CoreSt) : (modCore d c f).sigs = d.sigs := rfl
@[simp] theorem modCore_mgt (d : Dev) (c : Nat) (f : CoreSt → CoreSt) : (modCore d c f).mgt = d.mgt := rfl
@[simp] theorem modCore_time (d : Dev) (c : Nat) (f : CoreSt → CoreSt) : (modCore d c f).time = d.time := rfl
@[simp] theorem modCore_tst (d : Dev) (c : Nat) (f : CoreSt → CoreSt) : (modCore d c f).tst = d.tst := rfl
@[simp] theorem modCore_heat (d : Dev) (c : Nat) (f : CoreSt → CoreSt) : (modCore d c f).heat = d.heat := rfl
@[simp] theorem modCore_outs (d : Dev) (c : Nat) (f : CoreSt → CoreSt) : (modCore d c f).outs = d.outs := rfl
@[simp] theorem modCore_freeCtr (d : Dev) (c : Nat) (f : CoreSt → CoreSt) : (modCore d c f).freeCtr = d.freeCtr := rfl

/-! ### `modSig` changes `sigs` alone -/

@[simp] theorem modSig_env (d : Dev) (c : Nat) (f : SigSt → SigSt) : (modSig d c f).env = d.env := rfl
@[simp] theorem modSig_regs (d : Dev) (c : Nat) (f : SigSt → SigSt) : (modSig d c f).regs = d.regs := rfl
@[simp] theorem modSig_act (d : Dev) (c : Nat) (f : SigSt → SigSt) : (modSig d c f).act = d.act := rfl
@[simp] theorem modSig_mem (d : Dev) (c : Nat) (f : SigSt → SigSt) : (modSig d c f).mem = d.mem := rfl
@[simp] theorem modSig_poison (d : Dev) (c : Nat) (f : SigSt → SigSt) : (modSig d c f).poison = d.poison := rfl
@[simp] theorem modSig_hmem (d : Dev) (c : Nat) (f : SigSt → SigSt) : (modSig d c f).hmem = d.hmem := rfl
@[simp] theorem modSig_hbad (d : Dev) (c : Nat) (f : SigSt → SigSt) : (modSig d c f).hbad = d.hbad := rfl
@[simp] theorem modSig_tbs (d : Dev) (c : Nat) (f : SigSt → SigSt) : (modSig d c f).tbs = d.tbs := rfl
@[simp] theorem modSig_arrs (d : Dev) (c : Nat) (f : SigSt → SigSt) : (modSig d c f).arrs = d.arrs := rfl
@[simp] theorem modSig_shares (d : Dev) (c : Nat) (f : SigSt → SigSt) : (modSig d c f).shares = d.shares := rfl
@[simp] theorem modSig_reruns (d : Dev) (c : Nat) (f : SigSt → SigSt) : (modSig d c f).reruns = d.reruns := rfl
@[simp] theorem modSig_unput (d : Dev) (c : Nat) (f : SigSt → SigSt) : (modSig d c f).unput = d.unput := rfl
@[simp] theorem modSig_taken (d : Dev) (c : Nat) (f : SigSt → SigSt) : (modSig d c f).taken = d.taken := rfl
@[simp] theorem modSig_waiting (d : Dev) (c : Nat) (f : SigSt → SigSt) : (modSig d c f).waiting = d.waiting := rfl
@[simp] theorem modSig_parked (d : Dev) (c : Nat) (f : SigSt → SigSt) : (modSig d c f).parked = d.parked := rfl
@[simp] theorem modSig_cores (d : Dev) (c : Nat) (f : SigSt → SigSt) : (modSig d c f).cores = d.cores := rfl
@[simp] theorem modSig_strms (d : Dev) (c : Nat) (f : SigSt → SigSt) : (modSig d c f).strms = d.strms := rfl
@[simp] theorem modSig_mortar (d : Dev) (c : Nat) (f : SigSt → SigSt) : (modSig d c f).mortar = d.mortar := rfl
@[simp] theorem modSig_keyOwn (d : Dev) (c : Nat) (f : SigSt → SigSt) : (modSig d c f).keyOwn = d.keyOwn := rfl
@[simp] theorem modSig_pier (d : Dev) (c : Nat) (f : SigSt → SigSt) : (modSig d c f).pier = d.pier := rfl
@[simp] theorem modSig_trn (d : Dev) (c : Nat) (f : SigSt → SigSt) : (modSig d c f).trn = d.trn := rfl
@[simp] theorem modSig_tier (d : Dev) (c : Nat) (f : SigSt → SigSt) : (modSig d c f).tier = d.tier := rfl
@[simp] theorem modSig_insts (d : Dev) (c : Nat) (f : SigSt → SigSt) : (modSig d c f).insts = d.insts := rfl
@[simp] theorem modSig_rings (d : Dev) (c : Nat) (f : SigSt → SigSt) : (modSig d c f).rings = d.rings := rfl
@[simp] theorem modSig_ctxs (d : Dev) (c : Nat) (f : SigSt → SigSt) : (modSig d c f).ctxs = d.ctxs := rfl
@[simp] theorem modSig_jobs (d : Dev) (c : Nat) (f : SigSt → SigSt) : (modSig d c f).jobs = d.jobs := rfl
@[simp] theorem modSig_flt (d : Dev) (c : Nat) (f : SigSt → SigSt) : (modSig d c f).flt = d.flt := rfl
@[simp] theorem modSig_sp (d : Dev) (c : Nat) (f : SigSt → SigSt) : (modSig d c f).sp = d.sp := rfl
@[simp] theorem modSig_mgt (d : Dev) (c : Nat) (f : SigSt → SigSt) : (modSig d c f).mgt = d.mgt := rfl
@[simp] theorem modSig_time (d : Dev) (c : Nat) (f : SigSt → SigSt) : (modSig d c f).time = d.time := rfl
@[simp] theorem modSig_tst (d : Dev) (c : Nat) (f : SigSt → SigSt) : (modSig d c f).tst = d.tst := rfl
@[simp] theorem modSig_heat (d : Dev) (c : Nat) (f : SigSt → SigSt) : (modSig d c f).heat = d.heat := rfl
@[simp] theorem modSig_outs (d : Dev) (c : Nat) (f : SigSt → SigSt) : (modSig d c f).outs = d.outs := rfl
@[simp] theorem modSig_freeCtr (d : Dev) (c : Nat) (f : SigSt → SigSt) : (modSig d c f).freeCtr = d.freeCtr := rfl

/-! ### `modSp` changes `sp` alone -/

@[simp] theorem modSp_env (d : Dev) (f : Planner → Planner) : (modSp d f).env = d.env := rfl
@[simp] theorem modSp_regs (d : Dev) (f : Planner → Planner) : (modSp d f).regs = d.regs := rfl
@[simp] theorem modSp_act (d : Dev) (f : Planner → Planner) : (modSp d f).act = d.act := rfl
@[simp] theorem modSp_mem (d : Dev) (f : Planner → Planner) : (modSp d f).mem = d.mem := rfl
@[simp] theorem modSp_poison (d : Dev) (f : Planner → Planner) : (modSp d f).poison = d.poison := rfl
@[simp] theorem modSp_hmem (d : Dev) (f : Planner → Planner) : (modSp d f).hmem = d.hmem := rfl
@[simp] theorem modSp_hbad (d : Dev) (f : Planner → Planner) : (modSp d f).hbad = d.hbad := rfl
@[simp] theorem modSp_tbs (d : Dev) (f : Planner → Planner) : (modSp d f).tbs = d.tbs := rfl
@[simp] theorem modSp_arrs (d : Dev) (f : Planner → Planner) : (modSp d f).arrs = d.arrs := rfl
@[simp] theorem modSp_shares (d : Dev) (f : Planner → Planner) : (modSp d f).shares = d.shares := rfl
@[simp] theorem modSp_reruns (d : Dev) (f : Planner → Planner) : (modSp d f).reruns = d.reruns := rfl
@[simp] theorem modSp_unput (d : Dev) (f : Planner → Planner) : (modSp d f).unput = d.unput := rfl
@[simp] theorem modSp_taken (d : Dev) (f : Planner → Planner) : (modSp d f).taken = d.taken := rfl
@[simp] theorem modSp_waiting (d : Dev) (f : Planner → Planner) : (modSp d f).waiting = d.waiting := rfl
@[simp] theorem modSp_parked (d : Dev) (f : Planner → Planner) : (modSp d f).parked = d.parked := rfl
@[simp] theorem modSp_cores (d : Dev) (f : Planner → Planner) : (modSp d f).cores = d.cores := rfl
@[simp] theorem modSp_strms (d : Dev) (f : Planner → Planner) : (modSp d f).strms = d.strms := rfl
@[simp] theorem modSp_mortar (d : Dev) (f : Planner → Planner) : (modSp d f).mortar = d.mortar := rfl
@[simp] theorem modSp_keyOwn (d : Dev) (f : Planner → Planner) : (modSp d f).keyOwn = d.keyOwn := rfl
@[simp] theorem modSp_pier (d : Dev) (f : Planner → Planner) : (modSp d f).pier = d.pier := rfl
@[simp] theorem modSp_trn (d : Dev) (f : Planner → Planner) : (modSp d f).trn = d.trn := rfl
@[simp] theorem modSp_tier (d : Dev) (f : Planner → Planner) : (modSp d f).tier = d.tier := rfl
@[simp] theorem modSp_insts (d : Dev) (f : Planner → Planner) : (modSp d f).insts = d.insts := rfl
@[simp] theorem modSp_rings (d : Dev) (f : Planner → Planner) : (modSp d f).rings = d.rings := rfl
@[simp] theorem modSp_ctxs (d : Dev) (f : Planner → Planner) : (modSp d f).ctxs = d.ctxs := rfl
@[simp] theorem modSp_jobs (d : Dev) (f : Planner → Planner) : (modSp d f).jobs = d.jobs := rfl
@[simp] theorem modSp_flt (d : Dev) (f : Planner → Planner) : (modSp d f).flt = d.flt := rfl
@[simp] theorem modSp_sigs (d : Dev) (f : Planner → Planner) : (modSp d f).sigs = d.sigs := rfl
@[simp] theorem modSp_mgt (d : Dev) (f : Planner → Planner) : (modSp d f).mgt = d.mgt := rfl
@[simp] theorem modSp_time (d : Dev) (f : Planner → Planner) : (modSp d f).time = d.time := rfl
@[simp] theorem modSp_tst (d : Dev) (f : Planner → Planner) : (modSp d f).tst = d.tst := rfl
@[simp] theorem modSp_heat (d : Dev) (f : Planner → Planner) : (modSp d f).heat = d.heat := rfl
@[simp] theorem modSp_outs (d : Dev) (f : Planner → Planner) : (modSp d f).outs = d.outs := rfl
@[simp] theorem modSp_freeCtr (d : Dev) (f : Planner → Planner) : (modSp d f).freeCtr = d.freeCtr := rfl

/-! ### `modTier` changes `tier` alone -/

@[simp] theorem modTier_env (d : Dev) (f : TierSt → TierSt) : (modTier d f).env = d.env := rfl
@[simp] theorem modTier_regs (d : Dev) (f : TierSt → TierSt) : (modTier d f).regs = d.regs := rfl
@[simp] theorem modTier_act (d : Dev) (f : TierSt → TierSt) : (modTier d f).act = d.act := rfl
@[simp] theorem modTier_mem (d : Dev) (f : TierSt → TierSt) : (modTier d f).mem = d.mem := rfl
@[simp] theorem modTier_poison (d : Dev) (f : TierSt → TierSt) : (modTier d f).poison = d.poison := rfl
@[simp] theorem modTier_hmem (d : Dev) (f : TierSt → TierSt) : (modTier d f).hmem = d.hmem := rfl
@[simp] theorem modTier_hbad (d : Dev) (f : TierSt → TierSt) : (modTier d f).hbad = d.hbad := rfl
@[simp] theorem modTier_tbs (d : Dev) (f : TierSt → TierSt) : (modTier d f).tbs = d.tbs := rfl
@[simp] theorem modTier_arrs (d : Dev) (f : TierSt → TierSt) : (modTier d f).arrs = d.arrs := rfl
@[simp] theorem modTier_shares (d : Dev) (f : TierSt → TierSt) : (modTier d f).shares = d.shares := rfl
@[simp] theorem modTier_reruns (d : Dev) (f : TierSt → TierSt) : (modTier d f).reruns = d.reruns := rfl
@[simp] theorem modTier_unput (d : Dev) (f : TierSt → TierSt) : (modTier d f).unput = d.unput := rfl
@[simp] theorem modTier_taken (d : Dev) (f : TierSt → TierSt) : (modTier d f).taken = d.taken := rfl
@[simp] theorem modTier_waiting (d : Dev) (f : TierSt → TierSt) : (modTier d f).waiting = d.waiting := rfl
@[simp] theorem modTier_parked (d : Dev) (f : TierSt → TierSt) : (modTier d f).parked = d.parked := rfl
@[simp] theorem modTier_cores (d : Dev) (f : TierSt → TierSt) : (modTier d f).cores = d.cores := rfl
@[simp] theorem modTier_strms (d : Dev) (f : TierSt → TierSt) : (modTier d f).strms = d.strms := rfl
@[simp] theorem modTier_mortar (d : Dev) (f : TierSt → TierSt) : (modTier d f).mortar = d.mortar := rfl
@[simp] theorem modTier_keyOwn (d : Dev) (f : TierSt → TierSt) : (modTier d f).keyOwn = d.keyOwn := rfl
@[simp] theorem modTier_pier (d : Dev) (f : TierSt → TierSt) : (modTier d f).pier = d.pier := rfl
@[simp] theorem modTier_trn (d : Dev) (f : TierSt → TierSt) : (modTier d f).trn = d.trn := rfl
@[simp] theorem modTier_insts (d : Dev) (f : TierSt → TierSt) : (modTier d f).insts = d.insts := rfl
@[simp] theorem modTier_rings (d : Dev) (f : TierSt → TierSt) : (modTier d f).rings = d.rings := rfl
@[simp] theorem modTier_ctxs (d : Dev) (f : TierSt → TierSt) : (modTier d f).ctxs = d.ctxs := rfl
@[simp] theorem modTier_jobs (d : Dev) (f : TierSt → TierSt) : (modTier d f).jobs = d.jobs := rfl
@[simp] theorem modTier_flt (d : Dev) (f : TierSt → TierSt) : (modTier d f).flt = d.flt := rfl
@[simp] theorem modTier_sp (d : Dev) (f : TierSt → TierSt) : (modTier d f).sp = d.sp := rfl
@[simp] theorem modTier_sigs (d : Dev) (f : TierSt → TierSt) : (modTier d f).sigs = d.sigs := rfl
@[simp] theorem modTier_mgt (d : Dev) (f : TierSt → TierSt) : (modTier d f).mgt = d.mgt := rfl
@[simp] theorem modTier_time (d : Dev) (f : TierSt → TierSt) : (modTier d f).time = d.time := rfl
@[simp] theorem modTier_tst (d : Dev) (f : TierSt → TierSt) : (modTier d f).tst = d.tst := rfl
@[simp] theorem modTier_heat (d : Dev) (f : TierSt → TierSt) : (modTier d f).heat = d.heat := rfl
@[simp] theorem modTier_outs (d : Dev) (f : TierSt → TierSt) : (modTier d f).outs = d.outs := rfl
@[simp] theorem modTier_freeCtr (d : Dev) (f : TierSt → TierSt) : (modTier d f).freeCtr = d.freeCtr := rfl

/-! ### `modMgt` changes `mgt` alone -/

@[simp] theorem modMgt_env (d : Dev) (f : MgtSt → MgtSt) : (modMgt d f).env = d.env := rfl
@[simp] theorem modMgt_regs (d : Dev) (f : MgtSt → MgtSt) : (modMgt d f).regs = d.regs := rfl
@[simp] theorem modMgt_act (d : Dev) (f : MgtSt → MgtSt) : (modMgt d f).act = d.act := rfl
@[simp] theorem modMgt_mem (d : Dev) (f : MgtSt → MgtSt) : (modMgt d f).mem = d.mem := rfl
@[simp] theorem modMgt_poison (d : Dev) (f : MgtSt → MgtSt) : (modMgt d f).poison = d.poison := rfl
@[simp] theorem modMgt_hmem (d : Dev) (f : MgtSt → MgtSt) : (modMgt d f).hmem = d.hmem := rfl
@[simp] theorem modMgt_hbad (d : Dev) (f : MgtSt → MgtSt) : (modMgt d f).hbad = d.hbad := rfl
@[simp] theorem modMgt_tbs (d : Dev) (f : MgtSt → MgtSt) : (modMgt d f).tbs = d.tbs := rfl
@[simp] theorem modMgt_arrs (d : Dev) (f : MgtSt → MgtSt) : (modMgt d f).arrs = d.arrs := rfl
@[simp] theorem modMgt_shares (d : Dev) (f : MgtSt → MgtSt) : (modMgt d f).shares = d.shares := rfl
@[simp] theorem modMgt_reruns (d : Dev) (f : MgtSt → MgtSt) : (modMgt d f).reruns = d.reruns := rfl
@[simp] theorem modMgt_unput (d : Dev) (f : MgtSt → MgtSt) : (modMgt d f).unput = d.unput := rfl
@[simp] theorem modMgt_taken (d : Dev) (f : MgtSt → MgtSt) : (modMgt d f).taken = d.taken := rfl
@[simp] theorem modMgt_waiting (d : Dev) (f : MgtSt → MgtSt) : (modMgt d f).waiting = d.waiting := rfl
@[simp] theorem modMgt_parked (d : Dev) (f : MgtSt → MgtSt) : (modMgt d f).parked = d.parked := rfl
@[simp] theorem modMgt_cores (d : Dev) (f : MgtSt → MgtSt) : (modMgt d f).cores = d.cores := rfl
@[simp] theorem modMgt_strms (d : Dev) (f : MgtSt → MgtSt) : (modMgt d f).strms = d.strms := rfl
@[simp] theorem modMgt_mortar (d : Dev) (f : MgtSt → MgtSt) : (modMgt d f).mortar = d.mortar := rfl
@[simp] theorem modMgt_keyOwn (d : Dev) (f : MgtSt → MgtSt) : (modMgt d f).keyOwn = d.keyOwn := rfl
@[simp] theorem modMgt_pier (d : Dev) (f : MgtSt → MgtSt) : (modMgt d f).pier = d.pier := rfl
@[simp] theorem modMgt_trn (d : Dev) (f : MgtSt → MgtSt) : (modMgt d f).trn = d.trn := rfl
@[simp] theorem modMgt_tier (d : Dev) (f : MgtSt → MgtSt) : (modMgt d f).tier = d.tier := rfl
@[simp] theorem modMgt_insts (d : Dev) (f : MgtSt → MgtSt) : (modMgt d f).insts = d.insts := rfl
@[simp] theorem modMgt_rings (d : Dev) (f : MgtSt → MgtSt) : (modMgt d f).rings = d.rings := rfl
@[simp] theorem modMgt_ctxs (d : Dev) (f : MgtSt → MgtSt) : (modMgt d f).ctxs = d.ctxs := rfl
@[simp] theorem modMgt_jobs (d : Dev) (f : MgtSt → MgtSt) : (modMgt d f).jobs = d.jobs := rfl
@[simp] theorem modMgt_flt (d : Dev) (f : MgtSt → MgtSt) : (modMgt d f).flt = d.flt := rfl
@[simp] theorem modMgt_sp (d : Dev) (f : MgtSt → MgtSt) : (modMgt d f).sp = d.sp := rfl
@[simp] theorem modMgt_sigs (d : Dev) (f : MgtSt → MgtSt) : (modMgt d f).sigs = d.sigs := rfl
@[simp] theorem modMgt_time (d : Dev) (f : MgtSt → MgtSt) : (modMgt d f).time = d.time := rfl
@[simp] theorem modMgt_tst (d : Dev) (f : MgtSt → MgtSt) : (modMgt d f).tst = d.tst := rfl
@[simp] theorem modMgt_heat (d : Dev) (f : MgtSt → MgtSt) : (modMgt d f).heat = d.heat := rfl
@[simp] theorem modMgt_outs (d : Dev) (f : MgtSt → MgtSt) : (modMgt d f).outs = d.outs := rfl
@[simp] theorem modMgt_freeCtr (d : Dev) (f : MgtSt → MgtSt) : (modMgt d f).freeCtr = d.freeCtr := rfl

/-! ### `modHeat` changes `heat` alone -/

@[simp] theorem modHeat_env (d : Dev) (f : HeatSt → HeatSt) : (modHeat d f).env = d.env := rfl
@[simp] theorem modHeat_regs (d : Dev) (f : HeatSt → HeatSt) : (modHeat d f).regs = d.regs := rfl
@[simp] theorem modHeat_act (d : Dev) (f : HeatSt → HeatSt) : (modHeat d f).act = d.act := rfl
@[simp] theorem modHeat_mem (d : Dev) (f : HeatSt → HeatSt) : (modHeat d f).mem = d.mem := rfl
@[simp] theorem modHeat_poison (d : Dev) (f : HeatSt → HeatSt) : (modHeat d f).poison = d.poison := rfl
@[simp] theorem modHeat_hmem (d : Dev) (f : HeatSt → HeatSt) : (modHeat d f).hmem = d.hmem := rfl
@[simp] theorem modHeat_hbad (d : Dev) (f : HeatSt → HeatSt) : (modHeat d f).hbad = d.hbad := rfl
@[simp] theorem modHeat_tbs (d : Dev) (f : HeatSt → HeatSt) : (modHeat d f).tbs = d.tbs := rfl
@[simp] theorem modHeat_arrs (d : Dev) (f : HeatSt → HeatSt) : (modHeat d f).arrs = d.arrs := rfl
@[simp] theorem modHeat_shares (d : Dev) (f : HeatSt → HeatSt) : (modHeat d f).shares = d.shares := rfl
@[simp] theorem modHeat_reruns (d : Dev) (f : HeatSt → HeatSt) : (modHeat d f).reruns = d.reruns := rfl
@[simp] theorem modHeat_unput (d : Dev) (f : HeatSt → HeatSt) : (modHeat d f).unput = d.unput := rfl
@[simp] theorem modHeat_taken (d : Dev) (f : HeatSt → HeatSt) : (modHeat d f).taken = d.taken := rfl
@[simp] theorem modHeat_waiting (d : Dev) (f : HeatSt → HeatSt) : (modHeat d f).waiting = d.waiting := rfl
@[simp] theorem modHeat_parked (d : Dev) (f : HeatSt → HeatSt) : (modHeat d f).parked = d.parked := rfl
@[simp] theorem modHeat_cores (d : Dev) (f : HeatSt → HeatSt) : (modHeat d f).cores = d.cores := rfl
@[simp] theorem modHeat_strms (d : Dev) (f : HeatSt → HeatSt) : (modHeat d f).strms = d.strms := rfl
@[simp] theorem modHeat_mortar (d : Dev) (f : HeatSt → HeatSt) : (modHeat d f).mortar = d.mortar := rfl
@[simp] theorem modHeat_keyOwn (d : Dev) (f : HeatSt → HeatSt) : (modHeat d f).keyOwn = d.keyOwn := rfl
@[simp] theorem modHeat_pier (d : Dev) (f : HeatSt → HeatSt) : (modHeat d f).pier = d.pier := rfl
@[simp] theorem modHeat_trn (d : Dev) (f : HeatSt → HeatSt) : (modHeat d f).trn = d.trn := rfl
@[simp] theorem modHeat_tier (d : Dev) (f : HeatSt → HeatSt) : (modHeat d f).tier = d.tier := rfl
@[simp] theorem modHeat_insts (d : Dev) (f : HeatSt → HeatSt) : (modHeat d f).insts = d.insts := rfl
@[simp] theorem modHeat_rings (d : Dev) (f : HeatSt → HeatSt) : (modHeat d f).rings = d.rings := rfl
@[simp] theorem modHeat_ctxs (d : Dev) (f : HeatSt → HeatSt) : (modHeat d f).ctxs = d.ctxs := rfl
@[simp] theorem modHeat_jobs (d : Dev) (f : HeatSt → HeatSt) : (modHeat d f).jobs = d.jobs := rfl
@[simp] theorem modHeat_flt (d : Dev) (f : HeatSt → HeatSt) : (modHeat d f).flt = d.flt := rfl
@[simp] theorem modHeat_sp (d : Dev) (f : HeatSt → HeatSt) : (modHeat d f).sp = d.sp := rfl
@[simp] theorem modHeat_sigs (d : Dev) (f : HeatSt → HeatSt) : (modHeat d f).sigs = d.sigs := rfl
@[simp] theorem modHeat_mgt (d : Dev) (f : HeatSt → HeatSt) : (modHeat d f).mgt = d.mgt := rfl
@[simp] theorem modHeat_time (d : Dev) (f : HeatSt → HeatSt) : (modHeat d f).time = d.time := rfl
@[simp] theorem modHeat_tst (d : Dev) (f : HeatSt → HeatSt) : (modHeat d f).tst = d.tst := rfl
@[simp] theorem modHeat_outs (d : Dev) (f : HeatSt → HeatSt) : (modHeat d f).outs = d.outs := rfl
@[simp] theorem modHeat_freeCtr (d : Dev) (f : HeatSt → HeatSt) : (modHeat d f).freeCtr = d.freeCtr := rfl

/-! ### Fields of a register -/

theorem fset_eq (d : Dev) (k : Nat) (f : Fld) (v : Nat) : fset d k f v = setReg d k (setBits (getReg d k) f.lo f.w v) := rfl

@[simp] theorem fset_env (d : Dev) (k : Nat) (f : Fld) (v : Nat) : (fset d k f v).env = d.env := rfl
@[simp] theorem fset_act (d : Dev) (k : Nat) (f : Fld) (v : Nat) : (fset d k f v).act = d.act := rfl
@[simp] theorem fset_mem (d : Dev) (k : Nat) (f : Fld) (v : Nat) : (fset d k f v).mem = d.mem := rfl
@[simp] theorem fset_poison (d : Dev) (k : Nat) (f : Fld) (v : Nat) : (fset d k f v).poison = d.poison := rfl
@[simp] theorem fset_hmem (d : Dev) (k : Nat) (f : Fld) (v : Nat) : (fset d k f v).hmem = d.hmem := rfl
@[simp] theorem fset_hbad (d : Dev) (k : Nat) (f : Fld) (v : Nat) : (fset d k f v).hbad = d.hbad := rfl
@[simp] theorem fset_tbs (d : Dev) (k : Nat) (f : Fld) (v : Nat) : (fset d k f v).tbs = d.tbs := rfl
@[simp] theorem fset_arrs (d : Dev) (k : Nat) (f : Fld) (v : Nat) : (fset d k f v).arrs = d.arrs := rfl
@[simp] theorem fset_shares (d : Dev) (k : Nat) (f : Fld) (v : Nat) : (fset d k f v).shares = d.shares := rfl
@[simp] theorem fset_reruns (d : Dev) (k : Nat) (f : Fld) (v : Nat) : (fset d k f v).reruns = d.reruns := rfl
@[simp] theorem fset_unput (d : Dev) (k : Nat) (f : Fld) (v : Nat) : (fset d k f v).unput = d.unput := rfl
@[simp] theorem fset_taken (d : Dev) (k : Nat) (f : Fld) (v : Nat) : (fset d k f v).taken = d.taken := rfl
@[simp] theorem fset_waiting (d : Dev) (k : Nat) (f : Fld) (v : Nat) : (fset d k f v).waiting = d.waiting := rfl
@[simp] theorem fset_parked (d : Dev) (k : Nat) (f : Fld) (v : Nat) : (fset d k f v).parked = d.parked := rfl
@[simp] theorem fset_cores (d : Dev) (k : Nat) (f : Fld) (v : Nat) : (fset d k f v).cores = d.cores := rfl
@[simp] theorem fset_strms (d : Dev) (k : Nat) (f : Fld) (v : Nat) : (fset d k f v).strms = d.strms := rfl
@[simp] theorem fset_mortar (d : Dev) (k : Nat) (f : Fld) (v : Nat) : (fset d k f v).mortar = d.mortar := rfl
@[simp] theorem fset_keyOwn (d : Dev) (k : Nat) (f : Fld) (v : Nat) : (fset d k f v).keyOwn = d.keyOwn := rfl
@[simp] theorem fset_pier (d : Dev) (k : Nat) (f : Fld) (v : Nat) : (fset d k f v).pier = d.pier := rfl
@[simp] theorem fset_trn (d : Dev) (k : Nat) (f : Fld) (v : Nat) : (fset d k f v).trn = d.trn := rfl
@[simp] theorem fset_tier (d : Dev) (k : Nat) (f : Fld) (v : Nat) : (fset d k f v).tier = d.tier := rfl
@[simp] theorem fset_insts (d : Dev) (k : Nat) (f : Fld) (v : Nat) : (fset d k f v).insts = d.insts := rfl
@[simp] theorem fset_rings (d : Dev) (k : Nat) (f : Fld) (v : Nat) : (fset d k f v).rings = d.rings := rfl
@[simp] theorem fset_ctxs (d : Dev) (k : Nat) (f : Fld) (v : Nat) : (fset d k f v).ctxs = d.ctxs := rfl
@[simp] theorem fset_jobs (d : Dev) (k : Nat) (f : Fld) (v : Nat) : (fset d k f v).jobs = d.jobs := rfl
@[simp] theorem fset_flt (d : Dev) (k : Nat) (f : Fld) (v : Nat) : (fset d k f v).flt = d.flt := rfl
@[simp] theorem fset_sp (d : Dev) (k : Nat) (f : Fld) (v : Nat) : (fset d k f v).sp = d.sp := rfl
@[simp] theorem fset_sigs (d : Dev) (k : Nat) (f : Fld) (v : Nat) : (fset d k f v).sigs = d.sigs := rfl
@[simp] theorem fset_mgt (d : Dev) (k : Nat) (f : Fld) (v : Nat) : (fset d k f v).mgt = d.mgt := rfl
@[simp] theorem fset_time (d : Dev) (k : Nat) (f : Fld) (v : Nat) : (fset d k f v).time = d.time := rfl
@[simp] theorem fset_tst (d : Dev) (k : Nat) (f : Fld) (v : Nat) : (fset d k f v).tst = d.tst := rfl
@[simp] theorem fset_heat (d : Dev) (k : Nat) (f : Fld) (v : Nat) : (fset d k f v).heat = d.heat := rfl
@[simp] theorem fset_outs (d : Dev) (k : Nat) (f : Fld) (v : Nat) : (fset d k f v).outs = d.outs := rfl
@[simp] theorem fset_freeCtr (d : Dev) (k : Nat) (f : Fld) (v : Nat) : (fset d k f v).freeCtr = d.freeCtr := rfl

/-! ### Tables -/

theorem tget?_tset_self {α : Type} (t : Tbl α) (k : Nat) (v : α) : tget? (tset t k v) k = some v := by
  simp [tget?, tset]

theorem tget_tset_self {α : Type} (x : α) (t : Tbl α) (k : Nat) (v : α) : tget x (tset t k v) k = v := by
  simp [tget, tget?_tset_self]

theorem find?_tdel {α : Type} (t : Tbl α) {k j : Nat} (h : j ≠ k) :
    (tdel t k).find? (fun p => p.1 == j) = t.find? (fun p => p.1 == j) := by
  induction t with
  | nil => rfl
  | cons p t ih =>
    simp only [tdel] at ih
    by_cases hp : p.1 = k
    · have hk : (k == j) = false := by simpa using fun e : k = j => h e.symm
      simp [tdel, hp, hk, ih]
    · simp only [tdel, List.filter_cons, bne_iff_ne, ne_eq, hp, not_false_eq_true, if_true, List.find?_cons]
      rw [ih]

theorem tget?_tset_ne {α : Type} (t : Tbl α) {k j : Nat} (h : j ≠ k) (v : α) : tget? (tset t k v) j = tget? t j := by
  have hk : (k == j) = false := by simpa using fun e : k = j => h e.symm
  simp [tget?, tset, hk, find?_tdel t h]

theorem tget_tset_ne {α : Type} (x : α) (t : Tbl α) {k j : Nat} (h : j ≠ k) (v : α) : tget x (tset t k v) j = tget x t j := by
  simp [tget, tget?_tset_ne t h]

/-! ### Registers -/

theorem getReg_setReg_self (d : Dev) (k v : Nat) : getReg (setReg d k v) k = v % 2 ^ 64 := by
  simp [getReg, setReg, tget_tset_self]

theorem getReg_setReg_ne (d : Dev) {k j : Nat} (h : j ≠ k) (v : Nat) : getReg (setReg d k v) j = getReg d j := by
  simp [getReg, setReg, tget_tset_ne _ _ h]

theorem getReg_fset_ne (d : Dev) {k j : Nat} (h : j ≠ k) (f : Fld) (v : Nat) : getReg (fset d k f v) j = getReg d j :=
  getReg_setReg_ne d h _

theorem fget_fset_ne (d : Dev) {k j : Nat} (h : j ≠ k) (f g : Fld) (v : Nat) : fget (fset d k f v) j g = fget d j g := by
  simp [fget, getReg_fset_ne d h]

theorem getReg_of_regs {d e : Dev} (h : d.regs = e.regs) (k : Nat) : getReg d k = getReg e k := by
  simp [getReg, h]

theorem fget_of_regs {d e : Dev} (h : d.regs = e.regs) (k : Nat) (f : Fld) : fget d k f = fget e k f := by
  simp [fget, getReg_of_regs h]

/-! ### What a command may do (R436, R487) -/

/-- A command of a device that works has its effect, and the queue waits as it was. -/
theorem onDev_runs {s : State} (h : s.perstN = true ∧ alive s.dev = true) (f : Dev → Dev) : onDev s f = .next { s with dev := f s.dev } := by
  simp [onDev, h.1, h.2]

/-- With PERST_N low nothing works. -/
theorem onDev_low {s : State} (h : s.perstN = false) (f : Dev → Dev) : onDev s f = .next s := by
  simp [onDev, h]

/-- After a device-fatal error nothing works. -/
theorem onDev_dead {s : State} (h : alive s.dev = false) (f : Dev → Dev) : onDev s f = .next s := by
  simp [onDev, h]

/-- All that a command through `onDev` can do: nothing, or replace the device. -/
theorem onDev_cases (s : State) (f : Dev → Dev) : onDev s f = .next s ∨ onDev s f = .next { s with dev := f s.dev } := by
  unfold onDev
  split
  · exact .inr rfl
  · exact .inl rfl

/-- A command through `onDev` leaves the queue and the level of PERST_N. -/
theorem onDev_frame {s t : State} {f : Dev → Dev} (h : onDev s f = .next t) : t.pending = s.pending ∧ t.perstN = s.perstN := by
  rcases onDev_cases s f with h' | h' <;> rw [h'] at h <;> injection h with h <;> subst h <;> exact ⟨rfl, rfl⟩

end Sys2Proof.Machine
end

