-- ==== Sys2Proof/Laws/Exec.lean ====
section
/-!
SUPPORT. All that a command can do to a state, and what a step is on a queue.
-/

namespace Sys2Proof.Machine

set_option Elab.async false

/-- Every command but the two of PERST_N and BAR2_READ acts on the device alone, and only while it works. -/
theorem exec_onDev (c : Instr) (h1 : c ≠ .perstNRise) (h2 : c ≠ .perstNFall) (h3 : ∀ i off n, c ≠ .bar2Read i off n) :
    ∃ f : Dev → Dev, ∀ s, exec c s = onDev s f := by
  cases c with
  | registerWrite x0 x1 x2 => exact ⟨_, fun s => (by rw [execRegisterWrite] : execRegisterWrite x0 x1 x2 s = onDev s _)⟩
  | arrGo x0 => exact ⟨_, fun s => (by rw [execArrGo] : execArrGo x0 s = onDev s _)⟩
  | arrStop x0 x1 x2 x3 => exact ⟨_, fun s => (by rw [execArrStop] : execArrStop x0 x1 x2 s x3 = onDev s _)⟩
  | arrResume x0 => exact ⟨_, fun s => (by rw [execArrResume] : execArrResume x0 s = onDev s _)⟩
  | arrQueuedStart x0 => exact ⟨_, fun s => (by rw [execArrQueuedStart] : execArrQueuedStart x0 s = onDev s _)⟩
  | arrSwap x0 x1 => exact ⟨_, fun s => (by rw [execArrSwap] : execArrSwap x0 s x1 = onDev s _)⟩
  | arrInvocationComplete x0 x1 => exact ⟨_, fun s => (by rw [execArrInvocationComplete] : execArrInvocationComplete x0 s x1 = onDev s _)⟩
  | arrStateLost x0 => exact ⟨_, fun s => (by rw [execArrStateLost] : execArrStateLost x0 s = onDev s _)⟩
  | reclaim x0 x1 x2 => exact ⟨_, fun s => (by rw [execReclaim] : execReclaim x0 x1 s x2 = onDev s _)⟩
  | preempt x0 x1 x2 => exact ⟨_, fun s => (by rw [execPreempt] : execPreempt x0 s x1 x2 = onDev s _)⟩
  | coreRestore x0 x1 => exact ⟨_, fun s => (by rw [execCoreRestore] : execCoreRestore x0 s x1 = onDev s _)⟩
  | coreCommit x0 => exact ⟨_, fun s => (by rw [execCoreCommit] : execCoreCommit x0 s = onDev s _)⟩
  | coreStrmEnable x0 x1 x2 => exact ⟨_, fun s => (by rw [execCoreStrmEnable] : execCoreStrmEnable x0 x1 x2 s = onDev s _)⟩
  | streamCopy x0 x1 => exact ⟨_, fun s => (by rw [execStreamCopy] : execStreamCopy x0 x1 s = onDev s _)⟩
  | streamGather x0 x1 => exact ⟨_, fun s => (by rw [execStreamGather] : execStreamGather x0 x1 s = onDev s _)⟩
  | streamScatter x0 x1 => exact ⟨_, fun s => (by rw [execStreamScatter] : execStreamScatter x0 x1 s = onDev s _)⟩
  | streamFill x0 x1 => exact ⟨_, fun s => (by rw [execStreamFill] : execStreamFill x0 x1 s = onDev s _)⟩
  | peerCreditReturn x0 x1 => exact ⟨_, fun s => (by rw [execPeerCreditReturn] : execPeerCreditReturn x0 x1 s = onDev s _)⟩
  | pageFault x0 x1 x2 x3 => exact ⟨_, fun s => (by rw [execPageFault] : execPageFault x0 x1 s x2 x3 = onDev s _)⟩
  | pageResponse x0 x1 x2 => exact ⟨_, fun s => (by rw [execPageResponse] : execPageResponse x0 x1 x2 s = onDev s _)⟩
  | pageLimitExpiry x0 x1 => exact ⟨_, fun s => (by rw [execPageLimitExpiry] : execPageLimitExpiry x0 x1 s = onDev s _)⟩
  | stallWatchExpiry x0 x1 x2 => exact ⟨_, fun s => (by rw [execStallWatchExpiry] : execStallWatchExpiry x0 x1 x2 s = onDev s _)⟩
  | coreStoreScrubRead x0 x1 x2 => exact ⟨_, fun s => (by rw [execCoreStoreScrubRead] : execCoreStoreScrubRead x0 x1 x2 s = onDev s _)⟩
  | coreStateLost x0 => exact ⟨_, fun s => (by rw [execCoreStateLost] : execCoreStateLost x0 s = onDev s _)⟩
  | snop x0 x1 => exact ⟨_, fun s => (by rw [execSnop] : execSnop x0 s x1 = onDev s _)⟩
  | cmac x0 x1 => exact ⟨_, fun s => (by rw [execCmac] : execCmac x0 s x1 = onDev s _)⟩
  | cmul x0 x1 => exact ⟨_, fun s => (by rw [execCmul] : execCmul x0 s x1 = onDev s _)⟩
  | cadd x0 x1 => exact ⟨_, fun s => (by rw [execCadd] : execCadd x0 s x1 = onDev s _)⟩
  | csub x0 x1 => exact ⟨_, fun s => (by rw [execCsub] : execCsub x0 s x1 = onDev s _)⟩
  | cnco x0 x1 => exact ⟨_, fun s => (by rw [execCnco] : execCnco x0 s x1 = onDev s _)⟩
  | srnd x0 x1 => exact ⟨_, fun s => (by rw [execSrnd] : execSrnd x0 s x1 = onDev s _)⟩
  | snorm x0 x1 => exact ⟨_, fun s => (by rw [execSnorm] : execSnorm x0 s x1 = onDev s _)⟩
  | sexp x0 x1 => exact ⟨_, fun s => (by rw [execSexp] : execSexp x0 s x1 = onDev s _)⟩
  | sbfpc x0 x1 => exact ⟨_, fun s => (by rw [execSbfpc] : execSbfpc x0 s x1 = onDev s _)⟩
  | sbfpx x0 x1 => exact ⟨_, fun s => (by rw [execSbfpx] : execSbfpx x0 s x1 = onDev s _)⟩
  | sset x0 x1 => exact ⟨_, fun s => (by rw [execSset] : execSset x0 s x1 = onDev s _)⟩
  | sacs x0 x1 => exact ⟨_, fun s => (by rw [execSacs] : execSacs x0 s x1 = onDev s _)⟩
  | sacl x0 x1 => exact ⟨_, fun s => (by rw [execSacl] : execSacl x0 s x1 = onDev s _)⟩
  | sloop x0 => exact ⟨_, fun s => (by rw [execSloop] : execSloop x0 s = onDev s _)⟩
  | sjmp x0 => exact ⟨_, fun s => (by rw [execSjmp] : execSjmp x0 s = onDev s _)⟩
  | send x0 => exact ⟨_, fun s => (by rw [execSend] : execSend x0 s = onDev s _)⟩
  | sret x0 => exact ⟨_, fun s => (by rw [execSret] : execSret x0 s = onDev s _)⟩
  | sstl x0 x1 => exact ⟨_, fun s => (by rw [execSstl] : execSstl x0 s x1 = onDev s _)⟩
  | sldl x0 x1 => exact ⟨_, fun s => (by rw [execSldl] : execSldl x0 s x1 = onDev s _)⟩
  | ssta x0 x1 => exact ⟨_, fun s => (by rw [execSsta] : execSsta x0 s x1 = onDev s _)⟩
  | slda x0 x1 => exact ⟨_, fun s => (by rw [execSlda] : execSlda x0 s x1 = onDev s _)⟩
  | sigIllegal x0 => exact ⟨_, fun s => (by rw [execSigIllegal] : execSigIllegal x0 s = onDev s _)⟩
  | sigStateLost x0 => exact ⟨_, fun s => (by rw [execSigStateLost] : execSigStateLost x0 s = onDev s _)⟩
  | sigGo x0 => exact ⟨_, fun s => (by rw [execSigGo] : execSigGo x0 s = onDev s _)⟩
  | sigIrq x0 => exact ⟨_, fun s => (by rw [execSigIrq] : execSigIrq x0 s = onDev s _)⟩
  | taskInterruptEntry x0 => exact ⟨_, fun s => (by rw [execTaskInterruptEntry] : execTaskInterruptEntry x0 s = onDev s _)⟩
  | symbolTick => exact ⟨_, fun s => (by rw [execSymbolTick] : execSymbolTick s = onDev s _)⟩
  | slotBoundary x0 => exact ⟨_, fun s => (by rw [execSlotBoundary] : execSlotBoundary x0 s = onDev s _)⟩
  | requestCutoff x0 => exact ⟨_, fun s => (by rw [execRequestCutoff] : execRequestCutoff x0 s = onDev s _)⟩
  | taskRelease x0 x1 x2 => exact ⟨_, fun s => (by rw [execTaskRelease] : execTaskRelease x0 x1 x2 s = onDev s _)⟩
  | taskStart x0 x1 x2 x3 x4 => exact ⟨_, fun s => (by rw [execTaskStart] : execTaskStart x0 x1 x2 x3 s x4 = onDev s _)⟩
  | lend x0 x1 x2 => exact ⟨_, fun s => (by rw [execLend] : execLend x0 x1 x2 s = onDev s _)⟩
  | uplaneReceive x0 x1 => exact ⟨_, fun s => (by rw [execUplaneReceive] : execUplaneReceive x0 x1 s = onDev s _)⟩
  | rxWindowClose x0 x1 x2 x3 => exact ⟨_, fun s => (by rw [execRxWindowClose] : execRxWindowClose x0 x1 x2 x3 s = onDev s _)⟩
  | cplaneSend x0 x1 x2 => exact ⟨_, fun s => (by rw [execCplaneSend] : execCplaneSend x0 x1 x2 s = onDev s _)⟩
  | dlUplaneSend x0 x1 x2 x3 x4 x5 => exact ⟨_, fun s => (by rw [execDlUplaneSend] : execDlUplaneSend x0 x1 x2 x3 x4 x5 s = onDev s _)⟩
  | txWindowClose x0 x1 x2 x3 => exact ⟨_, fun s => (by rw [execTxWindowClose] : execTxWindowClose x0 x1 x2 x3 s = onDev s _)⟩
  | codeBlockDecode x0 x1 x2 x3 x4 x5 => exact ⟨_, fun s => (by rw [execCodeBlockDecode] : execCodeBlockDecode x0 x1 x2 x3 x4 x5 s = onDev s _)⟩
  | preambleDetect x0 => exact ⟨_, fun s => (by rw [execPreambleDetect] : execPreambleDetect x0 s = onDev s _)⟩
  | acceleratorFault x0 => exact ⟨_, fun s => (by rw [execAcceleratorFault] : execAcceleratorFault x0 s = onDev s _)⟩
  | carrierEnable x0 x1 => exact ⟨_, fun s => (by rw [execCarrierEnable] : execCarrierEnable x0 x1 s = onDev s _)⟩
  | flashShare x0 => exact ⟨_, fun s => (by rw [execFlashShare] : execFlashShare x0 s = onDev s _)⟩
  | paramRequest x0 x1 => exact ⟨_, fun s => (by rw [execParamRequest] : execParamRequest x0 x1 s = onDev s _)⟩
  | configRequest x0 x1 => exact ⟨_, fun s => (by rw [execConfigRequest] : execConfigRequest x0 x1 s = onDev s _)⟩
  | startRequest x0 x1 => exact ⟨_, fun s => (by rw [execStartRequest] : execStartRequest x0 x1 s = onDev s _)⟩
  | stopRequest x0 x1 => exact ⟨_, fun s => (by rw [execStopRequest] : execStopRequest x0 x1 s = onDev s _)⟩
  | dlTtiRequest x0 x1 => exact ⟨_, fun s => (by rw [execDlTtiRequest] : execDlTtiRequest x0 x1 s = onDev s _)⟩
  | ulDciRequest x0 x1 => exact ⟨_, fun s => (by rw [execUlDciRequest] : execUlDciRequest x0 x1 s = onDev s _)⟩
  | txDataRequest x0 x1 => exact ⟨_, fun s => (by rw [execTxDataRequest] : execTxDataRequest x0 x1 s = onDev s _)⟩
  | ulTtiRequest x0 x1 => exact ⟨_, fun s => (by rw [execUlTtiRequest] : execUlTtiRequest x0 x1 s = onDev s _)⟩
  | unsupportedFapiMessage x0 x1 => exact ⟨_, fun s => (by rw [execUnsupportedFapiMessage] : execUnsupportedFapiMessage x0 x1 s = onDev s _)⟩
  | ethAutonegComplete x0 x1 x2 => exact ⟨_, fun s => (by rw [execEthAutonegComplete] : execEthAutonegComplete x0 x1 x2 s = onDev s _)⟩
  | ethPortStateChange x0 x1 => exact ⟨_, fun s => (by rw [execEthPortStateChange] : execEthPortStateChange x0 x1 s = onDev s _)⟩
  | ethFrameDrop x0 x1 => exact ⟨_, fun s => (by rw [execEthFrameDrop] : execEthFrameDrop x0 x1 s = onDev s _)⟩
  | ethLaneRecal x0 => exact ⟨_, fun s => (by rw [execEthLaneRecal] : execEthLaneRecal x0 s = onDev s _)⟩
  | sync x0 x1 => exact ⟨_, fun s => (by rw [execSync] : execSync x0 x1 s = onDev s _)⟩
  | followUp x0 x1 => exact ⟨_, fun s => (by rw [execFollowUp] : execFollowUp x0 x1 s = onDev s _)⟩
  | delayResp x0 x1 => exact ⟨_, fun s => (by rw [execDelayResp] : execDelayResp x0 x1 s = onDev s _)⟩
  | announce x0 x1 x2 => exact ⟨_, fun s => (by rw [execAnnounce] : execAnnounce x0 x1 x2 s = onDev s _)⟩
  | delayReqSend x0 => exact ⟨_, fun s => (by rw [execDelayReqSend] : execDelayReqSend x0 s = onDev s _)⟩
  | foreignMasterTimeout x0 x1 x2 x3 => exact ⟨_, fun s => (by rw [execForeignMasterTimeout] : execForeignMasterTimeout x0 x1 x2 x3 s = onDev s _)⟩
  | servoUpdate x0 => exact ⟨_, fun s => (by rw [execServoUpdate] : execServoUpdate x0 s = onDev s _)⟩
  | domainLossTimeout x0 => exact ⟨_, fun s => (by rw [execDomainLossTimeout] : execDomainLossTimeout x0 s = onDev s _)⟩
  | synceStateChange x0 x1 => exact ⟨_, fun s => (by rw [execSynceStateChange] : execSynceStateChange x0 x1 s = onDev s _)⟩
  | domEn x0 => exact ⟨_, fun s => (by rw [execDomEn] : execDomEn x0 s = onDev s _)⟩
  | timeSet x0 => exact ⟨_, fun s => (by rw [execTimeSet] : execTimeSet x0 s = onDev s _)⟩
  | tbRead x0 => exact ⟨_, fun s => (by rw [execTbRead] : execTbRead x0 s = onDev s _)⟩
  | arm x0 => exact ⟨_, fun s => (by rw [execArm] : execArm x0 s = onDev s _)⟩
  | disarm x0 => exact ⟨_, fun s => (by rw [execDisarm] : execDisarm x0 s = onDev s _)⟩
  | tpoPulse x0 => exact ⟨_, fun s => (by rw [execTpoPulse] : execTpoPulse x0 s = onDev s _)⟩
  | tciEdge x0 x1 => exact ⟨_, fun s => (by rw [execTciEdge] : execTciEdge x0 x1 s = onDev s _)⟩
  | tciRead x0 => exact ⟨_, fun s => (by rw [execTciRead] : execTciRead x0 s = onDev s _)⟩
  | refClockLost => exact ⟨_, fun s => (by rw [execRefClockLost] : execRefClockLost s = onDev s _)⟩
  | pierRead x0 x1 x2 => exact ⟨_, fun s => (by rw [execPierRead] : execPierRead x0 x1 s x2 = onDev s _)⟩
  | pierWrite x0 x1 x2 x3 x4 => exact ⟨_, fun s => (by rw [execPierWrite] : execPierWrite x0 x1 x2 x3 x4 s = onDev s _)⟩
  | refreshDue x0 x1 x2 x3 => exact ⟨_, fun s => (by rw [execRefreshDue] : execRefreshDue x0 x1 x2 x3 s = onDev s _)⟩
  | pierScrubRead x0 x1 => exact ⟨_, fun s => (by rw [execPierScrubRead] : execPierScrubRead x0 x1 s = onDev s _)⟩
  | scrubPassOverrun x0 => exact ⟨_, fun s => (by rw [execScrubPassOverrun] : execScrubPassOverrun x0 s = onDev s _)⟩
  | rowSpare x0 x1 x2 => exact ⟨_, fun s => (by rw [execRowSpare] : execRowSpare x0 x1 x2 s = onDev s _)⟩
  | pierSpare x0 x1 => exact ⟨_, fun s => (by rw [execPierSpare] : execPierSpare x0 x1 s = onDev s _)⟩
  | channelSpareComplete x0 => exact ⟨_, fun s => (by rw [execChannelSpareComplete] : execChannelSpareComplete x0 s = onDev s _)⟩
  | pierRetrain x0 x1 => exact ⟨_, fun s => (by rw [execPierRetrain] : execPierRetrain x0 x1 s = onDev s _)⟩
  | retrainSlice x0 x1 x2 x3 x4 x5 => exact ⟨_, fun s => (by rw [execRetrainSlice] : execRetrainSlice x0 x1 x2 x3 x4 x5 s = onDev s _)⟩
  | attend x0 x1 => exact ⟨_, fun s => (by rw [execAttend] : execAttend x0 x1 s = onDev s _)⟩
  | gather x0 x1 x2 => exact ⟨_, fun s => (by rw [execGather] : execGather x0 x1 s x2 = onDev s _)⟩
  | dequant x0 x1 => exact ⟨_, fun s => (by rw [execDequant] : execDequant x0 x1 s = onDev s _)⟩
  | copy x0 x1 => exact ⟨_, fun s => (by rw [execCopy] : execCopy x0 x1 s = onDev s _)⟩
  | move x0 x1 => exact ⟨_, fun s => (by rw [execMove] : execMove x0 x1 s = onDev s _)⟩
  | crc64 x0 x1 => exact ⟨_, fun s => (by rw [execCrc64] : execCrc64 x0 x1 s = onDev s _)⟩
  | harqCombine x0 x1 x2 => exact ⟨_, fun s => (by rw [execHarqCombine] : execHarqCombine x0 x1 x2 s = onDev s _)⟩
  | fill x0 x1 => exact ⟨_, fun s => (by rw [execFill] : execFill x0 x1 s = onDev s _)⟩
  | dirtyScan x0 x1 => exact ⟨_, fun s => (by rw [execDirtyScan] : execDirtyScan x0 x1 s = onDev s _)⟩
  | prefetchLayer x0 x1 x2 => exact ⟨_, fun s => (by rw [execPrefetchLayer] : execPrefetchLayer x0 x1 x2 s = onDev s _)⟩
  | onDemandPromotion x0 x1 x2 => exact ⟨_, fun s => (by rw [execOnDemandPromotion] : execOnDemandPromotion x0 x1 x2 s = onDev s _)⟩
  | promotion x0 x1 x2 => exact ⟨_, fun s => (by rw [execPromotion] : execPromotion x0 x1 x2 s = onDev s _)⟩
  | promotionComplete x0 x1 x2 => exact ⟨_, fun s => (by rw [execPromotionComplete] : execPromotionComplete x0 x1 x2 s = onDev s _)⟩
  | fetchLimitExpiry x0 x1 => exact ⟨_, fun s => (by rw [execFetchLimitExpiry] : execFetchLimitExpiry x0 x1 s = onDev s _)⟩
  | flashCodewordRead x0 x1 x2 x3 x4 => exact ⟨_, fun s => (by rw [execFlashCodewordRead] : execFlashCodewordRead x0 x1 x2 s x3 x4 = onDev s _)⟩
  | flashRetry x0 x1 x2 x3 x4 x5 x6 => exact ⟨_, fun s => (by rw [execFlashRetry] : execFlashRetry x0 x1 x2 x3 x4 s x5 x6 = onDev s _)⟩
  | softWaitExpiry x0 x1 x2 x3 => exact ⟨_, fun s => (by rw [execSoftWaitExpiry] : execSoftWaitExpiry x0 x1 x2 x3 s = onDev s _)⟩
  | stripeRebuild x0 x1 x2 x3 => exact ⟨_, fun s => (by rw [execStripeRebuild] : execStripeRebuild x0 x1 x2 x3 s = onDev s _)⟩
  | blockRetirement x0 x1 x2 x3 => exact ⟨_, fun s => (by rw [execBlockRetirement] : execBlockRetirement x0 x1 x2 x3 s = onDev s _)⟩
  | flsRecal x0 x1 => exact ⟨_, fun s => (by rw [execFlsRecal] : execFlsRecal x0 x1 s = onDev s _)⟩
  | mortarScrubRead x0 x1 => exact ⟨_, fun s => (by rw [execMortarScrubRead] : execMortarScrubRead x0 x1 s = onDev s _)⟩
  | flitReceive x0 x1 => exact ⟨_, fun s => (by rw [execFlitReceive] : execFlitReceive x0 x1 s = onDev s _)⟩
  | flitNak x0 x1 => exact ⟨_, fun s => (by rw [execFlitNak] : execFlitNak x0 x1 s = onDev s _)⟩
  | trnSignalDetect x0 => exact ⟨_, fun s => (by rw [execTrnSignalDetect] : execTrnSignalDetect x0 s = onDev s _)⟩
  | trnAbilityDone x0 x1 => exact ⟨_, fun s => (by rw [execTrnAbilityDone] : execTrnAbilityDone x0 x1 s = onDev s _)⟩
  | trnAbilityTimeout x0 => exact ⟨_, fun s => (by rw [execTrnAbilityTimeout] : execTrnAbilityTimeout x0 s = onDev s _)⟩
  | trnTrainDone x0 x1 => exact ⟨_, fun s => (by rw [execTrnTrainDone] : execTrnTrainDone x0 x1 s = onDev s _)⟩
  | trnInitDone x0 => exact ⟨_, fun s => (by rw [execTrnInitDone] : execTrnInitDone x0 s = onDev s _)⟩
  | trnEnable x0 x1 => exact ⟨_, fun s => (by rw [execTrnEnable] : execTrnEnable x0 x1 s = onDev s _)⟩
  | trnRetrain x0 => exact ⟨_, fun s => (by rw [execTrnRetrain] : execTrnRetrain x0 s = onDev s _)⟩
  | trnRecal x0 x1 x2 => exact ⟨_, fun s => (by rw [execTrnRecal] : execTrnRecal x0 x1 x2 s = onDev s _)⟩
  | gwEn x0 x1 => exact ⟨_, fun s => (by rw [execGwEn] : execGwEn x0 x1 s = onDev s _)⟩
  | rd x0 x1 => exact ⟨_, fun s => (by rw [execRd] : execRd x0 x1 s = onDev s _)⟩
  | wr x0 x1 => exact ⟨_, fun s => (by rw [execWr] : execWr x0 x1 s = onDev s _)⟩
  | fadd x0 x1 => exact ⟨_, fun s => (by rw [execFadd] : execFadd x0 x1 s = onDev s _)⟩
  | cas x0 x1 => exact ⟨_, fun s => (by rw [execCas] : execCas x0 x1 s = onDev s _)⟩
  | minS x0 x1 => exact ⟨_, fun s => (by rw [execMinS] : execMinS x0 x1 s = onDev s _)⟩
  | maxS x0 x1 => exact ⟨_, fun s => (by rw [execMaxS] : execMaxS x0 x1 s = onDev s _)⟩
  | minU x0 x1 => exact ⟨_, fun s => (by rw [execMinU] : execMinU x0 x1 s = onDev s _)⟩
  | maxU x0 x1 => exact ⟨_, fun s => (by rw [execMaxU] : execMaxU x0 x1 s = onDev s _)⟩
  | orOp x0 x1 => exact ⟨_, fun s => (by rw [execOrOp] : execOrOp x0 x1 s = onDev s _)⟩
  | exadd x0 x1 => exact ⟨_, fun s => (by rw [execExadd] : execExadd x0 x1 s = onDev s _)⟩
  | ffadd x0 x1 => exact ⟨_, fun s => (by rw [execFfadd] : execFfadd x0 x1 s = onDev s _)⟩
  | relSt x0 x1 => exact ⟨_, fun s => (by rw [execRelSt] : execRelSt x0 x1 s = onDev s _)⟩
  | relAdd x0 x1 => exact ⟨_, fun s => (by rw [execRelAdd] : execRelAdd x0 x1 s = onDev s _)⟩
  | blkReq x0 x1 x2 x3 x4 => exact ⟨_, fun s => (by rw [execBlkReq] : execBlkReq x0 x1 x2 x3 x4 s = onDev s _)⟩
  | blkRsp x0 x1 x2 x3 x4 => exact ⟨_, fun s => (by rw [execBlkRsp] : execBlkRsp x0 x1 x2 x3 x4 s = onDev s _)⟩
  | blkAck x0 x1 x2 => exact ⟨_, fun s => (by rw [execBlkAck] : execBlkAck x0 x1 x2 s = onDev s _)⟩
  | rdData x0 x1 => exact ⟨_, fun s => (by rw [execRdData] : execRdData x0 x1 s = onDev s _)⟩
  | done x0 x1 => exact ⟨_, fun s => (by rw [execDone] : execDone x0 x1 s = onDev s _)⟩
  | accept x0 x1 => exact ⟨_, fun s => (by rw [execAccept] : execAccept x0 x1 s = onDev s _)⟩
  | atom x0 x1 => exact ⟨_, fun s => (by rw [execAtom] : execAtom x0 x1 s = onDev s _)⟩
  | nack x0 x1 => exact ⟨_, fun s => (by rw [execNack] : execNack x0 x1 s = onDev s _)⟩
  | writeResendTimer x0 => exact ⟨_, fun s => (by rw [execWriteResendTimer] : execWriteResendTimer x0 s = onDev s _)⟩
  | writeOutcomeUnknown x0 => exact ⟨_, fun s => (by rw [execWriteOutcomeUnknown] : execWriteOutcomeUnknown x0 s = onDev s _)⟩
  | readResend x0 x1 => exact ⟨_, fun s => (by rw [execReadResend] : execReadResend x0 x1 s = onDev s _)⟩
  | loadLimitExpiry x0 => exact ⟨_, fun s => (by rw [execLoadLimitExpiry] : execLoadLimitExpiry x0 s = onDev s _)⟩
  | replyCacheExpiry x0 x1 x2 => exact ⟨_, fun s => (by rw [execReplyCacheExpiry] : execReplyCacheExpiry x0 x1 x2 s = onDev s _)⟩
  | ageExpiry x0 => exact ⟨_, fun s => (by rw [execAgeExpiry] : execAgeExpiry x0 s = onDev s _)⟩
  | gwBlockClose x0 x1 => exact ⟨_, fun s => (by rw [execGwBlockClose] : execGwBlockClose x0 x1 s = onDev s _)⟩
  | gwBlockResend x0 x1 x2 => exact ⟨_, fun s => (by rw [execGwBlockResend] : execGwBlockResend x0 x1 x2 s = onDev s _)⟩
  | fmEpoch x0 x1 x2 x3 => exact ⟨_, fun s => (by rw [execFmEpoch] : execFmEpoch x0 x1 x2 x3 s = onDev s _)⟩
  | fmJobTeardown x0 x1 => exact ⟨_, fun s => (by rw [execFmJobTeardown] : execFmJobTeardown x0 x1 s = onDev s _)⟩
  | fmRoute x0 x1 x2 => exact ⟨_, fun s => (by rw [execFmRoute] : execFmRoute x0 x1 x2 s = onDev s _)⟩
  | fmAdmit x0 x1 => exact ⟨_, fun s => (by rw [execFmAdmit] : execFmAdmit x0 x1 s = onDev s _)⟩
  | fmProbe x0 x1 => exact ⟨_, fun s => (by rw [execFmProbe] : execFmProbe x0 x1 s = onDev s _)⟩
  | bar2Write x0 x1 x2 x3 => exact ⟨_, fun s => (by rw [execBar2Write] : execBar2Write x0 x1 x2 x3 s = onDev s _)⟩
  | mbxSqTail x0 x1 x2 x3 x4 => exact ⟨_, fun s => (by rw [execMbxSqTail] : execMbxSqTail x0 x1 x2 x3 x4 s = onDev s _)⟩
  | mbxCqHead x0 x1 x2 => exact ⟨_, fun s => (by rw [execMbxCqHead] : execMbxCqHead x0 x1 x2 s = onDev s _)⟩
  | ringEnable x0 x1 x2 => exact ⟨_, fun s => (by rw [execRingEnable] : execRingEnable x0 x1 x2 s = onDev s _)⟩
  | ringFault x0 x1 x2 => exact ⟨_, fun s => (by rw [execRingFault] : execRingFault x0 x1 x2 s = onDev s _)⟩
  | noticeWrite x0 => exact ⟨_, fun s => (by rw [execNoticeWrite] : execNoticeWrite x0 s = onDev s _)⟩
  | msixCoalesceExpiry x0 x1 => exact ⟨_, fun s => (by rw [execMsixCoalesceExpiry] : execMsixCoalesceExpiry x0 x1 s = onDev s _)⟩
  | hostCompletion x0 x1 x2 x3 => exact ⟨_, fun s => (by rw [execHostCompletion] : execHostCompletion x0 x1 x2 x3 s = onDev s _)⟩
  | pcieCompletionTimeout x0 x1 => exact ⟨_, fun s => (by rw [execPcieCompletionTimeout] : execPcieCompletionTimeout x0 x1 s = onDev s _)⟩
  | atsInvalidation x0 x1 x2 x3 => exact ⟨_, fun s => (by rw [execAtsInvalidation] : execAtsInvalidation x0 s x1 x2 x3 = onDev s _)⟩
  | functionLevelReset x0 => exact ⟨_, fun s => (by rw [execFunctionLevelReset] : execFunctionLevelReset x0 s = onDev s _)⟩
  | hotReset => exact ⟨_, fun s => (by rw [execHotReset] : execHotReset s = onDev s _)⟩
  | linkDown x0 => exact ⟨_, fun s => (by rw [execLinkDown] : execLinkDown s x0 = onDev s _)⟩
  | linkStateChange x0 x1 x2 => exact ⟨_, fun s => (by rw [execLinkStateChange] : execLinkStateChange x0 x1 x2 s = onDev s _)⟩
  | linkCorrected => exact ⟨_, fun s => (by rw [execLinkCorrected] : execLinkCorrected s = onDev s _)⟩
  | pcieLoopback x0 => exact ⟨_, fun s => (by rw [execPcieLoopback] : execPcieLoopback x0 s = onDev s _)⟩
  | vfEnable x0 => exact ⟨_, fun s => (by rw [execVfEnable] : execVfEnable x0 s = onDev s _)⟩
  | freezeDone x0 => exact ⟨_, fun s => (by rw [execFreezeDone] : execFreezeDone x0 s = onDev s _)⟩
  | iterationBoundary x0 x1 x2 x3 => exact ⟨_, fun s => (by rw [execIterationBoundary] : execIterationBoundary x0 x1 x2 x3 s = onDev s _)⟩
  | contextTeardown x0 x1 => exact ⟨_, fun s => (by rw [execContextTeardown] : execContextTeardown x0 x1 s = onDev s _)⟩
  | instanceTeardownRun x0 => exact ⟨_, fun s => (by rw [execInstanceTeardownRun] : execInstanceTeardownRun x0 s = onDev s _)⟩
  | recordDrain x0 => exact ⟨_, fun s => (by rw [execRecordDrain] : execRecordDrain s x0 = onDev s _)⟩
  | healthSecond => exact ⟨_, fun s => (by rw [execHealthSecond] : execHealthSecond s = onDev s _)⟩
  | telemetrySample x0 => exact ⟨_, fun s => (by rw [execTelemetrySample] : execTelemetrySample x0 s = onDev s _)⟩
  | creditTick => exact ⟨_, fun s => (by rw [execCreditTick] : execCreditTick s = onDev s _)⟩
  | resizeTimeout x0 => exact ⟨_, fun s => (by rw [execResizeTimeout] : execResizeTimeout x0 s = onDev s _)⟩
  | watchdogExpiry x0 x1 x2 => exact ⟨_, fun s => (by rw [execWatchdogExpiry] : execWatchdogExpiry x0 x1 s x2 = onDev s _)⟩
  | logPersist => exact ⟨_, fun s => (by rw [execLogPersist] : execLogPersist s = onDev s _)⟩
  | bootStageDone x0 x1 x2 x3 => exact ⟨_, fun s => (by rw [execBootStageDone] : execBootStageDone x0 x1 x2 x3 s = onDev s _)⟩
  | getVersion => exact ⟨_, fun s => (by rw [execGetVersion] : execGetVersion s = onDev s _)⟩
  | getCapabilities => exact ⟨_, fun s => (by rw [execGetCapabilities] : execGetCapabilities s = onDev s _)⟩
  | negotiateAlgorithms => exact ⟨_, fun s => (by rw [execNegotiateAlgorithms] : execNegotiateAlgorithms s = onDev s _)⟩
  | getDigests => exact ⟨_, fun s => (by rw [execGetDigests] : execGetDigests s = onDev s _)⟩
  | getCertificate x0 x1 x2 => exact ⟨_, fun s => (by rw [execGetCertificate] : execGetCertificate x0 x1 x2 s = onDev s _)⟩
  | challenge x0 x1 => exact ⟨_, fun s => (by rw [execChallenge] : execChallenge x0 x1 s = onDev s _)⟩
  | getMeasurements x0 x1 x2 => exact ⟨_, fun s => (by rw [execGetMeasurements] : execGetMeasurements x0 x1 x2 s = onDev s _)⟩
  | spdmUnsupportedRequest x0 => exact ⟨_, fun s => (by rw [execSpdmUnsupportedRequest] : execSpdmUnsupportedRequest x0 s = onDev s _)⟩
  | thermalCheck x0 x1 => exact ⟨_, fun s => (by rw [execThermalCheck] : execThermalCheck x0 x1 s = onDev s _)⟩
  | droopDetect x0 x1 => exact ⟨_, fun s => (by rw [execDroopDetect] : execDroopDetect x0 x1 s = onDev s _)⟩
  | droopRelease x0 => exact ⟨_, fun s => (by rw [execDroopRelease] : execDroopRelease x0 s = onDev s _)⟩
  | thermalTrip x0 x1 x2 => exact ⟨_, fun s => (by rw [execThermalTrip] : execThermalTrip x0 x1 x2 s = onDev s _)⟩
  | clockTrip x0 x1 => exact ⟨_, fun s => (by rw [execClockTrip] : execClockTrip x0 x1 s = onDev s _)⟩
  | supplyTrip x0 x1 => exact ⟨_, fun s => (by rw [execSupplyTrip] : execSupplyTrip x0 x1 s = onDev s _)⟩
  | voltageMonitorCheck => exact ⟨_, fun s => (by rw [execVoltageMonitorCheck] : execVoltageMonitorCheck s = onDev s _)⟩
  | diodeCheck x0 x1 => exact ⟨_, fun s => (by rw [execDiodeCheck] : execDiodeCheck x0 x1 s = onDev s _)⟩
  | enter => exact ⟨_, fun s => (by rw [execEnter] : execEnter s = onDev s _)⟩
  | leave x0 x1 => exact ⟨_, fun s => (by rw [execLeave] : execLeave x0 x1 s = onDev s _)⟩
  | bistStart x0 => exact ⟨_, fun s => (by rw [execBistStart] : execBistStart x0 s = onDev s _)⟩
  | bistComplete x0 => exact ⟨_, fun s => (by rw [execBistComplete] : execBistComplete x0 s = onDev s _)⟩
  | lanes x0 => exact ⟨_, fun s => (by rw [execLanes] : execLanes x0 s = onDev s _)⟩
  | queryDevice x0 x1 => exact ⟨_, fun s => (by rw [execQueryDevice] : execQueryDevice x0 x1 s = onDev s _)⟩
  | queryInstance x0 x1 => exact ⟨_, fun s => (by rw [execQueryInstance] : execQueryInstance x0 x1 s = onDev s _)⟩
  | regRead x0 x1 => exact ⟨_, fun s => (by rw [execRegRead] : execRegRead x0 x1 s = onDev s _)⟩
  | regWrite x0 x1 => exact ⟨_, fun s => (by rw [execRegWrite] : execRegWrite x0 x1 s = onDev s _)⟩
  | partitionSet x0 x1 => exact ⟨_, fun s => (by rw [execPartitionSet] : execPartitionSet x0 x1 s = onDev s _)⟩
  | partitionRelease x0 x1 => exact ⟨_, fun s => (by rw [execPartitionRelease] : execPartitionRelease x0 x1 s = onDev s _)⟩
  | windowSet x0 x1 => exact ⟨_, fun s => (by rw [execWindowSet] : execWindowSet x0 x1 s = onDev s _)⟩
  | bar2Map x0 x1 => exact ⟨_, fun s => (by rw [execBar2Map] : execBar2Map x0 x1 s = onDev s _)⟩
  | lendSet x0 x1 => exact ⟨_, fun s => (by rw [execLendSet] : execLendSet x0 x1 s = onDev s _)⟩
  | setCreate x0 x1 => exact ⟨_, fun s => (by rw [execSetCreate] : execSetCreate x0 x1 s = onDev s _)⟩
  | setGrant x0 x1 => exact ⟨_, fun s => (by rw [execSetGrant] : execSetGrant x0 x1 s = onDev s _)⟩
  | setDelete x0 x1 => exact ⟨_, fun s => (by rw [execSetDelete] : execSetDelete x0 x1 s = onDev s _)⟩
  | ashlarLoad x0 x1 => exact ⟨_, fun s => (by rw [execAshlarLoad] : execAshlarLoad x0 x1 s = onDev s _)⟩
  | ashlarHold x0 x1 => exact ⟨_, fun s => (by rw [execAshlarHold] : execAshlarHold x0 x1 s = onDev s _)⟩
  | contextCreate x0 x1 => exact ⟨_, fun s => (by rw [execContextCreate] : execContextCreate x0 x1 s = onDev s _)⟩
  | contextDestroy x0 x1 => exact ⟨_, fun s => (by rw [execContextDestroy] : execContextDestroy x0 x1 s = onDev s _)⟩
  | composerSet x0 x1 => exact ⟨_, fun s => (by rw [execComposerSet] : execComposerSet x0 x1 s = onDev s _)⟩
  | seqSubmit x0 x1 => exact ⟨_, fun s => (by rw [execSeqSubmit] : execSeqSubmit x0 x1 s = onDev s _)⟩
  | seqCancel x0 x1 => exact ⟨_, fun s => (by rw [execSeqCancel] : execSeqCancel x0 x1 s = onDev s _)⟩
  | invoke x0 x1 => exact ⟨_, fun s => (by rw [execInvoke] : execInvoke x0 x1 s = onDev s _)⟩
  | planRun x0 x1 => exact ⟨_, fun s => (by rw [execPlanRun] : execPlanRun x0 x1 s = onDev s _)⟩
  | auditRead x0 x1 => exact ⟨_, fun s => (by rw [execAuditRead] : execAuditRead x0 x1 s = onDev s _)⟩
  | radioAdmit x0 x1 => exact ⟨_, fun s => (by rw [execRadioAdmit] : execRadioAdmit x0 x1 s = onDev s _)⟩
  | fapiOpen x0 x1 => exact ⟨_, fun s => (by rw [execFapiOpen] : execFapiOpen x0 x1 s = onDev s _)⟩
  | fapiClose x0 x1 => exact ⟨_, fun s => (by rw [execFapiClose] : execFapiClose x0 x1 s = onDev s _)⟩
  | timeExchange x0 x1 => exact ⟨_, fun s => (by rw [execTimeExchange] : execTimeExchange x0 x1 s = onDev s _)⟩
  | freeze x0 x1 => exact ⟨_, fun s => (by rw [execFreeze] : execFreeze x0 x1 s = onDev s _)⟩
  | thaw x0 x1 => exact ⟨_, fun s => (by rw [execThaw] : execThaw x0 x1 s = onDev s _)⟩
  | dirtyTrack x0 x1 => exact ⟨_, fun s => (by rw [execDirtyTrack] : execDirtyTrack x0 x1 s = onDev s _)⟩
  | save x0 x1 => exact ⟨_, fun s => (by rw [execSave] : execSave x0 x1 s = onDev s _)⟩
  | restore x0 x1 => exact ⟨_, fun s => (by rw [execRestore] : execRestore x0 x1 s = onDev s _)⟩
  | instanceTeardown x0 x1 => exact ⟨_, fun s => (by rw [execInstanceTeardown] : execInstanceTeardown x0 x1 s = onDev s _)⟩
  | jobRegister x0 x1 => exact ⟨_, fun s => (by rw [execJobRegister] : execJobRegister x0 x1 s = onDev s _)⟩
  | jobRelease x0 x1 => exact ⟨_, fun s => (by rw [execJobRelease] : execJobRelease x0 x1 s = onDev s _)⟩
  | exportSet x0 x1 => exact ⟨_, fun s => (by rw [execExportSet] : execExportSet x0 x1 s = onDev s _)⟩
  | choiceRead x0 x1 => exact ⟨_, fun s => (by rw [execChoiceRead] : execChoiceRead x0 x1 s = onDev s _)⟩
  | replayToStep x0 x1 => exact ⟨_, fun s => (by rw [execReplayToStep] : execReplayToStep x0 x1 s = onDev s _)⟩
  | errorRead x0 x1 => exact ⟨_, fun s => (by rw [execErrorRead] : execErrorRead x0 x1 s = onDev s _)⟩
  | fenceUnit x0 x1 => exact ⟨_, fun s => (by rw [execFenceUnit] : execFenceUnit x0 x1 s = onDev s _)⟩
  | unfenceUnit x0 x1 x2 => exact ⟨_, fun s => (by rw [execUnfenceUnit] : execUnfenceUnit x0 x1 x2 s = onDev s _)⟩
  | healthSnapshot x0 x1 => exact ⟨_, fun s => (by rw [execHealthSnapshot] : execHealthSnapshot x0 x1 s = onDev s _)⟩
  | fwStage x0 x1 => exact ⟨_, fun s => (by rw [execFwStage] : execFwStage x0 x1 s = onDev s _)⟩
  | fwCommit x0 x1 x2 => exact ⟨_, fun s => (by rw [execFwCommit] : execFwCommit x0 x1 x2 s = onDev s _)⟩
  | fwActivate x0 x1 => exact ⟨_, fun s => (by rw [execFwActivate] : execFwActivate x0 x1 s = onDev s _)⟩
  | fwRecover x0 x1 => exact ⟨_, fun s => (by rw [execFwRecover] : execFwRecover x0 x1 s = onDev s _)⟩
  | logRead x0 x1 => exact ⟨_, fun s => (by rw [execLogRead] : execLogRead x0 x1 s = onDev s _)⟩
  | svnRaise x0 x1 => exact ⟨_, fun s => (by rw [execSvnRaise] : execSvnRaise x0 x1 s = onDev s _)⟩
  | mgtQuery x0 x1 => exact ⟨_, fun s => (by rw [execMgtQuery] : execMgtQuery x0 x1 s = onDev s _)⟩
  | matmul x0 x1 => exact ⟨_, fun s => (by rw [execMatmul] : execMatmul x0 x1 s = onDev s _)⟩
  | attention x0 x1 => exact ⟨_, fun s => (by rw [execAttention] : execAttention x0 x1 s = onDev s _)⟩
  | softmax x0 x1 => exact ⟨_, fun s => (by rw [execSoftmax] : execSoftmax x0 x1 s = onDev s _)⟩
  | rmsnorm x0 x1 => exact ⟨_, fun s => (by rw [execRmsnorm] : execRmsnorm x0 x1 s = onDev s _)⟩
  | layernorm x0 x1 => exact ⟨_, fun s => (by rw [execLayernorm] : execLayernorm x0 x1 s = onDev s _)⟩
  | elementwise x0 x1 => exact ⟨_, fun s => (by rw [execElementwise] : execElementwise x0 x1 s = onDev s _)⟩
  | convert x0 x1 => exact ⟨_, fun s => (by rw [execConvert] : execConvert x0 x1 s = onDev s _)⟩
  | reduceExact x0 x1 => exact ⟨_, fun s => (by rw [execReduceExact] : execReduceExact x0 x1 s = onDev s _)⟩
  | gatherRows x0 x1 => exact ⟨_, fun s => (by rw [execGatherRows] : execGatherRows x0 x1 s = onDev s _)⟩
  | gatherFirst x0 x1 => exact ⟨_, fun s => (by rw [execGatherFirst] : execGatherFirst x0 x1 s = onDev s _)⟩
  | moeRoute x0 x1 => exact ⟨_, fun s => (by rw [execMoeRoute] : execMoeRoute x0 x1 s = onDev s _)⟩
  | moeCombine x0 x1 => exact ⟨_, fun s => (by rw [execMoeCombine] : execMoeCombine x0 x1 s = onDev s _)⟩
  | sample x0 x1 => exact ⟨_, fun s => (by rw [execSample] : execSample x0 x1 s = onDev s _)⟩
  | allreduce x0 x1 => exact ⟨_, fun s => (by rw [execAllreduce] : execAllreduce x0 x1 s = onDev s _)⟩
  | reduceScatter x0 x1 => exact ⟨_, fun s => (by rw [execReduceScatter] : execReduceScatter x0 x1 s = onDev s _)⟩
  | allgather x0 x1 x2 => exact ⟨_, fun s => (by rw [execAllgather] : execAllgather x0 x1 x2 s = onDev s _)⟩
  | alltoall x0 x1 x2 => exact ⟨_, fun s => (by rw [execAlltoall] : execAlltoall x0 x1 x2 s = onDev s _)⟩
  | planEnd x0 x1 => exact ⟨_, fun s => (by rw [execPlanEnd] : execPlanEnd x0 x1 s = onDev s _)⟩
  | operator x0 x1 => exact ⟨_, fun s => (by rw [execOperator] : execOperator x0 x1 s = onDev s _)⟩
  | streams x0 x1 => exact ⟨_, fun s => (by rw [execStreams] : execStreams x0 x1 s = onDev s _)⟩
  | waitHead x0 x1 => exact ⟨_, fun s => (by rw [execWaitHead] : execWaitHead x0 x1 s = onDev s _)⟩
  | atomic x0 x1 => exact ⟨_, fun s => (by rw [execAtomic] : execAtomic x0 x1 s = onDev s _)⟩
  | release x0 x1 => exact ⟨_, fun s => (by rw [execRelease] : execRelease x0 x1 s = onDev s _)⟩
  | waitValue x0 x1 => exact ⟨_, fun s => (by rw [execWaitValue] : execWaitValue x0 x1 s = onDev s _)⟩
  | planFence x0 x1 => exact ⟨_, fun s => (by rw [execPlanFence] : execPlanFence x0 x1 s = onDev s _)⟩
  | timeRead x0 x1 => exact ⟨_, fun s => (by rw [execTimeRead] : execTimeRead x0 x1 s = onDev s _)⟩
  | trnLinkLoss x0 => exact ⟨_, fun s => (by rw [execTrnLinkLoss] : execTrnLinkLoss x0 s = onDev s _)⟩
  | msixUnmask x0 x1 => exact ⟨_, fun s => (by rw [execMsixUnmask] : execMsixUnmask x0 x1 s = onDev s _)⟩
  | mgtSramUncorrectable x0 x1 x2 => exact ⟨_, fun s => (by rw [execMgtSramUncorrectable] : execMgtSramUncorrectable x0 x1 s x2 = onDev s _)⟩
  | ldpcEncode x0 => exact ⟨_, fun s => (by rw [execLdpcEncode] : execLdpcEncode x0 s = onDev s _)⟩
  | polarJob x0 => exact ⟨_, fun s => (by rw [execPolarJob] : execPolarJob x0 s = onDev s _)⟩
  | transformJob x0 => exact ⟨_, fun s => (by rw [execTransformJob] : execTransformJob x0 s = onDev s _)⟩
  | perstNRise => exact absurd rfl h1
  | perstNFall => exact absurd rfl h2
  | bar2Read i off n => exact absurd rfl (h3 i off n)

theorem step_cons {s : State} {c : Instr} {rest : List Instr} (h : s.pending = c :: rest) : step s = exec c { s with pending := rest } := by
  rw [step, h]

theorem step_nil {s : State} (h : s.pending = []) : step s = clockTick s := by
  rw [step, h]

end Sys2Proof.Machine
end

