-- ==== Sys2Proof/Laws/Memory.lean ====
section
/-!
SUPPORT. Every memory operation keeps the canonical form, and what a byte reads as after it.
-/

namespace Sys2Proof.Machine

set_option Elab.async false

/-! ### Canonical form -/

theorem memWfFrom_mono {m : List Host.Cell} {lo lo' : Nat} (h : lo' ≤ lo) (hm : memWfFrom lo m = true) : memWfFrom lo' m = true := by
  cases m with
  | nil => rfl
  | cons c m =>
    simp only [memWfFrom, Bool.and_eq_true, decide_eq_true_eq] at hm ⊢
    exact ⟨⟨Nat.le_trans h hm.1.1, hm.1.2⟩, hm.2⟩

theorem memWfFrom_cons {lo a : Nat} {v : Byte} {m : List Host.Cell} :
    memWfFrom lo ((a, v) :: m) = true ↔ lo ≤ a ∧ v ≠ 0 ∧ memWfFrom (a + 1) m = true := by
  simp only [memWfFrom, Bool.and_eq_true, decide_eq_true_eq, and_assoc]

theorem memPut_wfFrom (m : List Host.Cell) (a : Nat) (v : Byte) (lo : Nat) (h : lo ≤ a) (hm : memWfFrom lo m = true) :
    memWfFrom lo (memPut m a v) = true := by
  induction m generalizing lo with
  | nil =>
    by_cases hv : v = 0
    · rw [memPut, if_pos hv]; rfl
    · rw [memPut, if_neg hv]; exact memWfFrom_cons.2 ⟨h, hv, rfl⟩
  | cons c m ih =>
    obtain ⟨b, w⟩ := c
    obtain ⟨hb, hw, hm'⟩ := memWfFrom_cons.1 hm
    rw [memPut]
    split
    · by_cases hv : v = 0
      · rw [if_pos hv]; exact hm
      · rw [if_neg hv]; exact memWfFrom_cons.2 ⟨h, hv, memWfFrom_cons.2 ⟨by omega, hw, hm'⟩⟩
    · split
      · by_cases hv : v = 0
        · rw [if_pos hv]; exact memWfFrom_mono (by omega) hm'
        · subst_vars
          rw [if_neg hv]; exact memWfFrom_cons.2 ⟨h, hv, hm'⟩
      · exact memWfFrom_cons.2 ⟨hb, hw, ih (b + 1) (by omega) hm'⟩

/-- Writing a byte keeps the canonical form. -/
theorem memPut_wf {m : List Host.Cell} (hm : memWf m = true) (a : Nat) (v : Byte) : memWf (memPut m a v) = true :=
  memPut_wfFrom m a v 0 (Nat.zero_le a) hm

/-- Writing bytes keeps the canonical form. -/
theorem memWrite_wf {m : List Host.Cell} (hm : memWf m = true) (a : Nat) (bs : List Byte) : memWf (memWrite m a bs) = true := by
  induction bs generalizing m a with
  | nil => exact hm
  | cons b bs ih => exact ih (memPut_wf hm a b) (a + 1)

theorem filter_wfFrom (m : List Host.Cell) (p : Host.Cell → Bool) (lo : Nat) (hm : memWfFrom lo m = true) :
    memWfFrom lo (m.filter p) = true := by
  induction m generalizing lo with
  | nil => rfl
  | cons c m ih =>
    simp only [memWfFrom, Bool.and_eq_true, decide_eq_true_eq] at hm
    rw [List.filter_cons]
    split
    · simp only [memWfFrom, Bool.and_eq_true, decide_eq_true_eq]
      exact ⟨hm.1, ih _ hm.2⟩
    · exact ih lo (memWfFrom_mono (by omega) hm.2)

/-- Clearing a range keeps the canonical form. -/
theorem memClear_wf {m : List Host.Cell} (hm : memWf m = true) (a n : Nat) : memWf (memClear m a n) = true :=
  filter_wfFrom m _ 0 hm

theorem reset_mem_wf : memWf State.reset.dev.mem = true ∧ memWf State.reset.dev.hmem = true := by decide

/-! ### What a byte reads as -/

theorem memGet_cons (c : Host.Cell) (m : List Host.Cell) (a : Nat) : memGet (c :: m) a = if c.1 = a then c.2 else memGet m a := by
  by_cases h : c.1 = a
  · simp [memGet, tget, tget?, h]
  · have h' : (c.1 == a) = false := by simpa using h
    simp [memGet, tget, tget?, h, h']

theorem memGet_below {m : List Host.Cell} {lo a : Nat} (hm : memWfFrom lo m = true) (h : a < lo) : memGet m a = 0 := by
  induction m generalizing lo with
  | nil => rfl
  | cons c m ih =>
    simp only [memWfFrom, Bool.and_eq_true, decide_eq_true_eq] at hm
    rw [memGet_cons, if_neg (by omega), ih hm.2 (by omega)]

theorem memGet_memPut_from {m : List Host.Cell} {lo : Nat} (hm : memWfFrom lo m = true) (a : Nat) (v : Byte) (b : Nat) :
    memGet (memPut m a v) b = if b = a then v else memGet m b := by
  induction m generalizing lo with
  | nil =>
    by_cases hv : v = 0
    · subst hv
      simp only [memPut, if_true]
      split <;> rfl
    · simp only [memPut, hv, if_false, memGet_cons]
      by_cases h : b = a
      · simp [h]
      · simp [h, show ¬a = b from fun e => h e.symm]
  | cons c m ih =>
    obtain ⟨k, w⟩ := c
    simp only [memWfFrom, Bool.and_eq_true, decide_eq_true_eq] at hm
    have lowA (ha : a < k) : memGet ((k, w) :: m) a = 0 := by
      rw [memGet_cons, if_neg (by simp; omega), memGet_below hm.2 (by omega)]
    simp only [memPut]
    split
    · rename_i ha
      by_cases hv : v = 0
      · simp only [hv, if_true]
        split
        · subst_vars; exact lowA ha
        · rfl
      · simp only [hv, if_false]
        rw [memGet_cons]
        by_cases h : b = a
        · simp [h]
        · simp [h, show ¬a = b from fun e => h e.symm]
    · split
      · rename_i ha hk
        subst hk
        by_cases hv : v = 0
        · simp only [hv, if_true, memGet_cons]
          by_cases h : b = a
          · subst h; simp [memGet_below hm.2 (Nat.lt_succ_self b)]
          · simp [h, show ¬a = b from fun e => h e.symm]
        · simp only [hv, if_false, memGet_cons]
          by_cases h : b = a
          · simp [h]
          · simp [show ¬a = b from fun e => h e.symm, h]
      · rename_i ha hk
        rw [memGet_cons, memGet_cons, ih hm.2]
        by_cases h : b = a
        · subst h; simp [show ¬k = b from fun e => hk e.symm]
        · simp [h]

/-- A byte after a write of one byte: the byte written there, what it was elsewhere. -/
theorem memGet_memPut {m : List Host.Cell} (hm : memWf m = true) (a : Nat) (v : Byte) (b : Nat) :
    memGet (memPut m a v) b = if b = a then v else memGet m b :=
  memGet_memPut_from hm a v b

/-- A byte outside the bytes written reads as before. -/
theorem memGet_memWrite_out {m : List Host.Cell} (hm : memWf m = true) (a : Nat) (bs : List Byte) (b : Nat) (h : b < a ∨ a + bs.length ≤ b) :
    memGet (memWrite m a bs) b = memGet m b := by
  induction bs generalizing m a with
  | nil => rfl
  | cons x bs ih =>
    simp only [List.length_cons] at h
    rw [memWrite, ih (memPut_wf hm a x) (a + 1) (by omega), memGet_memPut hm, if_neg (by omega)]

/-- A byte among the bytes written reads as the byte written there. -/
theorem memGet_memWrite_in {m : List Host.Cell} (hm : memWf m = true) (a : Nat) (bs : List Byte) (i : Nat) (h : i < bs.length) :
    memGet (memWrite m a bs) (a + i) = bs[i] := by
  induction bs generalizing m a i with
  | nil => simp at h
  | cons x bs ih =>
    cases i with
    | zero => rw [memWrite, memGet_memWrite_out (memPut_wf hm a x) (a + 1) bs (a + 0) (by omega), memGet_memPut hm]; simp
    | succ i =>
      simp only [List.length_cons] at h
      have e : a + (i + 1) = a + 1 + i := by omega
      rw [memWrite, e, ih (memPut_wf hm a x) (a + 1) i (by omega)]
      rfl

/-- Bytes among the bytes written read as they were written. -/
theorem memRead_memWrite {m : List Host.Cell} (hm : memWf m = true) (a : Nat) (bs : List Byte) (k n : Nat) (h : k + n ≤ bs.length) :
    memRead (memWrite m a bs) (a + k) n = (bs.drop k).take n := by
  apply List.ext_getElem
  · simp [memRead]; omega
  · intro i h1 h2
    simp only [memRead, List.length_map, List.length_range] at h1
    simp only [memRead, List.getElem_map, List.getElem_range, List.getElem_take, List.getElem_drop]
    rw [Nat.add_assoc]
    exact memGet_memWrite_in hm a bs (k + i) (by omega)

/-- No range of a core store is poisoned while no carrier unit is marked. -/
theorem store_clean (d : Dev) (h : d.poison = []) (c o n : Nat) (hc : c < 96) (ho : o < 0x400000) (hn : n ≤ 0x400000) :
    isPoisoned d (storeAddr c o) n = false := by
  have hb : ¬ hostBase ≤ storeAddr c o := by simp only [hostBase, storeAddr, storeBase]; omega
  rw [isPoisoned, if_neg hb, List.any_eq_false]
  intro x hx
  have hu : unitSize (storeAddr c o) = 32 := by
    have h : ¬ storeAddr c o < pierEnd := by simp only [storeAddr, storeBase, pierEnd]; omega
    rw [unitSize, if_neg h]
  have hr : storeBase ≤ x ∧ x < flashBase := by
    simp only [unitsIn, hu] at hx
    split at hx
    · simp at hx
    · simp only [List.mem_map, List.mem_range] at hx
      obtain ⟨i, hi, rfl⟩ := hx
      simp only [storeAddr, storeBase, flashBase] at *
      omega
  have h1 : ¬ x < pierEnd := by simp only [pierEnd, storeBase] at *; omega
  have h2 : ¬ flashBase ≤ x := by omega
  simp [unitPoisoned, flashGone, h, h1, h2]

end Sys2Proof.Machine
end

