-- ==== Sys2Proof/Laws/Records.lean ====
section
/-!
SUPPORT. What recording an error and ending a scope can change: registers, the record areas, the contexts' teardown marks and the
fault state, and nothing else.
-/

namespace Sys2Proof.Machine

set_option Elab.async false

/-- A device that differs from another in registers, instances, contexts and fault state alone. -/
def OnlyRecords (d t : Dev) : Prop :=
  ∃ a b c f, t = { d with regs := a, insts := b, ctxs := c, flt := f }

theorem OnlyRecords.refl (d : Dev) : OnlyRecords d d := ⟨_, _, _, _, rfl⟩

theorem OnlyRecords.trans {d t u : Dev} (h : OnlyRecords d t) (k : OnlyRecords t u) : OnlyRecords d u := by
  obtain ⟨a, b, c, f, rfl⟩ := h
  obtain ⟨a', b', c', f', rfl⟩ := k
  exact ⟨a', b', c', f', rfl⟩

theorem fset_only (d : Dev) (k : Nat) (f : Fld) (v : Nat) : OnlyRecords d (fset d k f v) := ⟨_, _, _, _, rfl⟩

theorem mapRec_only (d : Dev) (seq : Nat) (f : Rec → Rec) : OnlyRecords d (mapRec d seq f) := ⟨_, _, _, _, rfl⟩

theorem chargeRecord_only (d : Dev) (r : Rec) : OnlyRecords d (chargeRecord d r) := by
  unfold chargeRecord
  split
  · exact .refl d
  · dsimp only
    split <;> exact ⟨_, _, _, _, rfl⟩

theorem countNesting_only (d : Dev) (r : Rec) : OnlyRecords d (countNesting d r) := by
  unfold countNesting
  split
  · exact .refl d
  · dsimp only
    split <;> exact ⟨_, _, _, _, rfl⟩

theorem enqueueRec_only (d : Dev) (r : Rec) : OnlyRecords d (enqueueRec d r) := by
  unfold enqueueRec
  split <;> exact ⟨_, _, _, _, rfl⟩

theorem showStatus_only (d : Dev) (r : Rec) : OnlyRecords d (showStatus d r) := by
  unfold showStatus
  split
  · exact fset_only _ _ _ _
  · exact .refl d

theorem fileRec_only (d : Dev) (r : Rec) : OnlyRecords d (fileRec d r) := by
  unfold fileRec
  split
  · split
    · exact mapRec_only _ _ _
    · dsimp only
      split
      · exact enqueueRec_only _ _
      · exact (enqueueRec_only _ _).trans ⟨_, _, _, _, rfl⟩
  · exact enqueueRec_only _ _

/-- All that a record changes (R427-R431). -/
theorem record_only (d : Dev) (r : Rec) : OnlyRecords d (record d r) :=
  (((chargeRecord_only d r).trans (showStatus_only _ r)).trans (countNesting_only _ r)).trans (fileRec_only _ _)

/-- All that a context-fatal error changes (R431). -/
theorem endCtx_only (d : Dev) (i c status addr detail : Nat) : OnlyRecords d (endCtx d i c status addr detail) := by
  unfold endCtx
  dsimp only
  split
  · exact (record_only d _).trans ⟨_, _, _, _, rfl⟩
  · exact record_only d _

/-- All that a request-ended error changes (R111). -/
theorem endRequest_only (d : Dev) (i c status addr detail : Nat) : OnlyRecords d (endRequest d i c status addr detail) :=
  (record_only d _).trans ⟨_, _, _, _, rfl⟩

/-- All that an instance-fatal error changes (R432). -/
theorem endInst_only (d : Dev) (i status : Nat) : OnlyRecords d (endInst d i status) := by
  unfold endInst
  split
  · exact record_only d _
  · exact (record_only d _).trans ⟨_, _, _, _, rfl⟩

/-- All that a discarded write changes (R11). -/
theorem cfgReject_only (d : Dev) (k : Nat) (f : Fld) (status key detail inst : Nat) :
    OnlyRecords d (cfgReject d k f status key detail inst) := (fset_only d _ _ _).trans (record_only _ _)

theorem OnlyRecords.env {d t : Dev} (h : OnlyRecords d t) : t.env = d.env := by obtain ⟨_, _, _, _, rfl⟩ := h; rfl
theorem OnlyRecords.act {d t : Dev} (h : OnlyRecords d t) : t.act = d.act := by obtain ⟨_, _, _, _, rfl⟩ := h; rfl
theorem OnlyRecords.mem {d t : Dev} (h : OnlyRecords d t) : t.mem = d.mem := by obtain ⟨_, _, _, _, rfl⟩ := h; rfl
theorem OnlyRecords.poison {d t : Dev} (h : OnlyRecords d t) : t.poison = d.poison := by obtain ⟨_, _, _, _, rfl⟩ := h; rfl
theorem OnlyRecords.hmem {d t : Dev} (h : OnlyRecords d t) : t.hmem = d.hmem := by obtain ⟨_, _, _, _, rfl⟩ := h; rfl
theorem OnlyRecords.hbad {d t : Dev} (h : OnlyRecords d t) : t.hbad = d.hbad := by obtain ⟨_, _, _, _, rfl⟩ := h; rfl
theorem OnlyRecords.tbs {d t : Dev} (h : OnlyRecords d t) : t.tbs = d.tbs := by obtain ⟨_, _, _, _, rfl⟩ := h; rfl
theorem OnlyRecords.arrs {d t : Dev} (h : OnlyRecords d t) : t.arrs = d.arrs := by obtain ⟨_, _, _, _, rfl⟩ := h; rfl
theorem OnlyRecords.shares {d t : Dev} (h : OnlyRecords d t) : t.shares = d.shares := by obtain ⟨_, _, _, _, rfl⟩ := h; rfl
theorem OnlyRecords.reruns {d t : Dev} (h : OnlyRecords d t) : t.reruns = d.reruns := by obtain ⟨_, _, _, _, rfl⟩ := h; rfl
theorem OnlyRecords.unput {d t : Dev} (h : OnlyRecords d t) : t.unput = d.unput := by obtain ⟨_, _, _, _, rfl⟩ := h; rfl
theorem OnlyRecords.cores {d t : Dev} (h : OnlyRecords d t) : t.cores = d.cores := by obtain ⟨_, _, _, _, rfl⟩ := h; rfl
theorem OnlyRecords.strms {d t : Dev} (h : OnlyRecords d t) : t.strms = d.strms := by obtain ⟨_, _, _, _, rfl⟩ := h; rfl
theorem OnlyRecords.mortar {d t : Dev} (h : OnlyRecords d t) : t.mortar = d.mortar := by obtain ⟨_, _, _, _, rfl⟩ := h; rfl
theorem OnlyRecords.keyOwn {d t : Dev} (h : OnlyRecords d t) : t.keyOwn = d.keyOwn := by obtain ⟨_, _, _, _, rfl⟩ := h; rfl
theorem OnlyRecords.pier {d t : Dev} (h : OnlyRecords d t) : t.pier = d.pier := by obtain ⟨_, _, _, _, rfl⟩ := h; rfl
theorem OnlyRecords.trn {d t : Dev} (h : OnlyRecords d t) : t.trn = d.trn := by obtain ⟨_, _, _, _, rfl⟩ := h; rfl
theorem OnlyRecords.tier {d t : Dev} (h : OnlyRecords d t) : t.tier = d.tier := by obtain ⟨_, _, _, _, rfl⟩ := h; rfl
theorem OnlyRecords.rings {d t : Dev} (h : OnlyRecords d t) : t.rings = d.rings := by obtain ⟨_, _, _, _, rfl⟩ := h; rfl
theorem OnlyRecords.jobs {d t : Dev} (h : OnlyRecords d t) : t.jobs = d.jobs := by obtain ⟨_, _, _, _, rfl⟩ := h; rfl
theorem OnlyRecords.sp {d t : Dev} (h : OnlyRecords d t) : t.sp = d.sp := by obtain ⟨_, _, _, _, rfl⟩ := h; rfl
theorem OnlyRecords.sigs {d t : Dev} (h : OnlyRecords d t) : t.sigs = d.sigs := by obtain ⟨_, _, _, _, rfl⟩ := h; rfl
theorem OnlyRecords.mgt {d t : Dev} (h : OnlyRecords d t) : t.mgt = d.mgt := by obtain ⟨_, _, _, _, rfl⟩ := h; rfl
theorem OnlyRecords.time {d t : Dev} (h : OnlyRecords d t) : t.time = d.time := by obtain ⟨_, _, _, _, rfl⟩ := h; rfl
theorem OnlyRecords.tst {d t : Dev} (h : OnlyRecords d t) : t.tst = d.tst := by obtain ⟨_, _, _, _, rfl⟩ := h; rfl
theorem OnlyRecords.heat {d t : Dev} (h : OnlyRecords d t) : t.heat = d.heat := by obtain ⟨_, _, _, _, rfl⟩ := h; rfl
theorem OnlyRecords.outs {d t : Dev} (h : OnlyRecords d t) : t.outs = d.outs := by obtain ⟨_, _, _, _, rfl⟩ := h; rfl
theorem OnlyRecords.freeCtr {d t : Dev} (h : OnlyRecords d t) : t.freeCtr = d.freeCtr := by obtain ⟨_, _, _, _, rfl⟩ := h; rfl

/-! ### The same for `record`, field by field -/

@[simp] theorem record_env (d : Dev) (r : Rec) : (record d r).env = d.env := (record_only d r).env
@[simp] theorem record_act (d : Dev) (r : Rec) : (record d r).act = d.act := (record_only d r).act
@[simp] theorem record_mem (d : Dev) (r : Rec) : (record d r).mem = d.mem := (record_only d r).mem
@[simp] theorem record_poison (d : Dev) (r : Rec) : (record d r).poison = d.poison := (record_only d r).poison
@[simp] theorem record_hmem (d : Dev) (r : Rec) : (record d r).hmem = d.hmem := (record_only d r).hmem
@[simp] theorem record_hbad (d : Dev) (r : Rec) : (record d r).hbad = d.hbad := (record_only d r).hbad
@[simp] theorem record_tbs (d : Dev) (r : Rec) : (record d r).tbs = d.tbs := (record_only d r).tbs
@[simp] theorem record_arrs (d : Dev) (r : Rec) : (record d r).arrs = d.arrs := (record_only d r).arrs
@[simp] theorem record_shares (d : Dev) (r : Rec) : (record d r).shares = d.shares := (record_only d r).shares
@[simp] theorem record_reruns (d : Dev) (r : Rec) : (record d r).reruns = d.reruns := (record_only d r).reruns
@[simp] theorem record_unput (d : Dev) (r : Rec) : (record d r).unput = d.unput := (record_only d r).unput
@[simp] theorem record_cores (d : Dev) (r : Rec) : (record d r).cores = d.cores := (record_only d r).cores
@[simp] theorem record_strms (d : Dev) (r : Rec) : (record d r).strms = d.strms := (record_only d r).strms
@[simp] theorem record_mortar (d : Dev) (r : Rec) : (record d r).mortar = d.mortar := (record_only d r).mortar
@[simp] theorem record_keyOwn (d : Dev) (r : Rec) : (record d r).keyOwn = d.keyOwn := (record_only d r).keyOwn
@[simp] theorem record_pier (d : Dev) (r : Rec) : (record d r).pier = d.pier := (record_only d r).pier
@[simp] theorem record_trn (d : Dev) (r : Rec) : (record d r).trn = d.trn := (record_only d r).trn
@[simp] theorem record_tier (d : Dev) (r : Rec) : (record d r).tier = d.tier := (record_only d r).tier
@[simp] theorem record_rings (d : Dev) (r : Rec) : (record d r).rings = d.rings := (record_only d r).rings
@[simp] theorem record_jobs (d : Dev) (r : Rec) : (record d r).jobs = d.jobs := (record_only d r).jobs
@[simp] theorem record_sp (d : Dev) (r : Rec) : (record d r).sp = d.sp := (record_only d r).sp
@[simp] theorem record_sigs (d : Dev) (r : Rec) : (record d r).sigs = d.sigs := (record_only d r).sigs
@[simp] theorem record_mgt (d : Dev) (r : Rec) : (record d r).mgt = d.mgt := (record_only d r).mgt
@[simp] theorem record_time (d : Dev) (r : Rec) : (record d r).time = d.time := (record_only d r).time
@[simp] theorem record_tst (d : Dev) (r : Rec) : (record d r).tst = d.tst := (record_only d r).tst
@[simp] theorem record_heat (d : Dev) (r : Rec) : (record d r).heat = d.heat := (record_only d r).heat
@[simp] theorem record_outs (d : Dev) (r : Rec) : (record d r).outs = d.outs := (record_only d r).outs
@[simp] theorem record_freeCtr (d : Dev) (r : Rec) : (record d r).freeCtr = d.freeCtr := (record_only d r).freeCtr
@[simp] theorem endCtx_env (d : Dev) (i c status addr detail : Nat) : (endCtx d i c status addr detail).env = d.env := (endCtx_only d i c status addr detail).env
@[simp] theorem endCtx_act (d : Dev) (i c status addr detail : Nat) : (endCtx d i c status addr detail).act = d.act := (endCtx_only d i c status addr detail).act
@[simp] theorem endCtx_mem (d : Dev) (i c status addr detail : Nat) : (endCtx d i c status addr detail).mem = d.mem := (endCtx_only d i c status addr detail).mem
@[simp] theorem endCtx_poison (d : Dev) (i c status addr detail : Nat) : (endCtx d i c status addr detail).poison = d.poison := (endCtx_only d i c status addr detail).poison
@[simp] theorem endCtx_hmem (d : Dev) (i c status addr detail : Nat) : (endCtx d i c status addr detail).hmem = d.hmem := (endCtx_only d i c status addr detail).hmem
@[simp] theorem endCtx_hbad (d : Dev) (i c status addr detail : Nat) : (endCtx d i c status addr detail).hbad = d.hbad := (endCtx_only d i c status addr detail).hbad
@[simp] theorem endCtx_tbs (d : Dev) (i c status addr detail : Nat) : (endCtx d i c status addr detail).tbs = d.tbs := (endCtx_only d i c status addr detail).tbs
@[simp] theorem endCtx_arrs (d : Dev) (i c status addr detail : Nat) : (endCtx d i c status addr detail).arrs = d.arrs := (endCtx_only d i c status addr detail).arrs
@[simp] theorem endCtx_shares (d : Dev) (i c status addr detail : Nat) : (endCtx d i c status addr detail).shares = d.shares := (endCtx_only d i c status addr detail).shares
@[simp] theorem endCtx_reruns (d : Dev) (i c status addr detail : Nat) : (endCtx d i c status addr detail).reruns = d.reruns := (endCtx_only d i c status addr detail).reruns
@[simp] theorem endCtx_unput (d : Dev) (i c status addr detail : Nat) : (endCtx d i c status addr detail).unput = d.unput := (endCtx_only d i c status addr detail).unput
@[simp] theorem endCtx_cores (d : Dev) (i c status addr detail : Nat) : (endCtx d i c status addr detail).cores = d.cores := (endCtx_only d i c status addr detail).cores
@[simp] theorem endCtx_strms (d : Dev) (i c status addr detail : Nat) : (endCtx d i c status addr detail).strms = d.strms := (endCtx_only d i c status addr detail).strms
@[simp] theorem endCtx_mortar (d : Dev) (i c status addr detail : Nat) : (endCtx d i c status addr detail).mortar = d.mortar := (endCtx_only d i c status addr detail).mortar
@[simp] theorem endCtx_keyOwn (d : Dev) (i c status addr detail : Nat) : (endCtx d i c status addr detail).keyOwn = d.keyOwn := (endCtx_only d i c status addr detail).keyOwn
@[simp] theorem endCtx_pier (d : Dev) (i c status addr detail : Nat) : (endCtx d i c status addr detail).pier = d.pier := (endCtx_only d i c status addr detail).pier
@[simp] theorem endCtx_trn (d : Dev) (i c status addr detail : Nat) : (endCtx d i c status addr detail).trn = d.trn := (endCtx_only d i c status addr detail).trn
@[simp] theorem endCtx_tier (d : Dev) (i c status addr detail : Nat) : (endCtx d i c status addr detail).tier = d.tier := (endCtx_only d i c status addr detail).tier
@[simp] theorem endCtx_rings (d : Dev) (i c status addr detail : Nat) : (endCtx d i c status addr detail).rings = d.rings := (endCtx_only d i c status addr detail).rings
@[simp] theorem endCtx_jobs (d : Dev) (i c status addr detail : Nat) : (endCtx d i c status addr detail).jobs = d.jobs := (endCtx_only d i c status addr detail).jobs
@[simp] theorem endCtx_sp (d : Dev) (i c status addr detail : Nat) : (endCtx d i c status addr detail).sp = d.sp := (endCtx_only d i c status addr detail).sp
@[simp] theorem endCtx_sigs (d : Dev) (i c status addr detail : Nat) : (endCtx d i c status addr detail).sigs = d.sigs := (endCtx_only d i c status addr detail).sigs
@[simp] theorem endCtx_mgt (d : Dev) (i c status addr detail : Nat) : (endCtx d i c status addr detail).mgt = d.mgt := (endCtx_only d i c status addr detail).mgt
@[simp] theorem endCtx_time (d : Dev) (i c status addr detail : Nat) : (endCtx d i c status addr detail).time = d.time := (endCtx_only d i c status addr detail).time
@[simp] theorem endCtx_tst (d : Dev) (i c status addr detail : Nat) : (endCtx d i c status addr detail).tst = d.tst := (endCtx_only d i c status addr detail).tst
@[simp] theorem endCtx_heat (d : Dev) (i c status addr detail : Nat) : (endCtx d i c status addr detail).heat = d.heat := (endCtx_only d i c status addr detail).heat
@[simp] theorem endCtx_outs (d : Dev) (i c status addr detail : Nat) : (endCtx d i c status addr detail).outs = d.outs := (endCtx_only d i c status addr detail).outs
@[simp] theorem endCtx_freeCtr (d : Dev) (i c status addr detail : Nat) : (endCtx d i c status addr detail).freeCtr = d.freeCtr := (endCtx_only d i c status addr detail).freeCtr
@[simp] theorem endRequest_env (d : Dev) (i c status addr detail : Nat) : (endRequest d i c status addr detail).env = d.env := (endRequest_only d i c status addr detail).env
@[simp] theorem endRequest_act (d : Dev) (i c status addr detail : Nat) : (endRequest d i c status addr detail).act = d.act := (endRequest_only d i c status addr detail).act
@[simp] theorem endRequest_mem (d : Dev) (i c status addr detail : Nat) : (endRequest d i c status addr detail).mem = d.mem := (endRequest_only d i c status addr detail).mem
@[simp] theorem endRequest_poison (d : Dev) (i c status addr detail : Nat) : (endRequest d i c status addr detail).poison = d.poison := (endRequest_only d i c status addr detail).poison
@[simp] theorem endRequest_hmem (d : Dev) (i c status addr detail : Nat) : (endRequest d i c status addr detail).hmem = d.hmem := (endRequest_only d i c status addr detail).hmem
@[simp] theorem endRequest_hbad (d : Dev) (i c status addr detail : Nat) : (endRequest d i c status addr detail).hbad = d.hbad := (endRequest_only d i c status addr detail).hbad
@[simp] theorem endRequest_tbs (d : Dev) (i c status addr detail : Nat) : (endRequest d i c status addr detail).tbs = d.tbs := (endRequest_only d i c status addr detail).tbs
@[simp] theorem endRequest_arrs (d : Dev) (i c status addr detail : Nat) : (endRequest d i c status addr detail).arrs = d.arrs := (endRequest_only d i c status addr detail).arrs
@[simp] theorem endRequest_shares (d : Dev) (i c status addr detail : Nat) : (endRequest d i c status addr detail).shares = d.shares := (endRequest_only d i c status addr detail).shares
@[simp] theorem endRequest_reruns (d : Dev) (i c status addr detail : Nat) : (endRequest d i c status addr detail).reruns = d.reruns := (endRequest_only d i c status addr detail).reruns
@[simp] theorem endRequest_unput (d : Dev) (i c status addr detail : Nat) : (endRequest d i c status addr detail).unput = d.unput := (endRequest_only d i c status addr detail).unput
@[simp] theorem endRequest_cores (d : Dev) (i c status addr detail : Nat) : (endRequest d i c status addr detail).cores = d.cores := (endRequest_only d i c status addr detail).cores
@[simp] theorem endRequest_strms (d : Dev) (i c status addr detail : Nat) : (endRequest d i c status addr detail).strms = d.strms := (endRequest_only d i c status addr detail).strms
@[simp] theorem endRequest_mortar (d : Dev) (i c status addr detail : Nat) : (endRequest d i c status addr detail).mortar = d.mortar := (endRequest_only d i c status addr detail).mortar
@[simp] theorem endRequest_keyOwn (d : Dev) (i c status addr detail : Nat) : (endRequest d i c status addr detail).keyOwn = d.keyOwn := (endRequest_only d i c status addr detail).keyOwn
@[simp] theorem endRequest_pier (d : Dev) (i c status addr detail : Nat) : (endRequest d i c status addr detail).pier = d.pier := (endRequest_only d i c status addr detail).pier
@[simp] theorem endRequest_trn (d : Dev) (i c status addr detail : Nat) : (endRequest d i c status addr detail).trn = d.trn := (endRequest_only d i c status addr detail).trn
@[simp] theorem endRequest_tier (d : Dev) (i c status addr detail : Nat) : (endRequest d i c status addr detail).tier = d.tier := (endRequest_only d i c status addr detail).tier
@[simp] theorem endRequest_rings (d : Dev) (i c status addr detail : Nat) : (endRequest d i c status addr detail).rings = d.rings := (endRequest_only d i c status addr detail).rings
@[simp] theorem endRequest_jobs (d : Dev) (i c status addr detail : Nat) : (endRequest d i c status addr detail).jobs = d.jobs := (endRequest_only d i c status addr detail).jobs
@[simp] theorem endRequest_sp (d : Dev) (i c status addr detail : Nat) : (endRequest d i c status addr detail).sp = d.sp := (endRequest_only d i c status addr detail).sp
@[simp] theorem endRequest_sigs (d : Dev) (i c status addr detail : Nat) : (endRequest d i c status addr detail).sigs = d.sigs := (endRequest_only d i c status addr detail).sigs
@[simp] theorem endRequest_mgt (d : Dev) (i c status addr detail : Nat) : (endRequest d i c status addr detail).mgt = d.mgt := (endRequest_only d i c status addr detail).mgt
@[simp] theorem endRequest_time (d : Dev) (i c status addr detail : Nat) : (endRequest d i c status addr detail).time = d.time := (endRequest_only d i c status addr detail).time
@[simp] theorem endRequest_tst (d : Dev) (i c status addr detail : Nat) : (endRequest d i c status addr detail).tst = d.tst := (endRequest_only d i c status addr detail).tst
@[simp] theorem endRequest_heat (d : Dev) (i c status addr detail : Nat) : (endRequest d i c status addr detail).heat = d.heat := (endRequest_only d i c status addr detail).heat
@[simp] theorem endRequest_outs (d : Dev) (i c status addr detail : Nat) : (endRequest d i c status addr detail).outs = d.outs := (endRequest_only d i c status addr detail).outs
@[simp] theorem endRequest_freeCtr (d : Dev) (i c status addr detail : Nat) : (endRequest d i c status addr detail).freeCtr = d.freeCtr := (endRequest_only d i c status addr detail).freeCtr

end Sys2Proof.Machine
end

