-- ==== Sys2Proof/Tests/Slice0.lean ====
section
/-!
SUPPORT. Tests: ill-formed commands that the check refuses, and for each statement a state and operands that meet its hypotheses. The
kernel checks them one after another (Elab.async false), not each in a thread of its own.
-/

namespace Sys2Proof.Tests

open Machine

set_option Elab.async false

/-! ### The machine -/

/-- A device that has booted, with core 0 in the partition of instance 0. -/
def liveDev : Dev :=
  { State.reset.dev with
    env := { State.reset.dev.env with boot := 1, linkDown := false }
    insts := [(0, { part := { cores := 1 } })] }

/-- A state around a device. -/
def live (d : Dev) : State := { pending := [], perstN := true, dev := d }

/-- A device after a device-fatal error. -/
def deadDev : Dev := { liveDev with env := { liveDev.env with fatal := some 0x6B08, fatalN := false } }

theorem witness_StepRunsFront : (live liveDev).pending = [] ∧ Runs (live liveDev) ∧ ¬ Runs (live deadDev) ∧
    ¬ Runs { live liveDev with perstN := false } := by decide +kernel

theorem witness_QueueKept : Instr.hotReset ≠ .perstNRise ∧ Instr.hotReset ≠ .perstNFall := by decide

/-- A device held in reset, with the queue's next command. -/
def lowState (c : Instr) : State := { pending := [c], perstN := false, dev := resetDev deadDev }

theorem held_resetDev (d : Dev) : Held (resetDev d) where
  regs := by
    have h : getReg (resetDev d) regSecFuse = getReg d regSecFuse := by
      simp [getReg, resetDev, resetRegs, tget, tget?]
    rw [h]; rfl
  act := rfl
  mem := by
    intro c hc
    have := (List.mem_filter.1 hc).2
    simpa using this
  poison := by
    intro b hb
    have := (List.mem_filter.1 hb).2
    simpa using this
  pins := ⟨rfl, rfl⟩
  life := ⟨rfl, rfl, rfl, rfl⟩
  tbs := rfl
  cores := ⟨rfl, rfl, rfl, rfl⟩
  shares := ⟨rfl, rfl, rfl⟩
  owners := ⟨rfl, rfl, rfl⟩
  units := ⟨rfl, rfl, rfl, rfl⟩
  works := ⟨rfl, rfl, rfl⟩
  health := ⟨rfl, rfl, rfl, rfl⟩

theorem witness_HeldInReset (c : Instr) : Inv (lowState c) := fun _ => held_resetDev deadDev

theorem witness_HeldInReset_step : step (lowState .hotReset) = .next { lowState .hotReset with pending := [] } := by rfl

theorem witness_ResetHeld : 1 ≤ 1 ∧ 64 < 65 ∧ instState State.reset.dev 1 = 0 ∧ instState State.reset.dev 64 = 0 := by decide +kernel

theorem witness_FatalFreezes : (live deadDev).perstN = true ∧ alive (live deadDev).dev = false ∧ Instr.hotReset ≠ .perstNFall ∧
    Instr.hotReset ≠ .bar2Read 0 0 0 := by decide +kernel

theorem witness_ResetPin : (live liveDev).perstN = true ∧ (lowState .hotReset).perstN = false ∧ Instr.hotReset ≠ .perstNRise := by
  decide +kernel

/-! ### Arrays -/

/-- A device with bytes written to its memory. -/
def putMem (d : Dev) (a : Nat) (bs : List Byte) : Dev := { d with mem := memWrite d.mem a bs }

/-- The descriptor of a 1 by 1 by 1 product of FP8 elements in the store of core 0. -/
def arrBytes : List Byte :=
  natLe 4 0 ++ natLe 4 0 ++ natLe 4 1 ++ natLe 4 1 ++ natLe 8 (storeAddr 0 0x100000) ++ natLe 8 0 ++ natLe 8 1 ++ natLe 8 (storeAddr 0 0x1000)
    ++ natLe 8 (storeAddr 0 0x2000) ++ natLe 8 0 ++ natLe 8 (storeAddr 0 0x3000)

/-- Brick 0 with the descriptor in its core's store, its operands 1.0, and its save area there too. -/
def arrDev : Dev :=
  let d := putMem (putMem (putMem liveDev (storeAddr 0 0x800) arrBytes) (storeAddr 0 0x1000) [0x38]) (storeAddr 0 0x2000) [0x38]
  setReg (setReg d (regArrDescBase 0) (storeAddr 0 0x800)) (regArrSaveBase 0) (storeAddr 0 0x10000)

/-- The device after GO, and after a swap. -/
def arrBusy : Dev := arrSwap (arrGo arrDev 0 false) 0

/-- The header of a save area of brick 0 before its first column, all else of which is 0 (R84). -/
def arrSaved : Dev := putMem arrDev (storeAddr 0 0x10000) (natLe 2 1 ++ natLe 6 0 ++ natLe 8 (storeAddr 0 0x800))

theorem witness_ArrayStarts : Runs (live arrDev) ∧ arrOn arrDev 0 = true ∧ (arrSt arrDev 0).run = none ∧ (arrSt arrDev 0).queued = none ∧
    (let r := newRun arrDev 0 (getReg arrDev (regArrDescBase 0))
     let d2 := setArr (setArr (forceRun arrDev 0 r) 0 fldArrStatusFault 0) 0 fldArrStatusSaved 0
     submitErr d2 0 r = none ∧ arrAccess d2 (arrDesc 0 r.desc) false (arrWho r.cls r.inst r.ctx) = none) := by decide +kernel

theorem witness_ArrayStarts_resume :
    (let r := newRun arrSaved 0 (getReg arrSaved (regArrDescBase 0))
     let d2 := setArr (setArr (forceRun arrSaved 0 r) 0 fldArrStatusFault 0) 0 fldArrStatusSaved 0
     match loadSave d2 0 { r with from_ := some r.save } r.save with
     | some r => decide (arrAccess d2 (arrDesc 0 r.desc) false (arrWho r.cls r.inst r.ctx) = none)
     | none => false) = true ∧ (arrSt arrSaved 0).run = none := by decide +kernel

theorem witness_ArrayStarts_queue : (arrSt arrBusy 0).run.isSome = true ∧ (arrSt arrBusy 0).queued = none ∧
    submitErr arrBusy 0 (newRun arrBusy 0 (getReg arrBusy (regArrDescBase 0))) = none ∧
    (arrSt (arrGo arrBusy 0 false) 0).queued.isSome = true := by decide +kernel

/-- 1.0 times 1.0 is written as the FP32 1.0 (R66). -/
theorem test_arr_product : devRead (arrComplete arrBusy 0) (storeAddr 0 0x3000) 4 = [0, 0, 0x80, 0x3F] := by decide +kernel

/-- Brick 0 with its invocation begun. -/
def arrBegun : Dev := arrGo arrDev 0 false

theorem witness_ArrayRuns :
    (match (arrSt arrBegun 0).run with
     | none => false
     | some r =>
       let e := arrDesc 0 r.desc
       let p := slotsWhile 0 e (fun _ => true) (slotBound e false) arrBegun r
       let w := writeGroup p.1 e false (foldWindows p.2) (e.groups false - 1)
       r.active.isNone && !allEntered e false r && !p.2.bad && !w.2.poison) = true := by decide +kernel

theorem witness_ArrayRuns_swap :
    (match (arrSt arrBusy 0).run with
     | none => false
     | some r =>
       let e := arrDesc 0 r.desc
       let p := slotsWhile 0 e (fun x => x.group == r.group && x.dtile == r.dtile) (5 * groupCols false) arrBusy r
       r.active.isSome && !p.2.bad) = true := by decide +kernel

theorem witness_ArrayRuns_stop :
    (match (arrSt arrBegun 0).run with
     | none => false
     | some r =>
       let d := fset arrBegun (regArrCtrl 0) fldArrCtrlStopAt 0
       let e := arrDesc 0 r.desc
       let r2 := { foldWindows r with step := (ctxSt d r.inst r.ctx).step }
       let t := arrStop arrBegun 0 0 0
       fget d (regArrStatus 0) fldArrStatusStopping != 1 && e.cls != 3 && !r.bad && !allEntered e false r && r2.win.isEmpty &&
         fget t (regArrStatus 0) fldArrStatusFault != 1 && fget t (regArrStatus 0) fldArrStatusSaved == 1) = true := by decide +kernel

/-! ### Cores and streams -/

/-- A device whose core blocks 0 and 95 were written since their last commit. -/
def writtenDev : Dev := { liveDev with unput := [0, 95] }

theorem witness_CoreCommits : Runs (live writtenDev) ∧ coreOn writtenDev 0 = true ∧ coreOn writtenDev 95 = true ∧
    writtenDev.unput.contains 0 = true ∧ writtenDev.unput.contains 95 = true ∧ writtenDev.unput.contains 1 = false ∧
    belowFloor writtenDev 0 = false := by decide +kernel

/-- Core 0 running context 0 of instance 0, its save area in the mortar. -/
def coreDev : Dev :=
  let d := { liveDev with mortar := [(0, 0)], ctxs := [(0, { live := true })] }
  setCoreState (commitReg (setReg (commitReg (setReg d (regCoreSaveBase 0) mortarBase) (regCoreSaveBase 0)) (regCoreCtx 0) 0x1000) (regCoreCtx 0)) 0 1

/-- The same core idle, with a save area of that context. -/
def savedCore : Dev := setCoreState (putMem coreDev mortarBase [1, 1, 1]) 0 0

theorem witness_CoreStops : Runs (live coreDev) ∧ (coreSt (modCore coreDev 0 (fun t => { t with borrowed := some (1, 2) })) 0).borrowed = some (1, 2) ∧
    (coreSt coreDev 0).borrowed = none ∧ coreState coreDev 0 = 1 ∧ coreFenced coreDev 0 = false ∧ coreOn coreDev 0 = true ∧
    coreState (setCoreState coreDev 0 3) 0 = 3 ∧ Runs (live savedCore) ∧ coreOn savedCore 0 = true ∧ coreState savedCore 0 = 0 ∧ coreFenced savedCore 0 = false ∧
    fget savedCore (regCorePart 0) fldCorePartSlotReserved ≠ 1 ∧
    accessErr savedCore (.ctx (coreCtx savedCore 0).2.1 (coreCtx savedCore 0).2.2) false (getAct savedCore (regCoreSaveBase 0)) 16384 = none ∧
    isPoisoned savedCore (getAct savedCore (regCoreSaveBase 0)) 64 = false ∧ devNat savedCore (getAct savedCore (regCoreSaveBase 0)) 2 = 0x0101 ∧
    devNat savedCore (getAct savedCore (regCoreSaveBase 0) + 2) 1 = 1 := by decide +kernel

/-- The bytes of a descriptor of one element of 8 bytes: kind, spaces, flags, addresses, index stream. -/
def descBytes (kind spaces src dst : Nat) : List Byte :=
  natLe 1 kind ++ natLe 1 3 ++ natLe 1 spaces ++ natLe 5 0 ++ natLe 8 src ++ natLe 8 dst ++ natLe 4 1 ++ natLe 4 1 ++ natLe 4 1 ++ natLe 4 1
    ++ natLe 48 0 ++ natLe 1 1 ++ natLe 3 0 ++ natLe 4 5 ++ natLe 32 0

/-- Stream 0 of reserved core 0 as slot work with one descriptor, and stream 1 a queue that holds the index 3. -/
def strmDev (kind spaces src dst : Nat) : Dev :=
  let d := putMem (putMem (putMem liveDev (storeAddr 0 0x100) (descBytes kind spaces src dst)) (storeAddr 0 0x2000) [7]) (storeAddr 0 0x8000) [3]
  let d := modStrm (modStrm d 0 0 (fun t => { t with slot := true })) 0 1 (fun t => { t with slot := true })
  let d := fset (fset d (regCoreStrmCfg 0 0) fldCoreStrmCfgEnable 1) (regCoreStrmCfg 0 0) fldCoreStrmCfgMode 1
  let d := fset (fset d (regCoreStrmCfg 0 1) fldCoreStrmCfgMode 1) (regCoreStrmCfg 0 1) fldCoreStrmCfgSizeLog2 12
  let d := fset (fset d (regCoreStrmCfg 0 1) fldCoreStrmCfgBase 0x8000) (regCoreStrmPtr 0 1) fldCoreStrmPtrTail 4
  let d := fset (fset d (regCoreStrmDesc 0 0) fldCoreStrmDescDescBase 0x100) (regCoreStrmDesc 0 0) fldCoreStrmDescDescCount 1
  setStrmState (commitReg (fset d (regCorePart 0) fldCorePartSlotReserved 1) (regCoreStrmDesc 0 0)) 0 0 1

/-- Whether a stream's only element can be fetched and written, for a copy, a fill, a gather or a scatter. -/
def elemFlows (d : Dev) (kind : Nat) : Bool :=
  let e := parseDesc (devRead d (storeAddr 0 (descOff d 0 0)) 128)
  let d0 := setStrmState d 0 0 2
  let row := if kind = 1 ∨ kind = 2 then some 3 else none
  e.kind == kind && (match fetchElem d0 0 0 e 0 (if kind = 1 then row else none) with
    | .data d1 bs p => match putElem d1 0 0 e 0 (if kind = 2 then row else none) bs p with
      | .ok _ => true
      | _ => false
    | _ => false)

theorem witness_StreamsRun : Runs (live (strmDev 0 0 0x2000 0x3000)) ∧ strmRuns (strmDev 0 0 0x2000 0x3000) 0 0 = true ∧
    (let d := strmDev 0 0 0x2000 0x3000
     let e := parseDesc (devRead d (storeAddr 0 (descOff d 0 0)) 128)
     descValid d 0 0 e = true ∧ strmGuard d 0 0 e = none ∧ e.pstate = 0 ∧ e.counts = [1, 1, 1, 1] ∧ (strmSt d 0 0).left = 0 ∧ (strmSt d 0 0).failing = 0) ∧
    elemFlows (strmDev 0 0 0x2000 0x3000) 0 = true ∧ elemFlows (strmDev 3 0 0xABCD 0x3000) 3 = true ∧
    elemFlows (strmDev 1 0 0x2000 0x3000) 1 = true ∧ elemFlows (strmDev 2 0 0x2000 0x3000) 2 = true ∧
    readIndex (setStrmState (strmDev 1 0 0x2000 0x3000) 0 0 2) 0 1 = some (3, false) := by decide +kernel

/-- A copied element arrives with its bytes (R101). -/
theorem test_stream_copy : devRead (runStream (strmDev 0 0 0x2000 0x3000) 0 0 [0]) (storeAddr 0 0x3000) 8 = [7, 0, 0, 0, 0, 0, 0, 0] := by
  decide +kernel

/-- A fill repeats its pattern (R100). -/
theorem test_stream_fill : devRead (runStream (strmDev 3 0 0xABCD 0x3000) 0 0 [3]) (storeAddr 0 0x3000) 8 = [0xCD, 0xAB, 0, 0, 0, 0, 0, 0] := by
  decide +kernel

/-- Stream 0 waiting for host data, for a page, or blocked; stream 2 a peer ring of 3 slots without credits. -/
def hostStrm : Dev :=
  let d := modStrm (setStrmState (strmDev 0 3 0x2000 0x3000) 0 0 2) 0 0 (fun t => { t with asked := [0x2000] })
  let d := fset (fset d (regCoreStrmCfg 0 2) fldCoreStrmCfgDir 2) (regCoreStrmCfg 0 2) fldCoreStrmCfgMode 2
  modStrm (fset d (regCoreStrmCfg 0 2) fldCoreStrmCfgSlots 3) 0 2 (fun t => { t with credits := some 0 })

def pageStrm : Dev := pageFault hostStrm 0 0 0 false

def stallStrm : Dev :=
  fset (modStrm (setStrmState (strmDev 0 0 0x2000 0x3000) 0 0 4) 0 0 (fun t => { t with slot := false })) (regCoreStall 0) fldCoreStallStallLimit 1

theorem witness_StreamEvents : Runs (live hostStrm) ∧ coreOn liveDev 0 = true ∧ coreFenced liveDev 0 = false ∧ strmState liveDev 0 0 = 0 ∧
    (let v := 1 + 1 * 2 ^ fldCoreStrmCfgMode.lo + 12 * 2 ^ fldCoreStrmCfgSizeLog2.lo + 1 * 2 ^ fldCoreStrmCfgAhead.lo
       + 0x80000 * 2 ^ fldCoreStrmCfgBase.lo
     bitOf v 0 = true ∧ strmCfgOk v ((coreCtx liveDev 0).1 == 0) = true) ∧
    strmRuns hostStrm 0 0 = true ∧
    (let e := parseDesc (devRead hostStrm (storeAddr 0 (descOff hostStrm 0 0)) 128)
     strmGuard hostStrm 0 0 e = none ∧ descValid hostStrm 0 0 e = true ∧ e.pstate < 4 ∧ e.sspace = 3 ∧ e.kind = 0 ∧
     startElem hostStrm 0 0 e = 0 ∧ 0 < descTotal e ∧ startElem (setStrmState hostStrm 0 0 2) 0 0 e = 0) ∧
    (strmSt hostStrm 0 0).failing = 0 ∧ strmState (setStrmState hostStrm 0 0 2) 0 0 = 2 ∧
    (strmSt hostStrm 0 0).asked ≠ [] ∧ hostStrm.env.pcieLoop = false ∧
    (strmSt pageStrm 0 0).pageReq.isSome ∧ strmState (nextPageReq (modStrm pageStrm 0 0 (fun t => { t with pageReq := none }))) 0 0 = 5 ∧
    cfgOf hostStrm 0 2 fldCoreStrmCfgDir = 2 ∧ isRing hostStrm 0 2 = true ∧
    peerCredits hostStrm 0 2 + (strmUsed hostStrm 0 2 + 0) < ringSlots hostStrm 0 2 ∧ (strmSt hostStrm 0 2).fill = 0 ∧
    tget (fget stallStrm (regCoreStall 0) fldCoreStallStallLimit) (coreSt stallStrm 0).watch (ctxKey 0 0) ≠ 0 ∧ coreState stallStrm 0 = 0 ∧
    coreFenced stallStrm 0 = false ∧ (ctxSt stallStrm 0 0).away.contains 0 = false ∧ stallStrm.tier.waits = [] ∧ openTeardown stallStrm 0 0 = none ∧ strmEnding pageStrm (strmSt pageStrm 0 0) = false ∧ savedAsk pageStrm 0 0 = none ∧ (coreCtx liveDev 0).1 ≠ 0 ∧
    ((strmsOf stallStrm 0 0 0).filter (fun s => strmState stallStrm 0 s == 3 || strmState stallStrm 0 s == 4)).isEmpty = false ∧
    (strmsOf stallStrm 0 0 0).any (fun s => strmState stallStrm 0 s == 5) = false := by decide +kernel

theorem witness_CoreScrub : Runs (live liveDev) ∧ coreOn liveDev 95 = true ∧ liveDev.poison.contains (storeAddr 95 (32 * 131071)) = false := by
  decide +kernel

/-! ### The signal datapath -/

/-- An instruction word with an opcode, DST, SRCA, MA1 and IMM (R129). -/
def sigBits (op dst srcA ma1 imm : Nat) : Nat := op * 2 ^ 56 + dst * 2 ^ 52 + srcA * 2 ^ 48 + ma1 * 2 ^ 33 + imm

/-- Core 0 running a slot task whose word at PC 0 is `w`. -/
def sigDev (w : Nat) : Dev :=
  let d := fset liveDev (regSigStatus 0) fldSigStatusState 1
  modSig d 0 (fun s => { s with
    code := [(0, w)], x := [(0, ⟨100, -7, false⟩), (16, ⟨3, 4, false⟩)], acc := [(0, ⟨-40, -41, false⟩), (1, ⟨24, -8, false⟩),
      (2, ⟨-524296, 0, false⟩), (3, ⟨524280, 0, false⟩)] })

/-- Whether core 0 runs a legal word of an opcode. -/
def sigHas (w op : Nat) : Bool :=
  let d := sigDev w
  sigRuns d 0 && (sigWord d 0).op == op && sigLegal d 0 (sigWord d 0)

theorem witness_SignalInstructions : Runs (live (sigDev 0)) ∧
    sigHas 0 0 = true ∧ sigHas (sigBits 1 8 0 0 0) 1 = true ∧ sigHas (sigBits 2 11 7 0 0) 2 = true ∧
    sigHas (sigBits 3 7 1 0 0) 3 = true ∧ sigHas (sigBits 4 0 7 0 0) 4 = true ∧ sigHas (sigBits 5 2 0 0 0) 5 = true ∧
    sigHas (sigBits 6 2 8 0 4) 6 = true ∧ sigHas (sigBits 7 0 8 0 0) 7 = true ∧ sigHas (sigBits 8 0 5 0 0) 8 = true ∧
    sigHas (sigBits 9 0 0 7 3) 9 = true ∧ sigHas (sigBits 10 5 0 7 0) 10 = true ∧ sigHas (sigBits 11 0 0 0 14) 11 = true ∧
    sigHas (sigBits 12 0 9 3 0) 12 = true ∧ sigHas (sigBits 13 10 0 3 0) 13 = true ∧ sigHas (sigBits 0x14 0 0 7 0) 0x14 = true ∧
    sigHas (sigBits 0x15 0 0 7 0) 0x15 = true ∧ sigHas (sigBits 0x16 0 0 7 0) 0x16 = true ∧ sigHas (sigBits 0x17 0 0 7 0) 0x17 = true := by
  decide +kernel

/-- The worked example of R131. -/
theorem test_srnd_example :
    (let d := sigRnd (sigDev 0) 0 (sWord (sigBits 6 2 8 0 4))
     [laneOf d 0 2 0, laneOf d 0 2 1, laneOf d 0 2 2, laneOf d 0 2 3].map (fun l => (l.i, l.q)) =
       [(-2, -3), (2, 0), (-32768, 0), (32767, 0)] ∧ fget d (regSigSatCount 0) fldSigSatCountOutSat = 1) := by decide +kernel

/-- The phasor of a quarter turn (R132). -/
theorem test_phasor : sine1024 256 = 32767 ∧ sine1024 512 = 0 ∧ sine1024 768 = -32767 ∧ sine1024 128 = 23170 := by decide +kernel

/-- A running task with an interrupt pending. -/
def irqDev : Dev := fset (fset (sigDev 0) (regSigCtrl 0) fldSigCtrlIrqEn 1) (regSigStatus 0) fldSigStatusIrqPending 1

theorem witness_SignalFlow : sigHas (sigBits 0x10 0 0 0 5) 0x10 = true ∧ sigHas (sigBits 0x10 0 0 0 (5 + 3 * 2048)) 0x10 = true ∧
    sigHas (sigBits 0x11 0 0 0 2047) 0x11 = true ∧ sigHas (sigBits 0x12 0 0 0 0) 0x12 = true ∧ sigHas (sigBits 0x13 0 0 0 0) 0x13 = true ∧
    (sigLegal (sigDev (sigBits 0x11 0 0 0 2048)) 0 (sigWord (sigDev (sigBits 0x11 0 0 0 2048)) 0) = false) ∧ sigRuns liveDev 0 = false ∧
    coreOn liveDev 0 = true ∧ slotHeld (fset liveDev (regCorePart 0) fldCorePartSlotReserved 1) 0 = true ∧ slotHeld liveDev 0 = false ∧
    coreFenced liveDev 0 = false ∧ coreFenced (setReg liveDev regMgtFhFencedLo 1) 0 = true ∧ sigDepth (sigDev (sigBits 0x11 0 0 0 2047)) 0 = 0 ∧
    sigRuns irqDev 0 = true ∧ fget irqDev (regSigCtrl 0) fldSigCtrlIrqEn = 1 ∧ fget irqDev (regSigStatus 0) fldSigStatusInHandler = 0 ∧
    fget irqDev (regSigStatus 0) fldSigStatusIrqPending = 1 := by decide +kernel

/-- A task that normalises accumulator 0 and rounds it. -/
def normDev : Dev := modSig (sigDev 0) 0 (fun s => { s with code := [(0, sigBits 7 0 8 0 0), (1, sigBits 6 2 8 0 32)] })

theorem witness_SnormFits : Runs (live normDev) ∧ sigRuns normDev 0 = true ∧ sigLegal normDev 0 (sigWord normDev 0) = true ∧
    (sigWord normDev 0).op = 0x07 ∧
    (let d := sigThen normDev 0 (sigWord normDev 0) (sigNorm normDev 0 (sigWord normDev 0))
     (sigSt d 0).sh = 5 ∧ (sigWord d 0).op = 0x06 ∧ bitOf (sigWord d 0).imm 5 = true ∧ sigLegal d 0 (sigWord d 0) = true) := by
  decide +kernel

theorem witness_SexpExponents : sigHas (sigBits 8 0 0 0 0) 8 = true ∧ (sigSt (sigDev 0) 0).mw = 9 ∧
    (let d := sigDev (sigBits 8 0 0 0 0)
     (sigSt (sigExp d 0 (sigWord d 0)) 0).be = [0, 0, 0, 0] ∧
     (sigSt (sigExp (modSig d 0 (fun s => { s with x := [(47, ⟨1022, 0, false⟩)] })) 0 (sigWord d 0)) 0).be = [0, 0, 0, 3]) := by decide +kernel

theorem witness_SignalFrame : Instr.snop 0 false ∈ signalOps 0 false ∧ Instr.slda 0 true ∈ signalOps 0 true ∧
    sigHas (3 * 2 ^ 40) 0 = true ∧ (sWord (3 * 2 ^ 40)).mop = 3 ∧
    twinSegs 0 (arAddr (sigDev (3 * 2 ^ 40)) 0 0) 64 = [(storeAddr 0 0, 64)] := by decide +kernel

/-! ### Registers -/

theorem witness_RegisterWrites :
    (match regAt (regPierScrub 0) with
     | some r => plainReg r && !fusedOff liveDev (regPierScrub 0) && !(r.flds.any (fun x => x.cls == .q))
         && regInRange liveDev r.base (regPierScrub 0) 0xFF00 (mergeWrite liveDev r (regPierScrub 0) 0xFF00 0x500).1
         && !regInRange liveDev r.base (regPierScrub 0) 0xFF00 (mergeWrite liveDev r (regPierScrub 0) 0xFF00 0).1
         && r.flds.any (fun x => x.acc == .rw && touches 0xFF00 x)
     | none => false) = true ∧
    (match regAt (regSigEntry 0) with
     | some r => plainReg r && r.flds.any (fun x => x.cls == .q && !partStopped (sigDev 0) (partOf (regSigEntry 0)) && touches 7 x)
         && regInRange (sigDev 0) r.base (regSigEntry 0) 7 (mergeWrite (sigDev 0) r (regSigEntry 0) 7 5).1
     | none => false) = true := by decide +kernel

/-! ### The slot planner, the fronthaul and the accelerators -/

/-- One admitted carrier of kind 0 with 10 PRBs on port 0, running and enabled at the start of a frame, its pair cores 0 and 1, a FAPI
channel 0, and the port up at 100 Gb/s. -/
def radioDev : Dev :=
  let d := modSp { liveDev with tbs := [{ sec := 315964819 }, {}, {}, {}] } (fun s => { s with
    cars := [{ carrier := 0, prb := 10 }], pairs := [(0, 0, 1)], rate := [(0, 100)], upAt := [(0, 0)]
    chans := [(0, { cars := 1, req := 0x1000, ind := 0x2000, arena := 0x3000, arenaLen := 0x1000, free := 0x4000, reqLog := 4, indLog := 4
                    payLog := 10, vector := 0, tail := 1 })] })
  let d := fset (fset d (regRadioCarCfg 0) fldRadioCarCfgPrb 10) (regRadioCarCfg 0) fldRadioCarCfgSoftSlots 8
  let d := fset (fset d (regRadioCarStatus 0) fldRadioCarStatusState 1) (regRadioCarCtrl 0) fldRadioCarCtrlEnable 1
  let d := fset (fset d (regFhuGrpCfg 0) fldFhuGrpCfgLayout 0) (regFhuGrpState 0) (fldPort 0) 3
  let d := fset (fset (fset d (regFhuCarNet 0) fldFhuCarNetVlan 1) (regFhuCarNet 0) fldFhuCarNetEaxcBase 256) (regFhuCarNet 0) fldFhuCarNetEaxcPrach 512
  let d := fset (fset (fset d (regFhuCarMac 0) fldFhuCarMacRuMac 5) (regFhuCarBfp 0) fldFhuCarBfpUlMw 9) (regFhuCarBfp 0) fldFhuCarBfpDlMw 9
  commitReg (setReg d (regFhuCarWin 0) (100 + 50 * 2 ^ 12 + 100 * 2 ^ 24 + 200 * 2 ^ 36)) (regFhuCarWin 0)

/-- The frame at which that device stands. -/
def radioFrame : Nat := frameOf radioDev (slotNow radioDev)

/-- A reserved idle core 2 and a context that waits for a core. -/
def lendDev : Dev :=
  let d := setReserve (fset radioDev (regTimeSpLend) fldTimeSpLendLendEn 1) 2 true
  let d := { (commitReg d regTimeSpLend) with ctxs := [(ctxKey 3 1, { live := true, queue := [{ op := 0x100, tensor := 0, attr := 0, a := [], step := 0, cmd := none }] })] }
  commitReg (setReg (modSp d (fun s => { s with borrowers := [3] })) (regCoreSaveBase 2) (storeAddr 2 0x300000)) (regCoreSaveBase 2)
/-- A task of the carrier that waits on core 0. -/
def taskDev : Dev := modSp radioDev (fun s => { s with queue := [(0, [{ carrier := 0, index := 1 }])] })

theorem witness_PlannerEvents : Runs (live radioDev) ∧ (tickCars radioDev 0).isEmpty = false ∧ chanOf radioDev 0 = some 0 ∧
    carEnabled radioDev 0 = true ∧ carOf radioDev 0 = some { carrier := 0, prb := 10 } ∧ carState radioDev 0 ≠ 0 ∧ pairCore radioDev 0 1 = 1 ∧
    inputsGone radioDev { carrier := 0, index := 0, uplink := true } 1 = false ∧ taskDue radioDev { carrier := 0, index := 0, uplink := true } = true ∧
    taskDue radioDev { carrier := 0, index := 0, release := slotNow radioDev + 1 } = false ∧ (tget? (reclaim (modSp radioDev (fun s => { s with running := [(1, { carrier := 0, index := 0 })] })) 1 0 0).sp.running 1).isSome ∧
    firstTask (tget [] taskDev.sp.queue 0) = some { carrier := 0, index := 1 } ∧ tget? taskDev.sp.running 0 = none ∧
    sigRuns taskDev 0 = false ∧ (coreSt radioDev 1).borrowed = none ∧ coreState radioDev 1 = 0 ∧ coreFenced taskDev 0 = false ∧ (coreSt taskDev 0).borrowed = none := by decide +kernel

theorem witness_PlannerEvents_lend : fact lendDev regTimeSpLend fldTimeSpLendLendEn = 1 ∧ inReserve lendDev 2 = true ∧ coreOn lendDev 2 = true ∧
    coreFenced lendDev 2 = false ∧ coreState lendDev 2 = 0 ∧ (coreSt lendDev 2).borrowed = none ∧ coreTasks lendDev 2 = [] ∧
    sigRuns lendDev 2 = false ∧ fact lendDev regTimeSpLend fldTimeSpLendMinGap * 1000 ≤ 100000 ∧ nextRelease lendDev 2 = none ∧ firstBorrower lendDev = some (3, 1) ∧
    storeAddr 2 (fget lendDev (regCorePart 2) fldCorePartLendBase * 262144) ≤ getAct lendDev (regCoreSaveBase 2) ∧
    getAct lendDev (regCoreSaveBase 2) + 16384 ≤ storeAddr 2 0x400000 := by decide +kernel

/-- A message of one PRB of symbol 0 for that carrier. -/
def upMsg : UplaneMsg := { mac := 5, vlan := 1, eaxc := 256, seq := 0, sfn := 0, slot := 0, sym := 0, start := 0, num := 1, width := 9
                           data := List.replicate 28 1 }

/-- The device with that slot requested in both directions. -/
def slotDev : Dev := modSlot radioDev 0 radioFrame 0 (fun w => { w with dl := true, ul := true, sects := [(4, {}), (0, {})] })

/-- The device some time before (or after) the start of the frame. -/
def atTime (d : Dev) (sec sub : Nat) : Dev := { d with tbs := [{ sec := sec, sub := sub }, {}, {}, {}] }

theorem witness_FronthaulMoves_receive : portExists radioDev 0 = true ∧ ethLooped radioDev 0 = false ∧ ethState radioDev 0 = 3 ∧
    inSubset upMsg = true ∧ matchCar radioDev 0 upMsg = some (0, 0) ∧ placeable radioDev 0 0 (fullPrbs radioDev 0 upMsg) = true ∧ portCarries radioDev 0 = true ∧
    (let d1 := seqCheck radioDev 0 0 upMsg.seq
     frameNear d1 0 = radioFrame ∧ symTime d1 0 radioFrame 0 0 ≤ slotNow d1 ∧ slotNow d1 ≤ symTime d1 0 radioFrame 0 1 ∧
     (slotW d1 0 radioFrame 0).got = []) ∧ pairCore radioDev 0 0 = 0 ∧ pairCore radioDev 0 1 = 1 ∧
    recsLen (ringsOf radioDev 0).land = 0 ∧ recsLen (ringsOf radioDev 1).mirror = 0 ∧ (landBytes 0 0 upMsg 0 1).length = 64 := by
  decide +kernel

theorem witness_FronthaulMoves_room : 64 ≤ (landRing 0).2 ∧ 64 ≤ (mirrorRing radioDev 1).2 := by
  constructor
  · exact Nat.mul_le_mul_left 64 (Nat.le_add_left 1 _)
  · have h : fget radioDev (regCorePart 1) fldCorePartLendBase * 4096 - 0x2000 ≠ 0 := by decide +kernel
    simp only [mirrorRing, if_neg h]
    exact Nat.mul_le_mul_left 64 (Nat.le_add_left 1 _)

theorem witness_FronthaulMoves_windows : carState slotDev 0 ≠ 0 ∧ (slotW slotDev 0 radioFrame 0).ul = true ∧
    (slotW slotDev 0 radioFrame 0).short = false ∧
    (let d := atTime slotDev 315964819 (2 * 8000000)
     frameNear d 0 = radioFrame ∧ symTime d 0 radioFrame 0 14 + fact d (regFhuCarWin 0) fldFhuCarWinRxMax * 800 ≤ slotNow d ∧
     symTime d 0 radioFrame 0 13 < slotNow d ∧ portCarries d 0 = true) ∧
    (let d := atTime slotDev 315964818 (8000000000 - 100000)
     let now := slotNow d
     frameNear d 0 = radioFrame ∧ portCarries d 0 = true ∧
     slotStart d 0 radioFrame 0 ≤ now + fact d (regFhuCarWin 0) fldFhuCarWinCpAdv * 800 ∧
     now + fact d (regFhuCarWin 0) fldFhuCarWinCpAdv * 800 ≤ slotStart d 0 radioFrame 0 + 80000) ∧
    (let d := atTime slotDev 315964818 (8000000000 - 60000)
     let now := slotNow d
     frameNear d 0 = radioFrame ∧ portCarries d 0 = true ∧
     symTime d 0 radioFrame 0 0 ≤ now + fact d (regFhuCarWin 0) fldFhuCarWinTxMax * 800 ∧
     now + fact d (regFhuCarWin 0) fldFhuCarWinTxMin * 800 ≤ symTime d 0 radioFrame 0 0 ∧ usesSym (slotW d 0 radioFrame 0) 0 = true ∧
     missingPrbs d 0 0 (slotW d 0 radioFrame 0) = true) ∧
    bitOf 1 0 = true := by decide +kernel

/-- The device shortly before the frame, its carrier of one PRB, which fits every transmit ring. -/
def txDev : Dev := modSp (fset (atTime slotDev 315964818 (8000000000 - 60000)) (regRadioCarCfg 0) fldRadioCarCfgPrb 1) (fun s =>
  { s with rings := [(0, { tx := [{ carrier := 0, frame := radioFrame, slot := 0, sym := 0, stream := 0, first := 0, num := 1, off := 0, len := 28 }] })] })

theorem witness_FronthaulMoves_send : usesSym (slotW txDev 0 radioFrame 0) 0 = true ∧ frameNear txDev 0 = radioFrame ∧ pairCore txDev 0 0 = 0 ∧
    (madeSym txDev 0 0 radioFrame 0 0 0).isSome = true ∧ carOf txDev 0 = some { carrier := 0, prb := 10 } ∧
    missRoute txDev { carrier := 0, prb := 10 } { carrier := 0, frame := 0, slot := 0, lost := true } 0 = true ∧
    (let d := modSlot txDev 0 radioFrame 0 (fun w => { w with sent := 0 :: w.sent })
     portCarries d 0 = true ∧ d.poison = []) ∧ fget txDev (regRadioCarCfg 0) fldRadioCarCfgPrb = 1 ∧ fget txDev (regFhuCarBfp 0) fldFhuCarBfpDlMw = 9 := by
  decide +kernel

theorem witness_FronthaulMoves_ring : 1 * 28 ≤ (txRing 0).2 ∧ ∀ d : Dev, d.poison = [] → ∀ i < 1, (txPrb d 0 0 28 i).2 = false := by
  constructor
  · exact Nat.le_trans (by decide : 1 * 28 ≤ 64 * 1) (Nat.mul_le_mul_left 64 (Nat.le_add_left 1 _))
  · intro d h i hi
    obtain rfl : i = 0 := by omega
    have hr : (txRing 0).1 < 0x400000 := by simp only [txRing]; omega
    have h0 : (0 + 0 * 28) % (txRing 0).2 = 0 := Nat.zero_mod _
    simp only [txPrb, ringRead, h0, Nat.add_zero, store_clean d h 0 _ _ (by decide) hr (by omega : min 28 ((txRing 0).2 - 0) ≤ 0x400000),
      store_clean d h 0 _ _ (by decide) hr (by omega : 28 - min 28 ((txRing 0).2 - 0) ≤ 0x400000), Bool.or_false]

/-- A slot with a PUSCH of two code blocks, the soft bits of the first passed on to core 5, and a PRACH occasion. -/
def workDev : Dev := modSlot (fset (fset radioDev (regCorePart 5) fldCorePartOwner 0) (regCorePart 5) fldCorePartSlotReserved 1) 0 radioFrame 0 (fun w => { w with
  pdus := [{ kind := 0, idx := 0, rnti := 7, blocks := 2, seen := true, soft := [(0, { addr := storeAddr 5 0, len := 64 })] }, { kind := 2, idx := 1 }] })

/-- The code block that waits. -/
def workJob : DecJob := { deadline := slotStart workDev 0 radioFrame 0 + fact workDev (regFhuCarLead 0) fldFhuCarLeadIndSlots * 8000000
                          carrier := 0, frame := radioFrame, slot := 0, pdu := 0, block := 0 }

/-- An occasion with a short format of one root. -/
def prachJob : PrachJob := { unit := 43, carrier := 0, sfn := 0, slot := 0, pdu := 1, long := false, scs := 1500, roots := [[]]
                             pres := [{ root := 0, first := 0, count := 256 }], core := 5, src := 0 }

/-- A job of a unit. -/
def accJob (u : Nat) : AccelJob := { unit := u, core := 5, src := 0, len := 64, dst := 64, outLen := 64 }

theorem witness_RadioWork : Runs (live workDev) ∧ frameNear workDev 0 = radioFrame ∧ firstJob (decJobs workDev) = some workJob ∧
    (pduAt (slotW workDev 0 radioFrame 0) 0 0).isSome ∧ accelOk workDev 15 0 = true ∧
    tooLate workDev 0 radioFrame 0 0 = false ∧ isPoisoned workDev (storeAddr 5 0) 64 = false ∧
    pduAt (slotW workDev 0 radioFrame 0) 2 1 = some { kind := 2, idx := 1 } ∧ accelOk workDev 43 4 = true ∧ coreFenced workDev 5 = false ∧ slotHeld workDev 5 = true ∧
    prachLen prachJob = 556 ∧ prachOk (carMu workDev 0) false 1500 = true ∧
    tooLate workDev 0 radioFrame 0 4 = false ∧ isPoisoned workDev (storeAddr 5 0) 556 = false ∧ coreOn workDev 5 = true ∧
    accelOk workDev 23 1 = true ∧ accelOk workDev 27 2 = true ∧ accelOk workDev 28 3 = true ∧ transformOk 12 = true ∧ (accJob 28).use = none ∧ (polarOut [0, 12, 54, 0, 0] (List.replicate 64 0)).isSome = true ∧
    bitOf (getReg workDev regRadioAccelFence) 43 = false ∧ carLooped workDev 511 = false ∧ eaxcClash liveDev 511 = false ∧
    admitted liveDev = false := by decide +kernel

/-- The device with one request of a type for the slot after next in channel 0's ring; stopped when `stop`. -/
def fapiDev (msg : Nat) (stop : Bool) : Dev :=
  let d := hostWrite (hostWrite radioDev 0x1000 (natLe 4 1)) 0x1080 (natLe 2 msg ++ natLe 2 0 ++ natLe 2 0 ++ natLe 1 9)
  if stop then fset (fset d (regRadioCarStatus 0) fldRadioCarStatusState 0) (regRadioCarCtrl 0) fldRadioCarCtrlEnable 0 else d

/-- That request as an entry. -/
def fapiEnt (msg : Nat) : ReqEnt := { msg := msg, carrier := 0, sfn := 0, slot := 9, addr := 0, len := 0, faults := false }

theorem witness_FapiRequests : Runs (live (fapiDev msgUlTti false)) ∧
    (∀ m ∈ knownMsgs, nextEnt (fapiDev m false) 0 = some (fapiEnt m) ∧ nextEnt (fapiDev m true) 0 = some (fapiEnt m)) ∧
    nextEnt (fapiDev 0x55 false) 0 = some (fapiEnt 0x55) ∧ knownMsgs.contains 0x55 = false ∧
    (let e := fapiEnt 0
     let r := fapiDev 0 false
     let d := fapiDev 0 true
     inChan r 0 e = true ∧ inChan d 0 e = true ∧ carState d 0 = 0 ∧ (carOf d 0).isSome ∧ carEnabled d 0 = false ∧ eaxcClash d 0 = false ∧
     carState r 0 = 1 ∧ fget r (regRadioCarCtrl 0) fldRadioCarCtrlEnable = 1 ∧ carEnabled r 0 = true ∧ carMu r 0 = 0 ∧
     frameNear r 0 = radioFrame ∧ slotNow r + fact r (regFhuCarLead 0) fldFhuCarLeadDlLead * 80000 ≤ slotStart r 0 radioFrame 9 ∧
     slotNow r + fact r (regFhuCarLead 0) fldFhuCarLeadUlLead * 80000 ≤ slotStart r 0 radioFrame 9 ∧
     (takePdus r 0 0 radioFrame 9 [({ kind := 0 }, 0)]).2.length = 1 ∧ 1 ≤ softBlocks (takePdus r 0 0 radioFrame 9 [({ kind := 0 }, 0)]).1 0) := by decide +kernel

/-! ### Time -/

/-- Domain 0 enabled on PTP domain 24 over port 3, its parent chosen. -/
def ptpDev (x : Dom) : Dev :=
  let d := fset (fset (fset liveDev (regFhuGrpState 0) (fldPort 3) 3) (regTimeDomCfg 0) fldTimeDomCfgSource 1) (regTimeDomCfg 0) fldTimeDomCfgPtpDomain 24
  let d := setReg d (regTimeDomPorts 0) 8
  let d := fset d regTimeSel fldTimeSelDomEn 1
  modDom { d with time := { d.time with doms := [{}, {}] } } 0 (fun _ => { x with parent := some (3, 77, 1) })

/-- A message of that parent. -/
def ptpOf (two : Bool) : PtpMsg := { domain := 24, ident := 77, num := 1, seq := 9, twoStep := two, time := 1000, corr := 2 }

theorem witness_PtpMessages : Runs (live (ptpDev {})) ∧ ptpDoms (ptpDev {}) 3 24 = [0] ∧ fromParent (ptpDev {}) 0 3 (ptpOf false) = true ∧
    (domSt (ptpDev { sync := some { seq := 9, t2 := 5, t1 := none, c1 := 0 } }) 0).sync = some { seq := 9, t2 := 5, t1 := none, c1 := 0 } ∧
    (let d := ptpDev { sync := some { seq := 4, t2 := 5, t1 := some 1, c1 := 0 }, dreq := some (9, 7) }
     (domSt d 0).sync = some { seq := 4, t2 := 5, t1 := some 1, c1 := 0 } ∧ (domSt d 0).dreq = some ((ptpOf false).seq, 7) ∧
     domEnabled d 0 = true ∧ domSource d 0 = 1 ∧ (domSt d 0).parent = some (3, 77, 1)) := by decide +kernel

theorem witness_TimeServo : Runs (live (ptpDev {})) ∧
    domEnabled (synceOff (commitRegs (ptpDev {}) [regTimeSel, regTimeAdj, regTimeDomGain 0, regTimeDomLimit 0])) 0 = true ∧
    domState (setDomState (ptpDev {}) 0 3) 0 = 3 ∧ domState (setDomState (ptpDev {}) 0 2) 0 = 2 ∧ synceLocked (ptpDev {}) = false ∧
    (let d := commitReg (fset (fset (ptpDev {}) regTimeSel fldTimeSelSynceEn 1) regTimeSel fldTimeSelSyncePort 3) regTimeSel
     fact d regTimeSel fldTimeSelSynceEn = 1 ∧ synceFit d 0 = true ∧ synceLocked d = false) ∧
    (let d := setDomState (commitReg (fset (ptpDev {}) (regTimeDomLimit 0) fldTimeDomLimitLossLimit 0) (regTimeDomLimit 0)) 0 3
     domState d 0 = 3 ∧ (domSt d 0).seen + fact d (regTimeDomLimit 0) fldTimeDomLimitLossLimit * (subPerSec / 8) ≤ tb2 d) ∧
    synceLocked (fset (ptpDev {}) regTimeStatus fldTimeStatusSynceState 1) = true ∧
    bitsAt (0 : Word).toNat 48 2 ≠ 2 ∧ bitsAt (7999999999 : Word).toNat 0 33 < subPerSec ∧ carrierRuns liveDev = false := by decide +kernel

/-- Pulse output 0 and capture input 0 in a state. -/
def tpoDev (p : Tpo) (t : Tci) : Dev :=
  let d := modTpo liveDev 0 (fun _ => p)
  let d := fset (fset (modTci d 0 (fun _ => t)) (regTimeTciCtrl 0) fldTimeTciCtrlEnable 1) (regTimeTciCtrl 0) fldTimeTciCtrlEdge 2
  setReg (commitReg d (regTimeTciCtrl 0)) (regTimeTpoShape 0) (1 + 0x10000 * 2 ^ fldTimeTpoShapePeriod.lo)

theorem witness_TimePins : Runs (live (tpoDev {} {})) ∧ (tpoSt (tpoDev {} {}) 0).until_ = none ∧ firstEdge { start := 5 } 0 = some 5 ∧
    firstEdge { start := 5, period := 10 } 21 = some 25 ∧ (tpoSt (tpoDev { next := some 0 } {}) 0).next = some 0 ∧
    (tpoSt (tpoDev { until_ := some 0 } {}) 0).until_ = some 0 ∧ pairLooped (tpoDev {} {}) 0 = false ∧ pulseDoms (tpoDev {} {}) 0 = [] ∧
    fact (tpoDev {} {}) (regTimeTciCtrl 0) fldTimeTciCtrlEdge = 2 ∧
    fact (setAct (tpoDev {} {}) (regTimeTciCtrl 0) (setBits (getReg (tpoDev {} {}) (regTimeTciCtrl 0)) fldTimeTciCtrlEdge.lo fldTimeTciCtrlEdge.w 2))
      (regTimeTciCtrl 0) fldTimeTciCtrlEnable = 1 ∧ (tciSt (tpoDev {} {}) 0).queue = [] ∧
    (tciSt (tpoDev {} { queue := [(1, 2, false)] }) 0).queue = [(1, 2, false)] := by decide +kernel

theorem witness_MonotonicTb2 : TimeOp (.servoUpdate 0) ∧ Runs (live liveDev) ∧ liveDev.tbs.length = 4 ∧ (lget {} liveDev.tbs 2).sub < subPerSec :=
  ⟨.servoUpdate 0, by decide +kernel⟩

/-! ### The piers -/

/-- The worked example of R230. -/
theorem test_pier_map : pierMap 0x2345678A40 = (1, 6699, 15, 214375, 17) ∧ rowAddr 1 15 214375 17 = 0x2345678A40 := by decide +kernel

/-- A device with a page of instance 3, one of shared ashlars and some bytes. -/
def pierDev : Dev :=
  let d := putMem liveDev 0x40 [1, 2, 3, 4]
  { d with pier := { d.pier with pages := [(pageKey 0, { owner := 3 }), (pageKey 0x200000, { owner := 3 })] } }

theorem witness_PierCorrectsOneSymbol : Runs (live pierDev) ∧ memWf pierDev.mem = true ∧ unitPoisoned pierDev (64 * 1) = false ∧
    rowLost pierDev (64 * 1) = false ∧ accessErr pierDev (.ctx 3 0) false (64 * 1) 64 = none := by decide +kernel

/-- An error of byte 1 is corrected; errors of two symbols are not in mode 0. -/
theorem test_pier_ecc : (pierRead pierDev (.ctx 3 0) 0x40 [(66, 0xFF)]).outs = [.halfLine 0x40 ([1, 2, 3, 4] ++ List.replicate 60 0) false] ∧
    (readHalf pierDev 0x40 [(66, 0xFF), (3, 1)]).2.2 = true := by decide +kernel

theorem witness_PierAccess : Runs (live pierDev) ∧ unitPoisoned pierDev 0 = false ∧ rowLost pierDev 0 = false ∧
    accessErr pierDev (.ctx 3 0) true 0 64 = none ∧ accessErr pierDev (.ctx 3 0) false 0 64 = none ∧ accessErr pierDev (.ctx 4 0) true 0 64 = some 0x4308 ∧
    (let d := fset pierDev (regPierScrubState 0) fldPierScrubStateProgress 1
     fget d (regPierScrub 0) fldPierScrubScrubEn = 1 ∧ tget 0 d.pier.passFrom 0 ≤ tb2 d ∧
     fget d (regPierChState 0 (pierMap 0).2.2.1) fldPierChStateState < 3 ∧ (startPass d 0).pier.passOn.contains 0 = true ∧
     setBits 0 0 1 1 ≠ 2 ^ 32 - 1 ∧ bitOf 0xFFFFFFFE 0 = false ∧ setBits 0xFFFFFFFE 0 1 1 = 2 ^ 32 - 1 ∧ 2 < rowsInService d 0) ∧ tget 0 pierDev.pier.postpone 0 < 8 ∧
    8 ≤ tget 0 { pierDev.pier with postpone := [(0, 8)] }.postpone 0 := by decide +kernel

theorem witness_PierCare : Runs (live pierDev) ∧
    (let d := { pierDev with tbs := [{}, {}, { sec := 2000000 }, {}] }
     tget 0 d.pier.passFrom 7 + fact d (regPierScrub 7) fldPierScrubScrubHours * 3600 * subPerSec * 3 / 2 < tb2 d ∧
     d.pier.overrun.contains 7 = false ∧ fget d (regPierScrub 7) fldPierScrubScrubEn = 1) ∧
    (let d := { pierDev with pier := { pierDev.pier with due := [(7 * 32 + 31) * 2 ^ 20 + 5] } }
     fget d (regPierSpareCfg 7) fldPierSpareCfgAutoRow ≠ 0 ∧ d.pier.due.contains ((7 * 32 + 31) * 2 ^ 20 + 5) = true ∧
     fget d (regPierChState 7 31) fldPierChStateRowsSpared < 16384) ∧
    fget pierDev (regPierStatus 7) fldPierStatusState = 0 ∧ fget (spareChannel pierDev 7 31) (regPierStatus 7) fldPierStatusState = 1 ∧
    fget pierDev (regPierChState 7 31) fldPierChStateState = 0 ∧ fget (retrainCh pierDev 7 31) (regPierChState 7 31) fldPierChStateState = 1 ∧
    (tget {} (retrainCh pierDev 7 31).pier.retrain (7 * 32 + 31)).slices + 1 < 64 := by decide +kernel

/-- An engine command of instance 3 on its two pages, which lie in piers 0 and 1. -/
def engCmd (op src dst aux : Nat) (args payload : List Byte) (cls : Nat) : EngCmd :=
  { opcode := op, cls := cls, inst := if cls = 0 then 0 else 3, ctx := 0, payload := payload, tag := 9, src := src, dst := dst, aux := aux, args := padTo 24 args }

/-- The soft buffers of slot work: two pages of instance 0. -/
def softDev : Dev := { pierDev with pier := { pierDev.pier with pages := [(pageKey 0, { owner := 0, slot := true })] } }

theorem witness_PlinthEngines : Runs (live pierDev) ∧
    (let x := engCmd 1 0 0x200000 0 (natLe 4 128 ++ natLe 4 128 ++ natLe 4 0x3F800000 ++ natLe 2 64 ++ natLe 1 1 ++ natLe 1 0x77 ++ natLe 2 1)
       (natLe 8 0 ++ List.replicate 128 0) 2
     attendOk 0 x = true ∧ firstErr pierDev (engWho x) ((attendPages x).map (fun a => (false, a, 65536))) = none ∧
     accessErr pierDev (engWho x) true x.dst 1024 = none) ∧
    (let x := engCmd 2 0 0x200000 0 (natLe 4 64 ++ natLe 4 2 ++ natLe 4 100) (natLe 4 3 ++ natLe 4 99) 2
     gatherOk 0 x = true ∧ firstErr pierDev (engWho x) [(false, 192, 64), (false, 6336, 64), (true, 0x200000, 128)] = none) ∧
    (let x := engCmd 3 0 0x200000 0x1000 (natLe 4 32 ++ natLe 1 5 ++ natLe 1 0 ++ natLe 1 0) [] 1
     dequantOk x = true ∧ firstErr pierDev (engWho x) [(false, 0, 32), (false, 0x1000, 1), (true, 0x200000, 128)] = none) ∧
    (let x := engCmd 4 0 0x200000 0 (natLe 4 64 ++ natLe 4 3) [] 1
     copyOk 0 x = true ∧ crcOk { x with opcode := 6 } = true ∧ firstErr pierDev (engWho x) [(false, 0, 64), (true, 0x200000, 64)] = none) ∧
    (let x := engCmd 8 0 0x200000 0 (natLe 4 64) [] 1
     fillOk x = true ∧ firstErr pierDev (engWho x) [(true, 0x200000, 64)] = none ∧ dirtyOk 0 (engCmd 9 0 0x200000 0 (natLe 4 1) [] 1) = true ∧
     pageAllows (tget {} pierDev.pier.pages (pageKey 0)) (engWho x) true = true) ∧
    (let x := engCmd 7 0x100 0x200 0x300 (natLe 4 5) [] 0
     harqOk x = true ∧ firstErr softDev (engWho x) [(false, 0x100, 5), (true, 0x300, 5), (true, 0x200, 5)] = none ∧
     isPoisoned (meetErrs softDev x [(0x100, 5), (0x300, 5)]) 0x100 5 = false ∧ isPoisoned (meetErrs softDev x [(0x100, 5), (0x300, 5)]) 0x300 5 = false ∧ bitOf (engArg x 4 4) 0 = false ∧
     bitOf (engArg (engCmd 7 0x100 0x200 0x300 (natLe 4 5 ++ natLe 4 1) [] 0) 4 4) 0 = true) := by decide +kernel

/-- A page may move only whole (R245). -/
theorem witness_PlinthEngines_move :
    (let d := { pierDev with pier := { pierDev.pier with pages := [(pageKey 0, { owner := 3 }), (pageKey 0x1000000, { owner := 3 })] } }
     let x := engCmd 5 0 0x1000000 0 (natLe 4 2097152) [] 2
     moveOk 0 x = true ∧ firstErr d (engWho x) [(true, 0, 2097152), (true, 0x1000000, 2097152)] = none) := by decide +kernel

/-- Soft values saturate at ±127 (R169). -/
theorem test_soft_add : softAdd 100 100 = 127 ∧ softAdd 0x80 0x80 = 0x81 ∧ softAdd 5 0xFB = 0 := by decide

theorem witness_PageRules : Runs (live pierDev) ∧ memWf pierDev.mem = true ∧ (pageOf pierDev (64 * 1)).owner = 3 ∧ mapMeets pierDev (.ctx 3 0) (64 * 1) 64 = false ∧
    (pageOf pierDev (64 * 1)).slot = false ∧ unitPoisoned pierDev (64 * 1) = false ∧ (pageOf pierDev (64 * 1)).owner ≠ 4 := by decide +kernel

theorem witness_MemoryForm : PierOp (.copy 0 (engCmd 4 0 0x200000 0 [] [] 1)) ∧ memWf pierDev.mem = true ∧ memWf pierDev.hmem = true :=
  ⟨.copy _ _, by decide +kernel⟩

/-! ### The tiers and the flash -/

/-- Ashlar 5 of set 1, private to instance 3, usable on flash from data page 30 on; the map lies at page 8 of pier 0, and instance 3 owns
the page at 0 and may hold 2 MiB of ashlars in the mortar. -/
def tierDev : Dev :=
  let d := fset pierDev regTierMapBase fldTierMapBaseBase 0x1000000
  let d := modInst d 3 (fun s => { s with part := { s.part with cap := 2 } })
  putAsh (putSet d 1 { count := 1 }) 5 { set := 1, owner := 3, integ := 1, resident := 1, flash := 30 }

/-- The device while a promotion of that ashlar for instance 3 is in flight, by PROMOTION, one codeword given up. -/
def flyDev : Dev :=
  let d := promoteRow tierDev 3 5 0
  modTier d (fun t => { t with promos := t.promos.map (fun p => { p with lostCw := [1], read := List.range 64 }) })

/-- A context of instance 3 that works, with an operator at the head of its queue. -/
def fetchDev : Dev :=
  let d := modCtx tierDev 3 1 (fun c => { c with live := true, queue := [{ op := 0x100, tensor := 0, attr := 0, a := [], step := 0, cmd := none }] })
  modCtx d 3 1 (fun c => { c with comp := { c.comp with schedule := 0x100, entries := 1 } })

theorem witness_TierRequests : Runs (live tierDev) ∧ refErr tierDev 3 5 = none ∧ refOf tierDev 3 5 0 = none ∧ (getAsh tierDev 5).integ ≠ 2 ∧
    refBytes tierDev 3 0 true + ashBytes (getAsh tierDev 5) ≤ (instSt tierDev 3).part.cap * 1048576 ∧
    refBytes tierDev 3 0 false + ashBytes (getAsh tierDev 5) ≤ (instSt tierDev 3).part.cap * 1048576 ∧
    resident (getAsh tierDev 5) 0 = false ∧ promoOf tierDev 5 0 = none ∧ (allocCopy tierDev (getAsh tierDev 5) 0).isSome = true ∧ tierDev.tier.later = [] := by
  decide +kernel

theorem witness_TierRequests_flying : Runs (live flyDev) ∧ (promoOf flyDev 5 0).isSome = true ∧ resident (getAsh flyDev 5) 0 = false ∧
    refErr flyDev 3 5 = none ∧ refOf flyDev 3 5 0 = none ∧
    (match promoOf flyDev 5 0 with | some p => decide (promoFull flyDev p = true ∧ p.again = false ∧ p.lostCw ≠ []) | none => false) = true := by decide +kernel

/-- A copy in the mortar that another instance references: instance 3's is added. -/
def heldDev : Dev := putAsh tierDev 5 { getAsh tierDev 5 with resident := 5, mortar := 0 }

theorem witness_TierRequests_context : resident (getAsh heldDev 5) 0 = true ∧ refErr heldDev 3 5 = none ∧
    (ctxSt fetchDev 3 1).live = true ∧ (ctxSt fetchDev 3 1).ending = none ∧ (ask fetchDev { inst := 3, ash := 5, tier := 0, demand := true, ctx := some 1 }).2 = .flying ∧
    (ask heldDev { inst := 3, ash := 5, tier := 0, demand := true, ctx := some 1 }).2 = .done ∧ ((onDemand fetchDev 3 1 5).tier.waits.find? (fun w => w.inst == 3 && w.ctx == 1)).isSome = true ∧
    (ctxSt (stopWaits (onDemand fetchDev 3 1 5) 3 1) 3 1).queue ≠ [] ∧ (ctxSt fetchDev 3 1).comp.entries ≠ 0 ∧
    accessErr fetchDev (.ctx 3 1) false 0x100 16 = none := by decide +kernel

/-- The bits of an entry with a checksum (R265). -/
theorem test_ash_bits : ashOfBits (ashBits { crc := 77, set := 1, owner := 3, integ := 1, resident := 1, flash := 30 }) =
    { crc := 77, set := 1, owner := 3, integ := 1, resident := 1, flash := 30 } := by decide +kernel

theorem witness_AshlarEntryBits :
    (let e : AshEnt := { crc := 2 ^ 64 - 1, flash := 2 ^ 32 - 1, pier := 2 ^ 24 - 1, mortar := 4095, set := 4095, owner := 127, shared := true
                         mrefs := 255, prefs := 255, mpins := 255, ppins := 255, promo := 3, integ := 7, resident := 7, layout := 15, size := 1 }
     ashOfBits (ashBits e) = e ∧ ashBits e = 2 ^ 256 - 2 ^ 59) := by decide +kernel

/-- Flash sharing on, and the channels good; one failed codeword of page 31 waits for a retry. -/
def flashDev : Dev :=
  let d := (List.range 32).foldl (fun d c => fset (fset d (regFlsChState c) fldFlsChStateState 1) (regFlsChState c) fldFlsChStateSpares 100) flyDev
  commitReg (fset (commitReg d regFlsRetire) regRadioDarner fldRadioDarnerFlashShare 1) regRadioDarner

/-- That device with codeword 15 of page 31 waiting for a retry. -/
def softDev2 : Dev := modTier flashDev (fun t => { t with soft := [31 * 16 + 15] })

theorem witness_FlashRepair : Runs (live flashDev) ∧ posChannel 1 1 = (posChannel 1 1 % 32) ∧ (1 * 30 + 1 = 31) ∧ memWf flashDev.mem = true ∧ ashOfPage flashDev 31 = some 5 ∧
    flashDev.tier.promos.any (fun q => q.ash == 5 && !q.pier) = true ∧ fact flashDev regRadioDarner fldRadioDarnerFlashShare = 1 ∧
    wrongBits [4, 4] = [] ∧ wrongBits [4] = [4] ∧
    pageAway flashDev 31 = false ∧ (decJobs flashDev).isEmpty = true ∧ accelOk flashDev 15 0 = true ∧ softDev2.tier.soft.contains (31 * 16 + 15) = true ∧
    flashDev.tier.blkSoft = [] ∧ 1 < fact flashDev regFlsRetire fldFlsRetireRetireSoft ∧
    (let d := softWait softDev2 31 15
     d.tier.rebuild = [31] ∧ (∀ c < 32, chAway d c = false) ∧ d.tier.blkFail = [] ∧ d.tier.later = [] ∧ (getAsh d 5).integ = 2 ∧ ashOfPage d 31 = some 5) ∧
    flashDev.tier.rebuild = [] ∧ flashDev.tier.remap = [] ∧
    (modTier flashDev (fun t => { t with blkDue := [blkKey 2 0 9] })).tier.blkDue.contains (blkKey 2 0 9) = true ∧
    fact flashDev regFlsRetire fldFlsRetireSpareLow + 1 < fget flashDev (regFlsChState 2) fldFlsChStateSpares ∧
    chLooped flashDev 2 = false ∧ mortarBase + 8388607 * 32 < mortarEnd := by decide +kernel

/-! ### The fabric -/

/-- Port 7 in a state, with a mode of four lanes, credit, and pod 1's gateway known; every rate, lane count and FEC allowed. -/
def portDev (st : Nat) : Dev :=
  let d := fset (setReg liveDev (regTrnPortCfg 7) 0x777) (regTrnPortState 7) fldTrnPortStateState st
  let d := modPort d 7 (fun s => { s with mode := some ⟨1, 2, 0⟩, credReq := 4096, credRsp := 4096, credMgt := 512 })
  { d with trn := { d.trn with routes := [(1, [600])] } }

/-- A flit of zeros with its checksum: a good one with sequence number 0. -/
def zeroFlit : Flit := { raw := List.replicate 252 0 ++ natLe 4 (crc32c (List.replicate 252 0)) }

/-- A partner that can do all. -/
def ability : Ability := { rates := 7, lanes := 7, fec := 7, usable := 15, endpoint := 9, epoch := 0, isSwitch := true }

theorem witness_TreanPorts : Runs (live (portDev 0)) ∧ portState (portDev 0) 7 = 0 ∧ portState (portDev 1) 7 = 1 ∧ portState (portDev 2) 7 = 2 ∧
    partnerFits (portDev 2) 7 ability = true ∧ bestMode (getReg (portDev 2) (regTrnPortCfg 7)) ability [] = some ⟨2, 2, 0⟩ ∧
    portState (portDev 3) 7 = 3 ∧ portState (portDev 4) 7 = 4 ∧ fget (portDev 4) regTrnStatus fldTrnStatusFenced = 0 ∧
    (portSt (portDev 5) 7).mode = some ⟨1, 2, 0⟩ ∧ portLive (portDev 5) 7 = true ∧ (portSt (portDev 5) 7).expect = 0 ∧
    (portSt (portDev 5) 7).nakCount < 7 ∧ portState (portRecal (portDev 5) 7 3 false) 7 = 6 ∧
    (portSt (portRecal (portDev 5) 7 3 false) 7).recal = some 3 ∧
    flitGood zeroFlit = true ∧ flitFld zeroFlit 84 12 = 0 ∧ zeroFlit.laneSym = [] ∧ zeroFlit.fecCorr = 0 ∧ flitGood { raw := [] } = false ∧
    (let d := { portDev 5 with tbs := [{}, {}, { sec := 1 }, {}] }
     agedOut d (0, .rsp 0x82 { dst := 1, src := 2, tag := 0 }) = true ∧ d.trn.portWait = []) := by
  decide +kernel

/-- The best mode has the highest data rate, then the lower lane rate (R296). -/
theorem test_best_mode : bestMode 0x777 { ability with usable := 3 } [] = some ⟨2, 1, 0⟩ ∧
    bestMode 0x773 { ability with usable := 3 } [] = some ⟨1, 1, 0⟩ ∧ bestMode 0x000 ability [] = none := by decide +kernel

theorem witness_PortStatesMove : PortOp 7 (.trnSignalDetect 7) ∧ (portState (setPortState (portDev 1) 7 2) 7 = 2) ∧
    portState (setPortState (portDev 1) 7 2) 0 = 0 := ⟨.detect, by decide +kernel⟩

/-- Port 7 up, and instance 3's page exported to job 4, which lives, with every right. -/
def homeDev : Dev :=
  let d := portDev 5
  let d := putMem { d with pier := { d.pier with pages := [(pageKey 0, { owner := 3 })] } } 0x1000 (natLe 8 40)
  { d with trn := { d.trn with exports := [(0, { inst := 3, base := 0, len := 2097152, job := 4, rights := 7 })] }
           jobs := [(4, { insts := 8, live := true })] }

/-- A request to the exported page. -/
def homeReq : TrnReq := { dst := ownEndpoint homeDev, src := 77, tag := 1, job := 4, seq := 2, addr := 0x1000, a := 5, b := 40, mask := 0xFF
                          data := List.replicate 128 1 }

theorem witness_HomeOperations : Runs (live homeDev) ∧ HomeServes homeDev 7 1 homeReq ∧ (∀ op ∈ List.range 14, 2 ≤ op → HomeApplies homeDev 7 op homeReq) ∧
    homeReq.poison = false ∧ isPoisoned homeDev 0x1000 128 = false ∧ homeRefusal homeDev 1 { homeReq with job := 5 } = some 0x4507 := by
  decide +kernel

/-- FADD answers the old word and stores the sum; MIN_S takes 2^63 for negative (R306). -/
theorem test_word_ops : wordOp 3 (2 ^ 64 - 1) 2 0 = 1 ∧ wordOp 5 5 (2 ^ 63) 0 = 2 ^ 63 ∧ wordOp 7 5 (2 ^ 63) 0 = 5 ∧ wordOp 4 40 5 40 = 5 ∧
    wordOp 4 41 5 40 = 41 := by decide +kernel

theorem witness_WriteAppliedOnce : Runs (live homeDev) ∧ HomeApplies homeDev 7 3 homeReq ∧
    (let t := reqArrive homeDev 7 3 homeReq
     Runs (live t) ∧ (tget? t.trn.cache (cacheKey homeReq)).isSome = true ∧ devNat t 0x1000 8 = 45 ∧
     devNat (reqArrive t 7 3 homeReq) 0x1000 8 = 45) := by decide +kernel

/-- A request of context 1 of instance 3 with an operation, on port 7. -/
def outReq (op : Nat) : OutReq :=
  { op := op, pkt := { dst := 77, src := 1, job := 4, addr := 0x80, tag := 6 }, port := 7, inst := 3, ctx := 1, use := .strmRead 0 0x80, limit := 1 }

/-- The device with that request outstanding. -/
def reqDev (op : Nat) : Dev := { portDev 5 with trn := { (portDev 5).trn with reqs := [(6, outReq op)] } }

theorem witness_ReplyEnds : Runs (live (reqDev 1)) ∧
    (∀ op ∈ [1, 2, 3, 0x0D], Answers (reqDev op) 7 { dst := ownEndpoint (reqDev op), src := 77, tag := 6 } (outReq op)) ∧
    isWriteType (outReq 2).op = true ∧ (ctxSt (reqDev 2) 3 1).ending = none ∧ (instSt (reqDev 2) 3).ending = none ∧
    tget? (reqDev 2).trn.reqs 6 = some (outReq 2) ∧
    (let d := { reqDev 2 with tbs := [{}, {}, { sub := 400000 }, {}] }
     (outReq 2).sent + copyTime ≤ tb2 d ∧ tb2 d < (outReq 2).moved + progressTime) ∧
    (let d := { reqDev 1 with tbs := [{}, {}, { sec := 1 }, {}] }
     (outReq 1).sent + copyTime ≤ tb2 d ∧ (outReq 1).moved + progressTime ≤ tb2 d ∧ (outReq 1).suspect = false ∧
       (outReq 1).moved + (outReq 1).limit * 8000000 ≤ tb2 d) ∧
    (let d := { reqArrive homeDev 7 3 homeReq with tbs := [{}, {}, { sec := 1 }, {}] }
     (match tget? d.trn.cache (treanHash 0x1000 * 2 ^ 48 + 77 * 2 ^ 32 + 2) with
      | some e => e.reply.isSome && decide (e.at_ + 1600000 ≤ tb2 d)
      | none => false) = true ∧ d.trn.portWait = []) := by decide +kernel

/-- A gateway whose port 7 is up, with an open block and a sent one of a far gateway. -/
def gwDev : Dev :=
  let d := { (fset (portDev 5) regTrnGw fldTrnGwGwEn 1) with tbs := [{}, {}, { sub := 160000 }, {}] }
  { d with trn := { d.trn with gwOpen := [{ far := 1, chan := 0, seq := 0, pkts := [.rsp 0x82 { dst := 1, src := 2, tag := 0 }], bytes := 16, came := [(0, 7)] }]
                               gwSent := [{ far := 1, chan := 0, seq := 9, pkts := [], bytes := 32 }], gwSeen := [(gwKey 600 0, 1)] } }

theorem witness_Gateways : Runs (live gwDev) ∧ tb2 gwDev = 160000 ∧
    (∀ q ∈ [agePkt (tb2 gwDev - 0 + hopTime) (.rsp 0x82 { dst := 1, src := 2, tag := 0 })], pktAge q < maxAge) ∧ ((List.range 8).any (fun p => portState liveDev p != 0)) = false ∧
    fget liveDev regTrnTopo fldTrnTopoMesh ≠ 1 ∧ (bitList 8 0x80).length = 1 ∧ isGateway liveDev = false ∧
    ((List.range 256).filter (fun r => tget 127 liveDev.mortar r == 127)).length = 256 ∧
    (gwDev.trn.gwSent.find? (fun b => b.far == 1 && b.chan == 0 && b.seq == 9)).isSome = true ∧
    BlockNext gwDev 7 600 0 0 1 ∧ BlockNext gwDev 7 600 0 1 0 ∧ (0 + 1) % 2 ^ 32 = tget 0 gwDev.trn.gwSeen (gwKey 600 0) := by decide +kernel

/-- A device whose fabric manager is endpoint 5, fenced or not. -/
def fmDev (fenced : Nat) : Dev :=
  let d := fset (fset (portDev 7) regTrnFm fldTrnFmFmValid 1) regTrnFm fldTrnFmFmEndpoint 5
  fset d regTrnStatus fldTrnStatusFenced fenced

theorem witness_FabricManager : Runs (live (fmDev 1)) ∧ fget (fmDev 1) regTrnFm fldTrnFmFmValid = 1 ∧
    fget (fmDev 1) regTrnFm fldTrnFmFmEndpoint = 5 ∧ fget (fmDev 1) regTrnEpoch fldTrnEpochEpoch < 2 ^ 32 - 1 ∧ ownEndpoint (fmDev 0) ≠ 33 ∧
    tget [] (fmDev 1).trn.routes 2 = [] ∧ fget (fmDev 1) regTrnStatus fldTrnStatusFenced = 1 ∧
    ¬ (fget liveDev regTrnFm fldTrnFmFmValid = 1 ∧ fget liveDev regTrnFm fldTrnFmFmEndpoint = 5) := by decide +kernel

theorem test_hash : treanHash 0 = 0 ∧ treanHash 128 = 1 ∧ treanHash 1024 = 1 ∧ treanHash 1152 = 0 := by decide +kernel

/-! ### The host attachment and the mailboxes -/

/-- The bytes of a command (R386): opcode, flags, target, number and arguments. -/
def cmdBytes (op flags target id : Nat) (args : List Nat) : List Byte :=
  natLe 2 op ++ natLe 1 flags ++ natLe 1 target ++ natLe 4 id ++ (List.range 7).flatMap (fun k => natLe 8 (lget 0 args k))

/-- An instance in a state with ring `q` on: 16 entries, submissions at 0x10000, completions at 0x20000; it holds credit, the page at 0 of
pier 0, four cores' worth of nothing else, and maps that page by its first BAR 2 segment. -/
def ringDev (i q st : Nat) : Dev :=
  let d := setInstState pierDev i st
  let d := fset d (regMbxRingCfg i q) fldMbxRingCfgLog2Entries 4
  let d := fset (fset d (regMbxSqBase i q) fldMbxSqBaseBase 16) (regMbxCqBase i q) fldMbxSqBaseBase 32
  let d := ringEnable d i q true
  let d := setCredit (modInst d i (fun s => { s with held := true, part := { s.part with rate := 100 } })) i 1000
  let d := { d with pier := { d.pier with pages := [(pageKey 0, { owner := i })] } }
  fset (fset d (regHostBar2Seg i 0) fldHostBar2SegValid 1) (regHostBar2Seg i 0) fldHostBar2SegWrite 1

theorem witness_HostAccess : Runs (live (ringDev 3 1 2)) ∧ hostReaches (ringDev 3 1 2) 3 = true ∧
    bar2Parts (ringDev 3 1 2) 3 0x40 4 = [(0x40, 4)] ∧ bar2Ok (ringDev 3 1 2) 3 0x40 4 true = true ∧ bar2Ok (ringDev 3 1 2) 3 0x40 4 false = true ∧
    ringEntries (ringDev 3 1 2) 3 1 = 16 ∧
    (let d := hostWrite (ringDev 3 1 2) 0x10000 (cmdBytes 0x0020 0 0 1 [])
     instState d 3 = instState (ringDev 3 1 2) 3 ∧ d.env = (ringDev 3 1 2).env ∧ ringEntries d 3 1 = ringEntries (ringDev 3 1 2) 3 1) ∧
    (0 + 16 - (ringSt (ringDev 3 1 2) 3 1).cqHead) % 16 ≤ (ringSt (ringDev 3 1 2) 3 1).used ∧
    fget (ringDev 3 1 2) (regMbxRingCfg 3 2) fldMbxRingCfgEnable = 0 ∧ fget (ringDev 3 1 2) (regMbxRingState 3 1) fldMbxRingStateState = 1 ∧
    (let d := modInst (ringDev 3 0 2) 3 (fun s => { s with notices := [(0x5607, 1)] })
     (instSt d 3).notices = [(0x5607, 1)] ∧ fget d (regMbxRingState 3 0) fldMbxRingStateState = 1 ∧ freeEntries d 3 0 > 0) ∧
    63 < vectorsOf 3 ∧ (ringSt (modRing (ringDev 3 1 2) 3 1 (fun r => { r with coalOpen := true })) 3 1).coalOpen = true := by decide +kernel

/-- Ring 1 of instance 3 with one CTX_CREATE waiting, the instance holding a credit. -/
def waitDev (cr : Nat) : Dev := setCredit (hostWrite (ringDev 3 1 2) 0x10000 (cmdBytes 0x0020 0 0 1 [2])) 3 cr

theorem witness_DoorbellFetches : Runs (live (waitDev 50)) ∧ hostReaches (waitDev 50) 3 = true ∧ fetches (waitDev 50) 3 1 = true ∧
    (waitDev 50).env.boot = 1 ∧ instState (waitDev 50) 3 ≠ 1 ∧ fget (waitDev 50) (regMbxRingState 3 1) fldMbxRingStateSqHead = 0 ∧
    (ringSt (waitDev 50) 3 1).sqTail = 0 ∧ ringEntries (waitDev 50) 3 1 = 16 ∧ 1 ≤ freeEntries (waitDev 50) 3 1 ∧
    (let bs := hostRead (waitDev 50) (fget (waitDev 50) (regMbxSqBase 3 1) fldMbxSqBaseBase * 4096) 64
     malformed 3 1 bs = false ∧ cmdCost (parseCmd bs 1) ≤ credit (waitDev 50) 3 ∧ credit (waitDev 49) 3 < cmdCost (parseCmd bs 1) ∧
     credit (waitDev 50) 3 < 2 ^ fldMbxCreditCredit.w) := by decide +kernel

theorem witness_HostLinks : Runs (live hostStrm) ∧ (parseDesc (devRead hostStrm (storeAddr 0 (descOff hostStrm 0 0)) 128)).sspace = 3 ∧
    (strmSt hostStrm 0 0).asked ≠ [] ∧ hostStrm.env.pcieLoop = false ∧ instState (ringDev 3 1 2) 3 ≠ 0 ∧ instState hostStrm 0 ≠ 0 ∧
    (∀ i : Fin 65, 0 < i.val → instState hostStrm i = 0) := by decide +kernel

theorem witness_Bar2Isolates : memWf (ringDev 3 1 2).mem = true ∧ 0x200000 < pierEnd ∧ (pageOf (ringDev 3 1 2) 0x200000).owner ≠ 3 ∧
    devRead (bar2Write (ringDev 3 1 2) 3 0x40 [9] false) 0x40 1 = [9] := by decide +kernel

/-! ### Instances, contexts, health and boot -/

/-- A context of instance 3 that works, and the same once it ends. -/
def workCtx : Dev := modCtx (ringDev 3 1 2) 3 0 (fun c => { c with live := true })

def endingCtx : Dev := endCtx workCtx 3 0 0x4308

/-- A command. -/
def aCmd (op : Nat) (args : List Nat) : Cmd := parseCmd (cmdBytes op 0 0 1 args) 1

/-- A working context whose model plan is one ELEMENTWISE step that adds FP32 elements, and a run of that step over one element. -/
def planCtx : Dev := modCtx workCtx 3 0 (fun c =>
  { c with comp := { c.comp with planSteps := [{ kind := 1, f0 := 0x0105, f1 := 0, f2 := 0, f3 := 0 }] } })

def oneRun : ComposerRun := { step := 0, t := [0x40, 0x44, 0, 0x48], p := [1, 0, 0] }

theorem witness_Teardowns_iteration : (ctxSt planCtx 3 0).comp.planSteps[oneRun.step]? = some { kind := 1, f0 := 0x0105, f1 := 0, f2 := 0, f3 := 0 } ∧
    (let o : OpIn := { i := 3, x := 0, word := 0, tensor := 0, step := (ctxSt planCtx 3 0).step, t := oneRun.t, p := oneRun.p }
     let q := runOperator (modCtx planCtx 3 0 (fun c => { c with lastStep := some o.step })) 0x0105 o
     composerBad { kind := 1, f0 := 0x0105, f1 := 0, f2 := 0, f3 := 0 } o = false ∧ q.waits = false ∧ q.status = 0 ∧
       (ctxSt q.dev 3 0).seqs = [] ∧ devRead q.dev 0x48 4 = [1, 2, 3, 4]) ∧ isCollective 0x0140 = true ∧
    composerBad { kind := 1, f0 := 0x0140, f1 := 0, f2 := 0, f3 := 0 } { i := 3, x := 0, word := 0, tensor := 0, step := 0, t := oneRun.t, p := oneRun.p } = false := by
  decide +kernel

theorem witness_Teardowns : Runs (live workCtx) ∧ (ctxSt workCtx 3 0).live = true ∧ (instSt workCtx 3).resize = none ∧ (ctxSt workCtx 3 0).queue = [] ∧
    instState workCtx 3 = 2 ∧ (ctxSt workCtx 3 0).batch = [] ∧ workCtx.waiting.contains (3, 0) = false ∧ (ctxSt workCtx 3 0).seqs = [] ∧ (∀ k < 96, coreState workCtx k ≠ 1) ∧
    workCtx.trn.reqs = [] ∧ (ctxSt endingCtx 3 0).ending.isSome = true ∧ (instSt (endInst (ringDev 3 1 2) 3 0x5607) 3).ending.isSome = true ∧
    (∀ k < 16, (ctxSt (endInst (ringDev 3 1 2) 3 0x5607) 3 k).live = false) ∧ endingCtx.flt.queue ≠ [] ∧ inService liveDev 0 = true ∧
    credit workCtx 3 ≤ 10 * accrual workCtx 3 ∧ 10 * accrual workCtx 3 < 2 ^ fldMbxCreditCredit.w := by decide +kernel

/-- A freeze in progress touches nothing of a context that holds nothing. -/
theorem witness_Teardowns_freeze : (let d := modInst (ringDev 3 1 4) 3 (fun s => { s with freezing := some (0, aCmd 0x34 []) })
    (instSt d 3).freezing = some (0, aCmd 0x34 []) ∧ (instSt d 3).resize = none ∧ d.trn.reqs = [] ∧ (∀ k < 96, coreState d k ≠ 1) ∧
    (∀ k < 16, freezeKeys d 3 k = d)) ∧
    (let d := modInst (ringDev 3 1 2) 3 (fun s => { s with resize := some ({}, 0, aCmd 0x10 []) })
     (instSt d 3).resize = some ({}, 0, aCmd 0x10 []) ∧ memFree d 3 { pages := [0] } {} = false ∧ 800000000 ≤ tb2 { d with tbs := [{}, {}, { sec := 1 }, {}] }) := by decide +kernel

theorem witness_RecordsCoalesce : Runs (live liveDev) ∧ (instSt liveDev 0).ending = none ∧ liveDev.flt.queue.length < 4096 ∧
    fget liveDev regMgtFhRecords fldMgtFhRecordsNextSeq + 1 < 2 ^ fldMgtFhRecordsNextSeq.w ∧
    (linkCorrected (linkCorrected liveDev)).flt.queue.map (fun r => (r.status, r.repeats)) = [(0x2603, 2)] := by decide +kernel

theorem witness_RecordsCoalesce_full : (List.replicate 4096 ({ status := 0x1602 } : Rec)).length = 4096 := List.length_replicate

/-- A device that boots, at a stage. -/
def bootDev (n : Nat) : Dev := fset { liveDev with env := { liveDev.env with boot := 0 } } regMgtBoot fldMgtBootStage n

theorem witness_BootAndAttest : Runs (live (bootDev 0)) ∧ (bootDev 1).env.boot = 0 ∧ fget (bootDev 0) regSecFuse fldSecFuseDebugBlown ≠ 0 ∧
    fget (bootDev 7) regMgtBoot fldMgtBootStage = 7 ∧ (bootImage (bootDev 1) true).isSome = true ∧ liveDev.mgt.lastWd = none ∧
    liveDev.mgt.areaOk = true ∧ { liveDev.mgt with unsaved := 3 }.unsaved ≠ 0 := by decide +kernel

/-! ### Heat, supply, loop-backs and self-tests -/

/-- An island at a thermal level. -/
def heatDev (x : Nat × Option Nat × Option Nat) : Dev := modHeat (atTime { liveDev with tbs := [] } 0 0) (fun h => { h with level := tset h.level 143 x })

theorem witness_ThermalAndSupply : Runs (live (heatDev (0, none, none))) ∧ (heatOf (heatDev (2, none, none)) 143).1 < 3 ∧
    (heatOf (heatDev (2, some 0, none)) 143).2.1 = some 0 ∧ tb2 (heatDev (2, some 0, none)) < 0 + 8000000 ∧
    (heatOf (heatDev (3, none, some 0)) 143).2.2 = some 0 ∧ tb2 (heatDev (3, none, some 0)) < 0 + 80000000 ∧
    (let d := { heatDev (3, none, some 0) with tbs := [{}, {}, { sub := 80000000 }, {}] }
     (heatOf d 143).2.2 = some 0 ∧ 0 + 80000000 ≤ tb2 d) ∧ (1900 - 100 * 3) * (64 - 4) < 1520 * 64 ∧
    holdsWork (heatDev (3, none, none)) 143 = false ∧ holdsWork hostStrm 0 = true ∧
    (heatOf (heatDev (3, none, none)) 143).1 = 3 ∧ 100 * 2699 < 90 * railNominal 0 ∧ ¬ 100 * 2700 < 90 * railNominal 0 := by decide +kernel

/-- An island that holds work trips where a droop of 13/64 meets full speed, and not at 12/64 (R17, R491). -/
theorem test_clock_trip : (clockTrip hostStrm 0 13).env.fatal.isSome = true ∧ (clockTrip hostStrm 0 12).env.fatal = none := by decide +kernel

/-- A hot island steps down once, and not twice within a millisecond (R492). -/
theorem test_step_down : (heatOf (thermalCheck (heatDev (0, none, none)) 143 6400) 143).1 = 1 ∧
    (heatOf (thermalCheck (thermalCheck (heatDev (0, none, none)) 143 6400) 143 6400) 143).1 = 1 := by decide +kernel

/-- The loop-back of an interface and unit selected at depth 3. -/
def lbDev (i u : Nat) : Dev := fset (fset (fset flashDev regTstLbSel fldTstLbSelIface i) regTstLbSel fldTstLbSelUnit u) regTstLbSel fldTstLbSelDepth 3

/-- Core 95 fenced. -/
def fencedDev : Dev := fenceCore liveDev 95

theorem witness_LoopBacksAndTests : Runs (live (lbDev 0 7)) ∧ (lbDev 0 7).tst.looped = none ∧ lbOk (lbDev 0 7) 0 7 3 = true ∧
    lbOk (lbDev 1 7) 1 7 3 = true ∧ lbOk (lbDev 2 255) 2 255 3 = true ∧ lbOk (lbDev 3 31) 3 31 3 = true ∧ lbOk (lbDev 4 7) 4 7 3 = true ∧
    (lbEnter (lbDev 3 31)).tst.looped = some (3, 31, 3) ∧ Runs (live fencedDev) ∧
    (let v := (0x5F01 : Word).toNat ||| 1
     bitsAt v 8 8 < bistUnits (bitsAt v 4 3) ∧ bistFenced fencedDev (bitsAt v 4 3) (bitsAt v 8 8) = true) ∧
    fget fencedDev regTstBist fldTstBistBusy = 0 ∧ fget (bistStart fencedDev 0x5F01) regTstBist fldTstBistBusy = 1 := by decide +kernel

/-! ### Commands -/

/-- A device with a command fetched on a ring. -/
def askDev (d : Dev) (i q op : Nat) (target : Nat) (args : List Nat) : Dev :=
  modRing d i q (fun r => { r with fetched := [parseCmd (cmdBytes op 0 target 1 args) 1] })

/-- Whether the command fetched on a ring starts. -/
def startsOk (d : Dev) (i q op : Nat) : Bool :=
  match takeCmd d i q op with
  | some (c, e) => (cmdErr e i q c).isNone
  | none => false

theorem starts_of (s : State) (i q op : Nat) (hr : Runs s) (h : startsOk s.dev i q op = true) : ∃ c d, Starts s i q op c d := by
  unfold startsOk at h
  split at h
  · rename_i c e hc
    exact ⟨c, e, hr, hc, by simpa using h⟩
  · cases h

/-- Ring 0 of the physical function, instance 0 ready and instance 3 ready, and jobs 5 (registered). -/
def pfDev : Dev :=
  let d := setInstState (ringDev 0 0 2) 3 2
  { d with jobs := [(5, { insts := 9, live := true, choice := 7 })] }

/-- A SET_DELETE in hand when its command core is restarted. -/
theorem witness_BootAndAttest_hand : (let d := askDev liveDev 0 0 0x17 0 [2]
    let r := wdRestart d 3 true
    let c := parseCmd (cmdBytes 0x17 0 0 1 [2]) 1
    d.mgt.lastWd = none ∧ d.mgt.areaOk = true ∧ (∀ j < 65, (instSt r j).resize = none ∧ (instSt r j).freezing = none) ∧ liveCtxs r = [] ∧
    (ringSt r 0 0).fetched.head? = some c ∧ ((takeCmd r 0 0 c.opcode).map (·.1)) = some c ∧ onlyQueries c.opcode = false ∧
    cmdErr r 0 0 c = none) := by decide +kernel

/-- The first 8 bytes of the carrier band of instance 0's host memory hold an exchange record of zeros. -/
def tickDev : Dev := modDom (fset (fset pfDev (regTimeDomCfg 0) fldTimeDomCfgSource 2) regTimeSel fldTimeSelDomEn 1) 0 (fun x => { x with capt := some 5 })

theorem witness_CommandsDevice : Runs (live pfDev) ∧
    startsOk (askDev pfDev 0 0 1 0 [0x30000]) 0 0 1 = true ∧ startsOk (askDev pfDev 0 0 2 3 [0x30000]) 0 0 2 = true ∧
    startsOk (askDev pfDev 0 0 3 0 [0x02000000, 32]) 0 0 3 = true ∧ regAccessOk 0x02000004 32 = true ∧
    startsOk (askDev pfDev 0 0 4 0 [regPierScrub 0, 64, 24, 0xFFFF]) 0 0 4 = true ∧
    ((regAt (regPierScrub 0)).map (fun r => managerMay r 0xFFFF)) = some true ∧
    startsOk (askDev (setInstState pfDev 3 1) 0 0 0x10 3 [2, 0, 0, 100]) 0 0 0x10 = true ∧
    startsOk (askDev pfDev 0 0 0x11 3 []) 0 0 0x11 = true ∧ startsOk (askDev pfDev 0 0 0x12 3 [15, 1, 4096, 8192]) 0 0 0x12 = true ∧
    startsOk (askDev pfDev 0 0 0x13 3 [63, 0, 3]) 0 0 0x13 = true ∧ 0 + segBytes pfDev 3 ≤ mortarEnd ∧ 0 % segBytes pfDev 3 = 0 ∧
    startsOk (askDev pfDev 0 0 0x14 0 [2 ^ 63, 1]) 0 0 0x14 = true := by decide +kernel

theorem witness_CommandsDevice_jobs : startsOk (askDev pfDev 0 0 0x40 0 [0xFFFFF, 1, 1]) 0 0 0x40 = true ∧ (tget {} pfDev.jobs 0xFFFFF).live = false ∧
    startsOk (askDev pfDev 0 0 0x41 0 [5]) 0 0 0x41 = true ∧ (tget {} pfDev.jobs 5).live = true ∧ liveCtxs pfDev = [] ∧
    startsOk (askDev pfDev 0 0 0x42 0 [255, 0x200000, 0x200000, 5 + 3 * 2 ^ 20 + 7 * 2 ^ 28]) 0 0 0x42 = true ∧
    exportAlign 0x200000 0x200000 3 = some 2097152 ∧ startsOk (askDev pfDev 0 0 0x43 0 [5]) 0 0 0x43 = true := by decide +kernel

theorem witness_CommandsDevice_partition : (let d := setInstState pfDev 3 1
    let p := (parsePart d (parseCmd (cmdBytes 0x10 0 3 1 [2, 0, 0, 100 * 2 ^ 32]) 1))
    (instSt d 3).resize = none ∧ p.2 = true ∧ p.1.cores = 2 ∧ p.1.rate = 100 ∧ chooseRegions d 3 0 0 = some 0 ∧
    (addedBits 96 0 2).all (coreFree d 3) = true ∧ instState (addUnits d 3 {} { p.1 with regions := 0 }) 3 = 1 ∧
    (instSt pfDev 0).held = true ∧ (instSt (modInst pfDev 3 (fun s => { s with held := true })) 3).held = true ∧
    ctxBusy (modCtx pfDev 3 0 (fun y => { y with live := true, queue := [{ op := 0x100, tensor := 0, attr := 0, a := [], step := 0, cmd := none }] })) 3 0 = true ∧
    ctxBusy pfDev 3 0 = false) := by decide +kernel

theorem witness_CommandsDevice_time : startsOk (askDev tickDev 0 0 0x33 0 [0, 0x30000]) 0 0 0x33 = true ∧ domSource tickDev 0 = 2 ∧
    (∀ o ∈ [0x00, 0x10, 0x20, 0x30], fieldLe (hostRead tickDev 0x30000 96) (o + 6) 2 = 0) ∧ domEnabled tickDev 0 = true ∧
    (domSt tickDev 0).capt = some 5 ∧ domNow tickDev 0 - (5 + (recTime (hostRead tickDev 0x30000 96) 0x10 - 0)) ≤ 2 * 1000000000 * 65536 := by
  decide +kernel

/-- Instance 3's ring 1 with a context that lives, a sequence 4 in it, and a replay. -/
def askCtx : Dev := modCtx workCtx 3 0 (fun y => { y with level := 3, replay := true, seqs := [{ id := 4, tokens := 0, count := 1, maxNew := 1, ring := 0, k := 4, vector := 1, endTok := none, pasid := 0 }] })

/-- The physical function with a set 2 that no entry is of, and the map page owned. -/
def setDev : Dev := modTier pfDev (fun t => { t with sets := [(2, (true, 0))] })

theorem witness_CommandsContexts : Runs (live askCtx) ∧ Runs (live setDev) ∧
    startsOk (askDev setDev 0 0 0x15 0 [4095, 1, 64]) 0 0 0x15 = true ∧ tget? setDev.tier.sets 4095 = none ∧
    startsOk (askDev setDev 0 0 0x16 0 [2, 3, 1, 1]) 0 0 0x16 = true ∧ (tget (false, 0) setDev.tier.sets 2).1 = true ∧ (getSet setDev 2).deleting = false ∧
    startsOk (askDev setDev 0 0 0x17 0 [2]) 0 0 0x17 = true ∧
    startsOk (askDev setDev 0 0 0x19 0 [0, 1, 1, 2]) 0 0 0x19 = true ∧ 0 + 1 ≤ ashMax ∧
    startsOk (askDev (ringDev 3 1 2) 3 1 0x20 0 [2]) 3 1 0x20 = true ∧ createErr (ringDev 3 1 2) 3 0 (aCmd 0x20 [2]) = 0 ∧
    startsOk (askDev askCtx 3 1 0x21 0 []) 3 1 0x21 = true ∧ startsOk (askDev askCtx 3 1 0x22 0 [4096, 4096, 16, 0, 0, 0, 0]) 3 1 0x22 = true ∧
    accessErr askCtx (.ctx 3 0) false 0 0 = none ∧ readPlan askCtx 3 0 0 0 [] = ([], 0) ∧
    startsOk (askDev askCtx 3 1 0x24 0 [4]) 3 1 0x24 = true ∧ (∃ t ∈ (ctxSt askCtx 3 0).seqs, t.id = 4 ∧ t.cancel = none) ∧
    startsOk (askDev askCtx 3 1 0x27 0 [0x30000]) 3 1 0x27 = true ∧ startsOk (askDev askCtx 3 1 0x44 0 [9]) 3 1 0x44 = true := by decide +kernel

/-- An instance with a window of 4 MiB over device addresses from 0, and set 2 its own. -/
def winDev : Dev := modTier (modInst (fset askCtx regTierMapBase fldTierMapBaseBase 0x1000000) 3 (fun s => { s with windows := [(0, { pasid := 9, base := 0, len := 2 ^ 22 })] })) (fun t => { t with sets := [(2, (false, 3))] })

theorem witness_CommandsContexts_seq : startsOk (askDev winDev 3 1 0x23 0 [5, 0, 1, 1, 0x1000, 4 + 63 * 65536, 2 ^ 32 + 7]) 3 1 0x23 = true ∧
    (iovaKey winDev 3 0 4).isSome = true ∧ (iovaKey winDev 3 0x1000 (64 + 16 * 16)).isSome = true ∧
    startsOk (askDev winDev 3 1 0x25 0 [0x0105, 0, 0, 0, 0, 0, 64]) 3 1 0x25 = true ∧ preCheck winDev 3 0 0x0105 0 [0, 0, 0, 0] 64 = 0 ∧
    startsOk (askDev winDev 3 1 0x26 0 [0, 0, 0, 1]) 3 1 0x26 = true ∧ accessErr winDev (.ctx 3 0) false 0 32 = none ∧
    (readPlan winDev 3 0 1 0 []).2 = 0 := by decide +kernel

theorem witness_CommandsContexts_load : startsOk (askDev winDev 3 0 0x18 0 [2, 0, 1, 6 * 16, 0, 0]) 3 0 0x18 = true ∧
    (tget? winDev.tier.sets 2).isSome = true ∧ (iovaKey winDev 3 0 65536).isSome = true ∧ (∀ k ∈ rangeFrom 0 1, (getAsh winDev k).integ = 0) ∧
    startsOk (askDev (setInstState tierDev 3 2) 3 0 0x19 0 [5, 1, 0, 1]) 3 0 0x19 = true ∧ (holdAll 3 0 true [5] tierDev).2 = none := by
  decide +kernel

theorem witness_CommandsContexts_loadAll : (loadPier { set := 2, layout := 6, size := 0, shared := false, owner := 3, pierOnly := true, first := 0, n := 1 } [7]
    winDev 0).isSome = true := by decide +kernel

/-- A saved state of one context, at step 9, of bytes that the layout of its records gives. -/
def savedState (i : Nat) : List Byte :=
  let l : List SaveRec := [headRec (ringDev i 0 2) i 0, { type := 4, target := 0, payload := auditBytes { step := 9, level := 3, replay := true } ++ natLe 64 0 }]
  saveAll 0 (l ++ [endRec l])

/-- The saved state at 0x40000 of host memory, with its address at 0x50000. -/
def restoreDev : Dev := hostWrite (hostWrite (ringDev 3 1 2) 0x40000 (savedState 3)) 0x50000 (natLe 8 0x40000)

theorem witness_CommandsContexts_restore : startsOk (askDev restoreDev 3 1 0x20 0 [2 + 512, 0, 0, 9, 0x50000, 1]) 3 1 0x20 = true ∧
    createErr restoreDev 3 0 (aCmd 0x20 [2 + 512, 0, 0, 9, 0x50000, 1]) = 0 ∧
    ((readBufs restoreDev.hmem (bufList restoreDev 0x50000 1)).map (fun b => (endOk b, b.flatten.map (fun r => r.type), placesOk restoreDev 3 b.flatten))) =
      some (true, [1, 4, 8], true) := by decide +kernel

/-- A carrier record of kind 0 at 0x60000 of host memory. -/
def carDev : Dev := hostWrite pfDev 0x60000 (natLe 8 0 ++ natLe 8 (64 + 10 * 256 + 8 * 2 ^ 20) ++ natLe 4 8 ++ natLe 4 0x99
  ++ natLe 8 (1 * 65536 + 256 * 2 ^ 32 + 512 * 2 ^ 48) ++ natLe 8 5 ++ natLe 8 (100 + 50 * 2 ^ 12 + 100 * 2 ^ 24 + 200 * 2 ^ 36) ++ natLe 4 3 ++ natLe 4 0 ++ natLe 8 0x70000)

theorem witness_CommandsLife : Runs (live carDev) ∧
    startsOk (askDev pfDev 0 0 0x34 3 []) 0 0 0x34 = true ∧ instState pfDev 3 = 2 ∧ startsOk (askDev (setInstState pfDev 3 3) 0 0 0x35 3 []) 0 0 0x35 = true ∧
    startsOk (askDev pfDev 0 0 0x36 3 [1]) 0 0 0x36 = true ∧ startsOk (askDev pfDev 0 0 0x37 3 [1, 0x30000, 2 ^ 40]) 0 0 0x37 = true ∧
    startsOk (askDev pfDev 0 0 0x39 3 []) 0 0 0x39 = true ∧
    startsOk (askDev carDev 0 0 0x30 0 [0x60000, 1, 0, 0x80000]) 0 0 0x30 = true ∧ recOk carDev 0x60000 (readCar carDev 0x60000) = true ∧
    startsOk (askDev pfDev 0 0 0x31 0 [15 + 12 * 2 ^ 8 + 12 * 2 ^ 12 + 21 * 2 ^ 16 + 2047 * 2 ^ 32, 0x1000, 0x2000, 0, 1, 0x3000, 0]) 0 0 0x31 = true ∧
    startsOk (askDev { pfDev with sp := radioDev.sp } 0 0 0x32 0 [0]) 0 0 0x32 = true ∧ (tget? radioDev.sp.chans 0).isSome = true := by decide +kernel

theorem witness_CommandsLife_units : startsOk (askDev pfDev 0 0 0xC1 0 [2, 43]) 0 0 0xC1 = true ∧ unitErr pfDev 2 43 = none ∧
    (let d := Machine.fenceUnit pfDev 0 95
     startsOk (askDev d 0 0 0xC2 0 [0, 95]) 0 0 0xC2 = true ∧ bistOn d 0 95 = false ∧ unitErr d 0 95 = none ∧ unitFenced d 0 95 = true) ∧
    startsOk (askDev pfDev 0 0 0xC3 0 [0x30000]) 0 0 0xC3 = true ∧ startsOk (askDev pfDev 0 0 0xC0 3 [0, 16, 0x30000, 1]) 0 0 0xC0 = true ∧
    startsOk (askDev pfDev 0 0 0x84 0 [0xFFFFFFFF, 64, 0x30000]) 0 0 0x84 = true ∧ startsOk (askDev pfDev 0 0 0x85 0 []) 0 0 0x85 = true ∧
    startsOk (askDev pfDev 0 0 0x86 0 [0x30000]) 0 0 0x86 = true := by decide +kernel

/-- A saved state of a header and an end record, and its address, in host memory. -/
def backDev : Dev :=
  let l : List SaveRec := [headRec pfDev 3 0]
  hostWrite (hostWrite pfDev 0x40000 (saveAll 0 (l ++ [endRec l]))) 0x50000 (natLe 8 0x40000)

theorem witness_CommandsLife_restore : startsOk (askDev backDev 0 0 0x38 3 [0x50000, 1, 0, 0]) 0 0 0x38 = true ∧ instState backDev 3 = 2 ∧
    (∀ x < 16, (ctxSt backDev 3 x).live = false) ∧
    ((readBufs backDev.hmem (bufList backDev 0x50000 1)).map (fun b => let rs := b.flatten
      (endOk b, (recOf rs 1).isSome, decide (fieldLe (payOf rs 1) 0 2 ≤ backDev.env.grade), decide (fieldLe (payOf rs 1) 4 2 ≤ 0x0300)))) =
      some (true, true, true, true) ∧
    ((readBufs backDev.hmem (bufList backDev 0x50000 1)).map (fun b => let rs := b.flatten
      (countsOk backDev 3 (payOf rs 1), placesOk backDev 3 rs, (savedWindows (payOf rs 2)).isEmpty, (recOf rs 5).isSome))) = some (true, true, true, false) := by
  decide +kernel

/-- An image of its header alone, under a key of exponent 1, whose signature is the encoded message itself. -/
def fwHead : List Byte := padTo 512 (padTo 0x20 (natLe 4 0 ++ natLe 4 4096 ++ natLe 8 7 ++ natLe 1 1) ++ sha512 [])

def fwKey : List Byte := List.replicate 512 0xFF ++ natLe 4 1

def fwSig : List Byte :=
  let h := sha512 (List.replicate 8 0 ++ sha512 fwHead ++ List.replicate 64 0)
  let db := List.replicate 382 0 ++ [0x01] ++ List.replicate 64 0
  match (db.zip (mgf1 h 447)).map (fun p => p.1 ^^^ p.2) with
  | b :: l => ((b &&& 0x7f) :: l) ++ h ++ [0xbc]
  | [] => []

def fwImage : List Byte := padTo 4096 (fwHead ++ fwKey ++ fwSig)

def fwDev : Dev := modMgt (hostWrite pfDev 0x30000 fwImage) (fun m => { m with keyHash := [leNat (sha512 fwKey)] })

theorem witness_CommandsLife_image : imageOk fwDev fwImage = true ∧ (imageOf fwImage).handMin ≤ fwDev.mgt.running.handover := by decide +kernel

theorem witness_CommandsLife_firmware : startsOk (askDev fwDev 0 0 0x80 0 [0x30000, 4096]) 0 0 0x80 = true ∧
    startsOk (askDev fwDev 0 0 0x81 0 []) 0 0 0x81 = true ∧ startsOk (askDev fwDev 0 0 0x82 0 []) 0 0 0x82 = true ∧
    ({ fwDev.mgt with staged := some {}, flash := some { version := 9 } }).flash ≠ some fwDev.mgt.running ∧
    startsOk (askDev { fwDev with env := { fwDev.env with boot := 3 } } 0 0 0x83 0 [0x30000, 4096]) 0 0 0x83 = true := by decide +kernel

theorem fwImage_length : fwImage.length = 4096 := by
  simp only [fwImage, padTo, List.length_take, List.length_append, List.length_replicate]
  omega

/-- An image written to host memory is the image a command names there. -/
theorem imageBytes_hostWrite (d : Dev) (hm : memWf d.hmem = true) (bs : List Byte) (c : Cmd) (h4 : 4096 ≤ bs.length) (hl : bs.length ≤ c.arg 1)
    (hf : leNat ((bs.drop 4).take 4) = bs.length) : imageBytes (hostWrite d (c.arg 0) bs) c = some bs := by
  have hr : ∀ k n, k + n ≤ bs.length → memRead (hostWrite d (c.arg 0) bs).hmem (c.arg 0 + k) n = (bs.drop k).take n := fun k n h => by
    simp only [hostWrite, hostPut]; exact memRead_memWrite hm _ _ _ _ h
  have hn : hostNat (hostWrite d (c.arg 0) bs) (c.arg 0 + 4) 4 = bs.length := by
    unfold hostNat memNat
    rw [hr 4 4 (by omega), hf]
  have h0 := hr 0 bs.length (by omega)
  simp only [imageBytes, hn, if_pos (And.intro h4 hl), hostRead]
  simpa using h0

theorem imageBytes_modMgt (d : Dev) (f : MgtSt → MgtSt) (c : Cmd) : imageBytes (modMgt d f) c = imageBytes d c := rfl

/-- The command that stages or recovers that image. -/
def imageCmd (op : Nat) : Cmd := parseCmd (cmdBytes op 0 0 1 [0x30000, 4096]) 1

theorem imageCmd_args : ∀ op ∈ [0x80, 0x83], (imageCmd op).arg 0 = 0x30000 ∧ (imageCmd op).arg 1 = 4096 := by decide +kernel

theorem fwImage_size : leNat ((fwImage.drop 4).take 4) = 4096 := by decide +kernel

theorem witness_CommandsLife_bytes : ∀ op ∈ [0x80, 0x83], imageBytes fwDev (imageCmd op) = some fwImage := by
  intro op ho
  obtain ⟨h0, h1⟩ := imageCmd_args op ho
  have h := imageBytes_hostWrite pfDev (by decide +kernel) fwImage (imageCmd op) (Nat.le_of_eq fwImage_length.symm)
    (Nat.le_of_eq (fwImage_length.trans h1.symm)) (fwImage_size.trans fwImage_length.symm)
  rw [h0] at h
  rw [fwDev, imageBytes_modMgt, h]

/-! ### Operators and plan steps -/

/-- A working context of instance 3 with an invocation at its head, and the parameter block of these words at 64. -/
def headDev (v : Machine.Inv) (ws : List Nat) : Dev :=
  devWrite (modCtx workCtx 3 0 (fun c => { c with level := 3, job := 5, detOff := true, queue := [v] })) 64 (padTo 64 (ws.flatMap (natLe 8))) false

/-- An invocation of an operator over its tensors, with its parameter block at 64. -/
def invOf (op : Nat) : Machine.Inv := { op := op, tensor := 0, attr := 0, a := [0x400, 0x440, 0x480, 0x4C0, 64], step := 0, cmd := none }

/-- A plan of one step. -/
def planOf (p : PlanStep) : Machine.Inv := { op := 0, tensor := 0, attr := 0, a := [], step := 0, cmd := none, isPlan := true, plan := [p], next := 0 }

/-- The status and `waits` of an operator at the head of a context. -/
def ranWith (op : Nat) (ws : List Nat) : Option (Nat × Bool) :=
  let d := headDev (invOf op) ws
  match headReady d 3 0 with
  | some v =>
    let d := beginStep d 3 0 v
    let o := headIn d 3 0 v
    let r := runOperator d op { o with ready := noteReady d 3 op o }
    if headOp v = some op ∧ headErr d 3 0 v = none then some (r.status, r.waits) else none
  | none => none

theorem witness_OperatorsAndPlans : ∀ p ∈ ([(0x0100, [1 + 2 ^ 28, 1 + 2 ^ 28, 0xFF00]), (0x0101, [0, 64, 1, 0x3F800000, 0, 1]), (0x0102, [1, 1, 0x3F800000]),
    (0x0103, [1, 1]), (0x0104, [1, 1]), (0x0105, [1]), (0x0106, [1]), (0x0107, [1, 1]), (0x0110, [1, 4, 1]), (0x0111, [0, 0, 4]),
    (0x0120, [1, 1, 1, 1]), (0x0121, [1, 1, 1]), (0x0130, [1, 1, 0x3F800000, 1])] : List (Nat × List Nat)),
    ranWith p.1 p.2 = some (0, false) := by decide +kernel

/-- A context at a collective over a group of one member, whose record is at 0x500. -/
def collDev (op : Nat) : Dev :=
  devWrite (headDev (invOf op) [1, 0x500]) 0x500 (natLe 4 5 ++ natLe 4 1 ++ natLe 4 0 ++ natLe 4 0 ++ natLe 8 0x600 ++ natLe 8 0x580) false

theorem witness_OperatorsAndPlans_collective : ∀ op ∈ ([0x0140, 0x0141, 0x0142, 0x0143] : List Nat),
    (let d := beginStep (collDev op) 3 0 (invOf op)
     let o := headIn d 3 0 (invOf op)
     let g := groupAt d (groupField o)
     headReady (collDev op) 3 0 = some (invOf op) ∧ headErr d 3 0 (invOf op) = none ∧ groupErr d o = none ∧ collBad o g true = false ∧
       g.n = 1 ∧ firstAccess d o.who [(false, o.ten 0, 4), (true, o.ten 1, 4), (true, g.scratch, 256)] = none) := by decide +kernel

/-- An all-reduce whose sums are all read back. -/
def sumsRead : Machine.Inv := { invOf 0x0140 with started := true, phase := 3, pos := 10 }

theorem witness_OperatorsAndPlans_sums : (let d := modHead (collDev 0x0140) 3 0 (fun _ => sumsRead)
    headReady d 3 0 = some sumsRead ∧ 10 * collOutLen (headIn d 3 0 sumsRead) (groupAt d (groupField (headIn d 3 0 sumsRead))) false ≤ sumsRead.pos ∧
      collOut d (headIn d 3 0 sumsRead) = 0) := by decide +kernel

/-- A context at a plan step, on a device whose core 0 is its instance's, whose job 5 lives and is exported pages from 0. -/
def stepDev (p : PlanStep) : Dev :=
  let d := fset (headDev (planOf p) []) (regCorePart 0) fldCorePartOwner 3
  { d with jobs := [(5, { insts := 8, live := true })]
           trn := { d.trn with exports := [(0, { base := 0, len := 0x200000, job := 5, inst := 3, rights := 7 })] } }

/-- A step of each kind. -/
def oneStep (k f0 f1 f2 f3 : Nat) : PlanStep := { kind := k, f0 := f0, f1 := f1, f2 := f2, f3 := f3 }

theorem witness_OperatorsAndPlans_steps : ∀ p ∈ [oneStep 0 0 0 0 0, oneStep 2 1 0 0 0, oneStep 3 0 0 0 0, oneStep 4 3 (2 ^ 48) 0x400 0x440,
    oneStep 4 3 0x400 0x480 0x440, oneStep 5 0x0C (2 ^ 48) 1 0, oneStep 5 0x0D 0x400 1 0x440, oneStep 6 0 0x400 0 0, oneStep 6 0 (2 ^ 48) 0 0, oneStep 7 0 0 0 0, oneStep 8 0 0x400 0 0],
    (let d := beginStep (stepDev p) 3 0 (planOf p)
     headReady (stepDev p) 3 0 = some (planOf p) ∧ planCore (stepDev p) 3 0 = some 0 ∧ ctxReqs d 3 0 = [] ∧ accessErr d (.ctx 3 0) false 0x400 128 = none ∧
       accessErr d (.ctx 3 0) true 0x400 16 = none ∧ (ctxSt d 3 0).detOff = true ∧ issueRefusal d 3 0 3 0x400 = none ∧ issueRefusal d 3 0 0x0C 0 = none ∧
       issueRefusal d 3 0 1 0 = none ∧ countFilled d 0 0 0 = true ∧ headReached d 0 0 0 = true ∧ ownEndpoint d = 0 ∧
       (∀ op ∈ [3, 0x0C, 0x0D], homeRefusal d op { dst := 0, src := 0, job := 5, addr := 0x400, cls := 0 } = none) ∧
       (match ownLine d 3 0 0x400 with
        | .rsp 0x81 r => !r.poison
        | _ => false) = true) := by decide +kernel

/-- An operator as a plan's step, its images at 0x500 and a parameter block of zeros at 64. -/
theorem witness_OperatorsAndPlans_operator : (let v := planOf (oneStep 1 0x0105 0 0x500 0)
    let d := devWrite (headDev v []) 0x520 (natLe 8 64) false
    headReady d 3 0 = some v ∧ headOp v = some 0x0105 ∧ headErr (beginStep d 3 0 v) 3 0 v = none) := by decide +kernel

theorem witness_CommandsChecked : (let f := fun (i q op tgt : Nat) (args : List Nat) => match takeCmd (askDev workCtx i q op tgt args) i q op with
      | some (c, d) => cmdErr d i q c
      | none => none
    f 3 0 0x0021 0 [] = some (0x3A05, 0) ∧ f 3 0 0x0003 0 [] = some (0x3A04, 0) ∧ f 3 1 0x0021 0 [0, 0, 9] = some (0x3A03, 9) ∧
      f 0 0 0x0003 7 [] = some (0x3A03, 7)) := by decide +kernel

end Sys2Proof.Tests
end

section
/-! ### A step and the queue (O1) -/

namespace Sys2Proof.Machine

/-- Settles O1: the two forms of the queue, and `onDev` for the cycle of an empty one. -/
theorem stepRunsFront : Obligations.StepRunsFront := by
  unfold Obligations.StepRunsFront
  refine ⟨fun c rest s => step_cons rfl, fun s hq hr => ?_, fun s hq hr => ?_⟩
  · rw [step_nil hq, clockTick, onDev_runs hr]
  · rw [step_nil hq, clockTick]
    by_cases hp : s.perstN = true
    · have ha : alive s.dev = false := by simpa [Runs, hp] using hr
      exact onDev_dead ha _
    · exact onDev_low (by simpa using hp) _

end Sys2Proof.Machine
end

section
/-! ### Registers and the values in force -/

namespace Sys2Proof.Machine

theorem getReg_lt (d : Dev) (k : Nat) : getReg d k < 2 ^ 64 := BitVec.isLt _

theorem getAct_of_act {d e : Dev} (h : d.act = e.act) (k : Nat) : getAct d k = getAct e k := by
  simp [getAct, h]

theorem getAct_setAct_self (d : Dev) (k v : Nat) : getAct (setAct d k v) k = v % 2 ^ 64 := by
  simp [getAct, setAct, tget_tset_self]

theorem getAct_setAct_ne (d : Dev) {k j : Nat} (h : j ≠ k) (v : Nat) : getAct (setAct d k v) j = getAct d j := by
  simp [getAct, setAct, tget_tset_ne _ _ h]

theorem commitReg_eq (d : Dev) (k : Nat) : commitReg d k = setAct d k (getReg d k) := rfl

theorem getAct_commitReg_self (d : Dev) (k : Nat) : getAct (commitReg d k) k = getReg d k := by
  rw [commitReg_eq, getAct_setAct_self, Nat.mod_eq_of_lt (getReg_lt d k)]

theorem getAct_commitReg_ne (d : Dev) {k j : Nat} (h : j ≠ k) : getAct (commitReg d k) j = getAct d j :=
  getAct_setAct_ne d h _

/-- A number with a field replaced, in its three parts: above the field, the field, below it. -/
theorem setBits_eq (v lo w x : Nat) : setBits v lo w x = 2 ^ lo * (2 ^ w * (v / 2 ^ lo / 2 ^ w) + x % 2 ^ w) + v % 2 ^ lo := by
  have h1 := Nat.div_add_mod (v / 2 ^ lo) (2 ^ w)
  have h2 := Nat.div_add_mod v (2 ^ lo)
  have hb : bitsAt v lo w = v / 2 ^ lo % 2 ^ w := by rw [bitsAt, Nat.shiftRight_eq_div_pow]
  rw [setBits, hb]
  generalize v / 2 ^ lo / 2 ^ w = top at *
  generalize v / 2 ^ lo % 2 ^ w = mid at *
  generalize v % 2 ^ lo = low at *
  rw [← h1] at h2
  rw [← h2]
  have e : 2 ^ lo * (2 ^ w * top + mid) + low - mid * 2 ^ lo = 2 ^ lo * (2 ^ w * top) + low := by
    rw [Nat.mul_add, Nat.mul_comm mid]
    omega
  rw [e, Nat.mul_add, Nat.mul_comm (2 ^ lo) (x % 2 ^ w)]
  omega

/-- A field holds what it was set to, cut to its width. -/
theorem bitsAt_setBits_self (v lo w x : Nat) : bitsAt (setBits v lo w x) lo w = x % 2 ^ w := by
  rw [bitsAt, Nat.shiftRight_eq_div_pow, setBits_eq, Nat.mul_add_div (Nat.two_pow_pos lo),
    Nat.div_eq_of_lt (Nat.mod_lt _ (Nat.two_pow_pos lo)), Nat.add_zero, Nat.mul_add_mod, Nat.mod_mod]

/-- A field within a word is the same of a number cut to the word. -/
theorem bitsAt_mod {n lo w : Nat} (h : lo + w ≤ n) (v : Nat) : bitsAt (v % 2 ^ n) lo w = bitsAt v lo w := by
  apply Nat.eq_of_testBit_eq
  intro i
  simp only [bitsAt, Nat.testBit_mod_two_pow, Nat.testBit_shiftRight]
  by_cases hi : i < w
  · simp [hi, show lo + i < n by omega]
  · simp [hi]

/-- A field of a register reads back what it was set to, cut to its width. -/
theorem fget_fset_self {f : Fld} (h : f.lo + f.w ≤ 64) (d : Dev) (k v : Nat) : fget (fset d k f v) k f = v % 2 ^ f.w := by
  rw [fget, fset_eq, getReg_setReg_self, bitsAt_mod h, bitsAt_setBits_self]

end Sys2Proof.Machine
end

section
/-! ### CORE_COMMIT (O9) -/

namespace Sys2Proof.Machine

/-- What a commit does to the descriptor list of one stream of a core (R123). -/
def commitList (c : Nat) (d : Dev) (s : Nat) : Dev :=
  let k := regCoreStrmDesc c s
  if fget d k fldCoreStrmDescDescBase = fact d k fldCoreStrmDescDescBase then commitReg d k
  else fset (commitReg d k) (regCoreStrmPtr c s) fldCoreStrmPtrDescNext 0

/-- The shadowed fields of a core put in force, without the start of a context. -/
def commitFields (d : Dev) (c : Nat) : Dev :=
  commitRegs ((List.range 16).foldl (commitList c) { d with unput := d.unput.filter (· != c) }) [regCoreSaveBase c, regCoreCtx c]

/-- The context that `CORE_CTX` puts in force comes to the core (R21, R202). -/
def takeCtx (d : Dev) (c : Nat) : Dev :=
  let i := (coreCtx d c).2.1
  let x := (coreCtx d c).2.2
  if (ctxSt d i x).live then
    let d := if (coreCtx d c).1 = 0 ∧ slotHeld d c then d else setAct d (regCoreCtx c) ((ctxSt d i x).cls * 2048 + i * 16 + x)
    if coreState d c = 0 then startCore d c else d
  else d

theorem coreCommit_unwritten {d : Dev} {c : Nat} (h : d.unput.contains c = false) : coreCommit d c = d := by
  rw [coreCommit, if_pos (by rw [h, Bool.not_false, Bool.or_true])]

theorem coreCommit_written {d : Dev} {c : Nat} (hon : coreOn d c = true) (h : d.unput.contains c = true) :
    coreCommit d c = takeCtx (commitFields d c) c := by
  simp only [coreCommit, hon, h, Bool.not_true, Bool.or_self, Bool.false_eq_true, if_false]
  rfl

/-- A device that differs from another in registers and values in force alone. -/
def OnlyRegs (d t : Dev) : Prop := ∃ a b, t = { d with regs := a, act := b }

theorem OnlyRegs.trans {d t u : Dev} (h : OnlyRegs d t) (k : OnlyRegs t u) : OnlyRegs d u := by
  obtain ⟨a, b, rfl⟩ := h
  obtain ⟨a', b', rfl⟩ := k
  exact ⟨a', b', rfl⟩

theorem commitList_only (c s : Nat) (d : Dev) : OnlyRegs d (commitList c d s) := by
  unfold commitList
  dsimp only
  split <;> exact ⟨_, _, rfl⟩

theorem getReg_commitList (c s : Nat) (d : Dev) {k : Nat} (h : k ≠ regCoreStrmPtr c s) : getReg (commitList c d s) k = getReg d k := by
  unfold commitList
  dsimp only
  split
  · rfl
  · exact getReg_fset_ne _ h _ _

theorem act_commitList (c s : Nat) (d : Dev) : (commitList c d s).act = (commitReg d (regCoreStrmDesc c s)).act := by
  unfold commitList
  dsimp only
  split <;> rfl

section
variable (c : Nat) (ss : List Nat)

theorem foldl_commitList_only (d : Dev) : OnlyRegs d (ss.foldl (commitList c) d) := by
  induction ss generalizing d with
  | nil => exact ⟨_, _, rfl⟩
  | cons s ss ih => exact (commitList_only c s d).trans (ih _)

theorem getReg_foldl_commitList (d : Dev) {k : Nat} (h : ∀ s ∈ ss, k ≠ regCoreStrmPtr c s) :
    getReg (ss.foldl (commitList c) d) k = getReg d k := by
  induction ss generalizing d with
  | nil => rfl
  | cons s ss ih =>
    rw [List.foldl_cons, ih _ fun n hn => h n (List.mem_cons_of_mem s hn), getReg_commitList c s d (h s List.mem_cons_self)]

theorem getAct_foldl_commitList_ne (d : Dev) {k : Nat} (h : ∀ s ∈ ss, k ≠ regCoreStrmDesc c s) :
    getAct (ss.foldl (commitList c) d) k = getAct d k := by
  induction ss generalizing d with
  | nil => rfl
  | cons s ss ih =>
    rw [List.foldl_cons, ih _ fun n hn => h n (List.mem_cons_of_mem s hn), getAct_of_act (act_commitList c s d),
      getAct_commitReg_ne d (h s List.mem_cons_self)]

theorem strmDesc_ne_strmPtr (c n s : Nat) : regCoreStrmDesc c n ≠ regCoreStrmPtr c s := by
  simp only [regCoreStrmDesc, regCoreStrmPtr]
  omega

theorem getAct_foldl_commitList (d : Dev) {n : Nat} (h : n ∈ ss) :
    getAct (ss.foldl (commitList c) d) (regCoreStrmDesc c n) = getReg d (regCoreStrmDesc c n) := by
  induction ss generalizing d with
  | nil => cases h
  | cons s ss ih =>
    rw [List.foldl_cons]
    by_cases hn : n ∈ ss
    · rw [ih _ hn, getReg_commitList c s d (strmDesc_ne_strmPtr c n s)]
    · obtain rfl : n = s := by simpa [hn] using h
      have hne : ∀ m ∈ ss, regCoreStrmDesc c n ≠ regCoreStrmDesc c m := by
        rintro m hm e
        have : n = m := by simp only [regCoreStrmDesc] at e; omega
        exact hn (this ▸ hm)
      rw [getAct_foldl_commitList_ne c ss _ hne, getAct_of_act (act_commitList c n d), getAct_commitReg_self]

end

/-! What the commit of the fields leaves and puts in force. -/

theorem commitFields_only (d : Dev) (c : Nat) : OnlyRegs { d with unput := d.unput.filter (· != c) } (commitFields d c) :=
  (foldl_commitList_only c _ _).trans ⟨_, _, rfl⟩

theorem commitFields_keeps (d : Dev) (c : Nat) :
    (commitFields d c).mem = d.mem ∧ (commitFields d c).poison = d.poison ∧ (commitFields d c).ctxs = d.ctxs ∧
      (commitFields d c).flt = d.flt ∧ (commitFields d c).strms = d.strms ∧ (commitFields d c).cores = d.cores ∧
      (commitFields d c).heat = d.heat := by
  obtain ⟨a, b, h⟩ := commitFields_only d c
  simp only [h, and_self]

theorem getReg_commitFields (d : Dev) (c : Nat) {k : Nat} (h : ∀ s < 16, k ≠ regCoreStrmPtr c s) : getReg (commitFields d c) k = getReg d k :=
  getReg_foldl_commitList c _ _ fun s hs => h s (List.mem_range.1 hs)

theorem saveBase_ne_strmPtr (c s : Nat) : regCoreSaveBase c ≠ regCoreStrmPtr c s := by
  simp only [regCoreSaveBase, regCoreStrmPtr]
  omega

theorem coreCtx_ne_strmPtr (c s : Nat) : regCoreCtx c ≠ regCoreStrmPtr c s := by
  simp only [regCoreCtx, regCoreStrmPtr]
  omega

theorem corePart_ne_strmPtr (c s : Nat) : regCorePart c ≠ regCoreStrmPtr c s := by
  simp only [regCorePart, regCoreStrmPtr]
  omega

theorem coreStatus_ne_strmPtr (c s : Nat) : regCoreStatus c ≠ regCoreStrmPtr c s := by
  simp only [regCoreStatus, regCoreStrmPtr]
  omega

theorem getAct_commitFields_saveBase (d : Dev) (c : Nat) : getAct (commitFields d c) (regCoreSaveBase c) = getReg d (regCoreSaveBase c) := by
  have hne : regCoreSaveBase c ≠ regCoreCtx c := by simp only [regCoreSaveBase, regCoreCtx]; omega
  rw [commitFields, commitRegs, List.foldl_cons, List.foldl_cons, List.foldl_nil, getAct_commitReg_ne _ hne, getAct_commitReg_self]
  exact getReg_foldl_commitList c _ _ fun s _ => saveBase_ne_strmPtr c s

theorem getAct_commitFields_ctx (d : Dev) (c : Nat) : getAct (commitFields d c) (regCoreCtx c) = getReg d (regCoreCtx c) := by
  rw [commitFields, commitRegs, List.foldl_cons, List.foldl_cons, List.foldl_nil, getAct_commitReg_self]
  exact getReg_foldl_commitList c _ _ fun s _ => coreCtx_ne_strmPtr c s

theorem getAct_commitFields_desc (d : Dev) (c : Nat) {n : Nat} (h : n < 16) :
    getAct (commitFields d c) (regCoreStrmDesc c n) = getReg d (regCoreStrmDesc c n) := by
  have h1 : regCoreStrmDesc c n ≠ regCoreSaveBase c := by simp only [regCoreSaveBase, regCoreStrmDesc]; omega
  have h2 : regCoreStrmDesc c n ≠ regCoreCtx c := by simp only [regCoreCtx, regCoreStrmDesc]; omega
  rw [commitFields, commitRegs, List.foldl_cons, List.foldl_cons, List.foldl_nil, getAct_commitReg_ne _ h2, getAct_commitReg_ne _ h1]
  exact getAct_foldl_commitList c _ _ (List.mem_range.2 h)

/-! What the context that comes to the core changes. -/

/-- Work on an island that is not held below the floor clock has no further effect (R17). -/
theorem islandWork_of_floor {d : Dev} {n : Nat} (h : belowFloor d n = false) : islandWork d n = d := by
  simp [islandWork, h]

/-- Whether the context that `CORE_CTX` names in force is live. -/
def ctxLive (d : Dev) (c : Nat) : Bool := (ctxSt d (coreCtx d c).2.1 (coreCtx d c).2.2).live

/-- The class of a live context in place of the written one, but for slot work on a reserved core (R21, R202). -/
def classCtx (d : Dev) (c : Nat) : Dev :=
  if ctxLive d c ∧ ¬ ((coreCtx d c).1 = 0 ∧ slotHeld d c) then
    setAct d (regCoreCtx c) ((ctxSt d (coreCtx d c).2.1 (coreCtx d c).2.2).cls * 2048 + (coreCtx d c).2.1 * 16 + (coreCtx d c).2.2)
  else d

theorem classCtx_only (d : Dev) (c : Nat) : ∃ b, classCtx d c = { d with act := b } := by
  unfold classCtx
  split <;> exact ⟨_, rfl⟩

theorem getAct_classCtx_ne (d : Dev) (c : Nat) {k : Nat} (h : k ≠ regCoreCtx c) : getAct (classCtx d c) k = getAct d k := by
  unfold classCtx
  split
  · exact getAct_setAct_ne d h _
  · rfl

theorem getAct_classCtx (d : Dev) (c : Nat) : getAct (classCtx d c) (regCoreCtx c) =
    if ctxLive d c ∧ ¬ ((coreCtx d c).1 = 0 ∧ slotHeld d c) then
      ((ctxSt d (coreCtx d c).2.1 (coreCtx d c).2.2).cls * 2048 + (coreCtx d c).2.1 * 16 + (coreCtx d c).2.2) % 2 ^ 64
    else getAct d (regCoreCtx c) := by
  unfold classCtx
  split
  · exact getAct_setAct_self d _ _
  · rfl

/-- On an island that is not held below the floor clock, a live context starts on an idle core, and nothing else happens. -/
theorem takeCtx_eq {d : Dev} {c : Nat} (hf : belowFloor d c = false) : takeCtx d c =
    if coreState d c = 0 ∧ ctxLive d c then
      modCore (setCoreState (classCtx d c) c 1) c (fun k => { k with since := tb2 (classCtx d c) })
    else classCtx d c := by
  have hs : coreState (classCtx d c) c = coreState d c := by
    obtain ⟨b, h⟩ := classCtx_only d c
    rw [h]; rfl
  have hw : belowFloor (modCore (setCoreState (classCtx d c) c 1) c (fun k => { k with since := tb2 (classCtx d c) })) c = false := by
    obtain ⟨b, h⟩ := classCtx_only d c
    rw [h]; exact hf
  by_cases hl : ctxLive d c = true
  · have ht : takeCtx d c = if coreState (classCtx d c) c = 0 then startCore (classCtx d c) c else classCtx d c := by
      unfold takeCtx classCtx
      simp only [hl, true_and, ite_not]
      exact if_pos hl
    rw [ht, hs]
    simp only [hl, and_true]
    split
    · rw [startCore]
      exact islandWork_of_floor hw
    · rfl
  · have hl' : ctxLive d c = false := by simpa using hl
    have h1 : takeCtx d c = d := by
      rw [takeCtx]
      exact if_neg hl
    rw [h1, classCtx]
    simp [hl']

/-- What a context that comes to a core leaves as it was. -/
theorem takeCtx_keeps {d : Dev} {c : Nat} (hf : belowFloor d c = false) :
    (takeCtx d c).mem = d.mem ∧ (takeCtx d c).poison = d.poison ∧ (takeCtx d c).ctxs = d.ctxs ∧ (takeCtx d c).flt = d.flt ∧
      (takeCtx d c).strms = d.strms ∧ ∀ k, k ≠ c → coreSt (takeCtx d c) k = coreSt d k := by
  obtain ⟨b, h⟩ := classCtx_only d c
  rw [takeCtx_eq hf, h]
  split
  · exact ⟨rfl, rfl, rfl, rfl, rfl, fun k hk => tget_tset_ne _ _ hk _⟩
  · exact ⟨rfl, rfl, rfl, rfl, rfl, fun k _ => rfl⟩

theorem getReg_takeCtx {d : Dev} {c : Nat} (hf : belowFloor d c = false) {k : Nat} (h : k ≠ regCoreStatus c) :
    getReg (takeCtx d c) k = getReg d k := by
  obtain ⟨b, hb⟩ := classCtx_only d c
  rw [takeCtx_eq hf, hb]
  split
  · exact getReg_fset_ne _ h _ _
  · rfl

theorem act_takeCtx {d : Dev} {c : Nat} (hf : belowFloor d c = false) : (takeCtx d c).act = (classCtx d c).act := by
  rw [takeCtx_eq hf]
  split <;> rfl

theorem coreState_takeCtx {d : Dev} {c : Nat} (hf : belowFloor d c = false) :
    coreState (takeCtx d c) c = if coreState d c = 0 ∧ ctxLive d c then 1 else coreState d c := by
  obtain ⟨b, hb⟩ := classCtx_only d c
  rw [takeCtx_eq hf, hb]
  split
  · exact fget_fset_self (f := fldCoreStatusState) (by decide) _ _ _
  · rfl

/-- Settles O9: the fields of the commit, then the context that comes to the core. -/
theorem coreCommits : Obligations.CoreCommits := by
  unfold Obligations.CoreCommits
  intro s c hr hon
  have hx : exec (.coreCommit c) s = .next { s with dev := coreCommit s.dev c } :=
    onDev_runs hr (fun d => coreCommit d c)
  refine ⟨fun hu => ?_, fun hu => ⟨_, hx, fun hf => ?_⟩⟩
  · rw [hx, coreCommit_unwritten hu]
  intro v cls i x live
  obtain ⟨hmem, hpoison, hctxs, hflt, hstrms, hcores, hheat⟩ := commitFields_keeps s.dev c
  have hf' : belowFloor (commitFields s.dev c) c = false := by
    rw [belowFloor, heatOf, hheat]; exact hf
  have hctx : coreCtx (commitFields s.dev c) c = (cls, i, x) := by
    simp only [coreCtx, fact, getAct_commitFields_ctx, cls, i, x, v]
  have hst : coreState (commitFields s.dev c) c = coreState s.dev c := by
    rw [coreState, fget, getReg_commitFields _ _ fun n _ => coreStatus_ne_strmPtr c n]; rfl
  have hheld : slotHeld (commitFields s.dev c) c = slotHeld s.dev c := by
    rw [slotHeld, fget, getReg_commitFields _ _ fun n _ => corePart_ne_strmPtr c n]; rfl
  have hcs : ctxSt (commitFields s.dev c) i x = ctxSt s.dev i x := by rw [ctxSt, hctxs]; rfl
  have hlive : ctxLive (commitFields s.dev c) c = live := by rw [ctxLive, hctx, hcs]
  dsimp only
  rw [coreCommit_written hon hu]
  obtain ⟨kmem, kpoison, kctxs, kflt, kstrms, kcores⟩ := takeCtx_keeps hf'
  have hact := getAct_of_act (act_takeCtx hf')
  refine ⟨?_, ?_, fun n => ?_, fun k hp hk => ?_, kmem.trans hmem, kpoison.trans hpoison, kctxs.trans hctxs, kflt.trans hflt,
    kstrms.trans hstrms, fun k hk => (kcores k hk).trans ?_, ?_⟩
  · have hne : regCoreSaveBase c ≠ regCoreCtx c := by simp only [regCoreSaveBase, regCoreCtx]; omega
    rw [hact, getAct_classCtx_ne _ _ hne, getAct_commitFields_saveBase]
  · rw [hact, getAct_classCtx, hlive, hctx, hheld, hcs, getAct_commitFields_ctx]
  · have hne : regCoreStrmDesc c n ≠ regCoreCtx c := by simp only [regCoreStrmDesc, regCoreCtx]; omega
    rw [hact, getAct_classCtx_ne _ _ hne, getAct_commitFields_desc _ _ n.isLt]
  · rw [getReg_takeCtx hf' hk, getReg_commitFields _ _ fun n hn => hp ⟨n, hn⟩]
  · rw [coreSt, hcores]; rfl
  · rw [coreState_takeCtx hf', hst, hlive]

end Sys2Proof.Machine
end

section
/-! ### The bits of a register write (O19) -/

namespace Sys2Proof.Machine

theorem testBit_foldl_or (m : FldDesc → Nat) (l : List FldDesc) (a b : Nat) :
    (l.foldl (fun a x => a ||| m x) a).testBit b = (a.testBit b || l.any (fun x => (m x).testBit b)) := by
  induction l generalizing a with
  | nil => simp
  | cons x l ih => rw [List.foldl_cons, ih, Nat.testBit_or, List.any_cons, Bool.or_assoc]

theorem testBit_fieldBits (r : RegDesc) (f : FldDesc → Bool) (b : Nat) : (fieldBits r f).testBit b = bitIn r f b := by
  have hx : ∀ x : FldDesc, ((2 ^ x.w - 1) * 2 ^ x.lo).testBit b = (decide (x.lo ≤ b) && decide (b < x.lo + x.w)) := by
    intro x
    rw [Nat.testBit_mul_two_pow, Nat.testBit_two_pow_sub_one]
    by_cases h : x.lo ≤ b
    · simp only [h, decide_true, Bool.true_and, decide_eq_decide]
      omega
    · simp [h]
  rw [fieldBits, testBit_foldl_or, Nat.zero_testBit, Bool.false_or, List.any_filter, bitIn]
  simp only [hx]

theorem testBit_mergeBits (old mask v b : Nat) :
    (mergeBits old mask v).testBit b = if mask.testBit b then v.testBit b else old.testBit b := by
  rw [mergeBits, Nat.testBit_xor, Nat.testBit_and, Nat.testBit_xor]
  cases mask.testBit b <;> simp

/-- A field of class Q whose part runs: a write leaves it (R8, R11). -/
def heldFld (d : Dev) (key : Nat) (x : FldDesc) : Bool := x.cls == .q && !partStopped d (partOf key)

/-- The bits that a write of `mask` takes from the value: those of the RW fields that are not held. -/
def takesBit (d : Dev) (r : RegDesc) (key : Nat) (b : Nat) : Bool := bitIn r (fun x => x.acc == .rw && !heldFld d key x) b

/-- The bits that a write of ones clears. -/
def clearsBit (r : RegDesc) (b : Nat) : Bool := bitIn r (fun x => x.acc == .w1c) b

theorem testBit_mergeWrite (d : Dev) (r : RegDesc) (key m v b : Nat) :
    (mergeWrite d r key m v).1.testBit b =
      ((if m.testBit b && takesBit d r key b then v.testBit b else (getReg d key).testBit b) && !(clearsBit r b && m.testBit b && v.testBit b)) := by
  have hrw : (fun x : FldDesc => x.acc == .rw && !(!partStopped d (partOf key) && x.cls == .q)) =
      fun x => x.acc == .rw && !heldFld d key x := by
    funext x
    rw [heldFld, Bool.and_comm (x.cls == .q)]
  simp only [mergeWrite, Nat.testBit_xor, Nat.testBit_and, testBit_mergeBits, testBit_fieldBits, hrw, takesBit, clearsBit]
  have hx : ∀ n k : Bool, (n ^^ (n && k)) = (n && !k) := by decide
  rw [hx]
  rfl

theorem mergeWrite_snd (d : Dev) (r : RegDesc) (key m v : Nat) :
    (mergeWrite d r key m v).2 = r.flds.any (fun x => heldFld d key x && touches m x) := by
  simp only [mergeWrite, heldFld]
  cases partStopped d (partOf key) <;> simp

/-! What the register tables hold. -/

/-- The registers of the device space. -/
def deviceRegs : List RegDesc :=
  regTable1 ++ regTable2 ++ regTable3 ++ regTable4 ++ regTable5 ++ regTable6 ++ regTable7 ++ regTable8 ++ regTable9 ++ regTable10 ++
    regTable11 ++ regTable12

theorem regAt_device {key : Nat} {r : RegDesc} (h : regAt key = some r) (hk : key < 0x100000000) : r ∈ deviceRegs ∧ r.covers key = true := by
  have hm := List.mem_of_find?_eq_some h
  refine ⟨?_, List.find?_some (p := fun r : RegDesc => r.covers key) h⟩
  rw [regTableOf, if_neg (by omega)] at hm
  simp only [deviceRegs, List.mem_append]
  split at hm
  any_goals exact absurd hm List.not_mem_nil
  all_goals simp only [hm, or_true, true_or]

/-- The registers whose writing starts an operation, or whose change waits for a carrier's slot boundary. -/
def actionBases : List Nat :=
  [regFhuGrpCfg 0, regArrCtrl 0, regCoreCtrl 0, regSigCtrl 0, regPierChCtrl 0 0, regFlsChCtrl 0, regTrnPortCtrl 0, regTimeSel, regTimeSetSub,
    regTimeTpoCtrl 0, regTimeTciCtrl 0, regTstLbCtrl, regTstCalEth, regMbxRingCfg 0 0, regMbxSqTail 0 0, regMbxCqHead 0 0,
    regCoreStrmCfg 0 0, regRadioCarCtrl 0, regRadioDarner, regTrnGw, regTstBist, regTimeSpLend]

/-- The registers whose L fields wait for a boundary while their carrier is enabled. -/
def carrierBases : List Nat := [regRadioCarGain 0, regRadioCarRxref 0, regRadioCarTrk 0, regRadioCarLdpc 0, regFhuCarWin 0, regFhuCarLead 0]

/-- Two fields share no bit. -/
def apart (x y : FldDesc) : Bool := decide (x.lo + x.w ≤ y.lo) || decide (y.lo + y.w ≤ x.lo)

/-- What every entry of the register tables meets. -/
def regSound (r : RegDesc) : Bool :=
  decide (r.width ≤ 64) && decide (r.flds.Pairwise (fun x y => apart x y = true)) && r.flds.all (fun x => x.cls != .q || x.acc == .rw) &&
    (!plainReg r || !actionBases.contains r.base) &&
    (!carrierBases.contains r.base || (r.stride1 == 64 && r.count1 == 512 && r.stride2 == 1 && r.count2 == 1))

theorem deviceRegs_sound : deviceRegs.all regSound = true := by decide +kernel

section
variable {r : RegDesc}

theorem regSound_of_mem (h : r ∈ deviceRegs) : regSound r = true := List.all_eq_true.1 deviceRegs_sound r h

theorem width_le (h : r ∈ deviceRegs) : r.width ≤ 64 := by
  have hs := regSound_of_mem h
  simp only [regSound, Bool.and_eq_true, decide_eq_true_eq] at hs
  exact hs.1.1.1.1

theorem flds_apart (h : r ∈ deviceRegs) : r.flds.Pairwise (fun x y => apart x y = true) := by
  have hs := regSound_of_mem h
  simp only [regSound, Bool.and_eq_true, decide_eq_true_eq] at hs
  exact hs.1.1.1.2

theorem rw_of_q (h : r ∈ deviceRegs) {x : FldDesc} (hx : x ∈ r.flds) (hq : (x.cls == .q) = true) : (x.acc == .rw) = true := by
  have hs := regSound_of_mem h
  simp only [regSound, Bool.and_eq_true, List.all_eq_true] at hs
  simpa [bne, hq] using hs.1.1.2 x hx

theorem base_not_action (h : r ∈ deviceRegs) (hp : plainReg r = true) : r.base ∉ actionBases := by
  have hs := regSound_of_mem h
  simp only [regSound, Bool.and_eq_true, hp, Bool.not_true, Bool.false_or, Bool.not_eq_true'] at hs
  simpa using hs.1.2

theorem copies_of_carrier (h : r ∈ deviceRegs) (hb : r.base ∈ carrierBases) :
    r.stride1 = 64 ∧ r.count1 = 512 ∧ r.stride2 = 1 ∧ r.count2 = 1 := by
  have hs := regSound_of_mem h
  have hb' : carrierBases.contains r.base = true := by simpa using hb
  simp only [regSound, Bool.and_eq_true, hb', Bool.not_true, Bool.false_or, beq_iff_eq, and_assoc] at hs
  exact hs.2.2.2.2

theorem apart_comm (x y : FldDesc) : apart x y = apart y x := Bool.or_comm _ _

theorem apart_of_ne {l : List FldDesc} (hl : l.Pairwise (fun x y => apart x y = true)) {x y : FldDesc} (hx : x ∈ l) (hy : y ∈ l)
    (hne : x ≠ y) : apart x y = true := by
  induction hl with
  | nil => exact absurd hx List.not_mem_nil
  | cons hz _ ih =>
    rcases List.mem_cons.1 hx with rfl | hxl
    · exact hz y ((List.mem_cons.1 hy).resolve_left (Ne.symm hne))
    · rcases List.mem_cons.1 hy with rfl | hyl
      · rw [apart_comm]
        exact hz x hxl
      · exact ih hxl hyl

/-- A bit lies in one field of a register at most. -/
theorem bitIn_unique (h : r ∈ deviceRegs) {f g : FldDesc → Bool} {b : Nat} (hf : bitIn r f b = true) (hg : bitIn r g b = true) :
    ∃ x ∈ r.flds, f x = true ∧ g x = true := by
  obtain ⟨x, hx, hfx⟩ := List.any_eq_true.1 hf
  obtain ⟨y, hy, hgy⟩ := List.any_eq_true.1 hg
  simp only [Bool.and_eq_true, decide_eq_true_eq] at hfx hgy
  obtain rfl : x = y := by
    refine Classical.byContradiction fun hne => ?_
    have ha := apart_of_ne (flds_apart h) hx hy hne
    simp only [apart, Bool.or_eq_true, decide_eq_true_eq] at ha
    omega
  exact ⟨x, hx, hfx.1, hgy.1⟩

theorem not_takes_and_clears (h : r ∈ deviceRegs) (d : Dev) (key b : Nat) : (takesBit d r key b && clearsBit r b) = false := by
  refine Bool.eq_false_iff.2 fun hc => ?_
  rw [Bool.and_eq_true] at hc
  obtain ⟨x, -, hrw, hw⟩ := bitIn_unique h hc.1 hc.2
  simp only [Bool.and_eq_true, beq_iff_eq] at hrw hw
  exact absurd (hrw.1.symm.trans hw) (by decide)

/-- A write leaves the bits of a field that is held. -/
theorem held_kept (h : r ∈ deviceRegs) (d : Dev) {key b : Nat} (m v : Nat) (hb : bitIn r (heldFld d key) b = true) :
    (mergeWrite d r key m v).1.testBit b = (getReg d key).testBit b := by
  have ht : takesBit d r key b = false := by
    refine Bool.eq_false_iff.2 fun hc => ?_
    obtain ⟨x, -, hx, hh⟩ := bitIn_unique h hc hb
    simp [hh] at hx
  have hw : clearsBit r b = false := by
    refine Bool.eq_false_iff.2 fun hc => ?_
    obtain ⟨x, hx, hw, hh⟩ := bitIn_unique h hc hb
    have hq : (x.cls == .q) = true := by
      rw [heldFld, Bool.and_eq_true] at hh
      exact hh.1
    have hrw := rw_of_q h hx hq
    simp only [beq_iff_eq] at hrw hw
    exact absurd (hrw.symm.trans hw) (by decide)
  rw [testBit_mergeWrite, ht, hw]
  simp

/-- The bits of the value that a write of `m` gives a register (R7, R8, R11). -/
theorem mergeWrite_bits (h : r ∈ deviceRegs) (d : Dev) (key mask v b : Nat) :
    (mergeWrite d r key (mask % 2 ^ r.width) (v % 2 ^ r.width)).1.testBit b =
      if (mask % 2 ^ r.width).testBit b = true ∧ takesBit d r key b = true then v.testBit b
      else if (mask % 2 ^ r.width).testBit b = true ∧ v.testBit b = true ∧ clearsBit r b = true then false
      else (getReg d key).testBit b := by
  have hd := not_takes_and_clears h d key b
  rw [testBit_mergeWrite, Nat.testBit_mod_two_pow, Nat.testBit_mod_two_pow]
  by_cases hb : b < r.width
  · simp only [hb, decide_true, Bool.true_and]
    revert hd
    cases takesBit d r key b <;> cases clearsBit r b <;> cases mask.testBit b <;> cases v.testBit b <;> simp
  · simp [hb]

theorem mergeWrite_lt (h : r ∈ deviceRegs) (d : Dev) (key mask v : Nat) :
    (mergeWrite d r key (mask % 2 ^ r.width) (v % 2 ^ r.width)).1 < 2 ^ 64 := by
  apply Nat.lt_pow_two_of_testBit
  intro i hi
  have hm : (mask % 2 ^ r.width).testBit i = false := by
    rw [Nat.testBit_mod_two_pow, decide_eq_false (by have := width_le h; omega), Bool.false_and]
  have ho : (getReg d key).testBit i = false :=
    Nat.testBit_lt_two_pow (Nat.lt_of_lt_of_le (getReg_lt d key) (Nat.pow_le_pow_right (by decide) hi))
  simp [mergeWrite_bits h, hm, ho]

end

/-! What a register write with no row of its own does. -/

theorem noteUnput_only (d : Dev) (r : RegDesc) (p : RegPart) : ∃ u, noteUnput d r p = { d with unput := u } := by
  unfold noteUnput
  dsimp only
  split
  · split <;> exact ⟨_, rfl⟩
  · exact ⟨_, rfl⟩

theorem actMem_plain {base : Nat} (hb : base ∉ actionBases) (d : Dev) (key was v act : Nat) : actMem d base key was v act = d := by
  simp only [actionBases, List.mem_cons, not_or] at hb
  obtain ⟨h1, h2, h3, h4, h5, h6, h7, -⟩ := hb
  rw [actMem, if_neg h1, if_neg h2, if_neg h3, if_neg h4, if_neg h5, if_neg h6, if_neg h7]

theorem actSys_plain {base : Nat} (hb : base ∉ actionBases) (d : Dev) (key was v act : Nat) : actSys d base key was v act = d := by
  simp only [actionBases, List.mem_cons, not_or] at hb
  obtain ⟨-, -, -, -, -, -, -, h1, h2, h3, h4, h5, h6, h7, h8, h9, -⟩ := hb
  rw [actSys, if_neg h1, if_neg h2, if_neg h3, if_neg h4, if_neg h5, if_neg h6, if_neg h7, if_neg h8, if_neg h9]

/-- The write of a value that is new. -/
def takeValue (d : Dev) (r : RegDesc) (key was new : Nat) : Dev := if new = was then d else storeReg d r key new

/-- A register write with no row of its own: the reject of a held Q field, the note of a shadowed one, then the value, or the discard of one
out of range (R7-R11). -/
theorem writeReg_plain {r : RegDesc} (hb : r.base ∉ actionBases) (d : Dev) (key m v : Nat) :
    writeReg d r key m v =
      let new := (mergeWrite d r key m v).1
      let q := (mergeWrite d r key m v).2
      let touched := r.flds.any (fun x => x.acc == .rw && touches m x)
      let d1 := if q then partReject d (partOf key) key else d
      let d2 := if touched then noteUnput d1 r (partOf key) else d1
      if !(!touched || regInRange d r.base key m new) then (if q then d2 else partReject d2 (partOf key) key)
      else takeValue d2 r key (getReg d key) new := by
  have hb' := hb
  simp only [actionBases, List.mem_cons, not_or] at hb'
  obtain ⟨-, -, -, -, -, -, -, -, -, -, -, -, -, -, -, -, h1, h2, h3, h4, h5, -⟩ := hb'
  simp only [writeReg, if_neg h1, if_neg h2, if_neg h3, if_neg h4, if_neg h5, actMem_plain hb, actSys_plain hb, takeValue]

/-- A write in range, by whether a held field is touched and whether an RW field is. -/
theorem writeReg_accepted {r : RegDesc} (hb : r.base ∉ actionBases) {d : Dev} {key m v : Nat}
    (hin : regInRange d r.base key m (mergeWrite d r key m v).1 = true) :
    writeReg d r key m v =
      let d1 := if (mergeWrite d r key m v).2 then partReject d (partOf key) key else d
      takeValue (if r.flds.any (fun x => x.acc == .rw && touches m x) then noteUnput d1 r (partOf key) else d1) r key (getReg d key)
        (mergeWrite d r key m v).1 := by
  rw [writeReg_plain hb]
  exact if_neg (by simp [hin])

/-- A write out of range of an RW field. -/
theorem writeReg_discarded {r : RegDesc} (hb : r.base ∉ actionBases) {d : Dev} {key m v : Nat}
    (hin : regInRange d r.base key m (mergeWrite d r key m v).1 = false) (ht : r.flds.any (fun x => x.acc == .rw && touches m x) = true) :
    writeReg d r key m v =
      if (mergeWrite d r key m v).2 then noteUnput (partReject d (partOf key) key) r (partOf key)
      else partReject (noteUnput d r (partOf key)) (partOf key) key := by
  rw [writeReg_plain hb]
  dsimp only
  rw [if_pos (by simp [hin, ht]), if_pos ht]
  split <;> rfl

theorem regWrite_device {d : Dev} {key : Nat} {r : RegDesc} (hat : regAt key = some r) (hk : key < 0x100000000) (hf : fusedOff d key = false)
    (mask v : Nat) : regWrite d key mask v = writeReg d r key (mask % 2 ^ r.width) (v % 2 ^ r.width) := by
  have hbar : decide (0x100000000 ≤ key) = false := decide_eq_false (by omega)
  simp only [regWrite, hbar, Bool.false_and, Bool.false_eq_true, if_false, hf, hat]

/-- A new value of a register stands in no carrier's control or status, so a carrier is enabled as it was. -/
theorem carEnabled_setReg {r : RegDesc} {key : Nat} (hr : r ∈ deviceRegs) (hc : r.covers key = true) (hb : r.base ∈ carrierBases) (d : Dev)
    (v : Nat) : carEnabled (setReg d key v) (carrierOf key) = carEnabled d (carrierOf key) := by
  obtain ⟨h1, h2, h3, h4⟩ := copies_of_carrier hr hb
  simp only [RegDesc.covers, h1, h2, h3, h4, Bool.and_eq_true, decide_eq_true_eq, beq_iff_eq, and_assoc] at hc
  have hne : regRadioCarCtrl (carrierOf key) ≠ key ∧ regRadioCarStatus (carrierOf key) ≠ key := by
    simp only [carrierBases, List.mem_cons, List.not_mem_nil, or_false, regRadioCarGain, regRadioCarRxref, regRadioCarTrk, regRadioCarLdpc,
      regFhuCarWin, regFhuCarLead] at hb
    unfold carrierOf regRadioCarCtrl regRadioCarStatus regFhuCarNet
    split <;> omega
  simp only [carEnabled, carState, fget, getReg_setReg_ne d hne.1, getReg_setReg_ne d hne.2]

theorem waitsBoundary_setReg {r : RegDesc} {key : Nat} (hr : r ∈ deviceRegs) (hc : r.covers key = true) (d : Dev) (v : Nat) :
    waitsBoundary (setReg d key v) r.base key = waitsBoundary d r.base key := by
  by_cases hb : r.base ∈ carrierBases
  · rw [waitsBoundary, carEnabled_setReg hr hc hb]
    rfl
  · simp only [carrierBases, List.mem_cons, List.not_mem_nil, or_false, not_or] at hb
    obtain ⟨h1, h2, h3, h4, h5, h6⟩ := hb
    simp only [waitsBoundary, beq_false_of_ne h1, beq_false_of_ne h2, beq_false_of_ne h3, beq_false_of_ne h4, beq_false_of_ne h5,
      beq_false_of_ne h6, Bool.or_self, Bool.false_and, Bool.or_false]

section
variable {d : Dev} {r : RegDesc} {key new : Nat}

/-- Whether a register's new value stays out of force: it is shadowed, or waits for a boundary (R9, R10). -/
def staysOut (d : Dev) (r : RegDesc) (key : Nat) : Bool := r.flds.any (fun x => x.cls == .s) || waitsBoundary d r.base key

theorem takeValue_plain (hb : r.base ∉ actionBases) (was : Nat) : takeValue d r key was new =
    if new = was then d
    else if staysOut (setReg d key new) r key then setReg d key new else commitReg (setReg d key new) key := by
  have hl : r.base ≠ regTimeSpLend := fun e => hb (by rw [e]; decide)
  simp only [takeValue, storeReg, if_neg hl, staysOut]
  rfl

theorem takeValue_only (hb : r.base ∉ actionBases) (was : Nat) : OnlyRegs d (takeValue d r key was new) := by
  rw [takeValue_plain hb]
  split
  · exact ⟨_, _, rfl⟩
  · split <;> exact ⟨_, _, rfl⟩

theorem getReg_takeValue_ne (hb : r.base ∉ actionBases) (was : Nat) {k : Nat} (h : k ≠ key) :
    getReg (takeValue d r key was new) k = getReg d k := by
  rw [takeValue_plain hb]
  split
  · rfl
  · split <;> exact getReg_setReg_ne d h _

theorem getReg_takeValue (hb : r.base ∉ actionBases) (hn : new < 2 ^ 64) : getReg (takeValue d r key (getReg d key) new) key = new := by
  have hs : getReg (setReg d key new) key = new := by rw [getReg_setReg_self, Nat.mod_eq_of_lt hn]
  rw [takeValue_plain hb]
  split
  · next h => exact h.symm
  · split <;> exact hs

theorem getAct_takeValue_ne (hb : r.base ∉ actionBases) (was : Nat) {k : Nat} (h : k ≠ key) :
    getAct (takeValue d r key was new) k = getAct d k := by
  rw [takeValue_plain hb]
  split
  · rfl
  · split
    · rfl
    · exact getAct_commitReg_ne _ h

theorem getAct_takeValue (hr : r ∈ deviceRegs) (hc : r.covers key = true) (hb : r.base ∉ actionBases) (hn : new < 2 ^ 64) :
    getAct (takeValue d r key (getReg d key) new) key =
      if r.flds.any (fun x => x.cls == .s) = true ∨ waitsBoundary d r.base key = true ∨ new = getReg d key then getAct d key else new := by
  have hs : getReg (setReg d key new) key = new := by rw [getReg_setReg_self, Nat.mod_eq_of_lt hn]
  have hst : staysOut (setReg d key new) r key = (r.flds.any (fun x => x.cls == .s) || waitsBoundary d r.base key) := by
    rw [staysOut, waitsBoundary_setReg hr hc]
  rw [takeValue_plain hb]
  by_cases he : new = getReg d key
  · simp [he]
  by_cases ho : r.flds.any (fun x => x.cls == .s) = true ∨ waitsBoundary d r.base key = true
  · rw [if_neg he, if_pos (by rw [hst, Bool.or_eq_true]; exact ho), if_pos (or_assoc.1 (.inl ho))]
    rfl
  · rw [if_neg he, if_neg (by rw [hst, Bool.or_eq_true]; exact ho), if_neg (fun h => (or_assoc.2 h).elim ho he), getAct_commitReg_self, hs]

end

/-- A device that notes, or not, that a core's block was written. -/
theorem noted_only (d : Dev) (r : RegDesc) (p : RegPart) (touched : Bool) : ∃ u, (if touched then noteUnput d r p else d) = { d with unput := u } := by
  split
  · exact noteUnput_only d r p
  · exact ⟨_, rfl⟩

/-- Settles O19: a write in range and one out of range, by whether a held field is touched. -/
theorem registerWrites : Obligations.RegisterWrites := by
  unfold Obligations.RegisterWrites
  intro s key mask v r hs hat hk hf hp m held refused new
  obtain ⟨hr, hc⟩ := regAt_device hat hk
  have hb := base_not_action hr hp
  have hx : exec (.registerWrite key mask v) s = .next { s with dev := writeReg s.dev r key m (v % 2 ^ r.width) } :=
    (onDev_runs hs (fun d => regWrite d key mask v)).trans (by rw [regWrite_device hat hk hf])
  have hq : (mergeWrite s.dev r key m (v % 2 ^ r.width)).2 = refused := mergeWrite_snd _ _ _ _ _
  have hn : new < 2 ^ 64 := mergeWrite_lt hr _ _ _ _
  refine ⟨fun hno hin => ⟨_, hx, ?_⟩, fun hyes hin => ⟨fun b hb' => held_kept hr s.dev m _ hb', ?_⟩, fun hin ht => ?_⟩
  · obtain ⟨u, hu⟩ := noted_only s.dev r (partOf key) (r.flds.any (fun x => x.acc == .rw && touches m x))
    have hw : writeReg s.dev r key m (v % 2 ^ r.width) = takeValue { s.dev with unput := u } r key (getReg s.dev key) new := by
      rw [writeReg_accepted hb hin, hq, hno, ← hu]
      rfl
    have hself : getReg (takeValue { s.dev with unput := u } r key (getReg s.dev key) new) key = new := getReg_takeValue hb hn
    dsimp only
    rw [hw, hself]
    obtain ⟨a, b, honly⟩ := takeValue_only (d := { s.dev with unput := u }) (key := key) (new := new) hb (getReg s.dev key)
    refine ⟨mergeWrite_bits hr s.dev key mask v, fun k hne => ⟨getReg_takeValue_ne hb _ hne, getAct_takeValue_ne hb _ hne⟩,
      getAct_takeValue hr hc hb hn, ?_⟩
    simp only [honly, and_self]
  · rw [hx, writeReg_accepted hb hin, hq, hyes]
    rfl
  · rw [hx, writeReg_discarded hb hin ht, hq]

end Sys2Proof.Machine
end

section
/-! ### Memory in canonical form (O34): the operations of memory, records, completions and the tiers manager -/

namespace Sys2Proof.Machine

/-- Device memory and host memory have their canonical form: the addresses rise and no byte 0 is listed (R5; log entry 6). -/
structure MemForm (d : Dev) : Prop where
  mem  : memWf d.mem = true
  hmem : memWf d.hmem = true

/-- A device whose two memories are those of one in form is in form. -/
theorem MemForm.keep {d t : Dev} (hd : MemForm d) (hm : t.mem = d.mem) (hh : t.hmem = d.hmem) : MemForm t :=
  ⟨hm ▸ hd.mem, hh ▸ hd.hmem⟩

theorem MemForm.only {d t : Dev} (hd : MemForm d) (h : OnlyRecords d t) : MemForm t := hd.keep h.mem h.hmem

theorem MemForm.ite {d e : Dev} {c : Prop} [Decidable c] (hd : MemForm d) (he : MemForm e) : MemForm (if c then d else e) := by
  split
  · exact hd
  · exact he

theorem MemForm.foldl {α : Type} {f : Dev → α → Dev} (h : ∀ d x, MemForm d → MemForm (f d x)) {d : Dev} (hd : MemForm d) (l : List α) :
    MemForm (l.foldl f d) := by
  induction l generalizing d with
  | nil => exact hd
  | cons x l ih => exact ih (h d x hd)

theorem MemForm.write {d : Dev} (hd : MemForm d) (a : Nat) (bs : List Byte) : MemForm { d with mem := memWrite d.mem a bs } :=
  ⟨memWrite_wf hd.mem a bs, hd.hmem⟩

section
variable {d : Dev}

/-! Records and completions. -/

theorem memForm_record (hd : MemForm d) (r : Rec) : MemForm (record d r) := hd.only (record_only d r)

theorem memForm_endCtx (hd : MemForm d) (i c status addr detail : Nat) : MemForm (endCtx d i c status addr detail) :=
  hd.only (endCtx_only d i c status addr detail)

theorem memForm_endRequest (hd : MemForm d) (i c status addr detail : Nat) : MemForm (endRequest d i c status addr detail) :=
  hd.only (endRequest_only d i c status addr detail)

theorem memForm_cfgReject (hd : MemForm d) (k : Nat) (f : Fld) (status key detail inst : Nat) :
    MemForm (cfgReject d k f status key detail inst) := hd.only (cfgReject_only d k f status key detail inst)

theorem memForm_fset (hd : MemForm d) (k : Nat) (f : Fld) (v : Nat) : MemForm (fset d k f v) := hd.keep rfl rfl

theorem memForm_fsat (hd : MemForm d) (k : Nat) (f : Fld) (v : Nat) : MemForm (fsat d k f v) := hd.keep rfl rfl

theorem memForm_modTier (hd : MemForm d) (f : TierSt → TierSt) : MemForm (modTier d f) := hd.keep rfl rfl

theorem memForm_modPage (hd : MemForm d) (o : Nat) (f : PageEnt → PageEnt) : MemForm (modPage d o f) := hd.keep rfl rfl

theorem memForm_emit (hd : MemForm d) (o : Out) : MemForm (emit d o) := hd.keep rfl rfl

theorem memForm_hostPut (hd : MemForm d) (k : Nat) (bs : List Byte) (p : Bool) : MemForm (hostPut d k bs p) := by
  have h : MemForm { d with hmem := memWrite d.hmem k bs } := ⟨hd.mem, memWrite_wf hd.hmem k bs⟩
  unfold hostPut
  exact MemForm.ite (h.keep rfl rfl) (h.keep rfl rfl)

theorem memForm_raiseVector (hd : MemForm d) (i v : Nat) : MemForm (raiseVector d i v) := by
  unfold raiseVector
  exact MemForm.ite (memForm_emit hd _) (hd.keep rfl rfl)

theorem memForm_raiseRing (hd : MemForm d) (i q : Nat) : MemForm (raiseRing d i q) := by
  have h := memForm_raiseVector hd i (fget d (regMbxRingCfg i q) fldMbxRingCfgVector)
  unfold raiseRing
  exact MemForm.ite h (MemForm.ite (hd.keep rfl rfl) (h.keep rfl rfl))

theorem memForm_writeEntry (hd : MemForm d) (i q : Nat) (bs : List Byte) (irq : Bool) : MemForm (writeEntry d i q bs irq) := by
  unfold writeEntry
  extract_lets k tail phase base flags d1 wrap d2 d3 d4 status d5
  have h1 : MemForm d1 := memForm_hostPut hd _ _ _
  have h2 : MemForm d2 := memForm_fset h1 _ _ _
  have h3 : MemForm d3 := MemForm.ite (memForm_fset h2 _ _ _) h2
  have h4 : MemForm d4 := h3.keep rfl rfl
  have h5 : MemForm d5 := MemForm.ite h4 (memForm_fset h4 _ _ _)
  exact MemForm.ite (memForm_raiseRing h5 i q) h5

theorem memForm_notice (hd : MemForm d) (i status result : Nat) : MemForm (notice d i status result) := by
  unfold notice
  dsimp only
  split
  · exact memForm_raiseVector (memForm_writeEntry hd _ _ _ _) _ _
  · exact MemForm.ite (hd.keep rfl rfl) (memForm_fset hd _ _ _)

/-! Writes of the device space. -/

theorem memForm_touch (hd : MemForm d) (a n : Nat) : MemForm (touch d a n) := by
  unfold touch
  exact MemForm.ite (MemForm.foldl (fun _ o h => memForm_modPage h o _) hd _) hd

theorem memForm_healRow (hd : MemForm d) (base : Nat) : MemForm (healRow d base) := by
  unfold healRow
  exact MemForm.ite (hd.keep rfl rfl) hd

theorem memForm_devWrite (hd : MemForm d) (a : Nat) (bs : List Byte) (p : Bool) : MemForm (devWrite d a bs p) := by
  unfold devWrite
  split
  · exact hd
  · split
    · split
      · exact memForm_hostPut hd _ _ _
      · exact hd
    · extract_lets e
      have he : MemForm e := MemForm.foldl (fun _ b h => memForm_healRow h b) hd _
      refine memForm_touch ?_ _ _
      exact (he.write a bs).keep rfl rfl

theorem memForm_markPoison (hd : MemForm d) (base off bits : Nat) : MemForm (markPoison d base off bits) := by
  unfold markPoison
  exact MemForm.ite (memForm_devWrite hd _ _ _) (hd.keep rfl rfl)

theorem memForm_copyBytes (hd : MemForm d) (src dst n : Nat) : MemForm (copyBytes d src dst n) := by
  unfold copyBytes
  exact MemForm.foldl (fun _ _ h => memForm_markPoison h _ _ _) (memForm_devWrite hd _ _ _) _

/-! The ashlar map, its sets and the copies of ashlars. -/

theorem memForm_putAsh (hd : MemForm d) (a : Nat) (e : AshEnt) : MemForm (putAsh d a e) := by
  unfold putAsh
  extract_lets d1 live gone tier d2
  have h1 : MemForm d1 := memForm_touch (hd.write _ _) _ _
  have h2 : MemForm d2 := h1.keep rfl rfl
  exact memForm_fset h2 _ _ _

theorem memForm_putSet (hd : MemForm d) (s : Nat) (e : SetEnt) : MemForm (putSet d s e) := by
  unfold putSet
  exact memForm_touch (hd.write _ _) _ _

theorem memForm_countRefs (hd : MemForm d) (a : Nat) : MemForm (countRefs d a) := by
  unfold countRefs
  exact memForm_putAsh hd a _

theorem memForm_freeSpace (hd : MemForm d) : MemForm (freeSpace d) := by
  unfold freeSpace
  dsimp only
  refine MemForm.foldl (fun d o h => ?_) (MemForm.foldl (fun d r h => ?_) hd _) _
  · exact MemForm.ite (memForm_modPage h o _) h
  · exact MemForm.ite (h.keep rfl rfl) h

theorem memForm_loseCws (hd : MemForm d) (a : Nat) (cws : List Nat) : MemForm (loseCws d a cws) := hd.keep rfl rfl

theorem memForm_restartPromos (hd : MemForm d) (a : Nat) : MemForm (restartPromos d a) := hd.keep rfl rfl

theorem memForm_writeRows (hd : MemForm d) (s row n : Nat) (bs : List Byte) : MemForm (writeRows d s row n bs) := by
  have h : MemForm { d with mem := memWrite (memClear d.mem (flashPage (row * 30)) (n * 30 * 16384)) (flashPage (row * 30)) bs } :=
    ⟨memWrite_wf (memClear_wf hd.mem _ _) _ _, hd.hmem⟩
  exact h.keep rfl rfl

theorem memForm_tellLost (hd : MemForm d) (a : Nat) : MemForm (tellLost d a) := by
  unfold tellLost
  exact MemForm.foldl (fun _ _ h => memForm_notice (memForm_record h _) _ _ _) hd _

theorem memForm_ashFailed (hd : MemForm d) (a : Nat) (cws : List Nat) : MemForm (ashFailed d a cws) := by
  unfold ashFailed
  dsimp only
  split
  · exact memForm_loseCws hd _ _
  · split
    · split
      · exact memForm_putAsh (memForm_restartPromos hd a) a _
      · exact memForm_fsat (memForm_record (memForm_putAsh (memForm_restartPromos (memForm_writeRows hd _ _ _ _) a) a _) _) _ _ _
    · have h := memForm_putAsh hd a { getAsh d a with integ := 3, resident := setBits (getAsh d a).resident 0 1 0 }
      exact memForm_tellLost (memForm_fsat (memForm_loseCws (memForm_putSet (MemForm.ite (memForm_modTier h _) h) _ _) a cws) _ _ _) a

theorem memForm_addRef (hd : MemForm d) (i a tier : Nat) (pin : Bool) : MemForm (addRef d i a tier pin) := by
  unfold addRef
  exact memForm_countRefs (memForm_modTier hd _) a

theorem memForm_freeCopy (hd : MemForm d) (a tier : Nat) : MemForm (freeCopy d a tier) := by
  unfold freeCopy
  dsimp only
  split
  · exact memForm_freeSpace ((memForm_putAsh hd a _).keep rfl rfl)
  · exact hd

theorem memForm_settleRevoke (hd : MemForm d) (s i : Nat) : MemForm (settleRevoke d s i) := by
  unfold settleRevoke
  exact MemForm.ite (memForm_modTier (memForm_putSet hd s _) _) hd

theorem memForm_leaveSet (hd : MemForm d) (s : Nat) : MemForm (leaveSet d s) := by
  unfold leaveSet
  exact MemForm.ite (memForm_modTier (memForm_putSet hd s _) _) (memForm_putSet hd s _)

theorem memForm_freeRows (hd : MemForm d) (s : Nat) : MemForm (freeRows d s) := hd.keep rfl rfl

theorem memForm_freeEntry (hd : MemForm d) (a : Nat) : MemForm (freeEntry d a) := by
  unfold freeEntry
  exact MemForm.ite (memForm_freeRows (memForm_freeSpace (memForm_leaveSet (memForm_putAsh hd a _) _)) _) hd

theorem memForm_dropRef (hd : MemForm d) (i a tier : Nat) : MemForm (dropRef d i a tier) := by
  unfold dropRef
  exact memForm_settleRevoke (memForm_freeEntry (memForm_freeCopy (memForm_countRefs (memForm_modTier hd _) a) a tier) a) _ i

theorem memForm_evictUntil (hd : MemForm d) (i tier : Nat) (ok : Dev → Bool) (n : Nat) : MemForm (evictUntil i tier ok n d) := by
  induction n generalizing d with
  | zero => exact hd
  | succ n ih =>
    rw [evictUntil]
    split
    · exact hd
    · split
      · exact hd
      · exact ih (memForm_dropRef hd _ _ _)

theorem allocCopy_mems {e : AshEnt} {tier dst : Nat} {t : Dev} (h : allocCopy d e tier = some (dst, t)) : t.mem = d.mem ∧ t.hmem = d.hmem := by
  unfold allocCopy at h
  dsimp only at h
  split at h
  · split at h
    · cases h
      exact ⟨rfl, rfl⟩
    · split at h
      · cases h
      · cases h
        exact ⟨rfl, rfl⟩
  · split at h
    · cases h
      exact ⟨rfl, rfl⟩
    · split at h
      · obtain ⟨o, -, ho⟩ := Option.map_eq_some_iff.1 h
        cases ho
        exact ⟨rfl, rfl⟩
      · cases h

theorem memForm_allocCopy (hd : MemForm d) {e : AshEnt} {tier dst : Nat} {t : Dev} (h : allocCopy d e tier = some (dst, t)) : MemForm t :=
  hd.keep (allocCopy_mems h).1 (allocCopy_mems h).2

theorem memForm_startPromo (hd : MemForm d) (a tier dst i : Nat) (pin : Bool) : MemForm (startPromo d a tier dst i pin) := by
  unfold startPromo
  exact memForm_fsat (memForm_modTier (memForm_putAsh (MemForm.ite (memForm_ashFailed hd a []) hd) a _) _) _ _ _

theorem memForm_joinPromo (hd : MemForm d) (i a tier : Nat) (pin : Bool) : MemForm (joinPromo d i a tier pin) := hd.keep rfl rfl

theorem memForm_waitLater (hd : MemForm d) (r : AshAsk) : MemForm (waitLater d r) := by
  unfold waitLater
  exact MemForm.ite (memForm_modTier hd _) (memForm_modTier hd _)

theorem memForm_promote (hd : MemForm d) (i a tier : Nat) (pin : Bool) : MemForm (promote d i a tier pin).1 := by
  unfold promote
  split
  · exact hd
  extract_lets e cap need d1 d2
  have h1 : MemForm d1 := MemForm.ite (memForm_evictUntil hd _ _ _ _) hd
  have h2 : MemForm d2 := memForm_evictUntil h1 _ _ _ _
  split
  · exact memForm_addRef hd _ _ _ _
  split
  · exact hd
  split
  · exact hd
  split
  · exact memForm_addRef h1 _ _ _ _
  split
  · exact memForm_joinPromo h1 _ _ _ _
  split
  · next h => exact memForm_startPromo (memForm_allocCopy h1 h) _ _ _ _ _
  split
  · exact h1
  split
  · next h => exact memForm_startPromo (memForm_allocCopy h2 h) _ _ _ _ _
  · split <;> exact h2

theorem memForm_ask (hd : MemForm d) (r : AshAsk) : MemForm (ask d r).1 := by
  unfold ask
  split
  · exact memForm_waitLater hd r
  · exact MemForm.ite (memForm_waitLater (memForm_promote hd _ _ _ _) r) (memForm_promote hd _ _ _ _)

theorem memForm_withdraw (hd : MemForm d) (a tier : Nat) : MemForm (withdraw d a tier) := by
  unfold withdraw
  extract_lets e holders d1 d2 d3 d4 d5 d6 d7
  split
  · have h3 : MemForm d3 := memForm_countRefs (memForm_putAsh (memForm_modTier (memForm_record hd _) _) _ _) _
    have h5 : MemForm d5 := memForm_freeSpace (h3.keep rfl rfl)
    have h6 : MemForm d6 := MemForm.ite h5 (memForm_ashFailed h5 a [])
    exact MemForm.foldl (fun _ _ h => memForm_ask h _) (memForm_modTier h6 _) _
  · exact hd

theorem memForm_poisonFound (hd : MemForm d) (o : Nat) : MemForm (poisonFound d o) := by
  unfold poisonFound
  dsimp only
  split
  · exact memForm_withdraw hd _ _
  · exact hd

end

end Sys2Proof.Machine
end

section
/-! ### Memory in canonical form (O34): the piers and their engines -/

namespace Sys2Proof.Machine

section
variable {d : Dev}

/-! Half-lines. -/

theorem memForm_rowDue (hd : MemForm d) (o : Nat) : MemForm (rowDue d o) := hd.keep rfl rfl

theorem memForm_poisonHalf (hd : MemForm d) (o : Nat) : MemForm (poisonHalf d o) := by
  unfold poisonHalf
  refine memForm_rowDue (memForm_record ?_ _) _
  exact hd.keep rfl rfl

theorem memForm_readHalf (hd : MemForm d) (o : Nat) (err : List (Nat × Nat)) : MemForm (readHalf d o err).1 := by
  unfold readHalf
  dsimp only
  split
  · exact hd
  split
  · exact hd
  · exact hd
  · exact memForm_poisonHalf hd o
  · refine memForm_record (MemForm.ite (memForm_rowDue ?_ _) ?_) _
    all_goals exact (hd.write o _).keep rfl rfl

theorem memForm_pierRefuse (hd : MemForm d) (w : Who) (o st : Nat) : MemForm (pierRefuse d w o st) := by
  unfold pierRefuse
  split
  · exact memForm_endCtx hd _ _ _ _ _
  · exact memForm_record hd _

theorem memForm_pierRead (hd : MemForm d) (w : Who) (o : Nat) (err : List (Nat × Nat)) : MemForm (pierRead d w o err) := by
  unfold pierRead
  split
  · exact memForm_pierRefuse hd _ _ _
  · exact memForm_emit (memForm_readHalf hd o err) _

theorem memForm_pierWrite (hd : MemForm d) (w : Who) (o mask : Nat) (bs : List Byte) (p : Bool) (err : List (Nat × Nat)) :
    MemForm (pierWrite d w o mask bs p err) := by
  unfold pierWrite
  split
  · exact memForm_pierRefuse hd _ _ _
  · split
    · exact memForm_devWrite hd _ _ _
    · exact memForm_devWrite (memForm_readHalf hd o err) _ _ _

theorem memForm_afterRead (hd : MemForm d) (read : Bool) (o : Nat) : MemForm (afterRead d read o) := by
  unfold afterRead
  exact MemForm.ite (memForm_poisonFound hd o) hd

theorem memForm_refreshDue (hd : MemForm d) (pier ch bank : Nat) (pending : Bool) : MemForm (refreshDue d pier ch bank pending) := by
  unfold refreshDue
  exact MemForm.ite (hd.keep rfl rfl) (hd.keep rfl rfl)

/-! Sparing and retraining. -/

theorem memForm_rowSpare (hd : MemForm d) (p ch row : Nat) : MemForm (rowSpare d p ch row) := by
  unfold rowSpare
  extract_lets k c used d1 d2 d3 d4
  split
  · exact hd
  · refine MemForm.ite (MemForm.ite (hd.keep rfl rfl) (memForm_record ?_ _)) (memForm_record ?_ _)
    all_goals exact hd.keep rfl rfl

theorem memForm_spareChannel (hd : MemForm d) (p ch : Nat) : MemForm (spareChannel d p ch) := by
  unfold spareChannel
  exact MemForm.ite (memForm_cfgReject hd _ _ _ _ _ _) (hd.keep rfl rfl)

theorem memForm_spareDone (hd : MemForm d) (p : Nat) : MemForm (spareDone d p) := by
  unfold spareDone
  split
  · exact hd
  · refine memForm_record ?_ _
    exact hd.keep rfl rfl

theorem memForm_retrainCh (hd : MemForm d) (p ch : Nat) : MemForm (retrainCh d p ch) := by
  unfold retrainCh
  split
  · exact hd
  · exact MemForm.ite (hd.keep rfl rfl) (hd.keep rfl rfl)

/-! Engine commands. -/

theorem memForm_engEnd (hd : MemForm d) (p : Nat) (x : EngCmd) (status flags result addr : Nat) :
    MemForm (engEnd d p x status flags result addr) := by
  unfold engEnd
  refine memForm_emit ?_ _
  refine MemForm.ite hd (MemForm.ite (memForm_record hd _) (MemForm.ite ?_ ?_))
  · exact memForm_endCtx hd _ _ _ _ _
  · exact memForm_endRequest hd _ _ _ _ _

theorem memForm_meetErrs (hd : MemForm d) (x : EngCmd) (reads : List (Nat × Nat)) : MemForm (meetErrs d x reads) := by
  unfold meetErrs
  exact MemForm.foldl (fun _ _ h => MemForm.ite (memForm_readHalf h _ _) h) hd _

theorem memForm_foundIn (hd : MemForm d) (reads : List (Nat × Nat)) : MemForm (foundIn reads d) := by
  unfold foundIn
  exact MemForm.foldl (fun _ o h => memForm_poisonFound h o) hd _

/-- An engine command keeps the form when its action does. -/
theorem memForm_engRun (hd : MemForm d) (p : Nat) (x : EngCmd) (ok : Bool) (at_ : Nat) (ranges : List (Bool × Nat × Nat))
    (reads : List (Nat × Nat)) {act : Dev → Dev} (hact : ∀ d, MemForm d → MemForm (act d)) :
    MemForm (engRun d p x ok at_ ranges reads act) := by
  unfold engRun
  split
  · exact memForm_engEnd hd _ _ _ _ _ _
  · split
    · exact memForm_engEnd hd _ _ _ _ _ _
    · exact memForm_foundIn (hact _ (memForm_meetErrs hd x reads)) reads

theorem memForm_gatherRows (row limit src dst : Nat) (l : List (Nat × Bool)) (n bad : Nat) (hd : MemForm d) :
    MemForm (gatherRows row limit src dst l n bad d).1 := by
  induction l generalizing d n bad with
  | nil => exact hd
  | cons e l ih => exact ih _ _ (MemForm.ite (memForm_devWrite hd _ _ _) (memForm_copyBytes hd _ _ _))

theorem memForm_gatherEnd (hd : MemForm d) (p : Nat) (x : EngCmd) (rows : Bool) (status at_ : Nat) :
    MemForm (gatherEnd d p x rows status at_) := by
  unfold gatherEnd
  exact MemForm.ite (memForm_emit (memForm_endRequest hd _ _ _ _ _) _) (memForm_engEnd hd _ _ _ _ _ _)

theorem memForm_engGather (hd : MemForm d) (p : Nat) (x : EngCmd) (rows : Bool) : MemForm (engGather d p x rows) := by
  unfold engGather
  exact memForm_engRun hd _ _ _ _ _ _ fun d h => memForm_gatherEnd (memForm_gatherRows _ _ _ _ _ _ _ h) _ _ _ _ _

theorem memForm_engDequant (hd : MemForm d) (p : Nat) (x : EngCmd) : MemForm (engDequant d p x) := by
  unfold engDequant
  refine memForm_engRun hd _ _ _ _ _ _ fun d h => memForm_engEnd ?_ _ _ _ _ _ _
  exact MemForm.foldl (fun _ _ h => memForm_markPoison h _ _ _) (memForm_devWrite h _ _ _) _

theorem memForm_engCopy (hd : MemForm d) (p : Nat) (x : EngCmd) : MemForm (engCopy d p x) := by
  unfold engCopy
  exact memForm_engRun hd _ _ _ _ _ _ fun d h => memForm_engEnd (memForm_copyBytes h _ _ _) _ _ _ _ _ _

theorem memForm_freePages (hd : MemForm d) (a n : Nat) : MemForm (freePages d a n) := by
  unfold freePages
  exact MemForm.foldl (fun _ o h => memForm_modPage h o _) hd _

theorem memForm_engMove (hd : MemForm d) (p : Nat) (x : EngCmd) : MemForm (engMove d p x) := by
  unfold engMove
  exact memForm_engRun hd _ _ _ _ _ _ fun d h => memForm_engEnd (memForm_freePages (memForm_copyBytes h _ _ _) _ _) _ _ _ _ _ _

theorem memForm_engCrc (hd : MemForm d) (p : Nat) (x : EngCmd) : MemForm (engCrc d p x) := by
  unfold engCrc
  exact memForm_engRun hd _ _ _ _ _ _ fun d h => memForm_engEnd h _ _ _ _ _ _

theorem memForm_engFill (hd : MemForm d) (p : Nat) (x : EngCmd) : MemForm (engFill d p x) := by
  unfold engFill
  exact memForm_engRun hd _ _ _ _ _ _ fun d h => memForm_engEnd (memForm_devWrite h _ _ _) _ _ _ _ _ _

theorem memForm_engDirty (hd : MemForm d) (p : Nat) (x : EngCmd) : MemForm (engDirty d p x) := by
  unfold engDirty
  dsimp only
  split
  · exact memForm_engEnd hd _ _ _ _ _ _
  split
  · exact memForm_engEnd hd _ _ _ _ _ _
  split
  · exact memForm_engEnd hd _ _ _ _ _ _
  · refine memForm_engEnd (memForm_devWrite ?_ _ _ _) _ _ _ _ _ _
    refine MemForm.foldl (fun d k h => ?_) hd _
    exact h.keep rfl rfl

end

end Sys2Proof.Machine
end

section
/-! ### Memory in canonical form (O34): the report of a task, and the signal datapath -/

namespace Sys2Proof.Machine

section
variable {d : Dev}

/-! What a task that an interrupt handler ends reports (R139, R213). -/

theorem memForm_modSp (hd : MemForm d) (f : Planner → Planner) : MemForm (modSp d f) := hd.keep rfl rfl

theorem memForm_modSig (hd : MemForm d) (c : Nat) (f : SigSt → SigSt) : MemForm (modSig d c f) := hd.keep rfl rfl

theorem memForm_countSat (hd : MemForm d) (c accs outs : Nat) : MemForm (countSat d c accs outs) := hd.keep rfl rfl

theorem memForm_modChan (hd : MemForm d) (ch : Nat) (f : FapiCh → FapiCh) : MemForm (modChan d ch f) := by
  unfold modChan
  split
  · exact hd
  · exact memForm_modSp hd _

theorem memForm_hostWrite (hd : MemForm d) (a : Nat) (bs : List Byte) : MemForm (hostWrite d a bs) := memForm_hostPut hd a bs false

theorem memForm_hdrPut (hd : MemForm d) (base off v : Nat) : MemForm (hdrPut d base off v) := memForm_hostWrite hd _ _

theorem memForm_dropInd (hd : MemForm d) (ch : Nat) (c : FapiCh) (carrier frame slot : Nat) :
    MemForm (dropInd d ch c carrier frame slot) := by
  unfold dropInd
  exact MemForm.ite (memForm_hdrPut hd _ _ _) (memForm_record (memForm_modChan (memForm_hdrPut hd _ _ _) _ _) _)

theorem memForm_chanIrq (hd : MemForm d) (ch : Nat) (c : FapiCh) : MemForm (chanIrq d ch c) := by
  unfold chanIrq
  exact MemForm.ite (memForm_modChan hd _ _) (memForm_modChan (memForm_raiseVector hd _ _) _ _)

theorem memForm_indicate (hd : MemForm d) (ch msg carrier frame slot status : Nat) (content : List Nat) (tlvs : List Tlv) :
    MemForm (indicate d ch msg carrier frame slot status content tlvs) := by
  unfold indicate
  split
  · exact hd
  dsimp only
  split
  · exact memForm_dropInd hd _ _ _ _ _
  · refine memForm_chanIrq (memForm_emit (memForm_modChan ?_ _ _) _) _ _
    exact memForm_hdrPut (memForm_hostWrite (memForm_hostWrite hd _ _) _ _) _ _ _

theorem memForm_tellL2 (hd : MemForm d) (msg carrier frame slot status : Nat) (content : List Nat) (tlvs : List Tlv) :
    MemForm (tellL2 d msg carrier frame slot status content tlvs) := by
  unfold tellL2
  split
  · exact hd
  · exact memForm_indicate hd _ _ _ _ _ _ _ _

theorem memForm_track (hd : MemForm d) (carrier frame slot rnti : Nat) (m : Option Nat) : MemForm (track d carrier frame slot rnti m) := by
  unfold track
  exact memForm_modSp hd _

theorem memForm_modSlot (hd : MemForm d) (carrier frame slot : Nat) (f : SlotW → SlotW) : MemForm (modSlot d carrier frame slot f) :=
  memForm_modSp hd _

theorem memForm_dropPdu (hd : MemForm d) (w : SlotW) (p : UlPdu) : MemForm (dropPdu d w p) := memForm_modSlot hd _ _ _ _

theorem memForm_putLlrs (hd : MemForm d) (c : Nat) (x : RxCfg) (l : List Int) : MemForm (putLlrs d c x l) := by
  unfold putLlrs
  exact MemForm.ite hd (memForm_devWrite hd _ _ _)

theorem memForm_reportPdu (hd : MemForm d) (t : Task) (c : Nat) (p : UlPdu) : MemForm (reportPdu d t c p) := by
  unfold reportPdu
  extract_lets w r d1 d2 q p1 tlvs tell l u d3 d4
  have h1 : MemForm d1 := memForm_countSat hd _ _ _
  have h2 : MemForm d2 := MemForm.ite (memForm_track h1 _ _ _ _ _) h1
  have h4 : MemForm d4 := memForm_modSlot (memForm_putLlrs h2 _ _ _) _ _ _ _
  have htell (e : Dev) (he : MemForm e) (msg : Nat) (body : List Nat) : MemForm (tell e msg body) := memForm_tellL2 he _ _ _ _ _ _ _
  refine MemForm.ite ?_ (MemForm.ite ?_ (MemForm.ite ?_ h4))
  · exact htell _ (memForm_dropPdu h2 _ _) _ _
  · exact htell _ (memForm_dropPdu h2 _ _) _ _
  · exact htell _ h4 _ _

theorem memForm_ringWrite (hd : MemForm d) (c : Nat) (ring : Nat × Nat) (off : Nat) (bs : List Byte) : MemForm (ringWrite d c ring off bs) := by
  unfold ringWrite
  exact memForm_devWrite (memForm_devWrite hd _ _ _) _ _ _

theorem memForm_ringAdd (hd : MemForm d) (c : Nat) (ring : Nat × Nat) (recs : List (LandRec × List Byte)) (sel : CoreRings → List LandRec)
    (upd : CoreRings → List LandRec → CoreRings) : MemForm (ringAdd d c ring recs sel upd) := by
  unfold ringAdd
  exact MemForm.foldl (fun _ _ h => memForm_modSp (memForm_ringWrite h _ _ _ _) _) hd _

theorem memForm_ringMark (hd : MemForm d) (c : Nat) (ring : Nat × Nat) (off n : Nat) : MemForm (ringMark d c ring off n) := hd.keep rfl rfl

theorem memForm_makeStream (hd : MemForm d) (c carrier frame slot sym : Nat) (pdus : List DlPdu) (all : Bool) (ant : Nat) :
    MemForm (makeStream d c carrier frame slot sym pdus all ant) := by
  unfold makeStream
  refine MemForm.ite hd ?_
  exact MemForm.foldl (fun _ _ h => memForm_ringMark h _ _ _ _) (memForm_ringAdd (memForm_countSat hd _ _ _) _ _ _ _ _) _

theorem memForm_makeDl (hd : MemForm d) (t : Task) (c : Nat) (all : Bool) : MemForm (makeDl d t c all) := by
  unfold makeDl
  refine MemForm.foldl (fun d sym h => MemForm.ite (MemForm.foldl (fun d a h => ?_) h _) h) hd _
  exact MemForm.ite h (memForm_makeStream h _ _ _ _ _ _ _ _)

theorem memForm_reportTask (hd : MemForm d) (t : Task) (c : Nat) : MemForm (reportTask d t c) := by
  unfold reportTask
  exact MemForm.ite (MemForm.foldl (fun _ p h => memForm_reportPdu h t c p) hd _) (memForm_makeDl hd t c false)

theorem memForm_freeRecs (hd : MemForm d) (tx : Bool) (test : LandRec → Bool) : MemForm (freeRecs d tx test) := hd.keep rfl rfl

theorem memForm_releaseRecs (hd : MemForm d) (t : Task) : MemForm (releaseRecs d t) := by
  unfold releaseRecs
  exact MemForm.ite hd (memForm_freeRecs hd _ _)

theorem memForm_sigIrq (hd : MemForm d) (c : Nat) : MemForm (sigIrq d c) := by
  unfold sigIrq
  exact MemForm.ite (memForm_fset hd _ _ _) hd

theorem memForm_urgentDone (hd : MemForm d) (c : Nat) : MemForm (urgentDone d c) := by
  unfold urgentDone
  split
  · exact hd
  · extract_lets d1 d2
    have h2 : MemForm d2 := memForm_releaseRecs (memForm_reportTask (memForm_modSp hd _) _ c) _
    exact MemForm.ite h2 (memForm_sigIrq h2 c)

end

end Sys2Proof.Machine
end

section
/-! ### Memory in canonical form (O34): the signal datapath, and the commands -/

namespace Sys2Proof.Machine

section
variable {d : Dev}

/-! Registers of a datapath, and the twin-access region. -/

theorem memForm_eat (hd : MemForm d) (c : Nat) (p : Bool) : MemForm (eat d c p) := by
  unfold eat
  exact MemForm.ite (memForm_modSig hd _ _) hd

theorem memForm_setX (hd : MemForm d) (c r : Nat) (l : List Lane) : MemForm (setX d c r l) := by
  unfold setX
  exact memForm_modSig hd _ _

theorem memForm_setAcc (hd : MemForm d) (c r : Nat) (l : List Lane) : MemForm (setAcc d c r l) := by
  unfold setAcc
  exact memForm_modSig hd _ _

theorem memForm_putX (hd : MemForm d) (c r : Nat) (l : List (Lane × Nat)) : MemForm (putX d c r l) := by
  unfold putX
  exact memForm_countSat (memForm_setX hd _ _ _) _ _ _

theorem memForm_arStep (hd : MemForm d) (c a : Nat) (adv : Int) : MemForm (arStep d c a adv) := by
  unfold arStep
  exact memForm_modSig hd _ _

theorem memForm_arStride (hd : MemForm d) (c a : Nat) : MemForm (arStride d c a) := by
  unfold arStride
  exact memForm_arStep hd _ _ _

theorem memForm_loadX (hd : MemForm d) (c x a : Nat) : MemForm (loadX d c x a) := by
  unfold loadX
  exact memForm_arStride (memForm_setX hd _ _ _) _ _

theorem memForm_twinWrite (hd : MemForm d) (c off : Nat) (bs : List Byte) : MemForm (twinWrite d c off bs) := by
  unfold twinWrite
  generalize twinSegs c off bs.length = segs
  induction segs generalizing d bs with
  | nil => exact hd
  | cons s segs ih => exact ih (memForm_devWrite hd _ _ _) _

theorem memForm_twinMark (hd : MemForm d) (c off n : Nat) : MemForm (twinMark d c off n) := hd.keep rfl rfl

theorem memForm_storeLanes (hd : MemForm d) (c a : Nat) (l : List Lane) : MemForm (storeLanes d c a l) := by
  unfold storeLanes
  refine memForm_arStride (MemForm.foldl (fun d p h => ?_) (memForm_twinWrite hd _ _ _) _) _ _
  exact MemForm.ite (memForm_twinMark h _ _ _) h

theorem memForm_takeFree (hd : MemForm d) : MemForm (takeFree d).2 := hd.keep rfl rfl

theorem memForm_freeLanes (hd : MemForm d) (p : Bool) : MemForm (freeLanes d p).2 := hd.keep rfl rfl

theorem memForm_inRange (hd : MemForm d) (lo hi v : Nat) : MemForm (inRange d lo hi v).2 := by
  unfold inRange
  split
  · exact hd
  · exact hd.keep rfl rfl

/-! The operations (R130-R136). -/

theorem memForm_sigMac (hd : MemForm d) (c : Nat) (w : SWord) (clear : Bool) : MemForm (sigMac d c w clear) := by
  unfold sigMac
  exact memForm_countSat (memForm_setAcc (memForm_eat hd _ _) _ _ _) _ _ _

theorem memForm_sigAdd (hd : MemForm d) (c : Nat) (w : SWord) (sign : Int) : MemForm (sigAdd d c w sign) := by
  unfold sigAdd
  exact memForm_putX (memForm_eat hd _ _) _ _ _

theorem memForm_sigNco (hd : MemForm d) (c : Nat) (w : SWord) : MemForm (sigNco d c w) := by
  unfold sigNco
  exact memForm_modSig (memForm_setX hd _ _ _) _ _

theorem memForm_sigRnd (hd : MemForm d) (c : Nat) (w : SWord) : MemForm (sigRnd d c w) := by
  unfold sigRnd
  exact memForm_putX (memForm_eat hd _ _) _ _ _

theorem memForm_sigNorm (hd : MemForm d) (c : Nat) (w : SWord) : MemForm (sigNorm d c w) := by
  unfold sigNorm
  exact memForm_modSig (memForm_eat hd _ _) _ _

theorem memForm_sigExp (hd : MemForm d) (c : Nat) (w : SWord) : MemForm (sigExp d c w) := by
  unfold sigExp
  exact memForm_modSig (memForm_eat hd _ _) _ _

theorem memForm_sigBfpc (hd : MemForm d) (c : Nat) (w : SWord) : MemForm (sigBfpc d c w) := by
  unfold sigBfpc
  refine memForm_arStep (MemForm.foldl (fun d p h => ?_) (memForm_twinWrite (memForm_modSig (memForm_eat hd _ _) _ _) _ _ _) _) _ _ _
  exact MemForm.ite (memForm_twinMark h _ _ _) h

theorem memForm_sigBfpx (hd : MemForm d) (c : Nat) (w : SWord) : MemForm (sigBfpx d c w) := by
  unfold sigBfpx
  exact memForm_arStep (MemForm.foldl (fun _ _ h => memForm_putX h _ _ _) (memForm_modSig (memForm_eat hd _ _) _ _) _) _ _ _

theorem memForm_sigSet (hd : MemForm d) (c : Nat) (w : SWord) : MemForm (sigSet d c w) := by
  have h (f : SigSt → SigSt) : MemForm (modSig d c f) := memForm_modSig hd c f
  unfold sigSet
  exact MemForm.ite (h _) (MemForm.ite (h _) (MemForm.ite (h _) (MemForm.ite (h _) (MemForm.ite (h _) (MemForm.ite (h _) (h _))))))

theorem memForm_sigAccStore (hd : MemForm d) (c : Nat) (w : SWord) : MemForm (sigAccStore d c w) := by
  unfold sigAccStore
  refine memForm_arStep (MemForm.foldl (fun d p h => ?_) (memForm_twinWrite hd _ _ _) _) _ _ _
  exact MemForm.ite (memForm_twinMark h _ _ _) h

theorem memForm_sigAccLoad (hd : MemForm d) (c : Nat) (w : SWord) : MemForm (sigAccLoad d c w) := by
  unfold sigAccLoad
  exact memForm_arStep (memForm_setAcc hd _ _ _) _ _ _

theorem memForm_sigLoopStore (hd : MemForm d) (c : Nat) (w : SWord) : MemForm (sigLoopStore d c w) := by
  unfold sigLoopStore
  exact memForm_arStride (memForm_twinWrite hd _ _ _) _ _

theorem memForm_setReg (hd : MemForm d) (k v : Nat) : MemForm (setReg d k v) := hd.keep rfl rfl

theorem memForm_sigLoopLoad (hd : MemForm d) (c : Nat) (w : SWord) : MemForm (sigLoopLoad d c w) := by
  unfold sigLoopLoad
  extract_lets o bs d1 d2 be
  have h2 : MemForm d2 := by
    refine MemForm.foldl (fun d k h => ?_) (memForm_eat hd _ _) _
    extract_lets v d1 d2
    exact memForm_fset (memForm_fset (memForm_fset (memForm_setReg h _ _) _ _ _) _ _ _) _ _ _
  have h3 := memForm_inRange h2 0 24 (fieldLe bs 26 1)
  generalize inRange d2 0 24 (fieldLe bs 26 1) = p at h3 ⊢
  obtain ⟨sh, d3⟩ := p
  dsimp only at h3 ⊢
  have h4 := memForm_inRange h3 8 14 (fieldLe bs 27 1)
  generalize inRange d3 8 14 (fieldLe bs 27 1) = p at h4 ⊢
  obtain ⟨mw, d4⟩ := p
  dsimp only at h4 ⊢
  exact memForm_arStride (memForm_modSig h4 _ _) _ _

theorem memForm_sigAddrStore (hd : MemForm d) (c : Nat) (w : SWord) : MemForm (sigAddrStore d c w) := by
  unfold sigAddrStore
  exact memForm_arStep (memForm_modSig (memForm_twinWrite hd _ _ _) _ _) _ _ _

theorem memForm_sigAddrLoad (hd : MemForm d) (c : Nat) (w : SWord) : MemForm (sigAddrLoad d c w) := by
  unfold sigAddrLoad
  extract_lets o bs d1
  have h1 : MemForm d1 := memForm_eat hd _ _
  cases (sigSt d1 c).images.find? (fun l => arImage l == bs) with
  | some l => exact memForm_modSig h1 _ _
  | none => exact memForm_modSig (memForm_takeFree h1) _ _

/-! Sequencing (R137-R141). -/

theorem memForm_setSigPc (hd : MemForm d) (c pc : Nat) : MemForm (setSigPc d c pc) := by
  unfold setSigPc
  exact memForm_fset hd _ _ _

theorem memForm_loopTest (c pc next k : Nat) (hd : MemForm d) : MemForm (loopTest c pc next k d) := by
  induction k generalizing d with
  | zero => exact memForm_setSigPc hd _ _
  | succ k ih =>
    rw [loopTest]
    extract_lets r d1
    have h1 : MemForm d1 := memForm_fset hd _ _ _
    exact MemForm.ite (MemForm.ite (memForm_setSigPc h1 _ _) (ih (memForm_fset h1 _ _ _))) (memForm_setSigPc hd _ _)

theorem memForm_sigLoop (hd : MemForm d) (c : Nat) (w : SWord) : MemForm (sigLoop d c w) := by
  unfold sigLoop
  extract_lets e n pc
  refine MemForm.ite (memForm_setSigPc hd _ _) ?_
  exact memForm_setSigPc (memForm_fset (memForm_fset (memForm_fset (memForm_fset (memForm_setReg hd _ _) _ _ _) _ _ _) _ _ _) _ _ _) _ _

theorem memForm_sigHop (hd : MemForm d) (c : Nat) (w : SWord) : MemForm (sigHop d c w) := by
  unfold sigHop
  exact memForm_loopTest _ _ _ _ hd

theorem memForm_sigNext (hd : MemForm d) (c pc : Nat) : MemForm (sigNext d c pc) := by
  unfold sigNext
  exact memForm_loopTest _ _ _ _ hd

theorem memForm_sigReturn (hd : MemForm d) (c : Nat) : MemForm (sigReturn d c) := by
  unfold sigReturn
  exact memForm_fset (memForm_fset (memForm_fset (memForm_sigNext hd _ _) _ _ _) _ _ _) _ _ _

theorem memForm_sigMem (hd : MemForm d) (c : Nat) (w : SWord) : MemForm (sigMem d c w) := by
  unfold sigMem
  extract_lets load store hit
  have hload (d : Dev) (h : MemForm d) (x a : Nat) (clash : Bool) : MemForm (load d x a clash) := by
    have hl := memForm_loadX h c x a
    exact MemForm.ite (memForm_setX (memForm_freeLanes hl ((lanesOf d c x).any (fun l => l.p) || (lanesOf (loadX d c x a) c x).any (fun l => l.p)))
      c x _) hl
  have hstore (d : Dev) (h : MemForm d) (x a : Nat) (clash : Bool) : MemForm (store d x a clash) :=
    MemForm.ite (memForm_storeLanes (memForm_freeLanes h ((lanesOf d c x).any (fun l => l.p))) c a _) (memForm_storeLanes h c a _)
  split
  · exact hload _ hd _ _ _
  · exact hload _ (hload _ hd _ _ _) _ _ _
  · exact hstore _ hd _ _ _
  · exact hstore _ (hload _ hd _ _ _) _ _ _
  · exact hd

theorem memForm_sigEntry (hd : MemForm d) (c : Nat) : MemForm (sigEntry d c) := by
  unfold sigEntry
  refine MemForm.ite (memForm_fset (memForm_fset (memForm_fset (memForm_fset ?_ _ _ _) _ _ _) _ _ _) _ _ _) hd
  exact memForm_fset (memForm_fset hd _ _ _) _ _ _

/-- A signal instruction that does not set the PC keeps the form when its operation does. -/
theorem memForm_sigRow (hd : MemForm d) (c op : Nat) (fixed : Bool) {act : Dev → SWord → Dev} (hact : ∀ d w, MemForm d → MemForm (act d w)) :
    MemForm (sigRow d c op fixed act) := by
  unfold sigRow
  refine MemForm.ite (memForm_sigNext (memForm_sigMem (hact _ _ (MemForm.ite ?_ hd)) _ _) _ _) hd
  exact memForm_record (memForm_fsat hd _ _ _) _

theorem memForm_sigJump (hd : MemForm d) (c op : Nat) {act : Dev → SWord → Dev} (hact : ∀ d w, MemForm d → MemForm (act d w)) :
    MemForm (sigJump d c op act) := by
  unfold sigJump
  exact MemForm.ite (hact _ _ hd) hd

theorem memForm_sigRet (hd : MemForm d) (c : Nat) : MemForm (sigRet d c) := by
  unfold sigRet
  exact memForm_sigJump hd _ _ fun d w h => MemForm.ite (memForm_urgentDone (memForm_sigReturn h c) c) (memForm_sigReturn h c)

end

/-! The commands. -/

/-- The effect of a command is one on the device, which keeps the form. -/
def KeepsMemForm (i : Instr) : Prop :=
  ∃ f : Dev → Dev, (∀ s, exec i s = onDev s f) ∧ ∀ d, MemForm d → MemForm (f d)

theorem KeepsMemForm.next {i : Instr} (hi : KeepsMemForm i) {s t : State} (hs : MemForm s.dev) (h : exec i s = .next t) : MemForm t.dev := by
  obtain ⟨f, hex, hf⟩ := hi
  rw [hex] at h
  rcases onDev_cases s f with h' | h' <;> rw [h'] at h <;> injection h with h <;> subst h
  · exact hs
  · exact hf _ hs

theorem memForm_pierReadRow {d : Dev} (hd : MemForm d) (w : Who) (o : Nat) (err : List (Nat × Nat)) : MemForm (pierReadRow d w o err) := by
  unfold pierReadRow
  exact memForm_afterRead (memForm_pierRead hd _ _ _) _ _

theorem memForm_pierWriteRow {d : Dev} (hd : MemForm d) (w : Who) (o mask : Nat) (bs : List Byte) (p : Bool) (err : List (Nat × Nat)) :
    MemForm (pierWriteRow d w o mask bs p err) := by
  unfold pierWriteRow
  exact memForm_afterRead (memForm_pierWrite hd _ _ _ _ _ _) _ _

theorem keepsMemForm_pierOp {i : Instr} (hi : PierOp i) : KeepsMemForm i := by
  cases hi with
  | pierRead w l err => exact ⟨fun d => pierReadRow d w (64 * l) err, fun _ => rfl, fun _ hd => memForm_pierReadRow hd _ _ _⟩
  | pierWrite w l m hw p =>
    exact ⟨fun d => pierWriteRow d w (64 * l) m.toNat hw.data p hw.err, fun _ => rfl, fun _ hd => memForm_pierWriteRow hd _ _ _ _ _ _⟩
  | refreshDue p ch bank pending => exact ⟨fun d => refreshDue d p ch bank pending, fun _ => rfl, fun _ hd => memForm_refreshDue hd _ _ _ _⟩
  | rowSpare p ch row => exact ⟨fun d => rowSpare d p ch row, fun _ => rfl, fun _ hd => memForm_rowSpare hd _ _ _⟩
  | pierSpare p ch => exact ⟨fun d => spareChannel d p ch, fun _ => rfl, fun _ hd => memForm_spareChannel hd _ _⟩
  | channelSpareComplete p => exact ⟨fun d => spareDone d p, fun _ => rfl, fun _ hd => memForm_spareDone hd _⟩
  | pierRetrain p ch => exact ⟨fun d => retrainCh d p ch, fun _ => rfl, fun _ hd => memForm_retrainCh hd _ _⟩
  | gather p x rows => exact ⟨fun d => engGather d p x rows, fun _ => rfl, fun _ hd => memForm_engGather hd _ _ _⟩
  | dequant p x => exact ⟨fun d => engDequant d p x, fun _ => rfl, fun _ hd => memForm_engDequant hd _ _⟩
  | copy p x => exact ⟨fun d => engCopy d p x, fun _ => rfl, fun _ hd => memForm_engCopy hd _ _⟩
  | move p x => exact ⟨fun d => engMove d p x, fun _ => rfl, fun _ hd => memForm_engMove hd _ _⟩
  | crc64 p x => exact ⟨fun d => engCrc d p x, fun _ => rfl, fun _ hd => memForm_engCrc hd _ _⟩
  | fill p x => exact ⟨fun d => engFill d p x, fun _ => rfl, fun _ hd => memForm_engFill hd _ _⟩
  | dirtyScan p x => exact ⟨fun d => engDirty d p x, fun _ => rfl, fun _ hd => memForm_engDirty hd _ _⟩

/-- A signal instruction keeps the form when its operation does. -/
theorem keepsMemForm_sigRow {i : Instr} {c op : Nat} {fixed : Bool} (act : Dev → SWord → Dev)
    (hi : ∀ s, exec i s = onDev s fun d => sigRow d c op fixed act) (hact : ∀ d w, MemForm d → MemForm (act d w)) : KeepsMemForm i :=
  ⟨fun d => sigRow d c op fixed act, hi, fun _ hd => memForm_sigRow hd c op fixed hact⟩

theorem keepsMemForm_signalOp {c : Fin 96} {fixed : Bool} {i : Instr} (hi : i ∈ signalOps c fixed) : KeepsMemForm i := by
  revert i
  simp only [signalOps, List.forall_mem_cons, List.not_mem_nil, false_imp_iff, implies_true, and_true]
  refine ⟨?snop, ?cmac, ?cmul, ?cadd, ?csub, ?cnco, ?srnd, ?snorm, ?sexp, ?sbfpc, ?sbfpx, ?sset, ?sacs, ?sacl, ?sloop, ?sjmp, ?sret, ?sstl,
    ?sldl, ?ssta, ?slda, ?sigIrq, ?entry⟩
  case snop => exact keepsMemForm_sigRow (fun d _ => d) (fun _ => rfl) fun _ _ hd => hd
  case cmac => exact keepsMemForm_sigRow (fun d w => sigMac d c w false) (fun _ => rfl) fun _ _ hd => memForm_sigMac hd _ _ _
  case cmul => exact keepsMemForm_sigRow (fun d w => sigMac d c w true) (fun _ => rfl) fun _ _ hd => memForm_sigMac hd _ _ _
  case cadd => exact keepsMemForm_sigRow (fun d w => sigAdd d c w 1) (fun _ => rfl) fun _ _ hd => memForm_sigAdd hd _ _ _
  case csub => exact keepsMemForm_sigRow (fun d w => sigAdd d c w (-1)) (fun _ => rfl) fun _ _ hd => memForm_sigAdd hd _ _ _
  case cnco => exact keepsMemForm_sigRow (fun d w => sigNco d c w) (fun _ => rfl) fun _ _ hd => memForm_sigNco hd _ _
  case srnd => exact keepsMemForm_sigRow (fun d w => sigRnd d c w) (fun _ => rfl) fun _ _ hd => memForm_sigRnd hd _ _
  case snorm => exact keepsMemForm_sigRow (fun d w => sigNorm d c w) (fun _ => rfl) fun _ _ hd => memForm_sigNorm hd _ _
  case sexp => exact keepsMemForm_sigRow (fun d w => sigExp d c w) (fun _ => rfl) fun _ _ hd => memForm_sigExp hd _ _
  case sbfpc => exact keepsMemForm_sigRow (fun d w => sigBfpc d c w) (fun _ => rfl) fun _ _ hd => memForm_sigBfpc hd _ _
  case sbfpx => exact keepsMemForm_sigRow (fun d w => sigBfpx d c w) (fun _ => rfl) fun _ _ hd => memForm_sigBfpx hd _ _
  case sset => exact keepsMemForm_sigRow (fun d w => sigSet d c w) (fun _ => rfl) fun _ _ hd => memForm_sigSet hd _ _
  case sacs => exact keepsMemForm_sigRow (fun d w => sigAccStore d c w) (fun _ => rfl) fun _ _ hd => memForm_sigAccStore hd _ _
  case sacl => exact keepsMemForm_sigRow (fun d w => sigAccLoad d c w) (fun _ => rfl) fun _ _ hd => memForm_sigAccLoad hd _ _
  case sstl => exact keepsMemForm_sigRow (fun d w => sigLoopStore d c w) (fun _ => rfl) fun _ _ hd => memForm_sigLoopStore hd _ _
  case sldl => exact keepsMemForm_sigRow (fun d w => sigLoopLoad d c w) (fun _ => rfl) fun _ _ hd => memForm_sigLoopLoad hd _ _
  case ssta => exact keepsMemForm_sigRow (fun d w => sigAddrStore d c w) (fun _ => rfl) fun _ _ hd => memForm_sigAddrStore hd _ _
  case slda => exact keepsMemForm_sigRow (fun d w => sigAddrLoad d c w) (fun _ => rfl) fun _ _ hd => memForm_sigAddrLoad hd _ _
  case sloop =>
    exact ⟨fun d => sigJump d c 0x10 (fun d w => sigLoop d c w), fun _ => rfl, fun _ hd => memForm_sigJump hd _ _ fun _ _ h => memForm_sigLoop h _ _⟩
  case sjmp =>
    exact ⟨fun d => sigJump d c 0x11 (fun d w => sigHop d c w), fun _ => rfl, fun _ hd => memForm_sigJump hd _ _ fun _ _ h => memForm_sigHop h _ _⟩
  case sret => exact ⟨fun d => sigRet d c, fun _ => rfl, fun _ hd => memForm_sigRet hd _⟩
  case sigIrq => exact ⟨fun d => sigIrq d c, fun _ => rfl, fun _ hd => memForm_sigIrq hd _⟩
  case entry => exact ⟨fun d => sigEntry d c, fun _ => rfl, fun _ hd => memForm_sigEntry hd _⟩

/-- Settles O34: reset lists nothing, and each command's effect on the device keeps the form. -/
theorem memoryForm : Obligations.MemoryForm := by
  unfold Obligations.MemoryForm
  refine ⟨reset_mem_wf.1, fun s t i hi hm hh h => ?_⟩
  have ht : MemForm t.dev := by
    rcases hi with hp | ⟨c, fixed, hc⟩
    · exact (keepsMemForm_pierOp hp).next ⟨hm, hh⟩ h
    · exact (keepsMemForm_signalOp hc).next ⟨hm, hh⟩ h
  exact ⟨ht.mem, ht.hmem⟩

end Sys2Proof.Machine
end

section
/-! ### Commands of a device that works -/

namespace Sys2Proof.Machine

/-- A command whose effect on a working device is known. -/
theorem onDev_eq {s : State} (hr : Runs s) (f : Dev → Dev) {e : Dev} (he : f s.dev = e) : onDev s f = .next (withDev s e) := by
  rw [onDev_runs hr, he]

end Sys2Proof.Machine
end

section
/-! ### Heat, droop and supply (O54) -/

namespace Sys2Proof.Machine

theorem hasFloor_fin (i : Fin 144) : hasFloor i = true := decide_eq_true i.isLt

/-- What the check of an island's clock makes of a device whose responses stand at `level` and `n` (R17, R493). -/
def checked (d : Dev) (i level n : Nat) : Dev :=
  if holdsWork d i = true ∧ (1900 - 100 * level) * (64 - n) < 1520 * 64 then deviceFatal d { status := 0x6B09, detail := i } else d

theorem belowFloor_iff (d : Dev) (i : Nat) :
    belowFloor d i = true ↔ (1900 - 100 * (heatOf d i).1) * (64 - tget 0 d.heat.droop i) < 1520 * 64 := decide_eq_true_iff

theorem clockCheck_eq (d : Dev) (i : Fin 144) : clockCheck d i = checked d i (heatOf d i).1 (tget 0 d.heat.droop i) := by
  rw [clockCheck, hasFloor_fin, Bool.true_and, islandWork, checked]
  by_cases hw : holdsWork d i = true
  · by_cases hb : belowFloor d i = true
    · rw [if_pos hw, if_pos hb, if_pos ⟨hw, (belowFloor_iff d i).1 hb⟩]
    · rw [if_pos hw, if_neg hb, if_neg fun h => hb ((belowFloor_iff d i).2 h.2)]
  · rw [if_neg hw, if_neg fun h => hw h.1]

/-- The state of an island's thermal response replaced. -/
def putLevel (d : Dev) (i : Nat) (x : Nat × Option Nat × Option Nat) : Dev := modHeat d (fun h => { h with level := tset h.level i x })

theorem heatOf_putLevel (d : Dev) (i : Nat) (x : Nat × Option Nat × Option Nat) : heatOf (putLevel d i x) i = x :=
  tget_tset_self _ _ _ _

/-- Whether the last step down of an island lies less than 1 ms back (R492). -/
def stepWaits (d : Dev) (i : Nat) : Prop := ∃ u, (heatOf d i).2.1 = some u ∧ tb2 d < u + 8000000

/-- A reading of 100 °C or more steps the clock down where the response allows it, and the clock is checked at the new level. -/
theorem thermalCheck_step {d : Dev} {i : Fin 144} {t : Int} (ht : 6400 ≤ t) (hl : (heatOf d i).1 < 3) (hw : ¬ stepWaits d i) :
    thermalCheck d i t =
      checked (putLevel d i ((heatOf d i).1 + 1, some (tb2 d), none)) i ((heatOf d i).1 + 1) (tget 0 d.heat.droop i) := by
  have hstep : thermalCheck d i t = clockCheck (putLevel d i ((heatOf d i).1 + 1, some (tb2 d), none)) i := by
    simp only [thermalCheck, hasFloor_fin, Bool.not_true, Bool.false_eq_true, if_false, if_pos ht]
    cases hu : (heatOf d i).2.1 with
    | none => exact if_pos ⟨hl, rfl⟩
    | some u =>
      have hlt : ¬ tb2 d < u + 8000000 := fun h => hw ⟨u, hu, h⟩
      exact if_pos ⟨hl, by simp [hlt]⟩
  rw [hstep, clockCheck_eq, heatOf_putLevel]
  rfl

/-- A reading of 100 °C or more ends the cool-down where the clock cannot step down. -/
theorem thermalCheck_held {d : Dev} {i : Fin 144} {t : Int} (ht : 6400 ≤ t) (h : 3 ≤ (heatOf d i).1 ∨ stepWaits d i) :
    thermalCheck d i t = putLevel d i ((heatOf d i).1, (heatOf d i).2.1, none) := by
  simp only [thermalCheck, hasFloor_fin, Bool.not_true, Bool.false_eq_true, if_false, if_pos ht]
  rcases h with hl | ⟨u, hu, hlt⟩
  · exact if_neg fun hc => absurd hc.1 (by omega)
  · simp only [hu]
    exact if_neg fun hc => by simp [hlt] at hc

/-- Between the two thresholds nothing but the cool-down changes. -/
theorem thermalCheck_between {d : Dev} {i : Fin 144} {t : Int} (ht : 5888 < t) (ht' : t < 6400) :
    thermalCheck d i t = putLevel d i ((heatOf d i).1, (heatOf d i).2.1, none) := by
  simp only [thermalCheck, hasFloor_fin, Bool.not_true, Bool.false_eq_true, if_false, if_neg (Int.not_le.2 ht'), if_neg (Int.not_le.2 ht)]
  rfl

/-- A reading of 92 °C or less starts the cool-down, and after 10 ms of it steps the clock up. -/
theorem thermalCheck_cool {d : Dev} {i : Fin 144} {t : Int} (ht : t ≤ 5888) :
    thermalCheck d i t = match (heatOf d i).2.2 with
      | none => putLevel d i ((heatOf d i).1, (heatOf d i).2.1, some (tb2 d))
      | some u => if u + 80000000 ≤ tb2 d then
          putLevel d i ((heatOf d i).1 - 1, (heatOf d i).2.1, if (heatOf d i).1 ≤ 1 then some u else some (tb2 d)) else d := by
  simp only [thermalCheck, hasFloor_fin, Bool.not_true, Bool.false_eq_true, if_false, if_neg (show ¬ 6400 ≤ t by omega), if_pos ht]
  cases (heatOf d i).2.2 <;> rfl

/-- A droop sets the lengthening of the island's cycles, and its clock is checked (R491, R493). -/
theorem clockTrip_eq (d : Dev) (i : Fin 144) (n : Nat) :
    clockTrip d i n = checked (modHeat d (fun h => { h with droop := tset h.droop i n })) i (heatOf d i).1 n := by
  rw [clockTrip, setDroop, if_pos (hasFloor_fin i), clockCheck_eq]
  exact congrArg (checked _ _ _) (tget_tset_self _ _ _ _)

theorem thermalTrip_hot {d : Dev} {i : Fin 144} {t : Int} {dram : Bool}
    (h : 7360 ≤ t ∨ (7040 ≤ t ∧ (heatOf d i).1 = 3) ∨ (dram = true ∧ 6720 ≤ t)) :
    thermalTrip d i t dram =
      let d1 := deviceFatal d { status := 0x6B08, detail := i + ofSigned 16 t * 2 ^ 16 }
      { d1 with env := { d1.env with thermtripN := false } } := by
  have hi := i.isLt
  rw [thermalTrip, if_neg (by omega), hasFloor_fin]
  exact if_pos (by simpa using h)

/-- Settles O54: the equation of each response, by the reading of the diode and the state of the cool-down. -/
theorem thermalAndSupply : Obligations.ThermalAndSupply := by
  unfold Obligations.ThermalAndSupply
  intro s i hr d h put droop check
  have check_eq (f : HeatSt → HeatSt) (level n : Nat) :
      check level n (modHeat d f) = .next (withDev s (checked (modHeat d f) i level n)) := rfl
  refine ⟨?step, ?held, ?between, ?cool, fun n => ?droop, onDev_runs hr fun d => droopRelease d i, ?trip, ?supply, onDev_runs hr monitorCheck,
    fun n => ⟨onDev_runs hr fun d => diodeCheck d n true, onDev_runs hr fun d => diodeCheck d n false⟩⟩
  case step =>
    intro t ht hl hu
    have hw : ¬ stepWaits d i := fun ⟨u, hu', hlt⟩ => absurd (hu u hu') (by omega)
    rw [check_eq]
    exact onDev_eq hr (fun d => thermalCheck d i t) (thermalCheck_step ht hl hw)
  case held => exact fun t ht hh => onDev_eq hr (fun d => thermalCheck d i t) (thermalCheck_held ht hh)
  case between => exact fun t ht ht' => onDev_eq hr (fun d => thermalCheck d i t) (thermalCheck_between ht ht')
  case cool =>
    intro t ht
    refine ⟨fun hc => ?_, fun u hc => ⟨fun hlt => ?_, fun hge => ?_⟩⟩
    all_goals refine onDev_eq hr (fun d => thermalCheck d i t) ((thermalCheck_cool ht).trans ?_)
    all_goals change (heatOf d i).2.2 = _ at hc; rw [hc]
    · rfl
    · exact if_neg (Nat.not_le.2 hlt)
    · exact if_pos hge
  case droop =>
    have hx : onDev s (fun d => clockTrip d i n) = check h.1 n (modHeat d (fun h => { h with droop := tset h.droop i n })) := by
      rw [check_eq]
      exact onDev_eq hr _ (clockTrip_eq d i n)
    -- DROOP_DETECT and CLOCK_TRIP have one effect.
    exact ⟨hx, hx⟩
  case trip => exact fun t dram hh => onDev_eq hr (fun d => thermalTrip d i t dram) (thermalTrip_hot hh)
  case supply => exact fun rail v hv => onDev_eq hr (fun d => supplyTrip d rail v) (if_pos hv)

end Sys2Proof.Machine
end

section
/-! ### Registers that a record and a field leave -/

namespace Sys2Proof.Machine

/-- The bits of a number with a field replaced. -/
theorem testBit_setBits (v lo w x i : Nat) :
    (setBits v lo w x).testBit i = if lo ≤ i ∧ i < lo + w then x.testBit (i - lo) else v.testBit i := by
  rw [setBits_eq, Nat.testBit_two_pow_mul_add _ (Nat.mod_lt _ (Nat.two_pow_pos lo)), Nat.testBit_mod_two_pow,
    Nat.testBit_two_pow_mul_add _ (Nat.mod_lt _ (Nat.two_pow_pos w)), Nat.testBit_mod_two_pow, Nat.testBit_div_two_pow,
    Nat.testBit_div_two_pow]
  by_cases h1 : i < lo
  · simp [h1, show ¬ lo ≤ i by omega]
  by_cases h2 : i < lo + w
  · simp [h1, h2, show lo ≤ i by omega, show i - lo < w by omega]
  · simp [h1, h2, show ¬ i - lo < w by omega, show i - lo - w + w + lo = i by omega]

theorem getReg_enqueueRec (d : Dev) (r : Rec) {k : Nat} (h : k ≠ regMgtFhRecords) : getReg (enqueueRec d r) k = getReg d k := by
  unfold enqueueRec
  split <;> exact getReg_fset_ne d h _ _

theorem getReg_fileRec (d : Dev) (r : Rec) {k : Nat} (h : k ≠ regMgtFhRecords) : getReg (fileRec d r) k = getReg d k := by
  unfold fileRec
  split
  · split
    · rfl
    · dsimp only
      split <;> exact getReg_enqueueRec d r h
  · exact getReg_enqueueRec d r h

theorem getReg_chargeRecord (d : Dev) (r : Rec) (k : Nat) : getReg (chargeRecord d r) k = getReg d k := by
  unfold chargeRecord
  split
  · rfl
  · dsimp only
    split <;> rfl

theorem getReg_countNesting (d : Dev) (r : Rec) (k : Nat) : getReg (countNesting d r) k = getReg d k := by
  unfold countNesting
  split
  · rfl
  · dsimp only
    split <;> rfl

theorem getReg_showStatus (d : Dev) (r : Rec) {k : Nat} (h : ∀ x ∈ lastStatusOf r, k ≠ x.1) : getReg (showStatus d r) k = getReg d k := by
  unfold showStatus
  split
  · next hs => exact getReg_fset_ne d (h _ hs) _ _
  · rfl

/-- A record changes no register but its block's last status and the count of records (R427-R431). -/
theorem getReg_record_ne (d : Dev) (r : Rec) {k : Nat} (h : k ≠ regMgtFhRecords) (hs : ∀ x ∈ lastStatusOf r, k ≠ x.1) :
    getReg (record d r) k = getReg d k := by
  rw [record, getReg_fileRec _ _ h, getReg_countNesting, getReg_showStatus _ _ hs, getReg_chargeRecord]

end Sys2Proof.Machine
end

section
/-! ### The radio accelerators and switches (O22) -/

namespace Sys2Proof.Machine

/-- The fence of a unit sets its bit and no other (R167). -/
theorem fence_fenceAccel {d : Dev} {u : Nat} (hu : u < 64) (h : bitOf (getReg d regRadioAccelFence) u = false) (v : Nat) :
    bitOf (getReg (fenceAccel d u) regRadioAccelFence) v = (decide (v = u) || bitOf (getReg d regRadioAccelFence) v) := by
  have hreg : getReg (fenceAccel d u) regRadioAccelFence = setBits (getReg d regRadioAccelFence) u 1 1 % 2 ^ 64 := by
    rw [fenceAccel, h]
    refine (getReg_record_ne _ _ (by decide) fun x hx => ?_).trans (getReg_setReg_self _ _ _)
    obtain rfl : x = (regRadioStatus, fldRadioStatusLastStatus) := by simpa [lastStatusOf] using hx.symm
    decide
  have hhigh (hv : 64 ≤ v) : (getReg d regRadioAccelFence).testBit v = false :=
    Nat.testBit_lt_two_pow (Nat.lt_of_lt_of_le (getReg_lt d _) (Nat.pow_le_pow_right (by decide) hv))
  rw [hreg, bitOf, bitOf, Nat.testBit_mod_two_pow, testBit_setBits]
  by_cases hv : v = u
  · simp [hv, hu]
  rw [if_neg (by omega)]
  by_cases hv' : v < 64
  · simp [hv, hv']
  · simp [hv, hv', hhigh (by omega)]

/-- The darner takes the code block at the head of the queue (R164). -/
theorem decodeRow_head {d : Dev} {unit : Nat} {j : DecJob} (h : firstJob (decJobs d) = some j) :
    decodeRow d unit j.carrier j.frame j.slot j.pdu j.block = codeBlock d unit := by
  rw [decodeRow, h]
  exact if_pos rfl

/-- A job whose place holds and whose output is made: one that encodes, or one in time for the PDU it serves (R166). -/
theorem accelJob_eq {d : Dev} {k : Nat} {j : AccelJob} {bs : List Byte} (hok : accelOk d j.unit k = true) (hc : j.core < 96)
    (hon : coreOn d j.core = true) (hf : coreFenced d j.core = false) (hh : slotHeld d j.core = true) (hsrc : j.src + j.len ≤ 0x80000)
    (hdst : j.dst + j.outLen ≤ 0x80000) (ht : encodes k j = true ∨ ∀ u, j.use = some u → jobLate d k u = false)
    (ho : accelOut k j.params (devRead d (storeAddr j.core j.src) j.len) = some bs) :
    accelJob d k j = noteCoded (devWrite d (storeAddr j.core j.dst) (padTo j.outLen bs) (isPoisoned d (storeAddr j.core j.src) j.len)) k j := by
  have hu : (if encodes k j then none else j.use.filter (jobLate d k)) = none := by
    rcases ht with he | hl
    · exact if_pos he
    · rw [Option.filter_eq_none_iff.2 fun u hu => by simp [hl u hu], ite_self]
  simp [accelJob, hok, hon, hf, hh, hu, ho, Nat.not_le.2 hc, Nat.not_lt.2 hsrc, Nat.not_lt.2 hdst]

/-- Starting a carrier that is not looped back and whose ports clash with none (R181). -/
theorem carEnable_on {d : Dev} {n : Nat} (hl : carLooped d n = false) (he : eaxcClash d n = false) :
    carEnable d n true =
      let on := fset d (regRadioCarCtrl n) fldRadioCarCtrlEnable 1
      if carState on n = 2 then countCars (fset on (regRadioCarStatus n) fldRadioCarStatusState 1) else on := by
  simp [carEnable, hl, he, b2n]

theorem carEnable_off (d : Dev) (n : Nat) :
    carEnable d n false =
      let off := fset d (regRadioCarCtrl n) fldRadioCarCtrlEnable 0
      if carState off n = 1 then countCars (fset off (regRadioCarStatus n) fldRadioCarStatusState 2) else off := by
  simp [carEnable, b2n]

theorem flashShare_taken {d : Dev} {on : Bool}
    (h : on = false ∨ fget d regRadioDarner fldRadioDarnerFlashShare = 1 ∨ admitted d = false ∨ d.sp.flash40 = true) :
    flashShare d (b2n on) = commitSoon (fset d regRadioDarner fldRadioDarnerFlashShare (b2n on)) regRadioDarner := by
  refine if_neg fun ⟨hv, hz, ha, hn⟩ => ?_
  rcases h with rfl | h | h | h
  · exact absurd hv (by decide)
  · omega
  · simp [h] at ha
  · simp [h] at hn

/-- Settles O22: the equation of each row where its unit is in service, and the bits of the fence. -/
theorem radioWork : Obligations.RadioWork := by
  unfold Obligations.RadioWork
  intro s hr d
  refine ⟨?decode, ?preamble, ?jobs, ?fence, ?carrier, fun on h => onDev_eq hr (fun d => flashShare d (b2n on)) (flashShare_taken h)⟩
  case decode =>
    dsimp only
    intro unit j p hok hj hp ht hst hpo
    refine onDev_eq hr (fun d => decodeRow d unit j.carrier j.frame j.slot j.pdu j.block) ((decodeRow_head hj).trans ?_)
    simp only [codeBlock, if_pos hok, hj, hp, ht, hst, hpo, Bool.false_eq_true, if_false]
  case preamble =>
    dsimp only
    intro j p hp hok hc hf hh hsrc hpr ht hpo
    refine onDev_eq hr (fun d => preamble d j) ?_
    have hpo' : isPoisoned (commitReg d (regRadioCarPrach j.carrier)) (storeAddr j.core j.src) (prachLen j) = false := hpo
    change preamble d j = _
    simp only [preamble, hp, hok, hf, hh, hpr, ht, hpo', decide_eq_false (Nat.not_le.2 hc), decide_eq_false (Nat.not_lt.2 hsrc),
      Bool.not_true, Bool.or_self, Bool.false_eq_true, if_false]
  case jobs =>
    intro j hc hon hf hh hsrc hdst onTime a out
    have job (k : Nat) {bs : List Byte} (hok : accelOk d j.unit k = true) (ht : encodes k j = true ∨ onTime k)
        (ho : accelOut k j.params (devRead d a j.len) = some bs) : onDev s (fun d => accelJob d k j) = out k bs :=
      onDev_eq hr _ (accelJob_eq hok hc hon hf hh hsrc hdst ht ho)
    exact ⟨fun hok => job 1 hok (.inl rfl) rfl, fun bs hok ht ho => job 2 hok ht ho, fun hok ht hn => job 3 hok (.inr ht) (if_pos hn)⟩
  case fence =>
    intro u h
    have hbit := fence_fenceAccel (d := d) (Nat.lt_trans u.isLt (by decide)) h
    refine ⟨_, onDev_runs hr (fun d => fenceAccel d u), ?_, fun v hv => ?_⟩
    · exact (hbit u).trans (by simp)
    · exact (hbit v).trans (by simp [Fin.val_ne_of_ne hv])
  case carrier =>
    exact fun n => ⟨fun hl he => onDev_eq hr (fun d => carEnable d n true) (carEnable_on hl he),
      onDev_eq hr (fun d => carEnable d n false) (carEnable_off d n)⟩

end Sys2Proof.Machine
end

section
/-! ### The fronthaul unit (O21) -/

namespace Sys2Proof.Machine

/-- A check that holds does not refuse. -/
theorem not_bnot_eq_true {b : Bool} (h : b = true) : ¬ (!b) = true := by simp [h]

/-! What the check of a sequence number leaves. -/

theorem ite_eq_cases {α : Type} (b : Bool) (x y : α) : (if b then x else y) = y ∨ (if b then x else y) = x := by
  cases b
  · exact .inl rfl
  · exact .inr rfl

/-- The number of a stream's last message noted. -/
def noteSeq (d : Dev) (n stream seq : Nat) : Dev :=
  modSp d (fun s => { s with seqRx := tset s.seqRx (seqKey 0 false n stream) (seq % 256) })

/-- The check notes the number, and counts one that does not follow (R182). -/
theorem seqCheck_cases (d : Dev) (n stream seq : Nat) :
    seqCheck d n stream seq = noteSeq d n stream seq ∨
      seqCheck d n stream seq = fsat (noteSeq d n stream seq) (regFhuCarCnt n) fldFhuCarCntRxSeqErr 1 :=
  ite_eq_cases _ _ _

theorem getReg_seqCheck (d : Dev) (n stream seq : Nat) {k : Nat} (h : k ≠ regFhuCarCnt n) : getReg (seqCheck d n stream seq) k = getReg d k := by
  rcases seqCheck_cases d n stream seq with hs | hs
  · rw [hs]
    rfl
  · rw [hs]
    exact getReg_fset_ne _ h _ _

theorem sp_seqCheck (d : Dev) (n stream seq : Nat) : (seqCheck d n stream seq).sp = (noteSeq d n stream seq).sp := by
  rcases seqCheck_cases d n stream seq with hs | hs
  · rw [hs]
  · rw [hs]
    rfl

theorem carMu_seqCheck (d : Dev) (n stream seq : Nat) : carMu (seqCheck d n stream seq) n = carMu d n := by
  have hne : regRadioCarCfg n ≠ regFhuCarCnt n := by simp only [regRadioCarCfg, regFhuCarCnt]; omega
  rw [carMu, carMu, fget, fget, getReg_seqCheck d n stream seq hne]

theorem carOf_seqCheck (d : Dev) (n stream seq m : Nat) : carOf (seqCheck d n stream seq) m = carOf d m := by
  rw [carOf, sp_seqCheck]
  rfl

theorem pairCore_seqCheck (d : Dev) (n stream seq p side : Nat) : pairCore (seqCheck d n stream seq) p side = pairCore d p side := by
  rw [pairCore, sp_seqCheck]
  rfl

/-! Messages in. -/

/-- A message of the subset that matches a carrier whose port carries it, inside its window and with new PRBs, is landed (R182, R183). -/
theorem uplaneReceive_fresh {d : Dev} {p n stream : Nat} {m0 : UplaneMsg} (hp : portExists d p = true) (hl : ethLooped d (p / 4) = false)
    (h3 : 3 ≤ ethState d p) (h6 : ethState d p ≤ 6) (hs : inSubset m0 = true) (hm : matchCar d p m0 = some (n, stream)) :
    let m := fullPrbs d n m0
    let d1 := seqCheck d n stream m.seq
    let frame := frameNear d1 m.sfn
    let old := tget 0 (slotW d1 n frame m.slot).got (m.sym * 128 + stream)
    let fresh := (rangeFrom m.start m.num).filter (fun b => !bitOf old b)
    placeable d n stream m = true → portCarries d n = true → symTime d1 (carMu d1 n) frame m.slot m.sym ≤ slotNow d1 →
    slotNow d1 ≤ symTime d1 (carMu d1 n) frame m.slot (m.sym + 1) + fact d1 (regFhuCarWin n) fldFhuCarWinRxMax * 800 → fresh ≠ [] →
    uplaneReceive d p m0 = landMsg (fsat d1 (regFhuCarCnt n) fldFhuCarCntRxSeqErr (m.num - fresh.length)) n frame stream m fresh := by
  intro m d1 frame old fresh hpl hc hopen hlast hf
  have hport : (!portExists d p || ethLooped d (p / 4) || decide (ethState d p < 3) || decide (6 < ethState d p)) = false := by
    simp [hp, hl, h3, h6]
  have hin : ¬ (slotNow d1 < symTime d1 (carMu d1 n) frame m.slot m.sym ∨
      symTime d1 (carMu d1 n) frame m.slot (m.sym + 1) + fact d1 (regFhuCarWin n) fldFhuCarWinRxMax * 800 < slotNow d1) := by
    omega
  rw [uplaneReceive, hm]
  refine (if_neg (Bool.eq_false_iff.1 hport)).trans ((if_neg (not_bnot_eq_true hs)).trans ((if_neg (not_bnot_eq_true hpl)).trans ?_))
  exact (if_neg (not_bnot_eq_true hc)).trans ((if_neg hin).trans (if_neg fun h => hf (List.isEmpty_iff.1 h)))

/-- A message with room in the landing ring of one core of the pair and the mirror ring of the other is written to both (R183). -/
theorem landMsg_room {d : Dev} {n frame stream c o : Nat} {m : UplaneMsg} {fresh : List Nat} {k : AdmCar} (hk : carOf d n = some k)
    (hc : pairCore d k.pair (m.sym % 2) = c) (ho : pairCore d k.pair (1 - m.sym % 2) = o) (hcn : c ≠ noCore) (hon : o ≠ noCore) :
    let recs := (runsOf fresh).map (fun r =>
      (({ carrier := n, frame := frame, slot := m.slot, sym := m.sym, stream := stream, first := r.1, num := r.2, off := 0
          len := (landBytes n stream m r.1 r.2).length } : LandRec), landBytes n stream m r.1 r.2))
    let need := recsLen (recs.map (fun r => r.1))
    recsLen (ringsOf d c).land + need ≤ (landRing c).2 → recsLen (ringsOf d o).mirror + need ≤ (mirrorRing d o).2 →
    let d1 := ringAdd d c (landRing c) recs (fun x => x.land) (fun x l => { x with land := l })
    landMsg d n frame stream m fresh =
      modSlot (ringAdd d1 o (mirrorRing d1 o) recs (fun x => x.mirror) (fun x l => { x with mirror := l })) n frame m.slot (fun w =>
        { w with got := tmod 0 w.got (m.sym * 128 + stream) (fun g => fresh.foldl (fun g b => g ||| 2 ^ b) g) }) := by
  subst hc ho
  intro recs need hland hmir d1
  rw [landMsg, hk]
  refine (if_neg ?_).trans ?_
  · rw [decide_eq_false (Nat.not_lt.2 hland), decide_eq_false (Nat.not_lt.2 hmir), Bool.and_false, Bool.and_false, Bool.or_self]
    exact Bool.false_ne_true
  · simp only [if_neg hcn, if_neg hon]
    rfl

/-! Messages out. -/

/-- The record of a symbol that the slot's downlink task made, in its transmit window with every PRB clean, is sent and released (R186). -/
theorem dlSend_clean {d : Dev} {n sfn slot sym stream : Nat} {k : AdmCar} {r : LandRec} (hn : carState d n ≠ 0) (hk : carOf d n = some k)
    (hsym : sym < 14) :
    let frame := frameNear d sfn
    let w := slotW d n frame slot
    let mu := carMu d n
    let c := pairCore d k.pair (sym % 2)
    let mw := fget d (regFhuCarBfp n) fldFhuCarBfpDlMw
    let prb := fget d (regRadioCarCfg n) fldRadioCarCfgPrb
    let d1 := modRings (modSlot d n frame slot (fun w => { w with sent := (sym * 128 + stream) :: w.sent })) c (fun x =>
      { x with tx := dropFree (x.tx.map (fun y => if y == r then { y with free := true } else y)) })
    usesSym w sym = true → w.dead = false → madeSym d c n frame slot sym stream = some r →
    symTime d mu frame slot sym ≤ slotNow d + fact d (regFhuCarWin n) fldFhuCarWinTxMax * 800 →
    slotNow d + fact d (regFhuCarWin n) fldFhuCarWinTxMin * 800 ≤ symTime d mu frame slot sym →
    w.sent.contains (sym * 128 + stream) = false → portCarries d1 n = true → (∀ i < prb, (txPrb d1 c r.off (3 * mw + 1) i).2 = false) →
    dlSend d n sfn slot sym stream r.off = (chunksOf prb mw).foldl (fun d x =>
      let num := if x.2 = prb then 0 else x.2
      sendMsg d 0 true n sym stream x.1 num (oranHead true 0 mu frame slot sym
        ++ uSection (Config.sectionId [0, n, frame, slot, stream, sym]) x.1 num mw ++ cleanPrbs d c r.off (3 * mw + 1) x.1 x.2)) d1 := by
  intro frame w mu c mw prb d1 huse hdead hmade hmax hmin hsent hport hclean
  have hbad : (List.range prb).any (fun i => (txPrb d1 c r.off (3 * mw + 1) i).2) = false := by
    simpa using hclean
  have hgo : ¬ (carState d n = 0 ∨ (!usesSym w sym) = true ∨ w.dead = true ∨
      ¬ (symTime d mu frame slot sym ≤ slotNow d + fact d (regFhuCarWin n) fldFhuCarWinTxMax * 800 ∧
        slotNow d + fact d (regFhuCarWin n) fldFhuCarWinTxMin * 800 ≤ symTime d mu frame slot sym) ∨
      14 ≤ sym ∨ w.sent.contains (sym * 128 + stream) = true ∨ r.off ≠ r.off) := by
    simp only [hn, huse, hdead, hmax, hmin, hsent, Nat.not_le.2 hsym, Bool.not_true, Bool.false_eq_true, and_self, not_true, ne_eq, or_self,
      not_false_eq_true]
  rw [dlSend, hk, Option.map_some]
  dsimp only
  rw [hmade]
  refine (if_neg hgo).trans ((if_neg (not_bnot_eq_true hport)).trans ?_)
  exact congrArg (fun e => List.foldl _ e (chunksOf prb mw)) (if_neg (Bool.eq_false_iff.1 hbad))

/-- Settles O21: the equation of each row where its message, its window and its port stand. -/
theorem fronthaulMoves : Obligations.FronthaulMoves := by
  unfold Obligations.FronthaulMoves
  intro s hr d
  subst d
  refine ⟨?receive, fun n sfn slot sym hcar => ⟨?rxClose, ?cplane, ?txClose, ?dlSend⟩, fun p hp => ⟨?autoneg, ?change, ?drop, ?fec⟩⟩
  case receive =>
    intro p m0 n stream k hp hl h3 h6 hs hm m hpl hc hk d1 frame now old fresh d2 c o recs need hopen hlast hf hcc hoc hland hmir d3 d4
    rw [← carMu_seqCheck s.dev n stream m.seq] at hopen hlast
    have hk2 : carOf d2 n = some k := (carOf_seqCheck s.dev n stream m.seq n).trans hk
    have hc2 : pairCore d2 k.pair (m.sym % 2) = c := pairCore_seqCheck s.dev n stream m.seq _ _
    have ho2 : pairCore d2 k.pair (1 - m.sym % 2) = o := pairCore_seqCheck s.dev n stream m.seq _ _
    exact onDev_eq hr (fun d => uplaneReceive d p m0)
      ((uplaneReceive_fresh hp hl h3 h6 hs hm hpl hc hopen hlast hf).trans (landMsg_room hk2 hc2 ho2 hcc hoc hland hmir))
  case rxClose =>
    intro hul hshort hover hmiss
    refine onDev_eq hr (fun d => rxClose d n sfn slot sym) (if_neg ?_)
    simp [hcar, hul, hshort, hover, hmiss, rxOver, sym.isLt]
  case cplane =>
    intro hport hdir hearly hlate
    refine onDev_eq hr (fun d => cplaneSend d n sfn slot) ((if_neg ?_).trans (if_neg (not_bnot_eq_true hport)))
    have hwork := (Bool.or_eq_true _ _).symm ▸ hdir
    rintro (h | h | h | h)
    · exact hcar h
    · exact not_bnot_eq_true hwork h
    · exact Nat.not_lt.2 hearly h
    · exact Nat.not_lt.2 hlate h
  case txClose =>
    intro k hk huse hroute hdead hclosed hsent
    refine onDev_eq hr (fun d => txClose d n sfn slot sym) ?_
    simp only [txClose, hk]
    refine if_neg ?_
    simp only [hcar, huse, hroute, hdead, hclosed, hsent, Nat.not_le.2 sym.isLt, Bool.not_true, Bool.false_eq_true, not_true, or_self,
      not_false_eq_true]
  case dlSend =>
    intro stream k r hk huse hdead hst hmade c mw prb per off d1 hmax hmin hsent hport hclean
    exact onDev_eq hr (fun d => dlSend d n sfn slot sym stream r.off)
      (dlSend_clean hcar hk sym.isLt huse hdead hmade hmax hmin hsent hport hclean)
  case autoneg =>
    intro modes b hl hb
    refine onDev_eq hr (fun d => autonegDone d p modes true) ?_
    simp [autonegDone, hp, hl, hb]
  case change =>
    exact fun training hl => onDev_eq hr (fun d => ethChange d p training) (if_pos (by simp [hp, hl]))
  case drop =>
    exact onDev_eq hr (fun d => ethDrop d p 0) (if_neg (not_bnot_eq_true hp))
  case fec =>
    intro fec h
    exact onDev_eq hr (fun d => ethDrop d p fec) ((if_neg (not_bnot_eq_true hp)).trans (if_neg h))

end Sys2Proof.Machine
end

section
/-! ### The request operations at their home agent (O41) -/

namespace Sys2Proof.Machine

/-! A write to the device space leaves the fabric's state. -/

theorem trn_foldl {α : Type} {f : Dev → α → Dev} (h : ∀ d x, (f d x).trn = d.trn) (l : List α) (d : Dev) : (l.foldl f d).trn = d.trn :=
  List.foldlRecOn l f (motive := fun e => e.trn = d.trn) rfl (fun e he x _ => (h e x).trans he)

theorem healRow_trn (d : Dev) (base : Nat) : (healRow d base).trn = d.trn := by
  unfold healRow
  split <;> rfl

theorem touch_trn (d : Dev) (a n : Nat) : (touch d a n).trn = d.trn := by
  unfold touch
  split
  · exact trn_foldl (fun e o => modPage_trn e o _) _ d
  · rfl

theorem hostPut_trn (d : Dev) (k : Nat) (bs : List Byte) (p : Bool) : (hostPut d k bs p).trn = d.trn := by
  cases p <;> rfl

@[simp] theorem devWrite_trn (d : Dev) (a : Nat) (bs : List Byte) (p : Bool) : (devWrite d a bs p).trn = d.trn := by
  unfold devWrite
  split
  · rfl
  · split
    · split
      · exact hostPut_trn d _ bs p
      · rfl
    · exact (touch_trn _ a bs.length).trans (trn_foldl healRow_trn _ d)

@[simp] theorem devPut_trn (d : Dev) (a w v : Nat) (p : Bool) : (devPut d a w v p).trn = d.trn := devWrite_trn d a _ p

@[simp] theorem poisonLine_trn (d : Dev) (line : Nat) : (poisonLine d line).trn = d.trn := trn_foldl healRow_trn _ d

@[simp] theorem maskedWrite_trn (d : Dev) (line mask : Nat) (data : List Byte) (p : Bool) : (maskedWrite d line mask data p).trn = d.trn := by
  unfold maskedWrite
  extract_lets
  split
  · rfl
  · exact devWrite_trn d line _ p

@[simp] theorem countJobChoice_trn (d : Dev) (job : Nat) : (countJobChoice d job).trn = d.trn := rfl

/-! What a write-type request does to its line, where the packet and the line are good (R306). -/

/-- The line and the packet of a request carry no poison (R307). -/
def Clean (d : Dev) (r : TrnReq) : Prop := r.poison = false ∧ isPoisoned d (r.addr / 128 * 128) 128 = false

theorem Clean.bad {d : Dev} {r : TrnReq} (h : Clean d r) : (r.poison || isPoisoned d (r.addr / 128 * 128) 128) = false := by
  rw [h.1, h.2, Bool.or_false]

theorem applyWriteType_wr (d : Dev) (r : TrnReq) :
    applyWriteType d 2 r = (maskedWrite d (r.addr / 128 * 128) r.mask r.data r.poison, .rsp 0x82 (replyTo d r)) := rfl

/-- A word operation stores its new value; all but REL_ST answer the old one. -/
theorem applyWriteType_word {d : Dev} {op : Nat} {r : TrnReq} (hop : isWordOp op = true) (h : Clean d r) :
    applyWriteType d op r = (devPut d r.addr 8 (wordOp op (devNat d r.addr 8) r.a r.b),
      .rsp (if op = 0x0C then 0x82 else 0x84) (replyTo d r 0 false (if op = 0x0C then 0 else devNat d r.addr 8))) := by
  have hwr : op ≠ 2 := by
    rintro rfl
    contradiction
  simp only [applyWriteType, if_neg hwr, if_pos hop, h.bad, Bool.false_eq_true, if_false]

theorem applyWriteType_exadd {d : Dev} {r : TrnReq} (h : Clean d r) :
    applyWriteType d 0x0A r = (devWrite d (r.addr / 128 * 128) (exaddLine (devRead d (r.addr / 128 * 128) 128) r.data) false,
      .rsp 0x82 (replyTo d r)) := by
  simp [applyWriteType, isWordOp, h.bad]

theorem applyWriteType_ffadd {d : Dev} {r : TrnReq} (h : Clean d r) :
    applyWriteType d 0x0B r =
      (countJobChoice (fsat (devWrite d (r.addr / 128 * 128) (ffaddLine (devRead d (r.addr / 128 * 128) 128) r.data) false)
        regTrnChoice fldTrnChoiceFfaddApplied 1) r.job, .rsp 0x82 (replyTo d r)) := by
  simp [applyWriteType, isWordOp, h.bad]

/-- Whatever the operation and the poison, the line alone is written, and FFADD counts its choice (R319). -/
theorem applyWriteType_trn (d : Dev) (op : Nat) (r : TrnReq) : (applyWriteType d op r).1.trn = d.trn := by
  simp only [applyWriteType, fsat, apply_ite Prod.fst, apply_ite Dev.trn, maskedWrite_trn, devPut_trn, devWrite_trn, poisonLine_trn,
    countJobChoice_trn, fset_trn, ite_self]

/-! From the arrival of a request to its line. -/

/-- What the home makes of a device `d1` with the line written: the line is occupied, and the reply enters the cache and is sent (R313, R318). -/
def served (d1 : Dev) (p op : Nat) (r : TrnReq) (reply : TrnPkt) : Dev :=
  let l := tget {} d1.trn.lines (r.addr / 128)
  let l1 := { l with until_ := tb2 d1 + lineTime op, isWr := op == 2, src := r.src, job := r.job, counted := false }
  let e : CacheEnt := { reply := some reply, job := r.job, at_ := tb2 d1 }
  let t := { d1.trn with lines := tset d1.trn.lines (r.addr / 128) l1, cache := tset d1.trn.cache (cacheKey r) e }
  sendPkt { d1 with trn := t } p reply

/-- No race is counted on a line where none waits (R319). -/
theorem applyOnLine_idle {d d1 : Dev} {op p : Nat} {r : TrnReq} {reply : TrnPkt} (hw : (tget {} d.trn.lines (r.addr / 128)).waiting = [])
    (ha : applyWriteType d op r = (d1, reply)) : applyOnLine d op r p = served d1 p op r reply := by
  have ht : d1.trn = d.trn := (congrArg (·.1.trn) ha).symm.trans (applyWriteType_trn d op r)
  simp only [applyOnLine, ha, raceWaits, hw, List.any_nil, Bool.and_false, Bool.false_eq_true, if_false, sendReply, served, ht]

/-- A request that reaches its home on a live port (R297, R315, R326). -/
theorem reqArrive_own {d : Dev} {p op : Nat} {r : TrnReq} (hlive : portLive d p = true) (hfence : fenceDrops d r.src r.epoch = false)
    (hage : r.age < maxAge) (hdst : r.dst = ownEndpoint d) : reqArrive d p op r = homeServe d p op r := by
  simp only [reqArrive, arrive, hlive, hfence, Nat.not_le.2 hage, pktDst, hdst, Bool.not_true, Bool.false_eq_true, if_true, if_false, ne_eq,
    not_true_eq_false]

/-- A read that raises no fault on the host window answers the home's packet. -/
theorem homeServe_rd {d : Dev} {p : Nat} {r : TrnReq} (hal : opAligned 1 r.addr = true) (hhost : r.hostFault = false) :
    homeServe d p 1 r = sendPkt d p (homeRead d r) := by
  simp [homeServe, hal, hhost, sendReply]

theorem homeServe_write {d : Dev} {p op : Nat} {r : TrnReq} (hop : op ≠ 1) (hal : opAligned op r.addr = true) (hhost : r.hostFault = false) :
    homeServe d p op r = homeWrite d op r p := by
  simp [homeServe, hal, hhost, hop]

/-- A request that its home applies at once. -/
theorem reqArrive_applies {d d1 : Dev} {p : Fin 8} {op : Nat} {r : TrnReq} {reply : TrnPkt} (h : HomeApplies d p op r) (hop : op ≠ 1)
    (ha : applyWriteType d op r = (d1, reply)) : reqArrive d p op r = served d1 p op r reply := by
  obtain ⟨⟨hlive, hfence, hage, hdst, hal, hhost, hallow⟩, hnew, hroom, hw, hidle⟩ := h
  rw [reqArrive_own hlive hfence hage hdst, homeServe_write hop hal hhost, ← applyOnLine_idle hw ha]
  simp [homeWrite, hnew, hallow, Nat.not_le.2 hage, Nat.not_le.2 hroom, hw, hidle]

/-- Settles O41: a read and a refusal by the home's answer, each write-type operation by its line's rule. -/
theorem homeOperations : Obligations.HomeOperations := by
  unfold Obligations.HomeOperations
  intro s p r hr d line m sg fin good old put
  have write {op : Nat} {d1 : Dev} {reply : TrnPkt} (hop : op ≠ 1) (h : HomeApplies s.dev p op r)
      (ha : applyWriteType s.dev op r = (d1, reply)) : onDev s (fun d => reqArrive d p op r) = .next (withDev s (served d1 p op r reply)) :=
    onDev_eq hr (fun d => reqArrive d p op r) (reqArrive_applies h hop ha)
  have word {op : Nat} (hop : isWordOp op = true) (h : HomeApplies s.dev p op r) (hg : good) :=
    write (by rintro rfl; contradiction) h (applyWriteType_word hop hg)
  refine ⟨?rd, fun h => write (by decide) h (applyWriteType_wr d r), word rfl, word rfl, word rfl, word rfl, word rfl, word rfl, word rfl,
    fun h hg => write (by decide) h (applyWriteType_exadd hg), fun h hg => write (by decide) h (applyWriteType_ffadd hg), word rfl, word rfl,
    ?refused⟩
  case rd =>
    rintro ⟨hlive, hfence, hage, hdst, hal, hhost, hallow⟩
    refine onDev_eq hr (fun d => reqArrive d p 1 r) ?_
    rw [reqArrive_own hlive hfence hage hdst, homeServe_rd hal hhost, homeRead, hallow]
  case refused =>
    intro st hlive hfence hage hdst hal hhost hno
    refine onDev_eq hr (fun d => reqArrive d p 1 r) ?_
    rw [reqArrive_own hlive hfence hage hdst, homeServe_rd (beq_iff_eq.2 hal) hhost, homeRead, hno]

end Sys2Proof.Machine
end

section
/-! ### The start of an invocation of an array (O7) -/

namespace Sys2Proof.Machine

/-- `FAULT` and `SAVED` of `ARR_STATUS` cleared, as every start does (log entry 67). -/
def clearEnds (d : Dev) (a : Nat) : Dev := setArr (setArr d a fldArrStatusFault 0) a fldArrStatusSaved 0

/-- An array that runs an invocation from now on: `BUSY` is set, its position shows, and its island works. -/
def begun (d : Dev) (a : Nat) (r : ArrRun) : Dev :=
  islandWork (showPos (setArr (modArr d a (fun x => { x with run := some r })) a fldArrStatusBusy 1) a r) (arrIsland a)

/-- An invocation before its first column: its accumulators hold the accumulate-in operand, and depth tile 0 is loaded behind (R65, R66). -/
def freshRun (d : Dev) (a : Nat) (r : ArrRun) : ArrRun :=
  let key := arrIsKey a
  let e := arrDesc a r.desc
  { r with acc := groupAcc d e key 0, active := none, back := some (loadTile d e key 0), since := tb2 d }

/-- An accepted invocation whose operands may all be accessed starts. -/
theorem startRun_accepted {d : Dev} {a : Nat} {r : ArrRun} (hs : submitErr (clearEnds d a) a r = none)
    (ha : arrAccess (clearEnds d a) (arrDesc a r.desc) (arrIsKey a) (arrWho r.cls r.inst r.ctx) = none) :
    startRun d a r =
      let q := freshRun (clearEnds d a) a r
      begun (showAcc (clearEnds d a) (arrDesc a r.desc) (arrIsKey a) q 0) a q := by
  rw [clearEnds] at hs ha
  simp only [startRun, hs, ha]
  rfl

/-- A usable save area whose operands may all be accessed continues its invocation. -/
theorem resumeRun_usable {d : Dev} {a base : Nat} {r0 r : ArrRun} (hl : loadSave (clearEnds d a) a r0 base = some r)
    (ha : arrAccess (clearEnds d a) (arrDesc a r.desc) (arrIsKey a) (arrWho r.cls r.inst r.ctx) = none) :
    resumeRun d a r0 base = begun (clearEnds d a) a { r with since := tb2 (clearEnds d a) } := by
  rw [clearEnds] at hl ha
  simp only [resumeRun, hl, ha]
  rfl

/-- The invocation that a GO commits (R85, R90). -/
def goRun (d : Dev) (a : Nat) (resume : Bool) : ArrRun :=
  let r := newRun d a (getReg d (regArrDescBase a))
  if resume then { r with from_ := some r.save } else r

theorem arrGo_idle {d : Dev} {a : Nat} (hon : arrOn d a = true) (hrun : (arrSt d a).run = none) (hq : (arrSt d a).queued = none)
    (resume : Bool) : arrGo d a resume = beginRun (forceRun d a (goRun d a resume)) a (goRun d a resume) := by
  simp [arrGo, goRun, hon, hrun, hq]

theorem arrGo_busy {d : Dev} {a : Nat} (hon : arrOn d a = true) (hrun : (arrSt d a).run.isSome) (hq : (arrSt d a).queued = none)
    (hs : submitErr d a (goRun d a false) = none) : arrGo d a false =
      setArr (modArr d a (fun x => { x with queued := some (goRun d a false) })) a fldArrStatusQueued 1 := by
  simp only [goRun, Bool.false_eq_true, if_false] at hs ⊢
  simp [arrGo, hon, hrun, hq, hs]

theorem arrQueuedStart_queued {d : Dev} {a : Nat} {r : ArrRun} (hq : (arrSt d a).queued = some r) : arrQueuedStart d a =
    beginRun (forceRun (setArr (modArr (arrComplete d a) a (fun x => { x with queued := none })) a fldArrStatusQueued 0) a r) a r := by
  simp only [arrQueuedStart, hq]

/-- Settles O7: an idle array forces the committed values and starts or resumes, a busy one queues them. -/
theorem arrayStarts : Obligations.ArrayStarts := by
  unfold Obligations.ArrayStarts
  intro s a hr hon r key who d1 d2 e r2
  refine ⟨?start, ?resume, ?queue, ?queuedStart⟩
  case start =>
    intro hrun hq hs ha
    exact onDev_eq hr (fun d => arrGo d a false) ((arrGo_idle hon hrun hq false).trans (startRun_accepted hs ha))
  case resume =>
    intro r3 hrun hq hl ha
    exact onDev_eq hr (fun d => arrGo d a true) ((arrGo_idle hon hrun hq true).trans (resumeRun_usable hl ha))
  case queue => exact fun hrun hq hs => onDev_eq hr (fun d => arrGo d a false) (arrGo_busy hon hrun hq hs)
  case queuedStart => exact fun r4 hq => onDev_eq hr (fun d => arrQueuedStart d a) (arrQueuedStart_queued hq)

end Sys2Proof.Machine
end

section
/-! ### The streaming, the stops and the end of an invocation (O8) -/

namespace Sys2Proof.Machine

/-! Swaps and the completion (R65, R66, R68). -/

/-- A corrected error leaves every array as it was (R88). -/
theorem arrSt_arrCorrected (d : Dev) (a : Nat) (fixed : Bool) (b : Nat) : arrSt (arrCorrected d a fixed) b = arrSt d b := by
  unfold arrCorrected
  split
  · split
    · rfl
    · simp only [arrSt, record_arrs]
  · rfl

theorem arrSwap_first {d : Dev} {a : Nat} {r : ArrRun} (hrun : (arrSt d a).run = some r) (hact : r.active = none)
    (hmore : allEntered (arrDesc a r.desc) (arrIsKey a) r = false) :
    arrSwap d a = keepRun d a (swapTile d (arrDesc a r.desc) (arrIsKey a) r) := by
  simp [arrSwap, hrun, hact, hmore]

/-- A later swap enters the columns of the current visit, its group and its depth tile. -/
theorem arrSwap_visit {d : Dev} {a : Nat} {r : ArrRun} {p : Dev × ArrRun} (hrun : (arrSt d a).run = some r) (hact : r.active.isSome)
    (hp : slotsWhile a (arrDesc a r.desc) (fun x => x.group == r.group && x.dtile == r.dtile) (5 * groupCols (arrIsKey a)) d r = p)
    (hgood : p.2.bad = false) : arrSwap d a = keepRun p.1 a p.2 := by
  have hsome : r.active.isNone = false := by rw [← Option.not_isSome, hact, Bool.not_true]
  simp only [arrSwap, hrun, hsome, hp, hgood, Bool.false_eq_true, if_false]

/-- Without invalid metadata and poison the rest streams, the last group is written, and the invocation ends with status 0. -/
theorem arrComplete_clean {d : Dev} {a : Nat} {r : ArrRun} {p w : Dev × ArrRun} (hrun : (arrSt d a).run = some r)
    (hp : slotsWhile a (arrDesc a r.desc) (fun _ => true) (slotBound (arrDesc a r.desc) (arrIsKey a)) d r = p)
    (hw : writeGroup p.1 (arrDesc a r.desc) (arrIsKey a) (foldWindows p.2) ((arrDesc a r.desc).groups (arrIsKey a) - 1) = w)
    (hgood : p.2.bad = false) (hclean : w.2.poison = false) : arrComplete d a = endRun (showPos w.1 a w.2) a 0 := by
  simp only [arrComplete, hrun, hp, hgood, hw, hclean, Bool.false_eq_true, if_false]

/-! A stop with a save, and a loss of state (R81, R82, R88). -/

/-- The invocation that a stop saves after its last column slots: the windows of a chunk that goes on are kept, those of one that
ends are folded (R82), and the step is its context's. -/
def stoppedRun (p : Dev × ArrRun) (e : ArrDesc) (key : Bool) : ArrRun :=
  let r := if chunkGoesOn e key p.2 then scanChunk p.1 e key p.2 else foldWindows p.2
  { r with step := (ctxSt p.1 r.inst r.ctx).step }

/-- The device at a stop before the save area is written: the queued commit is discarded, the accumulators of the group show. -/
def stoppedDev (d : Dev) (a : Nat) (e : ArrDesc) (key : Bool) (r : ArrRun) : Dev :=
  showAcc (setArr (modArr (showPos d a r) a (fun x => { x with queued := none })) a fldArrStatusQueued 0) e key r r.group

/-- A stop at a column boundary that neither a held stop nor a C16 class nor the last column makes lapse writes the save area. -/
theorem arrStop_saves {d : Dev} {a columns : Nat} {r : ArrRun} {p : Dev × ArrRun} (hrun : (arrSt d a).run = some r)
    (hp : slotsWhile a (arrDesc a r.desc) (fun _ => true) columns (fset d (regArrCtrl a) fldArrCtrlStopAt 0) r = p)
    (hfree : fget (fset d (regArrCtrl a) fldArrCtrlStopAt 0) (regArrStatus a) fldArrStatusStopping ≠ 1) (hcls : (arrDesc a r.desc).cls ≠ 3)
    (hgood : p.2.bad = false) (hmore : allEntered (arrDesc a r.desc) (arrIsKey a) p.2 = false) :
    arrStop d a 0 columns =
      let q := stoppedRun p (arrDesc a r.desc) (arrIsKey a)
      writeSave (stoppedDev p.1 a (arrDesc a r.desc) (arrIsKey a) q) a q := by
  have hrun' : (arrSt (fset d (regArrCtrl a) fldArrCtrlStopAt 0) a).run = some r := hrun
  have hnone : arrCorrected (fset d (regArrCtrl a) fldArrCtrlStopAt 0) a (0 == 1) = fset d (regArrCtrl a) fldArrCtrlStopAt 0 := rfl
  have hboundary : ¬ 0 = 1 := by decide
  have hnoErr : ¬ 0 = 2 := by decide
  simp only [arrStop, hrun', hfree, hcls, hnone, hp, hgood, hmore, hboundary, hnoErr, Bool.or_self, Bool.false_eq_true, if_false]
  rfl

/-- A stop whose save met no error places the work that waits and does nothing else beside. -/
theorem arrStopRow_noFault {d : Dev} {a stopAt columns err : Nat}
    (h : fget (arrStop d a stopAt columns err) (regArrStatus a) fldArrStatusFault ≠ 1) :
    arrStopRow d a stopAt columns err = placeWork (arrStop d a stopAt columns err) := by
  rw [arrStopRow, if_neg fun hf => h hf.2]

theorem arrLost_running {d : Dev} {a : Nat} {r : ArrRun} (hrun : (arrSt d a).run = some r) : arrLost d a =
    noteStateLost (setArr (arrFail (endRun d a 0x4205) a r.inst r.ctx r.cls 0x4205 r.addr) a fldArrStatusFault 1) (arrUnit a) := by
  simp [arrLost, arrStateLost, hrun]

/-- Settles O8: swaps and the completion on the device with the corrected error recorded, a stop by its save, and the loss of state. -/
theorem arrayRuns : Obligations.ArrayRuns := by
  unfold Obligations.ArrayRuns
  intro s a r hr hrun key e
  refine ⟨fun fixed => ?streams, fun columns => ?stop, onDev_eq hr (fun d => arrLost d a) (arrLost_running hrun)⟩
  case streams =>
    intro d0
    have hrun0 : (arrSt d0 a).run = some r := by rw [arrSt_arrCorrected, hrun]
    refine ⟨?first, ?visit, ?complete⟩
    case first => exact fun hact hmore => onDev_eq hr (fun d => arrSwap (arrCorrected d a fixed) a) (arrSwap_first hrun0 hact hmore)
    case visit => exact fun hact hgood => onDev_eq hr (fun d => arrSwap (arrCorrected d a fixed) a) (arrSwap_visit hrun0 hact rfl hgood)
    case complete =>
      exact fun hgood hclean => onDev_eq hr (fun d => placeWork (arrComplete (arrCorrected d a fixed) a))
        (congrArg placeWork (arrComplete_clean hrun0 rfl rfl hgood hclean))
  case stop =>
    intro d1 p r1 r2 d2 d3 hfree hcls hgood hmore hfault
    have hsave : arrStop s.dev a 0 columns = writeSave d3 a r2 := arrStop_saves hrun rfl hfree hcls hgood hmore
    refine onDev_eq hr (fun d => arrStopRow d a 0 columns 0) ?_
    rw [arrStopRow_noFault (hsave ▸ hfault), hsave]

end Sys2Proof.Machine
end

section
/-! ### Instructions of the signal datapath that do not set the PC (O14) -/

namespace Sys2Proof.Machine

/-- The device that an instruction of the datapath at the PC acts on: a corrected error of its read of the core store is recorded first (R143). -/
def sigFixed (d : Dev) (c : Nat) (fixed : Bool) : Dev :=
  if fixed ∧ readsStore (sigWord d c) then storeCorrected d c (storeAddr c (arAddr d c (sigWord d c).ma1)) else d

section
variable {d : Dev} {c op : Nat} (hrun : sigRuns d c = true) (hlegal : sigLegal d c (sigWord d c) = true) (hop : (sigWord d c).op = op)
include hrun hlegal hop

/-- A legal instruction of a running task has its effect. -/
theorem sigRow_legal (fixed : Bool) (act : Dev → SWord → Dev) :
    sigRow d c op fixed act = sigThen (sigFixed d c fixed) c (sigWord d c) (act (sigFixed d c fixed) (sigWord d c)) := by
  simp only [sigRow, sigFixed, hrun, hlegal, hop, beq_self_eq_true, Bool.and_self, if_true, Bool.and_eq_true]

theorem sigJump_legal (act : Dev → SWord → Dev) : sigJump d c op act = act d (sigWord d c) := by
  simp only [sigJump, hrun, hlegal, hop, beq_self_eq_true, Bool.and_self, if_true]

end

/-- Settles O14: each row runs its compute operation by `sigRow_legal`. -/
theorem signalInstructions : Obligations.SignalInstructions := by
  unfold Obligations.SignalInstructions
  intro s c fixed hr hrun hlegal w d goes
  have row (op : Nat) (act : Dev → SWord → Dev) (hop : w.op = op) : onDev s (fun d => sigRow d c op fixed act) = goes (act d w) :=
    onDev_eq hr _ (sigRow_legal hrun hlegal hop fixed act)
  exact ⟨row 0x00 fun d _ => d, row 0x01 fun d w => sigMac d c w false, row 0x02 fun d w => sigMac d c w true, row 0x03 fun d w => sigAdd d c w 1,
    row 0x04 fun d w => sigAdd d c w (-1), row 0x05 fun d w => sigNco d c w, row 0x06 fun d w => sigRnd d c w, row 0x07 fun d w => sigNorm d c w,
    row 0x08 fun d w => sigExp d c w, row 0x09 fun d w => sigBfpc d c w, row 0x0A fun d w => sigBfpx d c w, row 0x0B fun d w => sigSet d c w,
    row 0x0C fun d w => sigAccStore d c w, row 0x0D fun d w => sigAccLoad d c w, row 0x14 fun d w => sigLoopStore d c w,
    row 0x15 fun d w => sigLoopLoad d c w, row 0x16 fun d w => sigAddrStore d c w, row 0x17 fun d w => sigAddrLoad d c w⟩

end Sys2Proof.Machine
end

section
/-! ### The flow of a slot task (O15) -/

namespace Sys2Proof.Machine

/-- A loop of count 0 is passed over (R137). -/
theorem sigLoop_zero {w : SWord} (h : bitsAt w.imm 11 15 = 0) (d : Dev) (c : Nat) : sigLoop d c w = setSigPc d c (bitsAt w.imm 0 11 + 1) :=
  if_pos h

/-- A jump that does not stand at the end of the innermost loop goes to its target. -/
theorem sigHop_inside {d : Dev} {c : Nat} (h : sigDepth d c = 0 ∨ fget d (loopReg c (sigDepth d c - 1)) fldSigLoop0Lend ≠ sigPc d c) (w : SWord) :
    sigHop d c w = setSigPc d c w.imm := by
  rw [sigHop]
  generalize sigDepth d c = n at h
  cases n with
  | zero => rfl
  | succ k => exact if_neg (h.resolve_left (Nat.succ_ne_zero k))

/-- GO starts the task of a free reserved core. -/
theorem sigGo_free {d : Dev} {c : Nat} (hon : coreOn d c = true) (hf : coreFenced d c = false) (hrun : sigRuns d c = false)
    (hheld : slotHeld d c = true) : sigGo d c = sigStart d c := by
  simp [sigGo, hon, hf, hrun, hheld]

/-- GO is discarded on a core that runs a task or is not reserved. -/
theorem sigGo_reject {d : Dev} {c : Nat} (hon : coreOn d c = true) (hf : coreFenced d c = false) (h : sigRuns d c = true ∨ slotHeld d c = false) :
    sigGo d c = cfgReject d (regSigStatus c) fldSigStatusCfgReject 0x1116 (regSigCtrl c) c := by
  have hb : (sigRuns d c || !slotHeld d c) = true := by simpa using h
  simp [sigGo, hon, hf, hb]

theorem sigGo_fenced {d : Dev} {c : Nat} (h : coreFenced d c = true) : sigGo d c = d := by simp [sigGo, h]

theorem sigIrq_fenced {d : Dev} {c : Nat} (h : coreFenced d c = true) : sigIrq d c = d := by simp [sigIrq, h]

theorem sigIrq_on {d : Dev} {c : Nat} (hon : coreOn d c = true) (hf : coreFenced d c = false) :
    sigIrq d c = fset d (regSigStatus c) fldSigStatusIrqPending 1 := by simp [sigIrq, hon, hf]

/-- Settles O15: each row by the equation of its operation. -/
theorem signalFlow : Obligations.SignalFlow := by
  unfold Obligations.SignalFlow
  intro s c hr d w p st
  refine ⟨fun hrun hlegal => ?instr, fun hrun hbad => ?illegal, fun hrun => ?lost, fun hon hf hrun hheld => ?go, fun hon hf h => ?reject,
    fun hf => ?fenced, fun hon hf => ?irq, fun hrun hen hin hpend => ?entry⟩
  case instr =>
    have row (op : Nat) (act : Dev → SWord → Dev) (hop : w.op = op) {e : Dev} (he : act d w = e) :
        onDev s (fun d => sigJump d c op act) = .next (withDev s e) :=
      onDev_eq hr _ ((sigJump_legal hrun hlegal hop act).trans he)
    refine ⟨fun hop hn => ?skip, fun hop hn => ?loop, fun hop h => ?jump, fun hop => ?send, fun hop => ?ret⟩
    case skip => exact row 0x10 (fun d w => sigLoop d c w) hop (sigLoop_zero hn d c)
    case loop => exact row 0x10 (fun d w => sigLoop d c w) hop (if_neg hn)
    case jump => exact row 0x11 (fun d w => sigHop d c w) hop (sigHop_inside h w)
    case send =>
      refine row 0x12 (fun d _ => sigFinish d c (if (sigSt d c).ate || taskPoison d c then 0x310D else 0)) hop ?_
      simp only [Bool.or_eq_true]
    case ret =>
      exact row 0x13 (fun d _ => if fget d (regSigStatus c) fldSigStatusInHandler = 1 then urgentDone (sigReturn d c) c else sigReturn d c) hop rfl
  case illegal =>
    refine onDev_eq hr (fun d => sigIllegal d c) ?_
    simp only [sigIllegal, hrun, hbad, Bool.not_false, Bool.and_self, if_true, d, w]
  case lost => exact onDev_eq hr (fun d => sigStateLost d c) (if_pos hrun)
  case go => exact onDev_eq hr (fun d => sigGo d c) (sigGo_free hon hf hrun hheld)
  case reject => exact onDev_eq hr (fun d => sigGo d c) (sigGo_reject hon hf h)
  case fenced => exact ⟨onDev_eq hr (fun d => sigGo d c) (sigGo_fenced hf), onDev_eq hr (fun d => sigIrq d c) (sigIrq_fenced hf)⟩
  case irq => exact onDev_eq hr (fun d => sigIrq d c) (sigIrq_on hon hf)
  case entry =>
    have hpc : regSigEntry c ≠ regSigPc c := by simp only [regSigEntry, regSigPc]; omega
    refine onDev_eq hr (fun d => sigEntry d c) ?_
    simp only [sigEntry, hrun, hen, hin, hpend, beq_self_eq_true, Bool.and_self, if_true, fget_fset_ne _ hpc, d, p, st, sigPc, sigDepth]

end Sys2Proof.Machine
end

section
/-! ### What the memory operation and the sequencer leave of a datapath -/

namespace Sys2Proof.Machine

/-! Writes of the device space change memory and poison, host memory, the piers and the outputs. -/

/-- A device that differs from another in what a write of the device space changes. -/
def OnlyMem (d t : Dev) : Prop :=
  ∃ m p h b pier o, t = { d with mem := m, poison := p, hmem := h, hbad := b, pier := pier, outs := o }

theorem OnlyMem.refl (d : Dev) : OnlyMem d d := ⟨_, _, _, _, _, _, rfl⟩

theorem OnlyMem.trans {d t u : Dev} (h : OnlyMem d t) (k : OnlyMem t u) : OnlyMem d u := by
  obtain ⟨_, _, _, _, _, _, rfl⟩ := h
  obtain ⟨_, _, _, _, _, _, rfl⟩ := k
  exact ⟨_, _, _, _, _, _, rfl⟩

theorem OnlyMem.foldl {α : Type} {f : Dev → α → Dev} (h : ∀ d x, OnlyMem d (f d x)) (l : List α) (d : Dev) : OnlyMem d (l.foldl f d) :=
  List.foldlRecOn l f (motive := fun e => OnlyMem d e) (.refl d) fun e he x _ => he.trans (h e x)

theorem OnlyMem.regs {d t : Dev} (h : OnlyMem d t) : t.regs = d.regs := by obtain ⟨_, _, _, _, _, _, rfl⟩ := h; rfl

theorem OnlyMem.sigs {d t : Dev} (h : OnlyMem d t) : t.sigs = d.sigs := by obtain ⟨_, _, _, _, _, _, rfl⟩ := h; rfl

theorem healRow_onlyMem (d : Dev) (base : Nat) : OnlyMem d (healRow d base) := by
  unfold healRow
  split <;> exact ⟨_, _, _, _, _, _, rfl⟩

theorem touch_onlyMem (d : Dev) (a n : Nat) : OnlyMem d (touch d a n) := by
  unfold touch
  split
  · exact .foldl (fun d o => ⟨_, _, _, _, _, _, rfl⟩) _ d
  · exact .refl d

theorem devWrite_onlyMem (d : Dev) (a : Nat) (bs : List Byte) (p : Bool) : OnlyMem d (devWrite d a bs p) := by
  unfold devWrite
  split
  · exact .refl d
  · split
    · split
      · cases p <;> exact ⟨_, _, _, _, _, _, rfl⟩
      · exact .refl d
    · extract_lets e
      have he : OnlyMem d e := .foldl healRow_onlyMem _ d
      refine (he.trans ?_).trans (touch_onlyMem _ _ _)
      exact ⟨_, _, _, _, _, _, rfl⟩

theorem twinWrite_onlyMem (d : Dev) (c off : Nat) (bs : List Byte) : OnlyMem d (twinWrite d c off bs) := by
  rw [twinWrite]
  exact List.foldlRecOn _ _ (motive := fun x : Dev × List Byte => OnlyMem d x.1) (.refl d) fun x hx r _ =>
    hx.trans (devWrite_onlyMem _ _ _ _)

theorem twinMark_onlyMem (d : Dev) (c off n : Nat) : OnlyMem d (twinMark d c off n) := ⟨_, _, _, _, _, _, rfl⟩

/-! The state of a datapath after a change. -/

theorem sigSt_of_sigs {d e : Dev} (h : d.sigs = e.sigs) (c : Nat) : sigSt d c = sigSt e c := by rw [sigSt, sigSt, h]

@[simp] theorem sigSt_modSig (d : Dev) (c : Nat) (f : SigSt → SigSt) : sigSt (modSig d c f) c = f (sigSt d c) := tget_tset_self _ _ _ _

/-- A device in which a move of core `c`'s datapath took place (R127): of its state X and address registers alone have changed, and no
register of the map. -/
def SigMoved (c : Nat) (d t : Dev) : Prop := t.regs = d.regs ∧ ∃ x a, sigSt t c = { sigSt d c with x := x, ar := a }

theorem SigMoved.refl (c : Nat) (d : Dev) : SigMoved c d d := ⟨rfl, _, _, rfl⟩

theorem SigMoved.trans {c : Nat} {d t u : Dev} (h : SigMoved c d t) (k : SigMoved c t u) : SigMoved c d u := by
  obtain ⟨hr, x, a, hs⟩ := h
  obtain ⟨kr, y, b, ks⟩ := k
  exact ⟨kr.trans hr, y, b, by rw [ks, hs]⟩

theorem OnlyMem.moved {d t : Dev} (h : OnlyMem d t) (c : Nat) : SigMoved c d t := ⟨h.regs, _, _, sigSt_of_sigs h.sigs c⟩

section
variable (d : Dev) (c : Nat)

theorem setX_moved (r : Nat) (l : List Lane) : SigMoved c d (setX d c r l) := ⟨rfl, _, _, sigSt_modSig _ _ _⟩

theorem arStep_moved (a : Nat) (adv : Int) : SigMoved c d (arStep d c a adv) := ⟨rfl, _, _, sigSt_modSig _ _ _⟩

theorem arStride_moved (a : Nat) : SigMoved c d (arStride d c a) := arStep_moved d c a _

theorem loadX_moved (x a : Nat) : SigMoved c d (loadX d c x a) := (setX_moved d c x _).trans (arStride_moved _ c a)

theorem storeLanes_moved (a : Nat) (l : List Lane) : SigMoved c d (storeLanes d c a l) := by
  refine SigMoved.trans (OnlyMem.moved ?_ c) (arStride_moved _ c a)
  refine (twinWrite_onlyMem _ _ _ _).trans (.foldl (fun d p => ?_) _ _)
  split
  · exact twinMark_onlyMem _ _ _ _
  · exact .refl d

theorem freeLanes_moved (p : Bool) : SigMoved c d (freeLanes d p).2 := ⟨rfl, _, _, rfl⟩

/-- The memory operation of a word is a move, whichever it is. -/
theorem sigMem_moved (w : SWord) : SigMoved c d (sigMem d c w) := by
  unfold sigMem
  extract_lets load store hit
  have hload (d : Dev) (x a : Nat) (clash : Bool) : SigMoved c d (load d x a clash) := by
    have hl := loadX_moved d c x a
    cases clash
    · exact hl
    · exact (hl.trans (freeLanes_moved _ c false)).trans (setX_moved _ c x _)
  have hstore (d : Dev) (x a : Nat) (clash : Bool) : SigMoved c d (store d x a clash) := by
    cases clash
    · exact storeLanes_moved d c a _
    · exact (freeLanes_moved d c false).trans (storeLanes_moved _ c a _)
  split
  · exact hload _ _ _ _
  · exact (hload _ _ _ _).trans (hload _ _ _ _)
  · exact hstore _ _ _ _
  · exact (hload _ _ _ _).trans (hstore _ _ _ _)
  · exact .refl c d

end

/-! The sequencer changes the PC and the loop registers alone. -/

theorem loopReg_mem (c k : Nat) : loopReg c k ∈ [regSigLoop0 c, regSigLoop1 c, regSigLoop2 c] := by
  unfold loopReg
  split
  · exact List.mem_cons_self
  · split <;> simp

/-- The device after a loop test differs from the one before in registers alone. -/
theorem loopTest_only (c pc next k : Nat) (d : Dev) : ∃ a, loopTest c pc next k d = { d with regs := a } := by
  induction k generalizing d with
  | zero => exact ⟨_, rfl⟩
  | succ k ih =>
    unfold loopTest
    extract_lets r n d1
    split
    · split
      · exact ⟨_, rfl⟩
      · exact ih _
    · exact ⟨_, rfl⟩

theorem getReg_loopTest {c j : Nat} (hpc : j ≠ regSigPc c) (hloop : j ∉ [regSigLoop0 c, regSigLoop1 c, regSigLoop2 c]) (pc next k : Nat) (d : Dev) :
    getReg (loopTest c pc next k d) j = getReg d j := by
  have hr (i : Nat) : j ≠ loopReg c i := fun e => hloop (e ▸ loopReg_mem c i)
  induction k generalizing d with
  | zero => exact getReg_fset_ne _ hpc _ _
  | succ k ih =>
    unfold loopTest
    extract_lets r n d1
    have h1 : getReg d1 j = getReg d j := getReg_fset_ne _ (hr k) _ _
    split
    · split
      · rw [setSigPc, getReg_fset_ne _ hpc, h1]
      · rw [ih, getReg_fset_ne _ hpc, h1]
    · exact getReg_fset_ne _ hpc _ _

/-! What an instruction leaves after its compute operation. -/

theorem sigSt_sigThen (d e : Dev) (c : Nat) (w : SWord) : ∃ x a, sigSt (sigThen d c w e) c = { sigSt e c with x := x, ar := a } := by
  obtain ⟨_, h⟩ := loopTest_only c (sigPc d c) (sigPc d c + 1) (sigDepth (sigMem e c w) c) (sigMem e c w)
  obtain ⟨_, x, a, hs⟩ := sigMem_moved e c w
  exact ⟨x, a, by rw [sigThen, sigNext, h]; exact hs⟩

theorem getReg_sigThen_satCount (d e : Dev) (c : Nat) (w : SWord) :
    getReg (sigThen d c w e) (regSigSatCount c) = getReg e (regSigSatCount c) := by
  have hpc : regSigSatCount c ≠ regSigPc c := by simp only [regSigSatCount, regSigPc]; omega
  have hloop : regSigSatCount c ∉ [regSigLoop0 c, regSigLoop1 c, regSigLoop2 c] := by
    simp only [regSigSatCount, regSigLoop0, regSigLoop1, regSigLoop2, List.mem_cons, List.not_mem_nil, or_false]
    omega
  rw [sigThen, sigNext, getReg_loopTest hpc hloop, getReg_of_regs (sigMem_moved e c w).1]

end Sys2Proof.Machine
end

section
/-! ### The smallest shift that fits (R58, R133, R134) -/

namespace Sys2Proof.Machine

/-- Powers of two rise with their exponents. -/
theorem int_two_pow_le {a b : Nat} (h : a ≤ b) : (2 : Int) ^ a ≤ 2 ^ b := by
  exact_mod_cast Nat.pow_le_pow_right (by decide : 2 > 0) h

/-- A right shift that rounds to nearest, in one division (R58). -/
theorem round58_eq (x : Int) (s : Nat) : round58 x s = (2 * x + 2 ^ s) / 2 ^ (s + 1) := by
  cases s with
  | zero => rw [round58, if_pos rfl]; omega
  | succ k =>
    have e : 2 * x + 2 ^ (k + 1) = 2 * (x + 2 ^ k) := by omega
    rw [round58, if_neg (Nat.succ_ne_zero k), Nat.add_sub_cancel, Int.pow_succ 2 (k + 1), Int.mul_comm (2 ^ (k + 1)), e,
      Int.mul_ediv_mul_of_pos _ _ (by decide)]

/-- Whether a value fits `w` bits after a shift, as R133 and R134 write it. -/
def Fits (w s : Nat) (x : Int) : Prop := -(2 ^ (w - 1)) ≤ (2 * x + 2 ^ s) / 2 ^ (s + 1) ∧ (2 * x + 2 ^ s) / 2 ^ (s + 1) ≤ 2 ^ (w - 1) - 1

theorem fitsAt_iff (w s : Nat) (x : Int) : fitsAt w s x = true ↔ Fits w s x := by
  simp only [fitsAt, Fits, Bool.and_eq_true, decide_eq_true_eq, round58_eq]

theorem fits_iff_round58 (w s : Nat) (x : Int) : Fits w s x ↔ -(2 ^ (w - 1)) ≤ round58 x s ∧ round58 x s ≤ 2 ^ (w - 1) - 1 := by
  rw [Fits, round58_eq]

/-- The components of lanes all fit when both parts of each do. -/
theorem all_comps (w s : Nat) (l : List Lane) : (comps l).all (fitsAt w s) = true ↔ ∀ x ∈ l, Fits w s x.i ∧ Fits w s x.q := by
  simp only [comps, List.all_flatMap, List.all_cons, List.all_nil, Bool.and_true, List.all_eq_true, Bool.and_eq_true, fitsAt_iff]

/-- The search from `s` on goes on at most `n` steps, passes over no shift that fits, and ends before its bound at one that does. -/
theorem smallestFit_spec (w : Nat) (xs : List Int) (s n : Nat) :
    smallestFit w xs s n ≤ s + n ∧ (∀ j, s ≤ j → j < smallestFit w xs s n → ¬ xs.all (fitsAt w j) = true) ∧
      (smallestFit w xs s n < s + n → xs.all (fitsAt w (smallestFit w xs s n)) = true) := by
  induction n generalizing s with
  | zero => exact ⟨Nat.le_refl s, fun j h1 h2 => absurd h1 (Nat.not_le.2 h2), fun h => absurd h (Nat.lt_irrefl s)⟩
  | succ n ih =>
    rw [smallestFit]
    split
    next h => exact ⟨Nat.le_add_right s _, fun j h1 h2 => absurd h1 (Nat.not_le.2 h2), fun _ => h⟩
    next h =>
      obtain ⟨hle, hpass, hend⟩ := ih (s + 1)
      refine ⟨by omega, fun j h1 h2 => ?_, fun hlt => hend (by omega)⟩
      rcases Nat.eq_or_lt_of_le h1 with rfl | h1
      · exact h
      · exact hpass j h1 h2

theorem smallestFit_le (w : Nat) (xs : List Int) (n : Nat) : smallestFit w xs 0 n ≤ n := by
  simpa using (smallestFit_spec w xs 0 n).1

section
variable {w n : Nat} {l : List Lane}

/-- A shift within the bound that fits is not passed over. -/
theorem smallestFit_le_of_fits {k : Nat} (h : ∀ x ∈ l, Fits w k x.i ∧ Fits w k x.q) : smallestFit w (comps l) 0 n ≤ k :=
  Nat.le_of_not_lt fun hlt => (smallestFit_spec w (comps l) 0 n).2.1 k (Nat.zero_le k) hlt ((all_comps w k l).2 h)

/-- What the search answers before its bound fits. -/
theorem fits_smallestFit (h : smallestFit w (comps l) 0 n < n) :
    ∀ x ∈ l, Fits w (smallestFit w (comps l) 0 n) x.i ∧ Fits w (smallestFit w (comps l) 0 n) x.q :=
  (all_comps w _ l).1 ((smallestFit_spec w (comps l) 0 n).2.2 (by omega))

/-- Where some shift within the bound fits, the search answers one that does. -/
theorem fits_smallestFit_of_fits {k : Nat} (hk : k ≤ n) (h : ∀ x ∈ l, Fits w k x.i ∧ Fits w k x.q) :
    ∀ x ∈ l, Fits w (smallestFit w (comps l) 0 n) x.i ∧ Fits w (smallestFit w (comps l) 0 n) x.q := by
  have hle : smallestFit w (comps l) 0 n ≤ k := smallestFit_le_of_fits h
  rcases Nat.eq_or_lt_of_le (Nat.le_trans hle hk) with he | hlt
  · obtain rfl : k = n := by omega
    rwa [he]
  · exact fits_smallestFit hlt

/-- Where no shift within the bound fits, the search answers its bound. -/
theorem smallestFit_of_not_fits (h : ∀ k ≤ n, ¬ ∀ x ∈ l, Fits w k x.i ∧ Fits w k x.q) : smallestFit w (comps l) 0 n = n :=
  Nat.le_antisymm (smallestFit_le w _ n) (Nat.le_of_not_lt fun hlt => h _ (Nat.le_of_lt hlt) (fits_smallestFit hlt))

end

/-- A value in range of its width is not saturated. -/
theorem satSigned_of_le {w : Nat} {x : Int} (hlo : -(2 ^ (w - 1)) ≤ x) (hhi : x ≤ 2 ^ (w - 1) - 1) : satSigned w x = (x, false) := by
  rw [satSigned, if_neg (by omega), if_neg (by omega)]

end Sys2Proof.Machine
end

section
/-! ### SNORM and the SRND after it (O16) -/

namespace Sys2Proof.Machine

/-! What is counted. -/

theorem setBits_bitsAt_self (v lo w : Nat) : setBits v lo w (bitsAt v lo w) = v := by
  have hlt : bitsAt v lo w < 2 ^ w := Nat.mod_lt _ (Nat.two_pow_pos w)
  have hle : bitsAt v lo w * 2 ^ lo ≤ v := by
    rw [bitsAt, Nat.shiftRight_eq_div_pow]
    exact Nat.le_trans (Nat.mul_le_mul_right _ (Nat.mod_le _ _)) (Nat.div_mul_le_self _ _)
  rw [setBits, Nat.mod_eq_of_lt hlt, Nat.sub_add_cancel hle]

/-- Adding nothing to a field that saturates changes no register. -/
theorem getReg_fsat_zero (d : Dev) (k : Nat) (f : Fld) (j : Nat) : getReg (fsat d k f 0) j = getReg d j := by
  have hlt : fget d k f < 2 ^ f.w := Nat.mod_lt _ (Nat.two_pow_pos _)
  have hsat : satAdd f.w (fget d k f) 0 = fget d k f := by rw [satAdd]; omega
  rw [fsat, hsat, fset_eq, fget, setBits_bitsAt_self]
  by_cases h : j = k
  · rw [h, getReg_setReg_self, Nat.mod_eq_of_lt (getReg_lt d k)]
  · exact getReg_setReg_ne d h _

theorem getReg_countSat_zero (d : Dev) (c j : Nat) : getReg (countSat d c 0 0) j = getReg d j := by
  rw [countSat, getReg_fsat_zero, getReg_fsat_zero]

/-- Lanes of which none saturated leave every register. -/
theorem getReg_putX_of_fits (d : Dev) (c r : Nat) {l : List (Lane × Nat)} (h : ∀ p ∈ l, p.2 = 0) (j : Nat) :
    getReg (putX d c r l) j = getReg d j := by
  have hsum : (l.map (fun p => p.2)).sum = 0 := by
    rw [List.sum_eq_zero_iff_forall_eq_nat, List.forall_mem_map]
    exact h
  rw [putX, hsum, getReg_countSat_zero]
  rfl

/-! The datapath before and after the two instructions. -/

theorem eat_regs (d : Dev) (c : Nat) (p : Bool) : (eat d c p).regs = d.regs := by cases p <;> rfl

theorem sigSt_eat (d : Dev) (c : Nat) (p : Bool) : sigSt (eat d c p) c = { sigSt d c with ate := (sigSt d c).ate || p } := by
  cases p <;> simp [eat]

section
variable (d : Dev) (c : Nat) (fixed : Bool)

theorem sigFixed_sigs : (sigFixed d c fixed).sigs = d.sigs := by
  unfold sigFixed
  split
  · exact record_sigs _ _
  · rfl

theorem laneOf_sigFixed (r n : Nat) : laneOf (sigFixed d c fixed) c r n = laneOf d c r n := by
  rw [laneOf, sigSt_of_sigs (sigFixed_sigs d c fixed), laneOf]

theorem accOf_sigFixed (r n : Nat) : accOf (sigFixed d c fixed) c r n = accOf d c r n := by
  rw [accOf, sigSt_of_sigs (sigFixed_sigs d c fixed), accOf]

/-- A corrected read leaves the counts of saturations. -/
theorem getReg_sigFixed_satCount (hc : c < 96) : getReg (sigFixed d c fixed) (regSigSatCount c) = getReg d (regSigSatCount c) := by
  unfold sigFixed
  split
  · have herr : regSigSatCount c ≠ regCoreSramErr c := by simp only [regSigSatCount, regCoreSramErr]; omega
    have hrec : regSigSatCount c ≠ regMgtFhRecords := by simp only [regSigSatCount, regMgtFhRecords]; omega
    refine (getReg_record_ne _ _ hrec fun x hx => ?_).trans (getReg_fset_ne _ herr _ _)
    obtain rfl : x = (regCoreStatus (detByte c 0), fldCoreStatusLastStatus) := by simpa [lastStatusOf] using hx.symm
    simp only [regSigSatCount, regCoreStatus, detByte]
    omega
  · rfl

end

/-- All that a row of an instruction that does not set the PC can do. -/
theorem sigRow_cases (d : Dev) (c op : Nat) (fixed : Bool) (act : Dev → SWord → Dev) : sigRow d c op fixed act = d ∨
    sigRow d c op fixed act = sigThen (sigFixed d c fixed) c (sigWord d c) (act (sigFixed d c fixed) (sigWord d c)) := by
  by_cases h : (sigRuns d c && (sigWord d c).op == op && sigLegal d c (sigWord d c)) = true
  · obtain ⟨⟨hrun, hop⟩, hlegal⟩ : (sigRuns d c = true ∧ (sigWord d c).op = op) ∧ sigLegal d c (sigWord d c) = true := by simpa using h
    exact .inr (sigRow_legal hrun hlegal hop fixed act)
  · exact .inl (if_neg h)

/-- A property of the lanes of an accumulator set. -/
theorem forall_accLane {d : Dev} {c r : Nat} {P : Lane → Prop} :
    (∀ x ∈ (List.range 16).map (accOf d c r), P x) ↔ ∀ n < 16, P (accOf d c r n) := by
  simp only [List.forall_mem_map, List.mem_range]

/-- The device after a legal `SNORM` (R133). -/
def normed (d : Dev) (c : Nat) (fixed : Bool) : Dev :=
  sigThen (sigFixed d c fixed) c (sigWord d c) (sigNorm (sigFixed d c fixed) c (sigWord d c))

/-- SH is the smallest shift of the set named, and the accumulators stay. -/
theorem sigSt_normed (d : Dev) (c : Nat) (fixed : Bool) :
    (sigSt (normed d c fixed) c).sh = smallestFit 16 (comps ((List.range 16).map (accOf d c (sigWord d c).srcA))) 0 24 ∧
      (sigSt (normed d c fixed) c).acc = (sigSt d c).acc := by
  obtain ⟨x, a, h⟩ := sigSt_sigThen (sigFixed d c fixed) (sigNorm (sigFixed d c fixed) c (sigWord d c)) c (sigWord d c)
  have hacc : accOf (sigFixed d c fixed) c = accOf d c := funext fun r => funext (accOf_sigFixed d c fixed r)
  rw [normed, h, sigNorm, sigSt_modSig, sigSt_eat, sigSt_of_sigs (sigFixed_sigs d c fixed), hacc]
  exact ⟨rfl, rfl⟩

theorem getReg_normed_satCount (d : Dev) {c : Nat} (hc : c < 96) (fixed : Bool) :
    getReg (normed d c fixed) (regSigSatCount c) = getReg d (regSigSatCount c) := by
  rw [normed, getReg_sigThen_satCount, ← getReg_sigFixed_satCount d c fixed hc]
  exact getReg_of_regs (eat_regs _ _ _) _

/-- Rounded components that fit are not saturated. -/
theorem satLane_of_fits {w k : Nat} {x : Lane} (h : Fits w k x.i ∧ Fits w k x.q) (p : Bool) :
    (satLane w (round58 x.i k) (round58 x.q k) p).2 = 0 := by
  obtain ⟨hi, hq⟩ := h
  rw [fits_iff_round58] at hi hq
  rw [satLane, satSigned_of_le hi.1 hi.2, satSigned_of_le hq.1 hq.2]
  rfl

/-- An `SRND` by SH of a set that fits at SH counts nothing. -/
theorem getReg_sigRnd_of_fits {d : Dev} {c : Nat} {w : SWord} (himm : bitOf w.imm 5 = true)
    (h : ∀ n < 16, Fits 16 (sigSt d c).sh (accOf d c w.srcA n).i ∧ Fits 16 (sigSt d c).sh (accOf d c w.srcA n).q) (j : Nat) :
    getReg (sigRnd d c w) j = getReg d j := by
  rw [sigRnd, himm, getReg_putX_of_fits, getReg_of_regs (eat_regs _ _ _)]
  simp only [List.forall_mem_map, List.mem_range, if_true]
  exact fun n hn => satLane_of_fits (h n hn) _

/-- A row of `SRND` by SH leaves the counts of saturations where its set fits at SH. -/
theorem getReg_srnd_satCount {d : Dev} {c : Nat} (hc : c < 96) (fixed : Bool) (himm : bitOf (sigWord d c).imm 5 = true)
    (h : ∀ n < 16, Fits 16 (sigSt d c).sh (accOf d c (sigWord d c).srcA n).i ∧ Fits 16 (sigSt d c).sh (accOf d c (sigWord d c).srcA n).q) :
    getReg (sigRow d c 0x06 fixed fun d w => sigRnd d c w) (regSigSatCount c) = getReg d (regSigSatCount c) := by
  rcases sigRow_cases d c 0x06 fixed (fun d w => sigRnd d c w) with e | e <;> rw [e]
  rw [getReg_sigThen_satCount, getReg_sigRnd_of_fits himm, getReg_sigFixed_satCount d c fixed hc]
  rw [sigSt_of_sigs (sigFixed_sigs d c fixed)]
  simpa only [accOf_sigFixed] using h

/-- Settles O16: SH is what `smallestFit` answers, and what fits at SH does not saturate. -/
theorem snormFits : Obligations.SnormFits := by
  unfold Obligations.SnormFits
  intro s c hr hrun hlegal hop fit fits fixed
  have hex : exec (.snorm c fixed) s = .next (withDev s (normed s.dev c fixed)) :=
    onDev_eq hr (fun d => sigRow d c 0x07 fixed fun d w => sigNorm d c w) (sigRow_legal hrun hlegal hop fixed fun d w => sigNorm d c w)
  obtain ⟨hsh, hacc⟩ := sigSt_normed s.dev c fixed
  have hfits (k : Nat) : fits k ↔ ∀ x ∈ (List.range 16).map (accOf s.dev c (sigWord s.dev c).srcA), Fits 16 k x.i ∧ Fits 16 k x.q :=
    (forall_accLane (P := fun x => Fits 16 k x.i ∧ Fits 16 k x.q)).symm
  refine ⟨_, hex, fun k hk hfit hleast => ?smallest, fun hnone => ?none, fun u f hop' hsrc himm hu hne => ?srnd⟩
  case smallest =>
    rw [hfits] at hfit
    refine hsh.trans (Nat.le_antisymm (smallestFit_le_of_fits hfit) (Nat.le_of_not_lt fun hlt => hleast _ hlt ?_))
    exact (hfits _).2 (fits_smallestFit_of_fits hk hfit)
  case none => exact hsh.trans (smallestFit_of_not_fits fun k hk h => hnone k hk ((hfits k).2 h))
  case srnd =>
    have hlt : smallestFit 16 (comps ((List.range 16).map (accOf s.dev c (sigWord s.dev c).srcA))) 0 24 < 24 :=
      Nat.lt_of_le_of_ne (smallestFit_le _ _ _) (hsh ▸ hne)
    have hset (n : Nat) : accOf (normed s.dev c fixed) c (sigWord (normed s.dev c fixed) c).srcA n = accOf s.dev c (sigWord s.dev c).srcA n := by
      rw [accOf, hacc, hsrc, accOf]
    have hfit : ∀ n < 16, _ := forall_accLane.1 (fits_smallestFit hlt)
    have hsat : getReg u.dev (regSigSatCount c) = getReg (normed s.dev c fixed) (regSigSatCount c) := by
      rcases onDev_cases (withDev s (normed s.dev c fixed)) (fun d => sigRow d c 0x06 f fun d w => sigRnd d c w) with h | h <;>
        obtain rfl := Host.Outcome.next.inj (hu.symm.trans h)
      · rfl
      · refine getReg_srnd_satCount c.isLt f himm fun n hn => ?_
        rw [hset, hsh]
        exact hfit n hn
    rw [fget, fget, hsat, getReg_normed_satCount _ c.isLt]

end Sys2Proof.Machine
end

section
/-! ### SEXP (O17) -/

namespace Sys2Proof.Machine

/-- A property of the samples of a PRB. -/
theorem forall_prbOf {d : Dev} {c r p : Nat} {P : Lane → Prop} :
    (∀ x ∈ prbOf d c r p, P x) ↔ ∀ j < 12, P (laneOf d c (r + (12 * p + j) / 16) ((12 * p + j) % 16)) := by
  simp only [prbOf, List.forall_mem_map, List.mem_range]

theorem prbOf_sigFixed (d : Dev) (c : Nat) (fixed : Bool) (r : Nat) : prbOf (sigFixed d c fixed) c r = prbOf d c r := by
  funext p
  simp only [prbOf, laneOf_sigFixed]

/-- The exponents after a legal `SEXP` are those of its four PRBs (R134). -/
theorem be_sigExp (d : Dev) (c : Nat) (fixed : Bool) :
    (sigSt (sigThen (sigFixed d c fixed) c (sigWord d c) (sigExp (sigFixed d c fixed) c (sigWord d c))) c).be =
      (List.range 4).map (fun p => prbExp (sigSt d c).mw (prbOf d c (sigWord d c).srcA p)) := by
  obtain ⟨x, a, h⟩ := sigSt_sigThen (sigFixed d c fixed) (sigExp (sigFixed d c fixed) c (sigWord d c)) c (sigWord d c)
  rw [h, sigExp, sigSt_modSig, prbOf_sigFixed, sigSt_of_sigs (sigFixed_sigs d c fixed)]
  exact List.map_map

/-- An int16 value fits 8 bits and more after a shift by 9. -/
theorem fits_nine {m : Nat} (hm : 8 ≤ m) {x : Int} (hlo : -32768 ≤ x) (hhi : x ≤ 32767) : Fits m 9 x := by
  have hpow : (2 : Int) ^ (8 - 1) ≤ 2 ^ (m - 1) := int_two_pow_le (by omega)
  constructor <;> omega

/-- Settles O17: each exponent is what `smallestFit` answers on its PRB. -/
theorem sexpExponents : Obligations.SexpExponents := by
  unfold Obligations.SexpExponents
  intro s c hr hrun hlegal hop m fit sample fits fixed
  refine ⟨_, onDev_eq hr (fun d => sigRow d c 0x08 fixed fun d w => sigExp d c w) (sigRow_legal hrun hlegal hop fixed fun d w => sigExp d c w), ?_⟩
  have hbe := be_sigExp s.dev c fixed
  refine ⟨(congrArg List.length hbe).trans (by simp), fun p hp => ⟨prbExp m (prbOf s.dev c (sigWord s.dev c).srcA p), ?_, ?_⟩⟩
  · refine (congrArg (fun l : List Nat => l[p]?) hbe).trans ?_
    rw [List.getElem?_map, List.getElem?_range hp, Option.map_some]
  have hfits (k : Nat) : fits p k ↔ ∀ x ∈ prbOf s.dev c (sigWord s.dev c).srcA p, Fits m k x.i ∧ Fits m k x.q :=
    (forall_prbOf (P := fun x => Fits m k x.i ∧ Fits m k x.q)).symm
  have hleast (k : Nat) (hk : k ≤ 15) (h : fits p k) : fits p (prbExp m (prbOf s.dev c (sigWord s.dev c).srcA p)) ∧
      prbExp m (prbOf s.dev c (sigWord s.dev c).srcA p) ≤ k :=
    ⟨(hfits _).2 (fits_smallestFit_of_fits hk ((hfits k).1 h)), smallestFit_le_of_fits ((hfits k).1 h)⟩
  refine ⟨hleast, fun hm _ hint => hleast 9 (by decide) fun j hj => ?_⟩
  obtain ⟨hi, hi', hq, hq'⟩ := hint (12 * p + j) (by omega)
  exact ⟨fits_nine hm hi hi', fits_nine hm hq hq'⟩

end Sys2Proof.Machine
end

section
/-! ### The width that the frame of the signal commands leaves open (O18) -/

namespace Sys2Proof.Machine

/-! A write to the twin-access region that is longer than the region (R126). -/

theorem healRow_mem (d : Dev) (base : Nat) : (healRow d base).mem = d.mem := by
  unfold healRow
  split <;> rfl

theorem foldl_mem {α : Type} {f : Dev → α → Dev} (h : ∀ d x, (f d x).mem = d.mem) (l : List α) (d : Dev) : (l.foldl f d).mem = d.mem :=
  List.foldlRecOn l f (motive := fun e => e.mem = d.mem) rfl fun e he x _ => (h e x).trans he

theorem touch_mem (d : Dev) (a n : Nat) : (touch d a n).mem = d.mem := by
  unfold touch
  split
  · exact foldl_mem (fun e o => modPage_mem e o _) _ d
  · rfl

/-- A write below the host windows puts its bytes in the device's memory. -/
theorem devWrite_mem {a : Nat} (ha : a < hostBase) (d : Dev) (bs : List Byte) (p : Bool) : (devWrite d a bs p).mem = memWrite d.mem a bs := by
  cases bs with
  | nil => rfl
  | cons b bs =>
    rw [devWrite, if_neg (by simp), if_neg (by omega), touch_mem]
    exact congrArg (memWrite · a (b :: bs)) (foldl_mem healRow_mem _ d)

/-- A byte of a core store, or of any place between the piers and the host windows, reads as memory holds it. -/
theorem devRead_byte {b : Nat} (h1 : pierEnd ≤ b) (h2 : b < hostBase) (d : Dev) : devRead d b 1 = [memGet d.mem b] := by
  rw [devRead, if_neg (by omega), decide_eq_false (by omega), Bool.false_and, if_neg Bool.false_ne_true]
  rfl

theorem storeAddr_lt {c o : Nat} (hc : c < 96) (ho : o < 0x400000) : pierEnd ≤ storeAddr c o ∧ storeAddr c o < hostBase := by
  simp only [storeAddr, storeBase, pierEnd, hostBase]
  omega

/-- A write from the start of the region goes on at its start again, and past its end where it is longer than twice the region. -/
theorem mem_twinWrite_long {c : Nat} (hc : c < 96) (d : Dev) {bs : List Byte} (h : 0x80000 < bs.length) :
    (twinWrite d c 0 bs).mem = memWrite (memWrite d.mem (storeAddr c 0) (bs.take 0x80000)) (storeAddr c 0) (bs.drop 0x80000) := by
  have hlt : storeAddr c 0 < hostBase := (storeAddr_lt hc (by decide)).2
  have hseg : twinSegs c 0 bs.length = [(storeAddr c 0, 0x80000), (storeAddr c 0, bs.length - 0x80000)] := by
    rw [twinSegs, Nat.zero_mod, if_neg (by omega), Nat.zero_add, Nat.sub_zero]
  rw [twinWrite, hseg]
  simp only [List.foldl_cons, List.foldl_nil, devWrite_mem hlt]
  rw [List.take_of_length_le (l := bs.drop 0x80000) (Nat.le_of_eq List.length_drop)]

/-- The byte of such a write that lies `j` past the region's start. -/
theorem memGet_twinWrite_long {c : Nat} (hc : c < 96) {d : Dev} (hd : memWf d.mem = true) {bs : List Byte} {j : Nat}
    (hj : 0x80000 + j < bs.length) : memGet (twinWrite d c 0 bs).mem (storeAddr c j) = bs[0x80000 + j] := by
  have hj' : j < (bs.drop 0x80000).length := by rw [List.length_drop]; omega
  have haddr : storeAddr c j = storeAddr c 0 + j := by simp only [storeAddr]; omega
  rw [mem_twinWrite_long hc d (by omega), haddr, memGet_memWrite_in (memWrite_wf hd _ _) _ _ _ hj', List.getElem_drop]

/-! `SBFPC` at a width beyond the formats (R134, R135). -/

/-- A PRB whose last component is 1. -/
def onePrb : List Lane := List.replicate 11 ({} : Lane) ++ [{ q := 1 }]

theorem prbExp_onePrb {m : Nat} (hm : 2 ≤ m) : prbExp m onePrb = 0 := by
  have hpow : (2 : Int) ^ 1 ≤ 2 ^ (m - 1) := int_two_pow_le (by omega)
  have hfit (x : Int) (h0 : 0 ≤ x) (h1 : x ≤ 1) : fitsAt m 0 x = true := by
    simp only [fitsAt, round58, if_true, Bool.and_eq_true, decide_eq_true_eq]
    omega
  have hall : (comps onePrb).all (fitsAt m 0) = true := by
    simp [comps, onePrb, List.replicate, hfit]
  rw [prbExp, smallestFit, if_pos hall]

/-- The mantissa bytes of a PRB end with the lowest byte of its last component. -/
theorem bfpBytes_onePrb {m : Nat} (hm : 8 ≤ m) : ∃ l : List Byte, l.length = 3 * m ∧ bfpBytes m 0 onePrb = l ++ [1] := by
  obtain ⟨n, hn⟩ : ∃ n, 3 * m = n + 1 := ⟨3 * m - 1, by omega⟩
  obtain ⟨xs, hxs⟩ : ∃ xs, comps onePrb = xs ++ [1] := ⟨List.replicate 23 0, rfl⟩
  have hone : ofSigned m (round58 1 0) = 1 := by
    have hpow : (1 : Int) < (2 ^ m : Nat) := by exact_mod_cast Nat.one_lt_two_pow (by omega)
    rw [ofSigned, round58, if_pos rfl, Int.emod_eq_of_lt (by decide) hpow]
    rfl
  have hbyte (v : Nat) : BitVec.ofNat 8 (v * 2 ^ m + 1) = 1 := by
    apply BitVec.eq_of_toNat_eq
    obtain ⟨k, rfl⟩ := Nat.exists_eq_add_of_le hm
    rw [BitVec.toNat_ofNat, Nat.pow_add, Nat.mul_left_comm, Nat.mul_add_mod]
    rfl
  rw [bfpBytes, hxs, List.foldl_append, List.foldl_cons, List.foldl_nil, hone, hn, natLe, hbyte, List.reverse_cons, ← List.cons_append]
  exact ⟨_, by simp, rfl⟩

/-- Memory after `SBFPC` is that after the write of its PRBs' bytes. -/
theorem mem_sigBfpc (d : Dev) (c : Nat) (w : SWord) : ∃ e : Dev, e.mem = d.mem ∧ (sigBfpc d c w).mem =
    (twinWrite e c (arAddr d c w.ma1) (((List.range (w.imm % 4 + 1)).map (prbOf d c w.srcA)).flatMap
      fun l => bfpBytes (sigSt d c).mw (prbExp (sigSt d c).mw l) l)).mem := by
  unfold sigBfpc
  extract_lets mw o n len prbs d1 d2 d3 d4
  refine ⟨d2, ?_, foldl_mem (fun d p => ?_) _ d3⟩
  · exact (modSig_mem d1 c _).trans (by simp only [d1, eat]; split <;> rfl)
  · split <;> rfl

/-- A core whose task stands at an `SBFPC` of one PRB, with MW set to `m`. -/
def wideDev (m : Nat) : Dev :=
  { regs := [(regSigStatus 0, 1), (regSigPc 0, 0)]
    sigs := [(0, { x := [(11, { q := 1 })], mw := m, code := [(0, 0x0900000000000000)] })] }

/-- The word there. -/
def bfpcWord : SWord := { op := 9, dst := 0, srcA := 0, srcB := 0, mop := 0, mx1 := 0, ma1 := 0, mx2 := 0, ma2 := 0, imm := 0 }

section
variable (m : Nat)

theorem sigPc_wideDev : sigPc (wideDev m) 0 = 0 := rfl

theorem sigWord_wideDev : sigWord (wideDev m) 0 = bfpcWord := by
  have hcode : tget 0 (sigSt (wideDev m) 0).code 0 = 0x0900000000000000 := rfl
  rw [sigWord, sigPc_wideDev, hcode]
  decide

theorem sigLegal_wideDev : sigLegal (wideDev m) 0 (sigWord (wideDev m) 0) = true := by
  rw [sigWord_wideDev]
  rfl

theorem sigRuns_wideDev : sigRuns (wideDev m) 0 = true := rfl

theorem prbOf_wideDev : prbOf (wideDev m) 0 0 0 = onePrb := by
  rfl

/-- The last byte that `SBFPC` writes lies past the region where MW is wide. -/
theorem memGet_sigBfpc_wideDev (hm : 8 ≤ m) (hwide : 0x80000 ≤ 3 * m) :
    memGet (sigBfpc (wideDev m) 0 bfpcWord).mem (storeAddr 0 (3 * m - 0x80000)) = 1 := by
  obtain ⟨d, hd, hmem⟩ := mem_sigBfpc (wideDev m) 0 bfpcWord
  have hprbs : (List.range (bfpcWord.imm % 4 + 1)).map (prbOf (wideDev m) 0 bfpcWord.srcA) = [onePrb] := rfl
  have hmw : (sigSt (wideDev m) 0).mw = m := rfl
  have haddr : arAddr (wideDev m) 0 bfpcWord.ma1 = 0 := rfl
  obtain ⟨l, hl, hbytes⟩ := bfpBytes_onePrb hm
  have hwf : memWf d.mem = true := by rw [hd]; rfl
  have hlast : 0x80000 + (3 * m - 0x80000) = l.length := by omega
  rw [hmem, hprbs, hmw, haddr, List.flatMap_singleton, prbExp_onePrb (by omega), hbytes, memGet_twinWrite_long (by decide) hwf (by rw [List.length_append]; simp; omega)]
  simp only [hlast, List.getElem_concat_length]

/-- The row of the task's word runs it, and what follows the write leaves memory. -/
theorem mem_sigRow_wideDev : (sigRow (wideDev m) 0 0x09 false fun d w => sigBfpc d 0 w).mem = (sigBfpc (wideDev m) 0 bfpcWord).mem := by
  have hfix : sigFixed (wideDev m) 0 false = wideDev m := if_neg (by simp)
  have hmove (d : Dev) : sigMem d 0 bfpcWord = d := rfl
  rw [sigRow_legal (sigRuns_wideDev m) (sigLegal_wideDev m) (by rw [sigWord_wideDev]; rfl), hfix, sigWord_wideDev, sigThen, hmove, sigNext]
  obtain ⟨_, e⟩ := loopTest_only 0 (sigPc (wideDev m) 0) (sigPc (wideDev m) 0 + 1) (sigDepth (sigBfpc (wideDev m) 0 bfpcWord) 0)
    (sigBfpc (wideDev m) 0 bfpcWord)
  rw [e]

end

/-- Refutes O18: nothing bounds the MW of a datapath that is not well-formed, and the bytes outside the region are claimed for every datapath.
With MW 524,288 one PRB takes 1,572,865 bytes, and the last of them changes a byte of the core's store beyond the region. -/
theorem not_signalFrame : ¬ Obligations.SignalFrame := by
  unfold Obligations.SignalFrame
  intro h
  obtain ⟨m, hm⟩ : ∃ m, m = 0x80000 := ⟨_, rfl⟩
  let s : State := { pending := [], perstN := true, dev := wideDev m }
  have hex : exec (.sbfpc 0 false) s = .next (withDev s (sigRow (wideDev m) 0 0x09 false fun d w => sigBfpc d 0 w)) :=
    onDev_runs (s := s) ⟨rfl, rfl⟩ fun d => sigRow d 0 0x09 false fun d w => sigBfpc d 0 w
  obtain ⟨-, -, -, -, -, hbytes, -, -⟩ := h s _ 0 false (.sbfpc 0 false) (by simp [signalOps]) (by nofun) hex
  obtain ⟨hlo, hhi⟩ := storeAddr_lt (c := 0) (o := 3 * m - 0x80000) (by decide) (by omega)
  have hbeyond : storeAddr 0 0x80000 ≤ storeAddr 0 (3 * m - 0x80000) := by rw [hm]; exact Nat.add_le_add_left (by decide) _
  have hsame := hbytes _ (.inr hbeyond)
  rw [devRead_byte hlo hhi, devRead_byte hlo hhi, mem_sigRow_wideDev, memGet_sigBfpc_wideDev m (by omega) (by omega)] at hsame
  exact absurd hsame (by decide : ¬ [(1 : Byte)] = [0])

end Sys2Proof.Machine
end

section
/-! ### The events of the slot planner (O20) -/

namespace Sys2Proof.Machine

theorem requestCutoff_on {d : Dev} {n ch : Nat} (hch : chanOf d n = some ch) (hen : carEnabled d n = true) : requestCutoff d n = readTail d ch := by
  simp [requestCutoff, hch, hen]

section
variable {d : Dev} {t : Task} {side : Nat} {k : AdmCar} (hk : carOf d t.carrier = some k)
include hk

/-- Before its release event a task is not released (R212). -/
theorem taskRelease_early (h : taskDue d t = false) (ns : Nat) : taskRelease d t side ns = d := by
  simp [taskRelease, hk, h]

/-- A task that is due, of a running carrier and a role that a core holds, is released on that core (R212). -/
theorem taskRelease_due (hst : carState d t.carrier ≠ 0) (hc : pairCore d k.pair side ≠ noCore) (hin : inputsGone d t side = false)
    (h : taskDue d t = true) (ns : Nat) : taskRelease d t side ns = releaseOn d (pairCore d k.pair side) ns t := by
  simp [taskRelease, hk, h, hst, hc, hin]

end

/-- A free core starts its first task (R213). -/
theorem taskStart_free {d : Dev} {c : Nat} {code : List Nat} {t : Task} (ht : firstTask (tget [] d.sp.queue c) = some t)
    (hrun : tget? d.sp.running c = none) (hsig : sigRuns d c = false) (hf : coreFenced d c = false) (hb : (coreSt d c).borrowed = none)
    (hlen : code.length ≤ 2048) (start vector at_ : Nat) :
    let d0 := devWrite d (storeAddr c at_) ((taskInput d t).take (0x80000 - at_)) false
    let d1 := modSp d0 (fun s => { s with
      queue := tset s.queue c (dropFirst (· == t) (tget [] s.queue c))
      running := tset s.running c t })
    let d2 := modSig d1 c (fun s => { s with code := code.zipIdx.map (fun p => (p.2, p.1)) })
    let d3 := fset (fset d2 (regSigEntry c) fldSigEntryStart start) (regSigEntry c) fldSigEntryVector vector
    taskStart d c code start vector at_ = sigStart (commitReg (setReg d3 (regCoreCtx c) 0) (regCoreCtx c)) c := by
  have hlen' : ¬ 2048 < code.length := by omega
  simp only [taskStart, ht, hrun, hsig, hf, hb, hlen', Option.isSome_none, decide_false, Bool.or_self, Bool.false_eq_true, if_false]

/-- Whether a core can be lent for a gap (R203). -/
def lendsNow (d : Dev) (c gap : Nat) : Bool :=
  fact d regTimeSpLend fldTimeSpLendLendEn == 1 && inReserve d c && coreOn d c && !coreFenced d c && coreState d c == 0
    && (coreSt d c).borrowed.isNone && (coreTasks d c).isEmpty && !sigRuns d c && decide (fact d regTimeSpLend fldTimeSpLendMinGap * 1000 ≤ gap)
    && (nextRelease d c).all (fun ns => decide (gap ≤ ns))

/-- A core lent to a context: one saved before waits for its restore, a new one starts (R203). -/
def lentTo (d : Dev) (c i x : Nat) : Dev :=
  let k := regCoreCtx c
  let d1 := fset (fset (fset d k fldCoreCtxWorkClass (ctxSt d i x).cls) k fldCoreCtxInstance i) k fldCoreCtxContext x
  let d2 := fsat (commitReg d1 k) regTimeSpCount fldTimeSpCountLends 1
  let d3 := modCore d2 c (fun t => { t with borrowed := some (i, x) })
  if d.sp.saved.any (fun s => s.2 == (i, x)) then d2
  else startCore (fset (fset d3 (regCoreStatus c) fldCoreStatusLent 1) (regCoreStatus c) fldCoreStatusLentSaved 0) c

/-- The first waiting borrower, whose save area lies in the lend window, is lent the core. -/
theorem lendRow_first {d : Dev} {c gap i x : Nat} (hfree : lendsNow d c gap = true) (hb : firstBorrower d = some (i, x))
    (hlo : storeAddr c (fget d (regCorePart c) fldCorePartLendBase * 262144) ≤ getAct d (regCoreSaveBase c))
    (hhi : getAct d (regCoreSaveBase c) + 16384 ≤ storeAddr c 0x400000) : lendRow d c gap (i, x) = lentTo d c i x := by
  have hsave : ¬ (getAct d (regCoreSaveBase c) < storeAddr c (fget d (regCorePart c) fldCorePartLendBase * 262144) ∨
      storeAddr c 0x400000 < getAct d (regCoreSaveBase c) + 16384) := by omega
  rw [lendsNow] at hfree
  rw [lendRow, if_pos hb, lend]
  simp only [hfree, if_true, hb, if_neg hsave]
  rfl

/-- Settles O20: each event by its equation where its conditions hold. -/
theorem plannerEvents : Obligations.PlannerEvents := by
  unfold Obligations.PlannerEvents
  intro s hr d
  refine ⟨?tick, fun code hcars => ?boundary, fun n ch hch hen => ?cutoff, fun t side ns k hk hst hc hin => ?release,
    fun c code start vector at_ t ht hrun hsig hf hb hlen => ?start, fun c gap i x hen hres hon hf hst hb htasks hsig hgap hnext hfirst hlo hhi => ?lend⟩
  case tick => exact onDev_eq hr (fun d => symbolTick d) rfl
  case boundary =>
    refine onDev_eq hr (fun d => slotBoundary d code) ?_
    rw [slotBoundary, if_neg (by rw [hcars]; decide)]
  case cutoff => exact onDev_eq hr (fun d => requestCutoff d n) (requestCutoff_on hch hen)
  case release =>
    refine ⟨fun h => onDev_eq hr (fun d => taskRelease d t side ns) (taskRelease_early hk h ns), fun h => ?_⟩
    have hdue := taskRelease_due hk hst hc hin h ns
    refine ⟨fun hu => ?_, fun hu hrun => ?_⟩
    · refine onDev_eq hr (fun d => taskRelease d t side ns) (hdue.trans ?_)
      simp only [releaseOn, hu, Bool.false_and, Bool.false_eq_true, if_false]
    · refine onDev_eq hr (fun d => taskRelease d t side ns) (hdue.trans ?_)
      simp only [releaseOn, hu, hrun, Bool.and_self, if_true]
  case start =>
    exact onDev_eq hr (fun d => taskStart d c code start vector at_) (taskStart_free ht hrun hsig hf hb hlen start vector at_)
  case lend =>
    have hfree : lendsNow d c gap = true := by simp [lendsNow, hen, hres, hon, hf, hst, hb, htasks, hsig, hgap, hnext]
    exact onDev_eq hr (fun d => lendRow d c gap (i, x)) (lendRow_first hfree hfirst hlo hhi)

end Sys2Proof.Machine
end

section
/-! ### Engine commands with a good descriptor (O32) -/

namespace Sys2Proof.Machine

/-- With a good descriptor and ranges that its accessor may use, the action of an engine command runs on the device whose stored words are
checked, and then the poison that its reads met is acted on (R234, R250, R284). -/
theorem engRun_good {d e : Dev} {p at_ : Nat} {x : EngCmd} {ok : Bool} {ranges : List (Bool × Nat × Nat)} {reads : List (Nat × Nat)}
    {act : Dev → Dev} (hok : ok = true) (hfree : firstErr d (engWho x) ranges = none) (hact : act (meetErrs d x reads) = e) :
    engRun d p x ok at_ ranges reads act = foundIn reads e := by
  rw [engRun, hok, hfree, hact]
  rfl

/-! Attention. -/

/-- The device with the partial of an `ATTEND` written at `DST`, `r` its bytes and the length of a head: the places of poisoned heads are
marked (R240, R247). -/
def attendWrote (d : Dev) (x : EngCmd) (hs : List AttnAcc) (r : List Byte × Nat) : Dev :=
  (hs.zipIdx.filter (fun h => h.1.poison)).foldl (fun d h => markPoison d (x.dst + 0x50 + h.2 * r.2) 0 (8 * (r.2 - 16)))
    (devWrite d x.dst r.1 false)

/-- An `ATTEND` whose partial may be written at `DST` writes it and completes (R240). -/
theorem engAttend_good {d : Dev} {p : Nat} {x : EngCmd} (hok : attendOk p x = true) :
    let reads := (attendPages x).map (fun a => (a, 65536))
    let d0 := meetErrs d x reads
    let hs := attendHeads d0 x
    let r := attnPartial (engArg x 14 1) (engArg x 12 2) (engArg x 16 2) (engArg x 0 4) x.tag hs
    firstErr d (engWho x) (reads.map (fun r => (false, r))) = none → accessErr d0 (engWho x) true x.dst r.1.length = none →
    engAttend d p x = foundIn reads (engEnd (attendWrote d0 x hs r) p x (if hs.any (fun h => h.poison) then 0x3307 else 0)
      (8 * b2n (hs.any (fun h => h.s.invalid || h.v.any (fun v => v.invalid)))) 0
      ((firstPoison (attendWrote d0 x hs r) (attendUses x)).getD x.dst)) := by
  intro reads d0 hs r hfree hdst
  rw [engAttend]
  refine engRun_good hok hfree ?_
  dsimp only
  rw [hdst]
  rfl

/-! Gathering. -/

/-- A `GATHER` ends by its first bad index: one that serves a GATHER_ROWS invocation ends its request at that element (R243). -/
theorem gatherEnd_eq (d : Dev) (p : Nat) (x : EngCmd) (rows : Bool) (bad at_ : Nat) :
    gatherEnd d p x rows (if bad = 0 then 0 else if bad = 1 then 0x3307 else 0x330F) at_ =
      if rows = true ∧ bad ≠ 0 then
        emit (endRequest d x.inst x.ctx (if bad = 1 then 0x3104 else 0x3105) at_ 0)
          (.engDone x.tag (if bad = 1 then 0x3307 else 0x330F) 0 0)
      else engEnd d p x (if bad = 0 then 0 else if bad = 1 then 0x3307 else 0x330F) 0 0 x.src := by
  by_cases h0 : bad = 0
  · simp [gatherEnd, h0]
  · by_cases h1 : bad = 1 <;> simp [gatherEnd, h0, h1]

/-! Checksums. -/

/-- A CRC-64 that is asked for is the result, and one that differs from an `AUX` to compare with is the status (R245). -/
theorem crcEnd_want (x : EngCmd) (check : Bool) (bs : List Byte) :
    crcEnd x true check bs = (if check = true ∧ crc64 bs ≠ x.aux then 0x3310 else 0, crc64 bs) := by
  simp [crcEnd]

/-! Soft combining. -/

/-- The soft buffer of a code block in one piece takes the values combined from clean ones, and they go on to `DST` (R169, R246). -/
theorem harqMerge_clean {d : Dev} {x : EngCmd} (hclean : ∀ r ∈ harqReads x [(x.aux, engArg x 0 4)], isPoisoned d r.1 r.2 = false)
    (p detail : Nat) :
    let out := softOut d (harqNew x) x.src x.aux (engArg x 0 4)
    harqMerge d p x detail [(x.aux, engArg x 0 4)] = engEnd (devWrite (devWrite d x.aux out false) x.dst out false) p x 0 0 0 x.aux := by
  have hany : (harqReads x [(x.aux, engArg x 0 4)]).any (fun r => isPoisoned d r.1 r.2) = false :=
    List.any_eq_false.2 fun r hr => Bool.eq_false_iff.1 (hclean r hr)
  exact if_neg (Bool.eq_false_iff.1 hany)

/-- A `HARQ_COMBINE` on one piece of a soft buffer, whose values `reads` are clean (R246). -/
theorem engHarq_clean {d : Dev} {x : EngCmd} (hok : harqOk x = true) :
    let pieces := [(x.aux, engArg x 0 4)]
    let reads := harqReads x pieces
    let d0 := meetErrs d x reads
    let out := softOut d0 (harqNew x) x.src x.aux (engArg x 0 4)
    firstErr d (engWho x) (harqRanges x pieces) = none → (∀ r ∈ reads, isPoisoned d0 r.1 r.2 = false) →
    ∀ p detail, engHarq d p x detail pieces =
      foundIn reads (engEnd (devWrite (devWrite d0 x.aux out false) x.dst out false) p x 0 0 0 x.aux) := by
  intro pieces reads d0 out hfree hclean p detail
  rw [engHarq]
  exact engRun_good hok hfree (harqMerge_clean hclean p detail)

/-! Dirty bits. -/

/-- The device with the dirty bits of pages cleared (R232). -/
def clearDirty (d : Dev) (keys : List Nat) : Dev :=
  keys.foldl (fun d k => { d with pier := { d.pier with pages := tmod {} d.pier.pages k (fun e => { e with dirty := false }) } }) d

/-- A `DIRTY_SCAN` of pages that may be written, with a bitmap that may be, clears their bits and reports them (R232). -/
theorem engDirty_good {d : Dev} {p : Nat} {x : EngCmd} (hok : dirtyOk p x = true) :
    let n := engArg x 0 4
    let keys := rangeFrom (pageKey x.src) n
    let bits := keys.map (fun k => (tget {} d.pier.pages k).dirty)
    keys.any (fun k => !pageAllows (tget {} d.pier.pages k) (engWho x) true) = false →
    accessErr d (engWho x) true x.dst ((n + 7) / 8) = none →
    engDirty d p x = engEnd (devWrite (clearDirty d keys) x.dst
      (natLe ((n + 7) / 8) (bits.zipIdx.foldl (fun a b => a + b2n b.1 * 2 ^ b.2) 0)) false) p x 0 0 ((bits.filter id).length) x.src := by
  intro n keys bits hpages hdst
  have hnone : keys.find? (fun k => !pageAllows (tget {} d.pier.pages k) (engWho x) true) = none :=
    List.find?_eq_none.2 (List.any_eq_false.1 hpages)
  simp only [engDirty]
  rw [hok, hnone, hdst]
  rfl

/-- Settles O32: each command by its action, which runs because its descriptor and its ranges are good. -/
theorem plinthEngines : Obligations.PlinthEngines := by
  unfold Obligations.PlinthEngines
  intro s p x hr d n w free met goes wrote
  refine ⟨?attend, ?gather, ?dequant, ?copy, ?move, ?crc, fun hok hfree => ⟨?new, ?again⟩, ?fill, ?dirty⟩
  case attend =>
    intro reads hok hfree hs r hdst
    exact onDev_eq hr (fun d => engAttend d p x) (engAttend_good hok hfree hdst)
  case gather =>
    intro m idx used reads g hok hfree rows
    refine onDev_eq hr (fun d => engGather d p x rows) ?_
    rw [engGather]
    exact engRun_good hok hfree (gatherEnd_eq g.1 p x rows g.2 used.length)
  case dequant =>
    intro f g reads rs hok hfree d1
    refine onDev_eq hr (fun d => engDequant d p x) ?_
    rw [engDequant]
    exact engRun_good hok hfree rfl
  case copy =>
    intro hok hfree d0 c
    refine onDev_eq hr (fun d => engCopy d p x) ?_
    rw [engCopy]
    exact engRun_good hok hfree rfl
  case move =>
    intro hok hfree
    refine onDev_eq hr (fun d => engMove d p x) ?_
    rw [engMove]
    exact engRun_good hok hfree rfl
  case crc =>
    intro hok hfree d0 c
    refine onDev_eq hr (fun d => engCrc d p x) ?_
    rw [engCrc]
    refine engRun_good hok hfree ?_
    rw [crcEnd_want]
  case new =>
    intro hnew d0 hsrc
    have h := engHarq_clean (d := s.dev) hok hfree
    simp only [harqReads, softOut, show harqNew x = true from hnew, if_true] at h
    exact onDev_eq hr (fun d => harqRow d p x none) (h (List.forall_mem_singleton.2 hsrc) p 0)
  case again =>
    intro hnew reads d0 hsrc haux out
    have h := engHarq_clean (d := s.dev) hok hfree
    simp only [harqReads, softOut, show harqNew x = false from hnew, Bool.false_eq_true, if_false] at h
    exact onDev_eq hr (fun d => harqRow d p x none) (h (List.forall_mem_cons.2 ⟨hsrc, List.forall_mem_singleton.2 haux⟩) p 0)
  case fill =>
    intro hok hfree
    refine onDev_eq hr (fun d => engFill d p x) ?_
    rw [engFill]
    exact engRun_good hok hfree rfl
  case dirty =>
    intro keys bits hok hpages hdst
    exact onDev_eq hr (fun d => engDirty d p x) (engDirty_good hok hpages hdst)

end Sys2Proof.Machine
end

section
/-! ### Loop-backs, self-tests and lane calibration (O55) -/

namespace Sys2Proof.Machine

/-! Loop-backs (R475, R476). -/

/-- A loop-back in force on a unit, with its counters cleared and `LB_STATE` 2. -/
def lbOpened (d : Dev) (i u depth : Nat) : Dev :=
  setLb (setReg (setReg { d with tst := { d.tst with looped := some (i, u, depth) } } regTstLbBits 0) regTstLbErr 0) 2

/-- What a unit that enters loop-back stands at: a Trean port in loop-back, the Ethernet ports of a group down, a flash channel in
`STATE` 2. -/
def lbTaken (d : Dev) (i u : Nat) : Dev :=
  if i = 0 then setPortState d u 8
  else if i = 1 then (List.range 4).foldl (fun d q => if portExists d (4 * u + q) then ethDown d (4 * u + q) 1 else d) d
  else if i = 3 then fset d (regFlsChState u) fldFlsChStateState 2
  else d

theorem lbEnter_allowed {d : Dev} {i u depth : Nat} (hfree : d.tst.looped = none) (hi : fget d regTstLbSel fldTstLbSelIface = i)
    (hu : fget d regTstLbSel fldTstLbSelUnit = u) (hd : fget d regTstLbSel fldTstLbSelDepth = depth) (hok : lbOk d i u depth = true) :
    lbEnter d = lbRecord (lbTaken (lbOpened d i u depth) i u) i u := by
  have hgo : ¬ (d.tst.looped.isSome || !lbOk d i u depth) = true := by simp [hfree, hok]
  subst hi hu hd
  rw [lbEnter, if_neg hgo]
  refine congrArg (lbRecord · _ _) ?_
  unfold lbTaken lbOpened
  split <;> simp_all

/-- No loop-back in force, `LB_STATE` 0, and the counters of the pattern shown, but at depth 4 and for a time pair. -/
def lbClosed (d : Dev) (i depth bits err : Nat) : Dev :=
  let d := setLb { d with tst := { d.tst with looped := none } } 0
  if depth = 4 ∨ i = 4 then d else setReg (setReg d regTstLbBits (min bits (2 ^ 64 - 1))) regTstLbErr (min err (2 ^ 64 - 1))

/-- What a unit that leaves loop-back stands at: a Trean port down, a flash channel in `STATE` 1. -/
def lbGiven (d : Dev) (i u : Nat) : Dev :=
  if i = 0 then setPortState d u 0 else if i = 3 then fset d (regFlsChState u) fldFlsChStateState 1 else d

theorem lbLeave_looped {d : Dev} {i u depth : Nat} (h : d.tst.looped = some (i, u, depth)) (bits err : Nat) :
    lbLeave d bits err = lbRecord (lbGiven (lbClosed d i depth bits err) i u) i u := by
  simp only [lbLeave, h]
  refine congrArg (lbRecord · _ _) ?_
  unfold lbGiven lbClosed
  split <;> simp_all

/-! Self-tests (R477, R480). -/

theorem bitsAt_or_one (v : Nat) : bitsAt (v ||| 1) 0 1 = 1 := by
  simp [bitsAt]

/-- A write with `START` set begins the self-test of a fenced unit while none runs. -/
theorem bistStart_fenced {d : Dev} {v : Nat} (hunit : bitsAt v 8 8 < bistUnits (bitsAt v 4 3)) (hstart : bitsAt v 0 1 = 1)
    (hidle : fget d regTstBist fldTstBistBusy = 0) (hfenced : bistFenced d (bitsAt v 4 3) (bitsAt v 8 8) = true) :
    bistStart d v = commitReg (fset (fset (fset d regTstBist fldTstBistUnit (bitsAt v 8 8)) regTstBist fldTstBistKind (bitsAt v 4 3))
      regTstBist fldTstBistBusy 1) regTstBist := by
  simp only [bistStart, if_neg (Nat.not_le.2 hunit), hstart, hidle, hfenced]
  rfl

/-- The end of the test in progress shows its outcome, and records a failure. -/
theorem bistDone_running {d : Dev} (h : fget d regTstBist fldTstBistBusy = 1) (pass : Bool) :
    bistDone d pass =
      let e := fset (fset d regTstBist fldTstBistBusy 0) regTstBist fldTstBistPass (b2n pass)
      if pass then e
      else record e { status := 0x1B07, detail := fact e regTstBist fldTstBistKind + fact e regTstBist fldTstBistUnit * 2 ^ 8 } :=
  if_neg (by omega)

/-! Lanes (R478). -/

theorem laneRecal_lane (d : Dev) (l : Fin 32) :
    laneRecal d l = record (dropExchs { d with tst := { d.tst with cal := d.tst.cal.filter (· != l.val) } } (lanePort d l))
      { status := 0x2803, inst := 0, detail := lanePort d l * 2 ^ 16 + l.val * 2 ^ 24 } :=
  if_neg (Nat.not_le.2 l.isLt)

/-- Settles O55: the equation of each command under the conditions in which it acts. -/
theorem loopBacksAndTests : Obligations.LoopBacksAndTests := by
  unfold Obligations.LoopBacksAndTests
  intro s hr d goes k
  refine ⟨?enter, ?leave, ?start, ?done, fun m => onDev_runs hr fun d => calLanes d m, ?lane⟩
  case enter => exact fun i u depth hfree hi hu hd hok => onDev_eq hr lbEnter (lbEnter_allowed hfree hi hu hd hok)
  case leave => exact fun i u depth bits errs h => onDev_eq hr (fun d => lbLeave d bits errs) (lbLeave_looped h bits errs)
  case start =>
    exact fun w hunit hidle hfenced => onDev_eq hr (fun d => bistStart d (w.toNat ||| 1)) (bistStart_fenced hunit (bitsAt_or_one _) hidle hfenced)
  case done =>
    exact fun h => ⟨onDev_eq hr (fun d => bistDone d true) (bistDone_running h true),
      onDev_eq hr (fun d => bistDone d false) (bistDone_running h false)⟩
  case lane => exact fun l => onDev_eq hr (fun d => laneRecal d l) (laneRecal_lane s.dev l)

end Sys2Proof.Machine
end

section
/-! ### Commands of freezing and saving, of the radio, of firmware and of faults (O58) -/

namespace Sys2Proof.Machine

/-- A command that starts has the effect of its meaning (R386, R404). -/
theorem starts_eq {s : State} {i q op : Nat} {c : Cmd} {d e : Dev} (h : Starts s i q op c d) (body : Dev → Cmd → Dev) (he : body d c = e) :
    onDev s (fun d => runCmd d i q op body) = .next (withDev s e) := by
  obtain ⟨hr, htake, hok⟩ := h
  exact onDev_eq hr _ (by simp only [runCmd, htake, hok, he])

/-! Freezing, saving and teardown (R393 to R398, R435). -/

theorem cmdFreeze_ready {d : Dev} {i q j : Nat} {c : Cmd} (hj : j ≠ 0) (hst : instState d j = 2) :
    cmdFreeze d i q j c = modInst d j (fun s => { s with freezing := some (i, c) }) := by
  rw [cmdFreeze, if_neg hj, if_neg (not_not_intro hst)]

/-- The pages that SAVE names: every page owned, or the dirty ones (R394). -/
def savedPages (d : Dev) (j what : Nat) : List Nat :=
  if what = 0 then (instPages d j).reverse else (instPages d j).reverse.filter (fun o => (pageOf d o).dirty)

/-- The records of a frozen state (R395, R396). -/
def stateRecs (d : Dev) (j : Nat) : List SaveRec :=
  [headRec d j (instPages d j).reverse.length, partRec d j, mboxRec d j]
    ++ ((List.range 16).filter (fun x => (ctxSt d j x).live)).map (ctxRecord d j) ++ [refsRec d j] ++ (instRegions d j).map (regionRec d)

/-- What SAVE writes: the pages, and of a frozen owner every record of its state and the end record. -/
def savedBytes (d : Dev) (j what : Nat) : List Byte :=
  let pages := (savedPages d j what).map (pageRec d)
  saveAll 0 (if instState d j = 2 then pages else pages ++ stateRecs d j ++ [endRec (pages ++ stateRecs d j)])

theorem cmdSave_fits {d : Dev} {i q j : Nat} {c : Cmd} (ha : c.arg 0 ≤ 1) (hst : instState d j = 2 ∨ instState d j = 3)
    (hlen : (savedBytes d j (c.arg 0)).length ≤ c.arg 2) :
    cmdSave d i q j c = cmdEnd (hostWrite ((savedPages d j (c.arg 0)).foldl (fun d o => modPage d o (fun p => { p with dirty := false })) d)
      (c.arg 1) (savedBytes d j (c.arg 0))) i q c 0 (savedBytes d j (c.arg 0)).length := by
  have hst' : ¬ (instState d j ≠ 2 ∧ instState d j ≠ 3) := by omega
  rw [cmdSave, if_neg (Nat.not_lt.2 ha), if_neg hst']
  by_cases h2 : instState d j = 2
  · simp only [savedBytes, if_pos h2, List.append_nil] at hlen ⊢
    exact if_neg (Nat.not_lt.2 hlen)
  · simp only [savedBytes, if_neg h2] at hlen ⊢
    exact if_neg (Nat.not_lt.2 hlen)

/-- The PASIDs that RESTORE is given for the windows of a saved state. -/
def suppliedPasids (d : Dev) (c : Cmd) (rs : List ReadRec) : List Nat :=
  (List.range (savedWindows (payOf rs 2)).length).map (fun k => hostNat d (c.arg 3 + 4 * k) 4)

/-- The conditions of R397 on the buffers of a saved state, but those on its references. -/
structure RestoreFits (d : Dev) (j : Nat) (c : Cmd) (bufs : List (List ReadRec)) : Prop where
  ended   : endOk bufs = true
  header  : (recOf bufs.flatten 1).isSome = true
  grade   : fieldLe (payOf bufs.flatten 1) 0 2 ≤ d.env.grade
  version : fieldLe (payOf bufs.flatten 1) 4 2 ≤ 0x0300
  counts  : countsOk d j (payOf bufs.flatten 1) = true
  places  : placesOk d j bufs.flatten = true
  windows : savedWindows (payOf bufs.flatten 2) = [] ∨ (c.arg 3 ≠ 0 ∧ ∀ p ∈ suppliedPasids d c bufs.flatten, p < 2 ^ 20)

/-- The references of a saved state among the destination's ashlars, under the sets RESTORE is given. -/
def mappedRefs (d : Dev) (j : Nat) (c : Cmd) (rs : List ReadRec) : Option (List (Nat × Nat)) :=
  if (recOf rs 5).isSome = true then mapRefs d j (fun t => hostNat d (c.arg 2 + 2 * t) 2) (payOf rs 5) else some []

/-- The device with a saved state loaded: its pages and regions, its partition, its mailboxes, its contexts, its references. -/
def restored (d : Dev) (j : Nat) (c : Cmd) (rs : List ReadRec) (refs : List (Nat × Nat)) : Dev :=
  let d1 := loadPlaces (setInstState d j 4) rs
  let d2 := if (recOf rs 2).isSome = true then loadPart d1 j (suppliedPasids d c rs) (payOf rs 2) else d1
  let d3 := if (recOf rs 3).isSome = true then loadMbox d2 j (payOf rs 3) else d2
  let d4 := (rs.filter (fun r => r.type == 4)).foldl (fun d r => loadCtx d j r) d3
  setInstState (loadRefs d4 j refs) j 3

theorem cmdRestore_fits {d : Dev} {i q j : Nat} {c : Cmd} {bufs : List (List ReadRec)} {refs : List (Nat × Nat)}
    (hst : instState d j = 2) (hctx : ∀ x < 16, (ctxSt d j x).live = false)
    (hread : readBufs d.hmem (bufList d (c.arg 0) (c.arg 1)) = some bufs) (hfits : RestoreFits d j c bufs)
    (hrefs : mappedRefs d j c bufs.flatten = some refs) :
    cmdRestore d i q j c = cmdEnd (restored d j c bufs.flatten refs) i q c 0 := by
  have hready : ¬ (instState d j ≠ 2 ∨ (List.range 16).any (fun x => (ctxSt d j x).live) = true) := by
    simpa [hst] using hctx
  obtain ⟨hend, hhead, hgrade, hver, hcounts, hplaces, hwin⟩ := hfits
  simp only [mappedRefs] at hrefs
  simp only [cmdRestore, if_neg hready, hread, hrefs]
  refine if_neg ?_
  rintro (h | h | h | h | h | h | ⟨hw, h⟩)
  · simp [hend] at h
  · rw [← Option.not_isSome, hhead] at h
    exact absurd h (by decide)
  · omega
  · omega
  · simp [hcounts] at h
  · simp [hplaces] at h
  · obtain ⟨h3, hp⟩ := hwin.resolve_left hw
    obtain h | h := h
    · exact h3 h
    · obtain ⟨p, hmem, hle⟩ := List.any_eq_true.1 h
      exact absurd (hp p hmem) (Nat.not_lt.2 (of_decide_eq_true hle))

/-! The radio (R193, R409). -/

/-- The carrier records that RADIO_ADMIT names, with their addresses. -/
def admRecs (d : Dev) (c : Cmd) : List (Nat × AdmCar) :=
  (List.range (c.arg 1)).map (fun k => (c.arg 0 + 64 * k, readCar d (c.arg 0 + 64 * k)))

theorem cmdAdmit_inRange {d : Dev} {q : Nat} {c : Cmd} (hn : 0 < c.arg 1) (hn' : c.arg 1 ≤ 512) (hm : c.arg 2 ≤ 1)
    (hrecs : ∀ x ∈ admRecs d c, recOk d x.1 x.2 = true) (hdistinct : ((admRecs d c).map (fun x => x.2.carrier)).eraseDups.length = c.arg 1) :
    cmdAdmit d q c =
      let cars := (admRecs d c).map (fun x => x.2)
      let r := admission d cars (c.arg 2 == 1)
      let e := hostWrite d (c.arg 3) (resBytes d cars r)
      if r.failed = 0 then cmdEnd (admitApply e cars (c.arg 2 == 1) r) 0 q c 0 else cmdEnd e 0 q c 0x3A0B r.failed := by
  have hargs : ¬ (c.arg 1 = 0 ∨ 512 < c.arg 1 ∨ 1 < c.arg 2) := by omega
  have hgood : ¬ ((!(admRecs d c).all (fun x => recOk d x.1 x.2) ||
      ((admRecs d c).map (fun x => x.2.carrier)).eraseDups.length != c.arg 1) = true) := by
    simp [hdistinct, List.all_eq_true.2 hrecs]
  rw [cmdAdmit, if_neg hargs]
  exact (if_neg hgood).trans (ite_not _ _ _)

/-- The arguments of FAPI_OPEN that R405 accepts. -/
structure FapiArgsOk (c : Cmd) : Prop where
  bits    : onlyBits (c.arg 0) 0x00000FFF001FFF0F = true
  reqLog  : bitsAt (c.arg 0) 8 4 ≤ 12
  indLog  : bitsAt (c.arg 0) 12 4 ≤ 12
  payMin  : 16 ≤ bitsAt (c.arg 0) 16 5
  payMax  : bitsAt (c.arg 0) 16 5 ≤ 21
  vector  : bitsAt (c.arg 0) 32 12 ≤ 2047
  arena   : c.arg 4 ≠ 0
  aligned : ∀ r ∈ [c.arg 1, c.arg 2, c.arg 5], r % 4096 = 0

/-- The channel that FAPI_OPEN opens, with the counts its ring headers hold. -/
def openedChan (d : Dev) (c : Cmd) : FapiCh :=
  { cars := hostNat d (c.arg 6) 64, req := c.arg 1, ind := c.arg 2, arena := c.arg 3, arenaLen := c.arg 4, free := c.arg 5
    reqLog := bitsAt (c.arg 0) 8 4 + 4, indLog := bitsAt (c.arg 0) 12 4 + 4, payLog := bitsAt (c.arg 0) 16 5
    vector := bitsAt (c.arg 0) 32 12, tail := hostNat d (c.arg 1 + 0x40) 4, head := hostNat d (c.arg 1 + 0x40) 4
    prod := hostNat d (c.arg 2) 4, freeHead := hostNat d (c.arg 5 + 0x40) 4 }

theorem cmdFapiOpen_free {d : Dev} {q : Nat} {c : Cmd} (hargs : FapiArgsOk c) (hch : tget? d.sp.chans (bitsAt (c.arg 0) 0 4) = none)
    (hcars : ∀ p ∈ d.sp.chans, p.2.cars &&& hostNat d (c.arg 6) 64 = 0) :
    cmdFapiOpen d q c =
      cmdEnd (modSp d (fun s => { s with chans := tset s.chans (bitsAt (c.arg 0) 0 4) (openedChan d c) })) 0 q c 0 := by
  obtain ⟨hbits, hreq, hind, hmin, hmax, hvec, harena, hal⟩ := hargs
  have hrings : [c.arg 1, c.arg 2, c.arg 5].any (fun r => r % 4096 != 0) = false := List.any_eq_false.2 fun r hr => by simp [hal r hr]
  have hclash : d.sp.chans.any (fun p => p.2.cars &&& hostNat d (c.arg 6) 64 != 0) = false := List.any_eq_false.2 fun p hp => by simp [hcars p hp]
  have hreq' : ¬ 16 < bitsAt (c.arg 0) 8 4 + 4 := by omega
  have hind' : ¬ 16 < bitsAt (c.arg 0) 12 4 + 4 := by omega
  simp only [cmdFapiOpen, hbits, hreq', hind', Nat.not_lt.2 hmin, Nat.not_lt.2 hmax, Nat.not_lt.2 hvec, harena, hrings, hch, hclash]
  rfl

theorem cmdFapiClose_open {d : Dev} {q : Nat} {c : Cmd} {x : FapiCh} (ha : c.arg 0 ≤ 15) (hx : tget? d.sp.chans (c.arg 0) = some x) :
    cmdFapiClose d q c =
      cmdEnd (if (List.range 512).any (fun n => bitOf x.cars n && (carOf d n).isSome && carEnabled d n) = true
        then modChan d (c.arg 0) (fun y => { y with closing := true })
        else modSp d (fun s => { s with chans := tdel s.chans (c.arg 0) })) 0 q c 0 := by
  simp only [cmdFapiClose, if_neg (Nat.not_lt.2 ha), hx]

/-! Firmware and the log (R461 to R470). -/

theorem cmdFwStage_verified {d : Dev} {q : Nat} {c : Cmd} {bs : List Byte} (hn : 0 < c.arg 1) (hn' : c.arg 1 ≤ 12582912)
    (hbs : imageBytes d c = some bs) (hok : imageOk d bs = true) (hmin : (imageOf bs).handMin ≤ d.mgt.running.handover) :
    cmdFwStage d q c =
      let e := setStaged (modMgt (devWrite d (fwPages d 71) bs false) (fun m => { m with staged := some (imageOf bs) })) 1
      cmdEnd (logOnly e { status := 0x1A4B, detail := mgtDetail 0x80 3 0 (imageOf bs).version }) 0 q c 0 (imageOf bs).version := by
  have hargs : ¬ (c.arg 1 = 0 ∨ 12582912 < c.arg 1) := by omega
  have hgood : ¬ ((!imageOk d bs) = true ∨ d.mgt.running.handover < (imageOf bs).handMin) := by simp [hok, hmin]
  simp only [cmdFwStage, if_neg hargs, hbs, if_neg hgood]

theorem cmdFwCommit_staged {d : Dev} {f : FwImg} (h : d.mgt.staged = some f) (q : Nat) (ok : Bool) (c : Cmd) :
    cmdFwCommit d q ok c =
      if ok then cmdEnd (logOnly (setStaged (modMgt d (fun m => { m with flash := some f })) 2)
        { status := 0x1A4C, detail := mgtDetail 0x81 3 0 f.version }) 0 q c 0
      else cmdEnd (setStaged (modMgt d (fun m => { m with flash := none })) 3) 0 q c 0x3A4F := by
  simp only [cmdFwCommit, h]

theorem cmdFwActivate_other {d : Dev} {f : FwImg} (h : d.mgt.flash = some f) (hne : f ≠ d.mgt.running) (q : Nat) (c : Cmd) :
    cmdFwActivate d q c =
      let e := modMgt (loadTables d f) (fun m => { m with running := f, staged := none, areaOk := true, actCount := m.actCount + 1 })
      cmdEnd (logOnly (showFw (setStaged e 0)) { status := 0x1A4D, detail := mgtDetail 0x82 3 0 f.version }) 0 q c 0 := by
  simp only [cmdFwActivate, h, if_neg hne]

theorem cmdFwRecover_verified {d : Dev} {q : Nat} {c : Cmd} {bs : List Byte} (hboot : d.env.boot = 3) (hbs : imageBytes d c = some bs)
    (hok : imageOk d bs = true) :
    cmdFwRecover d q c =
      let d1 := cmdEnd (modMgt d (fun m => { m with flash := some (imageOf bs) })) 0 q c 0
      let d2 := showBoot (fset d1 regMgtBoot fldMgtBootStage 2) 0x1A41
      { d2 with env := { d2.env with boot := 0 } } := by
  have hgood : ¬ (!imageOk d bs) = true := by simp [hok]
  simp only [cmdFwRecover, if_neg (not_not_intro hboot), hbs, if_neg hgood]

theorem cmdLogRead_inRange {d : Dev} {q : Nat} {c : Cmd} (hn : 0 < c.arg 1) (hn' : c.arg 1 ≤ 64) (ha : c.arg 0 < 2 ^ 32) :
    cmdLogRead d q c = cmdEnd (hostWrite d (c.arg 2) ((rangeFrom (c.arg 0) (c.arg 1)).flatMap (fun n =>
      ((logEntry d (n % 2 ^ 32)).map recBytes).getD (List.replicate 64 0)))) 0 q c 0 (c.arg 1) := by
  rw [cmdLogRead, if_neg (by omega)]
  refine congrArg (fun f => cmdEnd (hostWrite d (c.arg 2) ((rangeFrom (c.arg 0) (c.arg 1)).flatMap f)) 0 q c 0 (c.arg 1)) (funext fun n => ?_)
  cases logEntry d (n % 2 ^ 32) <;> rfl

/-! Faults (R440, R448). -/

theorem cmdErrorRead_records {d : Dev} {i q j : Nat} {c : Cmd} (ha : c.arg 3 = 0) (hn : 1 ≤ c.arg 1) (hn' : c.arg 1 ≤ 64) :
    cmdErrorRead d i q j c =
      cmdEnd (hostWrite d (c.arg 2) ((rangeFrom (c.arg 0) (c.arg 1)).flatMap (fun n => heldRec d j (n % 2 ^ 32)))) i q c 0 (c.arg 1) := by
  rw [cmdErrorRead, if_neg (by omega), if_neg (by omega), if_neg (by omega)]

theorem cmdErrorRead_slots {d : Dev} {i q j : Nat} {c : Cmd} (ha : c.arg 3 = 1) (hn : 1 ≤ c.arg 1) (hn' : c.arg 0 + c.arg 1 ≤ 16) :
    cmdErrorRead d i q j c = cmdEnd (hostWrite d (c.arg 2) ((rangeFrom (c.arg 0) (c.arg 1)).flatMap (fun n =>
      ((tget? (instSt d j).slots n).map (fun r => recBytes r.1 ++ padTo 64 r.2)).getD (List.replicate 128 0)))) i q c 0 (c.arg 1) := by
  rw [cmdErrorRead, if_neg (by omega), if_pos ha, if_neg (by omega)]
  refine congrArg (fun f => cmdEnd (hostWrite d (c.arg 2) ((rangeFrom (c.arg 0) (c.arg 1)).flatMap f)) i q c 0 (c.arg 1)) (funext fun n => ?_)
  cases tget? (instSt d j).slots n <;> rfl

theorem cmdFence_unit {d : Dev} {c : Cmd} (h : unitErr d (c.arg 0) (c.arg 1) = none) (q : Nat) :
    cmdFence d q c = cmdEnd (fenceUnit d (c.arg 0) (c.arg 1)) 0 q c 0 := by
  simp only [cmdFence, h]

theorem cmdUnfence_fenced {d : Dev} {c : Cmd} (h : unitErr d (c.arg 0) (c.arg 1) = none) (hf : unitFenced d (c.arg 0) (c.arg 1) = true)
    (q : Nat) (pass : Bool) :
    cmdUnfence d q pass c =
      if pass then cmdEnd (unfenceUnit d (c.arg 0) (c.arg 1)) 0 q c 0
      else cmdEnd (record d { status := 0x3113, inst := 0, detail := unitDetail (c.arg 0) (c.arg 1) }) 0 q c 0x3113 := by
  simp only [cmdUnfence, h, hf, Bool.not_true, Bool.false_eq_true, if_false]

/-- UNFENCE_UNIT of a unit on which no self-test of `TST_BIST` runs (R480). -/
theorem unfenceRow_starts {s : State} {i q : Nat} {c : Cmd} {d e : Dev} (h : Starts s i q 0x00C2 c d)
    (hidle : bistOn s.dev (c.arg 0) (c.arg 1) = false) (pass : Bool) (he : cmdUnfence d q pass c = e) :
    onDev s (fun d => unfenceRow d i q pass) = .next (withDev s e) := by
  have hrow : unfenceRow s.dev i q pass = runCmd s.dev i q 0x00C2 (fun d c => cmdUnfence d q pass c) := by
    simp only [unfenceRow, h.2.1, hidle, Bool.false_eq_true, if_false]
  have hrun := starts_eq h (fun d c => cmdUnfence d q pass c) he
  rw [onDev_runs h.1] at hrun ⊢
  rw [hrow, hrun]

/-- Settles O58: the meaning of each command under the conditions in which nothing refuses it. -/
theorem commandsLife : Obligations.CommandsLife := by
  unfold Obligations.CommandsLife
  intro s i q c d j a goes ends
  refine ⟨?freeze, ?thaw, ?dirty, ?save, ?restore, ?teardown, ?admission, ?fapiOpen, ?fapiClose, ?stage, ?commit, ?activate, ?recover, ?log, ?svn,
    ?query, ?errors, ?fence, ?unfence, ?snapshot⟩
  case freeze => exact fun h hj hst => starts_eq h _ (cmdFreeze_ready hj hst)
  case thaw => exact fun h hst => starts_eq h _ (if_neg (not_not_intro hst))
  case dirty => exact fun h ha => starts_eq h _ (if_neg (Nat.not_lt.2 ha))
  case save => exact fun h ha hst hlen => starts_eq h _ (cmdSave_fits ha hst hlen)
  case restore =>
    intro bufs refs h hst hctx hread hend rs head pasids hhead hgrade hver hcounts hplaces hwin hrefs
    exact starts_eq h _ (cmdRestore_fits hst hctx hread ⟨hend, hhead, hgrade, hver, hcounts, hplaces, hwin⟩ hrefs)
  case teardown => exact fun h hst => starts_eq h _ (if_neg fun hne => hst.elim hne.1 hne.2)
  case admission =>
    intro h hn hn' hm recs hrecs hdistinct
    refine (starts_eq h _ (cmdAdmit_inRange hn hn' hm hrecs hdistinct)).trans ?_
    exact apply_ite goes _ _ _
  case fapiOpen =>
    intro h hbits hreq hind hmin hmax hvec harena hal ch cars hch hcars
    exact starts_eq h _ (cmdFapiOpen_free ⟨hbits, hreq, hind, hmin, hmax, hvec, harena, hal⟩ hch hcars)
  case fapiClose => exact fun x h ha hx => starts_eq h _ (cmdFapiClose_open ha hx)
  case stage => exact fun bs h hn hn' hbs hok hmin => starts_eq h _ (cmdFwStage_verified hn hn' hbs hok hmin)
  case commit => exact fun f h hf => ⟨starts_eq h _ (cmdFwCommit_staged hf q true c), starts_eq h _ (cmdFwCommit_staged hf q false c)⟩
  case activate => exact fun f h hf hne => starts_eq h _ (cmdFwActivate_other hf hne q c)
  case recover => exact fun bs h hboot hbs hok => starts_eq h _ (cmdFwRecover_verified hboot hbs hok)
  case log => exact fun h hn hn' ha => starts_eq h _ (cmdLogRead_inRange hn hn' ha)
  case svn => exact fun h => ⟨fun hlt => starts_eq h _ (if_pos hlt), fun hle => starts_eq h _ (if_neg (Nat.not_lt.2 hle))⟩
  case query => exact fun h => starts_eq h _ rfl
  case errors =>
    exact fun h => ⟨fun ha hn hn' => starts_eq h _ (cmdErrorRead_records ha hn hn'),
      fun ha hn hn' => starts_eq h _ (cmdErrorRead_slots ha hn hn')⟩
  case fence => exact fun h hu => starts_eq h _ (cmdFence_unit hu q)
  case unfence =>
    exact fun h hidle hu hf =>
      ⟨unfenceRow_starts h hidle true (cmdUnfence_fenced hu hf q true), unfenceRow_starts h hidle false (cmdUnfence_fenced hu hf q false)⟩
  case snapshot => exact fun h => starts_eq h _ rfl

end Sys2Proof.Machine
end

section
/-! ### Freezes, iterations, teardowns, health, telemetry and credit (O51) -/

namespace Sys2Proof.Machine

/-- A fold whose visits change nothing but what a predicate allows, and whose one visit of `p` brings another that the visits after it keep. -/
theorem foldl_visits {f : Dev → Nat → Dev} {p : Nat} {P Q : Dev → Prop} (hbefore : ∀ e k, k ≠ p → P e → P (f e k))
    (hvisit : ∀ e, P e → Q (f e p)) (hafter : ∀ e k, k ≠ p → Q e → Q (f e k)) {l : List Nat} (hl : l.Nodup) (hp : p ∈ l)
    {d : Dev} (hd : P d) : Q (l.foldl f d) := by
  induction l generalizing d with
  | nil => exact absurd hp List.not_mem_nil
  | cons k l ih =>
    obtain ⟨hk, hl⟩ := List.nodup_cons.1 hl
    by_cases hkp : k = p
    · subst hkp
      exact List.foldlRecOn l f (hvisit d hd) fun e he n hn => hafter e n (fun h => hk (h ▸ hn)) he
    · exact ih hl ((List.mem_cons.1 hp).resolve_left (Ne.symm hkp)) (hbefore d k hkp hd)

/-! Freezes (R393). -/

/-- What a freeze does to a core: one that runs a context of what freezes is stopped and saved. -/
def freezeCore (i : Nat) (d : Dev) (k : Nat) : Dev :=
  if (runningCtx d k).1 = i ∧ (ctxSt d (runningCtx d k).1 (runningCtx d k).2).live = true ∧ coreState d k = 1 then preempt d k else d

/-- Rings 1 to 16 of a frozen owner: those that run read frozen. -/
def ringsFrozen (d : Dev) (i : Nat) : Dev :=
  (List.range 16).foldl (fun d q =>
    let k := regMbxRingState i (q + 1)
    if fget d k fldMbxRingStateState = 1 then fset d k fldMbxRingStateState 3 else d) d

theorem freezeDone_settled {d : Dev} {i a : Nat} {c : Cmd} (hfreeze : (instSt d i).freezing = some (a, c)) (hend : (instSt d i).ending = none)
    (hresize : (instSt d i).resize = none) (hreqs : d.trn.reqs = []) :
    freezeDone d i =
      let d1 := (List.range 16).foldl (fun d x => freezeKeys d i x) ((List.range 96).foldl (freezeCore i) d)
      cmdEnd (setInstState (modInst (ringsFrozen d1 i) i (fun s => { s with freezing := none })) i 3) a 0 c 0 := by
  simp only [freezeDone, hfreeze, hend, hresize, hreqs, Option.isSome_none, List.any_nil, Bool.or_self, Bool.false_eq_true, if_false]
  rfl

theorem foldl_freezeCore_idle {d : Dev} (h : ∀ k < 96, coreState d k ≠ 1) (i : Nat) : (List.range 96).foldl (freezeCore i) d = d :=
  List.foldlRecOn (motive := (· = d)) _ _ rfl fun e he k hk => by
    subst he
    exact if_neg fun hk' => h k (List.mem_range.1 hk) hk'.2.2

theorem foldl_freezeKeys_idle {d : Dev} {i : Nat} (h : ∀ k < 16, freezeKeys d i k = d) :
    (List.range 16).foldl (fun d x => freezeKeys d i x) d = d :=
  List.foldlRecOn (motive := (· = d)) _ _ rfl fun e he x hx => by
    subst he
    exact h x (List.mem_range.1 hx)

/-! Iterations (R223, R224, R411, R420). -/

@[simp] theorem ctxSt_modCtx_self (d : Dev) (i x : Nat) (f : CtxSt → CtxSt) : ctxSt (modCtx d i x f) i x = f (ctxSt d i x) :=
  tget_tset_self _ _ _ _

/-- A context at an iteration boundary: it works, and no work, batch or resize is in progress (R221). -/
structure AtBoundary (d : Dev) (i x : Nat) : Prop where
  resize  : (instSt d i).resize = none
  live    : (ctxSt d i x).live = true
  ending  : (ctxSt d i x).ending = none
  destroy : (ctxSt d i x).destroy = none
  queue   : (ctxSt d i x).queue = []
  ready   : instState d i = 2
  thawed  : (instSt d i).freezing = none
  batch   : (ctxSt d i x).batch = []
  placed  : d.waiting.contains (i, x) = false

/-- What an iteration boundary does after the invocations handed on and what they produced (R221, R223). -/
def boundaryEnd (d : Dev) (i x : Nat) : Dev :=
  let d1 := modCtx d i x (fun c => { c with comp := c.pending.getD c.comp, pending := none, iter := c.iter + 1 })
  let d2 := commitReg (leaveLayer d1 i x) regTierPrefetch
  giveBack (passBoundary (settle (modCtx d2 i x (fun c => { c with batch := nextBatch d2 i x })) i x) i x) i x

/-- An iteration boundary ends the iteration when all invocations handed on ran, and stops behind them otherwise. -/
theorem iterationEnd_atBoundary {d d1 : Dev} {i x : Nat} (h : AtBoundary d i x) {runs : List ComposerRun} {all : Bool} {toks : List Nat}
    (hruns : composerRuns i x runs d [] = (d1, all, toks)) (hseqs : all = true → (ctxSt d1 i x).seqs = []) :
    iterationEnd d i x runs = if all then boundaryEnd d1 i x else d1 := by
  obtain ⟨hresize, hlive, hend, hdestroy, hqueue, hready, hthawed, hbatch, hplaced⟩ := h
  have hsame : tryResize d i = d := by simp only [tryResize, hresize]
  have hworks : ¬ (!(ctxSt d i x).live || (ctxSt d i x).ending.isSome || (ctxSt d i x).destroy.isSome || !(ctxSt d i x).queue.isEmpty
      || instState d i != 2 || (instSt d i).freezing.isSome || d.waiting.contains (i, x)) = true := by
    rw [hlive, hend, hdestroy, hqueue, hready, hthawed, hplaced]
    decide
  rw [iterationEnd, hsame, if_neg hworks]
  cases all with
  | false => simp only [hruns]; rfl
  | true => simp only [hruns, hbatch, deliver, hseqs rfl, List.foldl_nil]; rfl

/-- The input of the operator step that the composer hands on, with the ashlars that it finds resident (R224, R273). -/
def handedIn (d : Dev) (i x : Nat) (ps : PlanStep) (r : ComposerRun) : OpIn :=
  { composerIn d i x ps r with ready := noteReady d i (ps.f0 % 65536) (composerIn d i x ps r) }

theorem runOperator_collective {op : Nat} (h : isCollective op = true) (d : Dev) (o : OpIn) : (runOperator d op o).status = 0x3A07 := by
  have hrange : 0x0140 ≤ op ∧ op ≤ 0x0143 := by simpa only [isCollective, Bool.and_eq_true, decide_eq_true_eq] using h
  obtain rfl | rfl | rfl | rfl : op = 0x0140 ∨ op = 0x0141 ∨ op = 0x0142 ∨ op = 0x0143 := by omega
  all_goals rfl

theorem noteReady_collective {op : Nat} (h : isCollective op = true) (d : Dev) (i : Nat) (o : OpIn) : noteReady d i op o = [] := by
  refine if_neg fun hm => ?_
  rw [hm.1] at h
  exact absurd h (by decide)

/-- The counts of a context after a step of its model plan: the next step number, and one invocation more. -/
def stepCounted (n : Nat) (c : CtxSt) : CtxSt :=
  { c with step := n, lastRun := max c.lastRun n, tele := { c.tele with invocations := satAdd 64 c.tele.invocations 1 } }

theorem composerRuns_operator {d : Dev} {i x : Nat} {r : ComposerRun} {ps : PlanStep} (hps : (ctxSt d i x).comp.planSteps[r.step]? = some ps)
    (hgood : composerBad ps (handedIn d i x ps r) = false) :
    let q := runOperator (modCtx d i x (fun c => { c with lastStep := some (ctxSt d i x).step })) (ps.f0 % 65536) (handedIn d i x ps r)
    q.waits = false → q.status = 0 →
      ∃ toks, composerRuns i x [r] d [] = (modCtx q.dev i x (stepCounted (((ctxSt d i x).step + 1) % 2 ^ 64)), true, toks) := by
  intro q hwaits hstatus
  have hown : isCollective (ps.f0 % 65536) = false := Bool.eq_false_iff.2 fun h => by
    have hbad : q.status = 0x3A07 := runOperator_collective h _ _
    omega
  simp only [handedIn] at hgood
  simp only [q, handedIn, composerIn] at hwaits hstatus
  simp only [composerRuns, hps, hgood, hown, Bool.false_eq_true, if_false]
  simp only [composerIn, hwaits, hstatus]
  exact ⟨_, rfl⟩

theorem composerRuns_collective {d : Dev} {i x : Nat} {r : ComposerRun} {ps : PlanStep} (hps : (ctxSt d i x).comp.planSteps[r.step]? = some ps)
    (hcoll : isCollective (ps.f0 % 65536) = true) (hlevel : (ctxSt d i x).level = 3) (hgood : composerBad ps (composerIn d i x ps r) = false) :
    composerRuns i x [r] d [] = (queueRun d i x (ps.f0 % 65536) (composerIn d i x ps r), false, []) := by
  have hready : { composerIn d i x ps r with ready := noteReady d i (ps.f0 % 65536) (composerIn d i x ps r) } = composerIn d i x ps r := by
    rw [noteReady_collective hcoll]
    rfl
  simp only [composerRuns, hps, hready, hgood, hcoll, hlevel]
  rfl

/-! The row of an iteration boundary, by what the composer hands on. -/

theorem iterationRow_batch {d : Dev} {i x : Nat} (h : AtBoundary d i x) (hseqs : (ctxSt d i x).seqs = []) :
    iterationRow d i x [] [] = resumeLater (boundaryEnd d i x) :=
  congrArg resumeLater ((iterationEnd_atBoundary (runs := []) h rfl fun _ => hseqs).trans (if_pos rfl))

theorem iterationRow_operator {d : Dev} {i x : Nat} (h : AtBoundary d i x) {r : ComposerRun} {ps : PlanStep}
    (hps : (ctxSt d i x).comp.planSteps[r.step]? = some ps) (hgood : composerBad ps (handedIn d i x ps r) = false) :
    let q := runOperator (modCtx d i x (fun c => { c with lastStep := some (ctxSt d i x).step })) (ps.f0 % 65536) (handedIn d i x ps r)
    q.waits = false → q.status = 0 → (ctxSt q.dev i x).seqs = [] →
      iterationRow d i x [r.step] [(r.t, r.p)] =
        resumeLater (boundaryEnd (modCtx q.dev i x (stepCounted (((ctxSt d i x).step + 1) % 2 ^ 64))) i x) := by
  intro q hwaits hstatus hseqs
  obtain ⟨toks, hruns⟩ := composerRuns_operator hps hgood hwaits hstatus
  refine congrArg resumeLater ((iterationEnd_atBoundary h hruns fun _ => ?_).trans (if_pos rfl))
  rw [ctxSt_modCtx_self]
  exact hseqs

theorem iterationRow_collective {d : Dev} {i x : Nat} (h : AtBoundary d i x) {r : ComposerRun} {ps : PlanStep}
    (hps : (ctxSt d i x).comp.planSteps[r.step]? = some ps) (hcoll : isCollective (ps.f0 % 65536) = true) (hlevel : (ctxSt d i x).level = 3)
    (hgood : composerBad ps (composerIn d i x ps r) = false) :
    iterationRow d i x [r.step] [(r.t, r.p)] = resumeLater (queueRun d i x (ps.f0 % 65536) (composerIn d i x ps r)) :=
  congrArg resumeLater ((iterationEnd_atBoundary h (composerRuns_collective hps hcoll hlevel hgood) fun h => Bool.noConfusion h).trans
    (if_neg Bool.false_ne_true))

/-! Teardowns (R434, R435). -/

theorem contextTeardown_ending {d : Dev} {i x st seq : Nat} (h : (ctxSt d i x).ending = some (st, seq)) :
    contextTeardown d i x = mapRec (tearContext d i x st seq) seq (fun r => { r with flags := r.flags ||| 4 }) := by
  simp only [contextTeardown, h]

/-- The device with the 17 rings of an owner reset (R435 step 1). -/
def ringsReset (d : Dev) (i : Nat) : Dev := (List.range 17).foldl (fun d q => resetRing d i q) d

theorem ringsReset_keeps (d : Dev) (i : Nat) : (ringsReset d i).ctxs = d.ctxs ∧ (ringsReset d i).insts = d.insts :=
  List.foldlRecOn (motive := fun e : Dev => e.ctxs = d.ctxs ∧ e.insts = d.insts) _ _ ⟨rfl, rfl⟩ fun _ he _ _ => he

/-- What the teardown of its owner does to a context: one that ends is torn down under its own record, a live one under the owner's (R435). -/
def tearOpen (i st seq : Nat) (d : Dev) (x : Nat) : Dev :=
  if (ctxSt d i x).ending.isSome then contextTeardown d i x
  else if (ctxSt d i x).live then tearContext d i x st seq else d

theorem foldl_tearOpen_none {d : Dev} {i : Nat} (h : ∀ k < 16, (ctxSt d i k).live = false ∧ (ctxSt d i k).ending = none) (st seq : Nat) :
    (List.range 16).foldl (tearOpen i st seq) d = d :=
  List.foldlRecOn (motive := (· = d)) _ _ rfl fun e he k hk => by
    subst he
    obtain ⟨hlive, hending⟩ := h k (List.mem_range.1 hk)
    simp only [tearOpen, hlive, hending, Option.isSome_none, Bool.false_eq_true, if_false]

theorem dropFreeze_thawed {d : Dev} {i : Nat} (h : (instSt d i).freezing = none) : dropFreeze d i = d := by
  simp only [dropFreeze, h]

/-- The teardown of an owner without contexts and without a freeze in progress. -/
theorem instanceTeardown_bare {d : Dev} {i st seq : Nat} (hend : (instSt d i).ending = some (st, seq))
    (hctx : ∀ k < 16, (ctxSt d i k).live = false ∧ (ctxSt d i k).ending = none) (hfreeze : (instSt d i).freezing = none) :
    instanceTeardown d i =
      let d1 := dropExports (dropInstRefs (clearInstData (ringsReset d i) i) i) i
      let d2 := modInst (mapRec d1 seq (fun r => { r with flags := r.flags ||| 12 })) i (fun s => { s with ending := none, dirty := false })
      notice (setInstState d2 i (if i = 0 ∨ (instSt d2 i).held = true then 2 else 1)) 0 st seq := by
  obtain ⟨hctxs, hinsts⟩ := ringsReset_keeps d i
  have hnone : (List.range 16).foldl (tearOpen i st seq) (ringsReset d i) = ringsReset d i :=
    foldl_tearOpen_none (by simpa only [ctxSt, hctxs] using hctx) st seq
  have hthawed : dropFreeze (ringsReset d i) i = ringsReset d i := dropFreeze_thawed (by simpa only [instSt, hinsts] using hfreeze)
  have hrow : instanceTeardown d i =
      let d1 := dropFreeze ((List.range 16).foldl (tearOpen i st seq) (ringsReset d i)) i
      let d2 := mapRec (dropExports (dropInstRefs (clearInstData d1 i) i) i) seq (fun r => { r with flags := r.flags ||| 12 })
      let d3 := modInst d2 i (fun s => { s with ending := none, dirty := false })
      notice (setInstState d3 i (if i = 0 ∨ (instSt d3 i).held = true then 2 else 1)) 0 st seq := by
    simp only [instanceTeardown, hend]
    rfl
  rw [hrow, hnone, hthawed]

/-! Records (R427 to R429). -/

theorem drainRecord_first {d : Dev} {r : Rec} {rs : List Rec} (h : d.flt.queue = r :: rs) :
    drainRecord d = modInst (toLog { d with flt := { d.flt with queue := rs } } r) (if r.inst < 65 then r.inst else 0) (fun s =>
      { s with recs := (s.recs ++ [r]).drop (s.recs.length + 1 - 1024)
               tele := { s.tele with lastSeq := r.seq, records := satAdd 64 s.tele.records 1 } }) := by
  simp only [drainRecord, h]

/-! Health (R441 to R443). -/

/-- The registers that say whether a part is in service, and the damping of the scores. -/
def HealthReg (k : Nat) : Prop :=
  k = regMgtFhFencedLo ∨ k = regMgtFhFencedHi ∨ k = regMgtFhScore ∨ ∃ c < 32, k = regFlsChState c

/-- A device that differs from another in its records alone, and not in the registers that health rests on. -/
def HealthStep (d t : Dev) : Prop := OnlyRecords d t ∧ ∀ k, HealthReg k → getReg t k = getReg d k

theorem HealthStep.refl (d : Dev) : HealthStep d d := ⟨.refl d, fun _ _ => rfl⟩

theorem HealthStep.trans {d t u : Dev} (h : HealthStep d t) (k : HealthStep t u) : HealthStep d u :=
  ⟨h.1.trans k.1, fun n hn => (k.2 n hn).trans (h.2 n hn)⟩

theorem HealthStep.of_flt (d : Dev) (f : FaultSt) : HealthStep d { d with flt := f } := ⟨⟨_, _, _, _, rfl⟩, fun _ _ => rfl⟩

theorem lt_of_partKind_flash {p : Nat} (h : partKind p = 4) : p - 416 < 32 := by
  refine Nat.lt_of_not_le fun hp => ?_
  rw [partKind, if_neg (by omega), if_neg (by omega), if_neg (by omega), if_neg (by omega), if_neg (by omega)] at h
  split at h <;> omega

theorem HealthStep.inService {d t : Dev} (h : HealthStep d t) (p : Nat) : inService t p = inService d p := by
  obtain ⟨honly, hregs⟩ := h
  have hlo := hregs _ (.inl rfl)
  have hhi := hregs _ (.inr (.inl rfl))
  unfold Machine.inService
  split
  case h_3 hk =>
    simp only [fget, hregs _ (.inr (.inr (.inr ⟨_, lt_of_partKind_flash hk, rfl⟩)))]
  all_goals simp only [coreOn, coreFenced, keyOn, keyFenced, honly.env, honly.pier, hlo, hhi]

theorem HealthStep.damp {d t : Dev} (h : HealthStep d t) : fget t regMgtFhScore fldMgtFhScoreDamp = fget d regMgtFhScore fldMgtFhScoreDamp := by
  rw [fget, fget, h.2 _ (.inr (.inr (.inl rfl)))]

/-- A device with the badness and the weights of another. -/
def SameHealth (d t : Dev) : Prop := t.flt.bad = d.flt.bad ∧ t.flt.weight = d.flt.weight

theorem SameHealth.trans {d t u : Dev} (h : SameHealth d t) (k : SameHealth t u) : SameHealth d u := ⟨k.1.trans h.1, k.2.trans h.2⟩

theorem showStatus_health (d : Dev) (r : Rec) : SameHealth d (showStatus d r) := by
  unfold showStatus
  split <;> exact ⟨rfl, rfl⟩

theorem countNesting_health (d : Dev) (r : Rec) : SameHealth d (countNesting d r) := by
  unfold countNesting
  split
  · exact ⟨rfl, rfl⟩
  · dsimp only
    split <;> exact ⟨rfl, rfl⟩

theorem enqueueRec_health (d : Dev) (r : Rec) : SameHealth d (enqueueRec d r) := by
  unfold enqueueRec
  split <;> exact ⟨rfl, rfl⟩

theorem fileRec_health (d : Dev) (r : Rec) : SameHealth d (fileRec d r) := by
  unfold fileRec
  split
  · split
    · exact ⟨rfl, rfl⟩
    · dsimp only
      split
      · exact enqueueRec_health d r
      · exact enqueueRec_health d r
  · exact enqueueRec_health d r

/-- A record that charges no part leaves badness and weights (R441). -/
theorem record_health (d : Dev) {r : Rec} (h : recordCharge r = none) : SameHealth d (record d r) := by
  have hsame : chargeRecord d r = d := by simp only [chargeRecord, h]
  rw [record, hsame]
  exact ((showStatus_health d r).trans (countNesting_health _ r)).trans (fileRec_health _ _)

theorem recordCharge_advice {r : Rec} {kind : Nat} (h : r.status = adviceStatus kind) : recordCharge r = none := by
  unfold adviceStatus at h
  split at h <;> simp only [recordCharge, h]

/-- The record of an advice shows in the last status of a block, which no health register is. -/
theorem lastStatusOf_advice {r : Rec} {kind k : Nat} (h : r.status = adviceStatus kind) (hk : HealthReg k) : ∀ x ∈ lastStatusOf r, k ≠ x.1 := by
  have hbyte : detByte r.detail 0 < 256 := Nat.mod_lt _ (by decide)
  intro x hx
  have hreg : x.1 = regMgtFhStatus ∨ x.1 = regPierStatus (detByte r.detail 0) ∨ x.1 = regTrnStatus ∨ x.1 = regFhuStatus ∨ x.1 = regTierStatus
      ∨ x.1 = regMgtStatus := by
    unfold adviceStatus at h
    split at h <;> simp [lastStatusOf, h] at hx <;> simp [← hx]
  simp only [HealthReg, regMgtFhFencedLo, regMgtFhFencedHi, regMgtFhScore, regFlsChState] at hk
  simp only [regMgtFhStatus, regPierStatus, regTrnStatus, regFhuStatus, regTierStatus, regMgtStatus] at hreg
  obtain hk | hk | hk | ⟨c, hc, hk⟩ := hk <;> omega

theorem HealthReg.ne_records {k : Nat} (h : HealthReg k) : k ≠ regMgtFhRecords := by
  obtain rfl | rfl | rfl | ⟨c, hc, rfl⟩ := h
  case inr.inr.inr =>
    unfold regFlsChState regMgtFhRecords
    omega
  all_goals decide

theorem setAdvice_step (d : Dev) (p code : Nat) : HealthStep d (setAdvice d p code) :=
  (HealthStep.of_flt d _).trans ⟨record_only _ _, fun _ hk => getReg_record_ne _ _ hk.ne_records (lastStatusOf_advice rfl hk)⟩

theorem setAdvice_health (d : Dev) (p code : Nat) : SameHealth d (setAdvice d p code) := record_health _ (recordCharge_advice rfl)

/-- A part with the weight of the second taken into its badness (R442). -/
def weighed (d : Dev) (p : Nat) : Dev :=
  let f := d.flt
  let step (b w : Nat) := b - b / 2 ^ fget d regMgtFhScore fldMgtFhScoreDamp + w / 16
  if tget 0 f.bad p = 0 ∧ tget 0 f.weight p = 0 then d
  else { d with flt := { f with
    bad := tset f.bad p (step (tget 0 f.bad p) (tget 0 f.weight p))
    weight := tset f.weight p (tget 0 f.weight p % 16)
    retr := if tget 0 f.retr p = 0 ∧ tget 0 f.wRetr p = 0 then f.retr else tset f.retr p (step (tget 0 f.retr p) (tget 0 f.wRetr p))
    wRetr := if tget 0 f.wRetr p = 0 then f.wRetr else tset f.wRetr p (tget 0 f.wRetr p % 16) } }

/-- A part whose advice follows its score (R443). -/
def advised (d : Dev) (p : Nat) : Dev :=
  let many := p = partMgt ∧ 8 < fencedCount d
  if tget 0 d.flt.advice p = 0 then
    if (partScore d p < fget d regMgtFhScore fldMgtFhScoreAdviseLo ∨ many) ∧ adviceFor d p ≠ 0 then setAdvice d p (adviceFor d p) else d
  else if fget d regMgtFhScore fldMgtFhScoreAdviseHi ≤ partScore d p ∧ !many then setAdvice d p 0
  else d

theorem healthPart_inService {d : Dev} {p : Nat} (h : inService d p = true) : healthPart d p = advised (weighed d p) p := by
  simp only [healthPart, h]
  rfl

theorem healthPart_away {d : Dev} {p : Nat} (h : inService d p = false) :
    healthPart d p = { d with flt := { d.flt with
      weight := tdel d.flt.weight p, wRetr := tdel d.flt.wRetr p, advice := tdel d.flt.advice p } } := by
  simp only [healthPart, h]
  rfl

theorem advised_cases (d : Dev) (p : Nat) : advised d p = d ∨ ∃ code, advised d p = setAdvice d p code := by
  unfold advised
  dsimp only
  split <;> split
  · exact .inr ⟨_, rfl⟩
  · exact .inl rfl
  · exact .inr ⟨_, rfl⟩
  · exact .inl rfl

theorem advised_kept (d : Dev) (p : Nat) : HealthStep d (advised d p) ∧ SameHealth d (advised d p) := by
  obtain h | ⟨code, h⟩ := advised_cases d p <;> rw [h]
  · exact ⟨.refl d, rfl, rfl⟩
  · exact ⟨setAdvice_step d p code, setAdvice_health d p code⟩

theorem weighed_step (d : Dev) (p : Nat) : HealthStep d (weighed d p) := by
  unfold weighed
  dsimp only
  split
  · exact .refl d
  · exact .of_flt d _

theorem tget_tdel_ne {α : Type} (x : α) (t : Tbl α) {k j : Nat} (h : j ≠ k) : tget x (tdel t k) j = tget x t j := by
  simp only [tget, tget?, find?_tdel t h]

theorem weighed_ne (d : Dev) {p k : Nat} (h : p ≠ k) :
    tget 0 (weighed d k).flt.bad p = tget 0 d.flt.bad p ∧ tget 0 (weighed d k).flt.weight p = tget 0 d.flt.weight p := by
  unfold weighed
  dsimp only
  split
  · exact ⟨rfl, rfl⟩
  · exact ⟨tget_tset_ne _ _ h _, tget_tset_ne _ _ h _⟩

theorem weighed_self (d : Dev) (p : Nat) : tget 0 (weighed d p).flt.bad p =
    tget 0 d.flt.bad p - tget 0 d.flt.bad p / 2 ^ fget d regMgtFhScore fldMgtFhScoreDamp + tget 0 d.flt.weight p / 16 := by
  unfold weighed
  dsimp only
  split
  next h => simp [h.1, h.2]
  next => exact tget_tset_self _ _ _ _

theorem healthPart_step (d : Dev) (k : Nat) : HealthStep d (healthPart d k) := by
  cases h : inService d k with
  | true =>
    rw [healthPart_inService h]
    exact (weighed_step d k).trans (advised_kept _ k).1
  | false =>
    rw [healthPart_away h]
    exact .of_flt d _

theorem healthPart_ne (d : Dev) {p k : Nat} (h : p ≠ k) :
    tget 0 (healthPart d k).flt.bad p = tget 0 d.flt.bad p ∧ tget 0 (healthPart d k).flt.weight p = tget 0 d.flt.weight p := by
  cases hk : inService d k with
  | true =>
    obtain ⟨hbad, hweight⟩ := (advised_kept (weighed d k) k).2
    rw [healthPart_inService hk, hbad, hweight]
    exact weighed_ne d h
  | false =>
    rw [healthPart_away hk]
    exact ⟨rfl, tget_tdel_ne _ _ h⟩

theorem healthSecond_step (d : Dev) : HealthStep d (healthSecond d) :=
  List.foldlRecOn (motive := HealthStep d) _ _ (.refl d) fun e he k _ => he.trans (healthPart_step e k)

/-- A device in the second of `d` in which part `p` is not visited yet. -/
structure Unvisited (d : Dev) (p : Nat) (e : Dev) : Prop where
  step   : HealthStep d e
  bad    : tget 0 e.flt.bad p = tget 0 d.flt.bad p
  weight : tget 0 e.flt.weight p = tget 0 d.flt.weight p

theorem Unvisited.healthPart {d e : Dev} {p k : Nat} (h : Unvisited d p e) (hk : p ≠ k) : Unvisited d p (healthPart e k) :=
  ⟨h.step.trans (healthPart_step e k), (healthPart_ne e hk).1.trans h.bad, (healthPart_ne e hk).2.trans h.weight⟩

/-- At a second the badness of a part in service decays and takes the weight of the second (R442). -/
theorem healthSecond_bad {d : Dev} {p : Nat} (hp : p < 453) (h : inService d p = true) : tget 0 (healthSecond d).flt.bad p =
    tget 0 d.flt.bad p - tget 0 d.flt.bad p / 2 ^ fget d regMgtFhScore fldMgtFhScoreDamp + tget 0 d.flt.weight p / 16 := by
  refine foldl_visits (p := p) (P := Unvisited d p) (Q := fun e => tget 0 e.flt.bad p = _)
    (fun e k hk he => he.healthPart hk.symm) ?_ (fun e k hk he => (healthPart_ne e hk.symm).1.trans he)
    List.nodup_range (List.mem_range.2 hp) ⟨.refl d, rfl, rfl⟩
  rintro e ⟨hstep, hbad, hweight⟩
  rw [healthPart_inService ((hstep.inService p).trans h), (advised_kept _ p).2.1, weighed_self, hstep.damp, hbad, hweight]

/-! Credit (R410). -/

/-- The credit of one owner at a tick: its accrual is added up to ten of them. -/
def creditPart (d : Dev) (i : Nat) : Dev :=
  let a := accrual d i
  if a = 0 then d else setCredit d i (max (min (credit d i) (10 * a)) (min (10 * a) (credit d i + a)))

theorem creditTick_eq (d : Dev) : creditTick d = (List.range 65).foldl creditPart d := rfl

theorem creditPart_insts (d : Dev) (i : Nat) : (creditPart d i).insts = d.insts := by
  unfold creditPart
  dsimp only
  split <;> rfl

theorem credit_creditPart_ne (d : Dev) {i j : Nat} (h : j ≠ i) : credit (creditPart d i) j = credit d j := by
  unfold creditPart
  dsimp only
  split
  · rfl
  · exact fget_fset_ne d (by unfold regMbxCredit; omega) _ _ _

theorem credit_creditPart_self {d : Dev} {i : Nat} (hcap : credit d i ≤ 10 * accrual d i) (hfits : 10 * accrual d i < 2 ^ fldMbxCreditCredit.w) :
    credit (creditPart d i) i = min (10 * accrual d i) (credit d i + accrual d i) := by
  unfold creditPart
  dsimp only
  split
  next h => omega
  next h =>
    refine (fget_fset_self (by decide) d _ _).trans ((Nat.mod_eq_of_lt ?_).trans ?_) <;> omega

theorem accrual_of_insts {d e : Dev} (h : e.insts = d.insts) (i : Nat) : accrual e i = accrual d i := by
  rw [accrual, accrual, instSt, instSt, h]

theorem credit_creditTick {d : Dev} {j : Nat} (hj : j < 65) (hcap : credit d j ≤ 10 * accrual d j)
    (hfits : 10 * accrual d j < 2 ^ fldMbxCreditCredit.w) : credit (creditTick d) j = min (10 * accrual d j) (credit d j + accrual d j) := by
  rw [creditTick_eq]
  refine foldl_visits (f := creditPart) (p := j) (P := fun e => e.insts = d.insts ∧ credit e j = credit d j)
    (Q := fun e => credit e j = min (10 * accrual d j) (credit d j + accrual d j)) ?_ ?_ ?_ List.nodup_range (List.mem_range.2 hj) ⟨rfl, rfl⟩
  · rintro e k hk ⟨hinsts, hcredit⟩
    exact ⟨(creditPart_insts e k).trans hinsts, (credit_creditPart_ne e hk.symm).trans hcredit⟩
  · rintro e ⟨hinsts, hcredit⟩
    have hacc := accrual_of_insts hinsts j
    rw [credit_creditPart_self (by rwa [hcredit, hacc]) (by rwa [hacc]), hcredit, hacc]
  · exact fun e k hk he => (credit_creditPart_ne e hk.symm).trans he

/-! The end of a resize (R221, R407). -/

theorem resizeTimeout_eq {d : Dev} {i at_ : Nat} {p : Part} {c : Cmd} (hresize : (instSt d i).resize = some (p, at_, c))
    (hused : memFree d i (instSt d i).part p = false) :
    resizeTimeout d i = if at_ + 800000000 ≤ tb2 d
      then cmdEnd (modInst d i (fun s => { s with part := joinPart s.part p, resize := none, due := [] })) 0 0 c 0x3A0A else d := by
  simp only [resizeTimeout, hresize, hused, and_true]

/-- Settles O51: the equation of each event under the conditions in which it acts; a fold over parts or over owners visits each one once. -/
theorem teardowns : Obligations.Teardowns := by
  unfold Obligations.Teardowns
  intro s i x hr d y
  refine ⟨?freeze, ?iteration, ?context, ?unit, ?drain, ?health, fun vs => onDev_runs hr fun d => telemetry d vs, ?credit, ?resize⟩
  case freeze =>
    intro a c hfreeze hend hresize hreqs hcores hkeys d1
    refine onDev_eq hr (fun d => freezeDone d i) ((freezeDone_settled hfreeze hend hresize hreqs).trans ?_)
    rw [foldl_freezeCore_idle hcores, foldl_freezeKeys_idle hkeys]
    rfl
  case iteration =>
    intro hresize hlive hend hdestroy hqueue hready hthawed hbatch hplaced fin
    have hat : AtBoundary d i x := ⟨hresize, hlive, hend, hdestroy, hqueue, hready, hthawed, hbatch, hplaced⟩
    refine ⟨?batch, ?operator, ?collective⟩
    case batch => exact fun hseqs => onDev_eq hr (fun d => iterationRow d i x [] []) (iterationRow_batch hat hseqs)
    case operator =>
      intro r ps hps o0 o q hgood hwaits hstatus hseqs n
      exact onDev_eq hr (fun d => iterationRow d i x [r.step] [(r.t, r.p)]) (iterationRow_operator hat hps hgood hwaits hstatus hseqs)
    case collective =>
      intro r ps hps hcoll hlevel o hgood
      exact onDev_eq hr (fun d => iterationRow d i x [r.step] [(r.t, r.p)]) (iterationRow_collective hat hps hcoll hlevel hgood)
  case context => exact fun st seq h => onDev_eq hr (fun d => contextTeardown d i x) (contextTeardown_ending h)
  case unit =>
    intro st seq hend hctx hfreeze d1 d2
    exact onDev_eq hr (fun d => resumeLater (instanceTeardown d i)) (congrArg resumeLater (instanceTeardown_bare hend hctx hfreeze))
  case drain => exact fun n r rs hqueue => onDev_eq hr (fun d => drainRecord (sramFixed n d)) (drainRecord_first hqueue)
  case health =>
    refine ⟨withDev s (healthSecond d), onDev_runs hr healthSecond, (healthSecond_step d).1.mem, fun p hp h => ?_⟩
    simpa only using healthSecond_bad hp h
  case credit =>
    refine ⟨withDev s (creditTick d), onDev_runs hr creditTick, fun j hcap hfits => ?_⟩
    simpa only using credit_creditTick j.isLt hcap hfits
  case resize =>
    intro p at_ c hresize hused
    have hrow := resizeTimeout_eq hresize hused
    exact ⟨fun hdue => onDev_eq hr (fun d => resizeTimeout d i) (hrow.trans (if_pos hdue)),
      fun hearly => onDev_eq hr (fun d => resizeTimeout d i) (hrow.trans (if_neg (Nat.not_le.2 hearly)))⟩

end Sys2Proof.Machine
end

section
/-! ### Commands of the device, its instances, jobs and exports (O56) -/

namespace Sys2Proof.Machine

/-! Registers (R405). -/

theorem cmdRegRead_inSpace {d : Dev} {q : Nat} {c : Cmd} (hok : regAccessOk (c.arg 0) (c.arg 1) = true) (hoff : c.arg 0 < regSpaceEnd) :
    cmdRegRead d q c =
      let k := regSlice (c.arg 0) (c.arg 1)
      cmdEnd (readReg d k.1).2 0 q c 0 ((readReg d k.1).1 / 2 ^ k.2 % 2 ^ c.arg 1) := by
  rw [cmdRegRead, if_neg (by simp [hok]), if_neg (Nat.not_le.2 hoff)]

theorem cmdRegWrite_managed {d : Dev} {q : Nat} {c : Cmd} {r : RegDesc} (hok : regAccessOk (c.arg 0) (c.arg 1) = true)
    (hval : c.arg 2 < 2 ^ c.arg 1) (hmask : c.arg 3 < 2 ^ c.arg 1) (hoff : c.arg 0 < regSpaceEnd)
    (hreg : regAt (regSlice (c.arg 0) (c.arg 1)).1 = some r) (hmay : managerMay r (c.arg 3 * 2 ^ (regSlice (c.arg 0) (c.arg 1)).2) = true) :
    cmdRegWrite d q c =
      let k := regSlice (c.arg 0) (c.arg 1)
      cmdEnd (regWrite d k.1 (c.arg 3 * 2 ^ k.2) (c.arg 2 * 2 ^ k.2)) 0 q c 0 := by
  have hargs : ¬ (!regAccessOk (c.arg 0) (c.arg 1) || decide (2 ^ c.arg 1 ≤ c.arg 2) || decide (2 ^ c.arg 1 ≤ c.arg 3)) = true := by
    simp [hok, hval, hmask]
  rw [cmdRegWrite, if_neg hargs, if_neg (Nat.not_le.2 hoff)]
  simp only [hreg, hmay, Bool.not_true, Bool.false_eq_true, if_false]

/-! Partitions (R220, R221, R391, R407). -/

/-- The partition that PARTITION_SET names, with its mortar data regions. -/
def namedPart (d : Dev) (c : Cmd) (regs : Nat) : Part := { (parsePart d c).1 with regions := regs }

/-- What PARTITION_SET asks for is in range, and the units it adds, the credit rate and the flash share are free (R220, R407). -/
structure PartitionFits (d : Dev) (j : Nat) (c : Cmd) (regs : Nat) : Prop where
  settled : (instSt d j).resize = none
  args    : (parsePart d c).2 = true
  chosen  : (if c.arg 6 ≠ 0 then some (hostNat d (c.arg 6) 32)
              else chooseRegions d j (instSt d j).part.regions (bitsAt (c.arg 1) 49 9)) = some regs
  count   : c.arg 6 ≠ 0 → (bitList 256 regs).length = bitsAt (c.arg 1) 49 9
  cores   : (addedBits 96 (instSt d j).part.cores (namedPart d c regs).cores).all (coreFree d j) = true
  keys    : (addedBits 4 (instSt d j).part.keys (namedPart d c regs).keys).all (keyFree d j) = true
  regions : (addedBits 256 (instSt d j).part.regions regs).all (regionFree d j) = true
  pages   : ((namedPart d c regs).pages.filter (fun n => !(instSt d j).part.pages.contains n)).all (pageFree d j) = true
  rates   : j ≠ 0 → ((List.range 65).map (fun k => if k = 0 ∨ k = j then 0 else promised d k (·.rate))).foldl (· + ·) 0
              + (namedPart d c regs).rate ≤ 1500
  shares  : ((List.range 65).map (fun k => if k = j then 0 else promised d k (·.share))).foldl (· + ·) 0
              + (namedPart d c regs).share ≤ 64

/-- The device with a first partition given to a bare owner, the telemetry cleared (R221). -/
def firstPart (d : Dev) (j : Nat) (new : Part) : Dev :=
  (List.range 16).foldl (fun d x => modCtx d j x (fun y => { y with tele := {} }))
    (modInst d j (fun s => { s with part := new, held := true, tele := {} }))

/-- The device when a resize from `old` to `new` begins: the contexts with work are due a boundary, and loans of what leaves end (R221). -/
def resizeBegun (d : Dev) (j : Nat) (old new : Part) : Dev :=
  endLoans (modInst d j (fun s => { s with held := true, due := (List.range 16).filter (ctxBusy d j) })) j old new

theorem newRate_bare {i : Nat} (hi : i ≠ 0) (d : Dev) (old new : Nat) : newRate d i old new true = setCredit d i (10 * new) := by
  simp [newRate, hi]

theorem resizeReady_iff (d : Dev) (j : Nat) (new : Part) :
    resizeReady d j new = true ↔ (∀ x ∈ (instSt d j).due, ctxBusy d j x = false) ∧ unitsIdle d (instSt d j).part new = true ∧
      memFree d j (instSt d j).part new = true := by
  simp [resizeReady, and_assoc]

theorem cmdPartition_fits {d : Dev} {j : Nat} {c : Cmd} {regs : Nat} (h : PartitionFits d j c regs) (q : Nat) :
    cmdPartition d q j c =
      let new := namedPart d c regs
      let d1 := addUnits d j (instSt d j).part new
      let e2 := resizeBegun d1 j (instSt d j).part new
      if instState d1 j = 1 then cmdEnd (newRate (setInstState (firstPart d1 j new) j 2) j 0 new.rate true) 0 q c 0
      else if resizeReady e2 j new = true then cmdEnd (takePart e2 j new) 0 q c 0
      else modInst e2 j (fun s => { s with resize := some (new, tb2 e2, c) }) := by
  obtain ⟨hresize, hargs, hchosen, hcount, hcores, hkeys, hregions, hpages, hrates, hshares⟩ := h
  have hmap : ¬ (c.arg 6 ≠ 0 ∧ (bitList 256 (hostNat d (c.arg 6) 32)).length ≠ bitsAt (c.arg 1) 49 9) := by
    rintro ⟨h6, hne⟩
    rw [if_pos h6] at hchosen
    exact hne (Option.some.inj hchosen ▸ hcount h6)
  have hfree := Bool.and_eq_true_iff.2 ⟨Bool.and_eq_true_iff.2 ⟨Bool.and_eq_true_iff.2 ⟨hcores, hkeys⟩, hregions⟩, hpages⟩
  simp only [cmdPartition, hresize, hargs, Option.isSome_none, Bool.not_true, Bool.false_eq_true, if_false, if_neg hmap, hchosen]
  refine if_neg ?_
  rintro (h | ⟨hj, h⟩ | h)
  · exact absurd (h.symm.trans (congrArg not hfree)) (by decide)
  · exact absurd (hrates hj) (Nat.not_le.2 h)
  · exact absurd hshares (Nat.not_le.2 h)

theorem cmdRelease_held {d : Dev} {j : Nat} (hj : j ≠ 0) (hheld : (instSt d j).held = true) (hresize : (instSt d j).resize = none)
    (hst : instState d j = 3 ∨ (instState d j = 2 ∧ ∀ x < 16, (ctxSt d j x).live = false)) (q : Nat) (c : Cmd) :
    cmdRelease d q j c = cmdEnd (releaseInst d j) 0 q c 0 := by
  rw [cmdRelease]
  refine if_neg ?_
  rintro (h | h | ⟨h2, h⟩ | ⟨h2, h3⟩ | h)
  · exact hj h
  · simp [hheld] at h
  · obtain h3 | ⟨-, hlive⟩ := hst
    · omega
    · simp at h
      obtain ⟨x, hx, hl⟩ := h
      simp [hlive x hx] at hl
  · omega
  · simp [hresize] at h

/-! Windows, segments and lending (R203, R378, R381). -/

theorem cmdWindow_inRange {d : Dev} {q j : Nat} {c : Cmd} (hn : c.arg 0 < 16) (hp : c.arg 1 < 2 ^ 20) (hal : c.arg 3 % 4096 = 0)
    (hlen : c.arg 3 ≤ 2 ^ 36) (hend : c.arg 2 + c.arg 3 ≤ 2 ^ 64) :
    cmdWindow d q j c = cmdEnd (modInst d j (fun s => { s with
      windows := if c.arg 3 = 0 then tdel s.windows (c.arg 0)
        else tset s.windows (c.arg 0) { pasid := c.arg 1, base := c.arg 2, len := c.arg 3 } })) 0 q c 0 := by
  rw [cmdWindow, if_neg (by omega)]

theorem cmdBar2Map_inRange {d : Dev} {q j : Nat} {c : Cmd} (hn : c.arg 0 < 64) (hbase : c.arg 1 < 2 ^ 40) (hseg : c.arg 1 % segBytes d j = 0)
    (hal : c.arg 1 % 4194304 = 0) (hflags : c.arg 2 < 4) (hend : c.arg 1 + segBytes d j ≤ mortarEnd) :
    cmdBar2Map d q j c =
      let k := regHostBar2Seg j (c.arg 0)
      let d1 := fset (fset d k fldHostBar2SegBase (c.arg 1 / 4194304)) k fldHostBar2SegWrite (b2n (bitOf (c.arg 2) 0))
      cmdEnd (commitReg (fset d1 k fldHostBar2SegValid (b2n (bitOf (c.arg 2) 1))) k) 0 q c 0 := by
  rw [cmdBar2Map, if_neg (by omega)]

theorem cmdLendSet_inRange {d : Dev} {q : Nat} {c : Cmd} (h : c.arg 1 ≤ 1) :
    cmdLendSet d q c =
      let m := c.arg 0 + c.arg 1 * 2 ^ 64
      let d1 := (List.range 65).foldl (fun d k => modInst d k (fun s => { s with borrower := bitOf m k })) d
      cmdEnd { d1 with sp := { d1.sp with borrowers := bitList 65 m } } 0 q c 0 := by
  rw [cmdLendSet, if_neg (Nat.not_lt.2 h)]

/-! Time exchanges (R345). -/

/-- The record of a TIME_EXCHANGE. -/
abbrev exchBytes (d : Dev) (c : Cmd) : List Byte := hostRead d (c.arg 1) 96

/-- The domain and the record of a TIME_EXCHANGE are in range, and the domain takes its time from exchanges (R345). -/
structure ExchangeOk (d : Dev) (c : Cmd) : Prop where
  domain   : c.arg 0 < 2
  source   : domSource d (c.arg 0) = 2
  times    : ∀ o ∈ [0x00, 0x10, 0x20, 0x30], fieldLe (exchBytes d c) (o + 6) 2 = 0 ∧ fieldLe (exchBytes d c) (o + 8) 8 < 1000000000 * 65536
  changed  : fieldLe (exchBytes d c) 0x5D 1 < 2
  reserved : fieldLe (exchBytes d c) 0x5E 2 = 0

/-- The device with the parent and the class of a TIME_EXCHANGE shown; a changed parent ends holdover. -/
def parentTaken (d : Dev) (c : Cmd) : Dev :=
  let bs := exchBytes d c
  let k := c.arg 0
  let d1 := showDom (modDom d k (fun x => { x with parent := some (0, fieldLe bs 0x50 8, fieldLe bs 0x58 2), cls := fieldLe bs 0x5C 1 })) k
  if fieldLe bs 0x5D 1 = 1 ∧ (domState d1 k = 3 ∨ domState d1 k = 4) then setDomState d1 k 2 else d1

/-- A time stamp of the device in the record of a TIME_EXCHANGE, placed by the Sync captured at `p`. -/
def placedTime (d : Dev) (c : Cmd) (p : Int) (off : Nat) : Int :=
  p + (recTime (exchBytes d c) off - fieldLe (exchBytes d c) 0x10 6 * (1000000000 * 65536))

/-- The exchange that a TIME_EXCHANGE hands over with the Sync captured at `p`. -/
def handedExch (d : Dev) (c : Cmd) (p : Int) : Exch :=
  { t1 := recTime (exchBytes d c) 0, t2 := placedTime d c p 0x10, t3 := placedTime d c p 0x20, t4 := recTime (exchBytes d c) 0x30
    c1 := toSigned 64 (fieldLe (exchBytes d c) 0x40 8), c2 := toSigned 64 (fieldLe (exchBytes d c) 0x48 8) }

theorem ExchangeOk.refusals {d : Dev} {c : Cmd} (h : ExchangeOk d c) :
    ¬ 2 ≤ c.arg 0 ∧ ¬ domSource d (c.arg 0) ≠ 2 ∧
    ¬ (([0x00, 0x10, 0x20, 0x30].any (fun o => fieldLe (exchBytes d c) (o + 6) 2 != 0
        || decide (1000000000 * 65536 ≤ fieldLe (exchBytes d c) (o + 8) 8))) = true ∨
      2 ≤ fieldLe (exchBytes d c) 0x5D 1 ∨ fieldLe (exchBytes d c) 0x5E 2 ≠ 0) := by
  obtain ⟨hdom, hsrc, htimes, hchanged, hres⟩ := h
  refine ⟨Nat.not_le.2 hdom, not_not_intro hsrc, ?_⟩
  rintro (h | h | h)
  · obtain ⟨o, ho, hbad⟩ := List.any_eq_true.1 h
    obtain ⟨hsec, hns⟩ := htimes o ho
    simp [hsec, Nat.not_le.2 hns] at hbad
  · exact absurd hchanged (Nat.not_lt.2 h)
  · exact h hres

theorem cmdTimeExchange_uncaptured {d : Dev} {c : Cmd} (h : ExchangeOk d c) (hcapt : (domSt (parentTaken d c) (c.arg 0)).capt = none) (q : Nat) :
    cmdTimeExchange d q c = cmdEnd (parentTaken d c) 0 q c 0 := by
  obtain ⟨hdom, hsrc, hrec⟩ := h.refusals
  rw [cmdTimeExchange, if_neg hdom, if_neg hrec, if_neg hsrc]
  simp only [parentTaken] at hcapt ⊢
  simp only [hcapt]

theorem cmdTimeExchange_captured {d : Dev} {c : Cmd} {p : Int} (h : ExchangeOk d c) (hcapt : (domSt (parentTaken d c) (c.arg 0)).capt = some p)
    (hon : domEnabled (parentTaken d c) (c.arg 0) = true)
    (hnew : domNow (parentTaken d c) (c.arg 0) - placedTime d c p 0x10 ≤ 2 * 1000000000 * 65536) (q : Nat) :
    cmdTimeExchange d q c = cmdEnd (addExch (parentTaken d c) (c.arg 0) (handedExch d c p)) 0 q c 0 := by
  obtain ⟨hdom, hsrc, hrec⟩ := h.refusals
  have htake : ¬ ((!domEnabled (parentTaken d c) (c.arg 0)) = true ∨
      2 * 1000000000 * 65536 < domNow (parentTaken d c) (c.arg 0) - placedTime d c p 0x10) := by
    rintro (h | h)
    · simp [hon] at h
    · exact Int.not_lt.2 hnew h
  rw [cmdTimeExchange, if_neg hdom, if_neg hrec, if_neg hsrc]
  simp only [parentTaken] at hcapt htake ⊢
  simp only [hcapt]
  exact if_neg htake

/-! Jobs and exports (R319, R321, R499). -/

theorem cmdJobRegister_free {d : Dev} {q : Nat} {c : Cmd} (h0 : 0 < c.arg 0) (hn : c.arg 0 < 2 ^ 20) (hset : c.arg 2 ≤ 1)
    (hfree : (tget {} d.jobs (c.arg 0)).live = false) :
    cmdJobRegister d q c = cmdEnd { d with
      jobs := tset d.jobs (c.arg 0) { insts := c.arg 1 + c.arg 2 * 2 ^ 64, live := true }
      trn := { d.trn with deadJobs := d.trn.deadJobs.filter (· != c.arg 0) } } 0 q c 0 := by
  rw [cmdJobRegister, if_neg (by omega), if_neg (by simp [hfree])]

theorem cmdJobRelease_unused {d : Dev} {q : Nat} {c : Cmd} (h0 : 0 < c.arg 0) (hn : c.arg 0 < 2 ^ 20)
    (hlive : (tget {} d.jobs (c.arg 0)).live = true) (hctx : ∀ p ∈ liveCtxs d, (ctxSt d p.1 p.2).job ≠ c.arg 0) :
    cmdJobRelease d q c = cmdEnd { d with jobs := tdel d.jobs (c.arg 0) } 0 q c 0 := by
  have hused : (liveCtxs d).any (fun p => (ctxSt d p.1 p.2).job == c.arg 0) = false := List.any_eq_false.2 fun p hp => by simpa using hctx p hp
  rw [cmdJobRelease, if_neg (by omega), if_neg (by simp only [hlive, hused]; decide)]

theorem cmdExport_cleared {d : Dev} {q : Nat} {c : Cmd} (hn : c.arg 0 < 256) (hlen : c.arg 2 = 0) :
    cmdExport d q c = cmdEnd { d with trn := { d.trn with exports := tdel d.trn.exports (c.arg 0) } } 0 q c 0 := by
  rw [cmdExport, if_neg (Nat.not_le.2 hn), if_pos hlen]

/-- The entry that EXPORT_SET names (R321). -/
def namedExport (c : Cmd) : Export :=
  { base := c.arg 1, len := c.arg 2, job := bitsAt (c.arg 3) 0 20, inst := bitsAt (c.arg 3) 20 7, rights := bitsAt (c.arg 3) 28 3 }

theorem cmdExport_named {d : Dev} {q m : Nat} {c : Cmd} (hn : c.arg 0 < 256) (hlen : c.arg 2 ≠ 0) (hbits : c.arg 3 < 2 ^ 31)
    (hres : bitsAt (c.arg 3) 27 1 = 0) (hjob : (namedExport c).job ≠ 0) (hinst : (namedExport c).inst ≤ 64)
    (hm : exportAlign (c.arg 1) (c.arg 2) (namedExport c).inst = some m) (hbase : c.arg 1 % m = 0) (hend : c.arg 2 % m = 0)
    (hlive : (tget {} d.jobs (namedExport c).job).live = true) :
    cmdExport d q c = cmdEnd { d with trn := { d.trn with exports := tset d.trn.exports (c.arg 0) (namedExport c) } } 0 q c 0 := by
  simp only [namedExport] at hjob hinst hm hlive
  rw [cmdExport, if_neg (Nat.not_le.2 hn), if_neg hlen]
  simp only [hm, hbase, hend, hres, hjob, hlive, Nat.not_lt.2 hinst, Nat.not_le.2 hbits]
  rfl

theorem cmdChoice_live {d : Dev} {i q : Nat} {c : Cmd} (hn : c.arg 0 < 2 ^ 20) (hlive : (tget {} d.jobs (c.arg 0)).live = true) :
    cmdChoice d i q c = cmdEnd d i q c 0 (tget {} d.jobs (c.arg 0)).choice := by
  rw [cmdChoice, if_neg (Nat.not_le.2 hn), if_neg (by simp [hlive])]

/-- Settles O56: the meaning of each command under the conditions in which nothing refuses it. -/
theorem commandsDevice : Obligations.CommandsDevice := by
  unfold Obligations.CommandsDevice
  intro s i q c d j a ends frees
  refine ⟨fun h => starts_eq h _ rfl, fun h => starts_eq h _ rfl, ?read, ?write, ?partition, ?release, ?window, ?segment, ?lend, ?exchange,
    ?register, ?unregister, ?clear, ?name, ?choice⟩
  case read => exact fun h hok hoff => starts_eq h _ (cmdRegRead_inSpace hok hoff)
  case write => exact fun r h hok hval hmask hoff hreg hmay => starts_eq h _ (cmdRegWrite_managed hok hval hmask hoff hreg hmay)
  case partition =>
    intro regs h hresize hargs hchosen hcount old new hcores hkeys hregions hpages hrates hshares d1 d2 d3 due e2
    have hfits : PartitionFits d j c regs := ⟨hresize, hargs, hchosen, hcount, hcores, hkeys, hregions, hpages, hrates, hshares⟩
    have hrow := cmdPartition_fits hfits q
    refine ⟨fun hbare hj => starts_eq h _ ?_, fun hheld hnow => starts_eq h _ ?_, fun hheld hnow => starts_eq h _ ?_⟩
    · rw [← newRate_bare hj _ 0]
      exact congrArg resumeLater (hrow.trans (if_pos hbare))
    · exact congrArg resumeLater (hrow.trans ((if_neg hheld).trans (if_pos ((resizeReady_iff e2 j new).2 hnow))))
    · exact congrArg resumeLater (hrow.trans ((if_neg hheld).trans (if_neg (mt (resizeReady_iff e2 j new).1 hnow))))
  case release => exact fun h hj hheld hresize hst => starts_eq h _ (congrArg resumeLater (cmdRelease_held hj hheld hresize hst q c))
  case window => exact fun h hn hp hal hlen hend => starts_eq h _ (cmdWindow_inRange hn hp hal hlen hend)
  case segment => exact fun h hn hbase hseg hal hflags hend => starts_eq h _ (cmdBar2Map_inRange hn hbase hseg hal hflags hend)
  case lend => exact fun h ha => starts_eq h _ (cmdLendSet_inRange ha)
  case exchange =>
    intro k p h hk hdom hsrc bs htimes hchanged hres
    subst hk
    have hok : ExchangeOk d c := ⟨hdom, hsrc, htimes, hchanged, hres⟩
    exact ⟨fun hcapt => starts_eq h _ (cmdTimeExchange_uncaptured hok hcapt q),
      fun hcapt hon hnew => starts_eq h _ (cmdTimeExchange_captured hok hcapt hon hnew q)⟩
  case register => exact fun h h0 hn hset hfree => starts_eq h _ (cmdJobRegister_free h0 hn hset hfree)
  case unregister => exact fun h h0 hn hlive hctx => starts_eq h _ (cmdJobRelease_unused h0 hn hlive hctx)
  case clear => exact fun h hn hlen => starts_eq h _ (cmdExport_cleared hn hlen)
  case name =>
    intro m h hn hlen hbits hres e hjob hinst hm hbase hend hlive
    exact starts_eq h _ (cmdExport_named hn hlen hbits hres hjob hinst hm hbase hend hlive)
  case choice => exact fun h hn hlive => starts_eq h _ (cmdChoice_live hn hlive)

end Sys2Proof.Machine
end

section
/-! ### Commands of sets, ashlars and contexts (O57) -/

namespace Sys2Proof.Machine

/-! Sets (R266, R267, R276). -/

theorem cmdSetCreate_new {d : Dev} {q : Nat} {c : Cmd} (hn : c.arg 0 < 4096) (hshared : c.arg 1 ≤ 1) (howner : c.arg 2 ≤ 64)
    (hnew : tget? d.tier.sets (c.arg 0) = none) :
    cmdSetCreate d q c =
      cmdEnd (modTier (putSet d (c.arg 0) {}) (fun t => { t with sets := tset t.sets (c.arg 0) (c.arg 1 == 1, c.arg 2) })) 0 q c 0 := by
  rw [cmdSetCreate, if_neg (by omega), if_neg (by simp [hnew])]

/-- Owner `k` is granted set `s`, and a revocation of that grant in progress is given up (R267). -/
def grantSet (s : Nat) (d : Dev) (k : Nat) : Dev :=
  putSet (modTier d (fun t => { t with revoke := t.revoke.filter (· != s * 128 + k) })) s
    { getSet d s with grant := setBits (getSet d s).grant k 1 1 }

/-- The revocation of a grant of set `s` begins, and ends at once when no reference is held (R267). -/
def revokeSet (s : Nat) (d : Dev) (k : Nat) : Dev :=
  if bitOf (getSet d s).grant k = true then settleRevoke (modTier d (fun t => { t with revoke := natPut t.revoke (s * 128 + k) })) s k else d

theorem cmdSetGrant_shared {d : Dev} {q : Nat} {c : Cmd} (hn : c.arg 0 < 4096) (hmap : c.arg 2 ≤ 1) (hact : c.arg 3 ≤ 1)
    (hshared : (tget (false, 0) d.tier.sets (c.arg 0)).1 = true) (hdel : (getSet d (c.arg 0)).deleting = false) :
    cmdSetGrant d q c =
      cmdEnd ((bitList 65 (c.arg 1 + c.arg 2 * 2 ^ 64)).foldl (if c.arg 3 = 1 then grantSet (c.arg 0) else revokeSet (c.arg 0)) d) 0 q c 0 := by
  rw [cmdSetGrant, if_neg (by omega), if_neg (by simp [hshared, hdel])]
  by_cases h : c.arg 3 = 1
  · simp only [if_pos h]
    rfl
  · simp only [if_neg h]
    rfl

theorem cmdSetDelete_live {d : Dev} {q : Nat} {c : Cmd} (hn : c.arg 0 < 4096) (hset : (tget? d.tier.sets (c.arg 0)).isSome = true)
    (hdel : (getSet d (c.arg 0)).deleting = false) :
    cmdSetDelete d q c =
      let es := d.tier.live.filter (fun k => (getAsh d k).set == c.arg 0)
      let d1 := es.foldl freeEntry (putSet d (c.arg 0) { getSet d (c.arg 0) with deleting := true })
      cmdEnd (if es = [] then modTier (putSet d1 (c.arg 0) {}) (fun t => { t with sets := tdel t.sets (c.arg 0) }) else d1) 0 q c 0 := by
  rw [cmdSetDelete, if_neg (Nat.not_le.2 hn), if_neg (by simp [← Option.not_isSome, hset, hdel])]

/-! Ashlars (R264, R268, R276, R280). -/

/-- The load that ASHLAR_LOAD names. -/
def namedLoad (d : Dev) (c : Cmd) : LoadJob :=
  let own := tget (false, 0) d.tier.sets (c.arg 0)
  { set := c.arg 0, layout := bitsAt (c.arg 3) 4 4, size := c.arg 3 % 2, shared := own.1, owner := own.2, pierOnly := c.arg 5 == 1
    first := c.arg 1, n := c.arg 2 }

/-- The ashlars that ASHLAR_LOAD names. -/
abbrev namedAshlars (c : Cmd) : List Nat := rangeFrom (c.arg 1) (c.arg 2)

/-- The arguments of ASHLAR_LOAD are in range, its set is one that the issuer may load, and its entries are free or lost (R264, R276). -/
structure LoadFits (d : Dev) (i : Nat) (c : Cmd) : Prop where
  set     : c.arg 0 < 4096
  some    : 0 < c.arg 2
  many    : c.arg 2 ≤ 65536
  last    : c.arg 1 + c.arg 2 ≤ ashMax
  bits    : c.arg 3 < 256
  zero    : bitsAt (c.arg 3) 1 3 = 0
  layout  : bitsAt (c.arg 3) 4 4 ≤ 6
  target  : c.arg 5 ≤ 1
  live    : (tget? d.tier.sets (c.arg 0)).isSome = true
  kept    : (getSet d (c.arg 0)).deleting = false
  owned   : i = 0 ∨ ((tget (false, 0) d.tier.sets (c.arg 0)).1 = false ∧ (tget (false, 0) d.tier.sets (c.arg 0)).2 = i)
  entries : ∀ k ∈ namedAshlars c, (getAsh d k).integ = 0 ∨ (getAsh d k).integ = 3

/-- The device with the ashlars of a load written, or nothing when space is short. -/
def loadWritten (j : LoadJob) (bs : List Byte) (d : Dev) : Option Dev :=
  if j.pierOnly then (List.range j.n).foldl (fun o k => o.bind (fun d => loadPier j bs d k)) (some d) else loadFlash j bs d

theorem loadAll_written {j : LoadJob} {bs : List Byte} {d d1 : Dev} (h : loadWritten j bs ((rangeFrom j.first j.n).foldl clearLost d) = some d1) :
    loadAll j bs d = some (((rangeFrom j.first j.n).flatMap (askersOf d)).foldl (fun d r => (ask d r).1)
      (putSet d1 j.set { getSet d1 j.set with count := (getSet d1 j.set).count + j.n })) :=
  congrArg (Option.map _) h

theorem cmdAshlarLoad_fits {d d1 : Dev} {i src : Nat} {c : Cmd} (h : LoadFits d i c)
    (hsrc : iovaKey d i (c.arg 4) (c.arg 2 * (namedLoad d c).len) = some src)
    (hload : loadAll (namedLoad d c) (memRead d.hmem src (c.arg 2 * (namedLoad d c).len)) d = some d1) (q : Nat) :
    cmdAshlarLoad d i q c = cmdEnd d1 i q c 0 (c.arg 2) := by
  obtain ⟨hset, hsome, hmany, hlast, hbits, hzero, hlayout, htarget, hlive, hkept, howned, hentries⟩ := h
  have hfree : (namedAshlars c).find? (fun a => (getAsh d a).integ != 0 && (getAsh d a).integ != 3) = none :=
    List.find?_eq_none.2 fun k hk => by
      obtain h | h := hentries k hk <;> simp [h]
  simp only [namedLoad] at hsrc hload
  rcases hown : tget (false, 0) d.tier.sets (c.arg 0) with ⟨shared, owner⟩
  simp only [hown] at hsrc hload howned
  have hnone : ¬ (tget? d.tier.sets (c.arg 0)).isNone = true := by simp [← Option.not_isSome, hlive]
  have hmine : ¬ (i ≠ 0 ∧ (shared = true ∨ owner ≠ i)) := by
    rintro ⟨hi, hs⟩
    obtain ⟨hfalse, howner⟩ := howned.resolve_left hi
    exact hs.elim (by simp [hfalse]) fun hne => hne howner
  simp only [cmdAshlarLoad, hown]
  rw [if_neg (by omega)]
  simp only [if_neg hnone, if_neg hmine, hkept, Bool.false_eq_true, if_false, hfree, hsrc, hload]

/-- The arguments of ASHLAR_HOLD are in range. -/
structure HoldArgsOk (c : Cmd) : Prop where
  some : 0 < c.arg 1
  many : c.arg 1 ≤ 4096
  last : c.arg 0 + c.arg 1 ≤ ashMax
  tier : c.arg 2 ≤ 1

theorem cmdAshlarHold_promoted {d d1 : Dev} {i : Nat} {c : Cmd} (h : HoldArgsOk c) (hact : c.arg 3 ≤ 1)
    (hall : holdAll i (c.arg 2) (c.arg 3 == 1) (rangeFrom (c.arg 0) (c.arg 1)) d = (d1, none)) (q : Nat) :
    cmdAshlarHold d i q c = cmdEnd d1 i q c 0 := by
  obtain ⟨hsome, hmany, hlast, htier⟩ := h
  rw [cmdAshlarHold, if_neg (by omega), if_pos hact]
  simp only [hall]

theorem cmdAshlarHold_given {d : Dev} {i : Nat} {c : Cmd} (h : HoldArgsOk c) (hact : c.arg 3 = 2 ∨ c.arg 3 = 3) (q : Nat) :
    cmdAshlarHold d i q c = cmdEnd ((rangeFrom (c.arg 0) (c.arg 1)).foldl (fun d a =>
      if holdsRef d i a (c.arg 2) then (if c.arg 3 = 2 then unpin d i a (c.arg 2) else dropRef d i a (c.arg 2)) else d) d) i q c 0 := by
  obtain ⟨hsome, hmany, hlast, htier⟩ := h
  rw [cmdAshlarHold, if_neg (by omega), if_neg (by omega)]

/-! Contexts (R223, R369, R370, R419, R421). -/

theorem cmdCreate_fresh {d : Dev} {i q : Nat} {c : Cmd} (hok : createErr d i (q - 1) c = 0) (h5 : c.arg 5 = 0) :
    cmdCreate d i q c = cmdEnd (modCtx d i (q - 1) (fun y => newCtx c y.tele)) i q c 0 := by
  rw [cmdCreate, if_neg (not_not_intro hok), if_pos h5]
  rfl

/-- The context records of a saved state that stand at the step a CONTEXT_CREATE names. -/
def savedCtxs (c : Cmd) (rs : List ReadRec) : List ReadRec := rs.filter (fun r => r.type == 4 && fieldLe r.payload 0x10 8 == c.arg 3)

/-- The saved state that a CONTEXT_CREATE reads fits its owner (R397, R421). -/
structure ReplayFits (d : Dev) (i : Nat) (bufs : List (List ReadRec)) : Prop where
  ended   : endOk bufs = true
  header  : (recOf bufs.flatten 1).isSome = true
  version : fieldLe (payOf bufs.flatten 1) 4 2 ≤ 0x0300
  places  : placesOk d i bufs.flatten = true
  windows : ∀ w ∈ savedWindows (payOf bufs.flatten 2), (tget? (instSt d i).windows w.1).isSome = true

theorem cmdCreate_restored {d : Dev} {i q : Nat} {c : Cmd} {bufs : List (List ReadRec)} {r : ReadRec} {refs : List (Nat × Nat)}
    (hok : createErr d i (q - 1) c = 0) (h5 : c.arg 5 ≠ 0) (hread : readBufs d.hmem (bufList d (c.arg 4) (c.arg 5)) = some bufs)
    (hfits : ReplayFits d i bufs)
    (hpick : ((savedCtxs c bufs.flatten).find? (fun r => r.target == q - 1)).or (savedCtxs c bufs.flatten).head? = some r)
    (hrefs : mapRefs d i (fun s => s) (payOf bufs.flatten 5) = some refs) :
    cmdCreate d i q c =
      cmdEnd (loadReplay (loadRefs (loadPlaces d bufs.flatten) i refs) i (q - 1) r (newCtx c (ctxSt d i (q - 1)).tele)) i q c 0 := by
  obtain ⟨hend, hhead, hver, hplaces, hwin⟩ := hfits
  have hmapped : (savedWindows (payOf bufs.flatten 2)).any (fun w => (tget? (instSt d i).windows w.1).isNone) = false :=
    List.any_eq_false.2 fun w hw => by simp [← Option.not_isSome, hwin w hw]
  have hnone : (recOf bufs.flatten 1).isNone = false := by rw [← Option.not_isSome, hhead]; rfl
  rw [cmdCreate, if_neg (not_not_intro hok), if_neg h5]
  simp only [savedCtxs] at hpick
  cases hfind : (bufs.flatten.filter (fun r => r.type == 4 && fieldLe r.payload 0x10 8 == c.arg 3)).find? (fun r => r.target == q - 1) with
  | some r' =>
    rw [hfind, Option.some_or, Option.some.injEq] at hpick
    subst hpick
    simp only [hread, hfind, hrefs, hend, hnone, hplaces, hmapped, Nat.not_lt.2 hver]
    rfl
  | none =>
    rw [hfind, Option.none_or] at hpick
    simp only [hread, hfind, hpick, hrefs, hend, hnone, hplaces, hmapped, Nat.not_lt.2 hver]
    rfl

/-- The parameters that COMPOSER_SET names, with its plan read. -/
def namedComposer (c : Cmd) (steps : List PlanStep) : Composer :=
  { decodeCap := c.arg 0, chunk := c.arg 1, prefillChunks := c.arg 2, schedule := c.arg 3, entries := c.arg 4, plan := c.arg 5
    planSteps := steps, planCount := c.arg 6 }

/-- The arguments of COMPOSER_SET are in range (R223). -/
structure ComposerArgsOk (c : Cmd) : Prop where
  decode   : 0 < c.arg 0
  decodes  : c.arg 0 ≤ 4096
  aligned  : c.arg 1 % 256 = 0
  chunk    : 256 ≤ c.arg 1
  chunks   : c.arg 1 ≤ 4096
  prefill  : c.arg 2 ≤ 16
  entries  : c.arg 4 ≤ 1048576
  steps    : c.arg 6 ≤ 4096

theorem cmdComposer_read {d : Dev} {i q : Nat} {c : Cmd} {steps : List PlanStep} (hargs : ComposerArgsOk c)
    (hacc : accessErr d (.ctx i (q - 1)) false (c.arg 5) (32 * c.arg 6) = none)
    (hplan : readPlan d (ctxSt d i (q - 1)).level (c.arg 5) (c.arg 6) 0 [] = (steps, 0)) :
    cmdComposer d i q c = cmdEnd (modCtx d i (q - 1) (fun y => { y with pending := some (namedComposer c steps) })) i q c 0 := by
  obtain ⟨hdecode, hdecodes, hal, hchunk, hchunks, hprefill, hentries, hsteps⟩ := hargs
  rw [cmdComposer, if_neg (by omega)]
  simp only [hacc, hplan]
  rfl

/-! Sequences (R420). -/

/-- The sequence that SEQ_SUBMIT adds; `rk` is the key of its ring. -/
def namedSeq (c : Cmd) (rk : Nat) : SeqSt :=
  { id := c.arg 0, tokens := c.arg 1, count := c.arg 2, maxNew := c.arg 3, ring := c.arg 4, k := c.arg 5 % 32, vector := bitsAt (c.arg 5) 16 12
    endTok := if bitOf (c.arg 6) 32 = true then some (bitsAt (c.arg 6) 0 32) else none, pasid := rk / 2 ^ 64 - 1 }

/-- The arguments of SEQ_SUBMIT are in range (R420). -/
structure SeqArgsOk (i : Nat) (c : Cmd) : Prop where
  some    : 0 < c.arg 2
  count   : c.arg 2 ≤ 2 ^ 32
  wanted  : 0 < c.arg 3
  limit   : c.arg 3 < 2 ^ 32
  aligned : c.arg 4 % 4096 = 0
  ringMin : 4 ≤ c.arg 5 % 32
  ringMax : c.arg 5 % 32 ≤ 16
  zero    : bitsAt (c.arg 5) 5 11 = 0
  bits    : c.arg 5 < 2 ^ 28
  vector  : bitsAt (c.arg 5) 16 12 < (if i = 0 then 2048 else 64)
  word    : c.arg 6 < 2 ^ 33
  token   : bitOf (c.arg 6) 32 = true ∨ c.arg 6 = 0

theorem cmdSeqSubmit_new {d : Dev} {i q tk rk : Nat} {c : Cmd} (hargs : SeqArgsOk i c)
    (hnew : ∀ t ∈ (ctxSt d i (q - 1)).seqs, t.id ≠ c.arg 0) (htk : iovaKey d i (c.arg 1) (4 * c.arg 2) = some tk)
    (hrk : iovaKey d i (c.arg 4) (64 + 16 * 2 ^ (c.arg 5 % 32)) = some rk) :
    cmdSeqSubmit d i q c = cmdEnd (makeRoom (modCtx (ringPut d i (namedSeq c rk) 0 (seqHeader (namedSeq c rk) 0 0)).1 i (q - 1)
      (fun y => { y with seqs := y.seqs ++ [namedSeq c rk] })) i (q - 1)) i q c 0 := by
  obtain ⟨hsome, hcount, hwanted, hlimit, hal, hmin, hmax, hzero, hbits, hvec, hword, htok⟩ := hargs
  have hend : ¬ ((!bitOf (c.arg 6) 32) = true ∧ c.arg 6 ≠ 0) := fun h => htok.elim (fun hb => by simp [hb] at h) h.2
  have hfresh : ¬ (ctxSt d i (q - 1)).seqs.any (fun s => s.id == c.arg 0) = true := by simpa using hnew
  rw [cmdSeqSubmit, if_neg (by simp only [hend, or_false]; omega), if_neg hfresh]
  simp only [htk, hrk]
  rfl

theorem cmdSeqCancel_active {d : Dev} {i q : Nat} {c : Cmd} (h : ∃ t ∈ (ctxSt d i (q - 1)).seqs, t.id = c.arg 0 ∧ t.cancel = none) :
    cmdSeqCancel d i q c = modCtx d i (q - 1) (fun y =>
      { y with seqs := y.seqs.map (fun t => if t.id == c.arg 0 then { t with cancel := some c } else t) }) := by
  have hany : (ctxSt d i (q - 1)).seqs.any (fun s => s.id == c.arg 0 && s.cancel.isNone) = true := by simpa using h
  rw [cmdSeqCancel, hany]
  rfl

/-! Invocations, plans and replay (R364, R370, R411, R418). -/

theorem cmdInvoke_checked {d : Dev} {i q : Nat} {c : Cmd}
    (h : preCheck d i (q - 1) (c.arg 0) (c.arg 1) ((c.args.drop 2).take 4) (c.arg 6) = 0) :
    cmdInvoke d i q c =
      let v : Inv := { op := c.arg 0 % 65536, tensor := bitsAt (c.arg 0) 16 32, attr := c.arg 1, a := c.args.drop 2
                       step := (ctxSt d i (q - 1)).step, cmd := some c, since := tb2 d }
      settle (makeRoom (modCtx d i (q - 1) (fun y => { y with queue := y.queue ++ [v], step := (y.step + 1) % 2 ^ 64 })) i (q - 1)) i (q - 1) := by
  rw [cmdInvoke, if_neg (not_not_intro h)]

theorem cmdPlanRun_read {d : Dev} {i q : Nat} {c : Cmd} {steps : List PlanStep} (hn : 0 < c.arg 3) (hn' : c.arg 3 ≤ 4096)
    (hacc : accessErr d (.ctx i (q - 1)) false (c.arg 2) (32 * c.arg 3) = none)
    (hplan : readPlan d (ctxSt d i (q - 1)).level (c.arg 2) (c.arg 3) 0 [] = (steps, 0)) :
    cmdPlanRun d i q c =
      let n := (ctxSt d i (q - 1)).step
      let v : Inv := { op := 0, tensor := 0, attr := 0, a := [], step := n, cmd := some c, isPlan := true, plan := steps, next := n, since := tb2 d }
      let k := max 1 (steps.filter (fun p => p.kind == 1)).length
      settle (makeRoom (modCtx d i (q - 1) (fun y => { y with queue := y.queue ++ [v], step := (y.step + k) % 2 ^ 64 })) i (q - 1)) i (q - 1) := by
  rw [cmdPlanRun, if_neg (by omega)]
  simp only [hacc, hplan]

theorem replayTarget_replay {d : Dev} {i q : Nat} {c : Cmd} (h : (ctxSt d i (q - 1)).replay = true) :
    replayTarget d i q c =
      let x := q - 1
      let d1 := modCtx d i x (fun y => { y with waitRep := y.waitRep ++ [(c.arg 0, c)] })
      let d2 := settle (if (ctxSt d i x).waitRep = [] then activateReplay i x 1 d1 else d1) i x
      if (ctxSt d i x).replayTo = 0 ∧ (ctxSt d2 i x).replayTo ≠ 0 then settle (thawCtx d2 i x) i x else d2 := by
  have hrow : cmdReplay d i q c = settle (if (ctxSt d i (q - 1)).waitRep = []
      then activateReplay i (q - 1) 1 (modCtx d i (q - 1) (fun y => { y with waitRep := y.waitRep ++ [(c.arg 0, c)] }))
      else modCtx d i (q - 1) (fun y => { y with waitRep := y.waitRep ++ [(c.arg 0, c)] })) i (q - 1) := by
    simp only [cmdReplay, h, Bool.not_true, Bool.false_eq_true, if_false, List.isEmpty_iff]
  rw [replayTarget, hrow]

/-- Settles O57: the meaning of each command under the conditions in which nothing refuses it. -/
theorem commandsContexts : Obligations.CommandsContexts := by
  unfold Obligations.CommandsContexts
  intro s i q c d x a goes ends
  refine ⟨?create, ?grant, ?delete, ?load, ?hold, ?fresh, ?restore, fun h => starts_eq h _ rfl, ?composer, ?submit, ?cancel, ?invoke, ?plan,
    fun h => starts_eq h _ rfl, fun h hrep => starts_eq h _ (replayTarget_replay hrep)⟩
  case create => exact fun h hn hshared howner hnew => starts_eq h _ (cmdSetCreate_new hn hshared howner hnew)
  case grant => exact fun h hn hmap hact hshared hdel => starts_eq h _ (cmdSetGrant_shared hn hmap hact hshared hdel)
  case delete => exact fun h hn hset hdel => starts_eq h _ (congrArg resumeLater (cmdSetDelete_live hn hset hdel))
  case load =>
    intro src d1 h hset hsome hmany hlast hbits hzero hlayout htarget hlive hkept own j as d0 howned hentries hsrc bs hwritten
    have hfits : LoadFits d i c := ⟨hset, hsome, hmany, hlast, hbits, hzero, hlayout, htarget, hlive, hkept, howned, hentries⟩
    have hload : loadWritten j bs d0 = some d1 := by simpa only [loadWritten, j, beq_iff_eq] using hwritten
    exact starts_eq h _ (congrArg resumeLater (cmdAshlarLoad_fits hfits hsrc (loadAll_written hload) q))
  case hold =>
    intro d1 h hsome hmany hlast htier as
    have hok : HoldArgsOk c := ⟨hsome, hmany, hlast, htier⟩
    refine ⟨fun hact hall => starts_eq h _ (congrArg resumeLater (cmdAshlarHold_promoted hok hact hall q)),
      fun (hact : c.arg 3 = 2) => ?_, fun (hact : c.arg 3 = 3) => ?_⟩
    · have hrow := cmdAshlarHold_given (d := d) (i := i) hok (.inl hact) q
      simp only [hact, if_true] at hrow
      exact starts_eq h _ (congrArg resumeLater hrow)
    · have hrow := cmdAshlarHold_given (d := d) (i := i) hok (.inr hact) q
      simp only [hact] at hrow
      exact starts_eq h _ (congrArg resumeLater hrow)
  case fresh => exact fun h hok h5 => starts_eq h _ (cmdCreate_fresh hok h5)
  case restore =>
    intro bufs r refs h hok h5 hread hend rs hhead fits hpick hrefs hver hplaces hwin
    exact starts_eq h _ (cmdCreate_restored hok h5 hread ⟨hend, hhead, hver, hplaces, hwin⟩ hpick hrefs)
  case composer =>
    intro steps h hdecode hdecodes hal hchunk hchunks hprefill hentries hsteps hacc hplan
    exact starts_eq h _ (cmdComposer_read ⟨hdecode, hdecodes, hal, hchunk, hchunks, hprefill, hentries, hsteps⟩ hacc hplan)
  case submit =>
    intro tk rk h hsome hcount hwanted hlimit hal hmin hmax hzero hbits hvec hword htok hnew htk hrk
    have hargs : SeqArgsOk i c := ⟨hsome, hcount, hwanted, hlimit, hal, hmin, hmax, hzero, hbits, hvec, hword, htok⟩
    exact starts_eq h _ (cmdSeqSubmit_new hargs hnew htk hrk)
  case cancel => exact fun h hseq => starts_eq h _ (cmdSeqCancel_active hseq)
  case invoke => exact fun h hpre => starts_eq h _ (cmdInvoke_checked hpre)
  case plan => exact fun steps h hn hn' hacc hplan => starts_eq h _ (cmdPlanRun_read hn hn' hacc hplan)

end Sys2Proof.Machine
end

section
/-! ### The piers' address map (O28) -/

namespace Sys2Proof.Machine

/-- A field is the bits of the number under a mask of its width. -/
theorem bitsAt_eq_and (v lo w : Nat) : bitsAt v lo w = v >>> lo &&& (2 ^ w - 1) :=
  (Nat.and_two_pow_sub_one_eq_mod _ _).symm

theorem xor_cancel (x a : Nat) : x ^^^ a ^^^ a = x := by
  rw [Nat.xor_assoc, Nat.xor_self, Nat.xor_zero]

/-- What two numbers changed by exclusive or, they change back in the same order. -/
theorem xor_twice_cancel (x a b : Nat) : x ^^^ a ^^^ b ^^^ a ^^^ b = x := by
  rw [Nat.xor_assoc x a b, Nat.xor_comm a b, ← Nat.xor_assoc x b a, xor_cancel, xor_cancel]

theorem bitsAt_eq_div (v lo w : Nat) : bitsAt v lo w = v / 2 ^ lo % 2 ^ w := by
  rw [bitsAt, Nat.shiftRight_eq_div_pow]

/-- The pier-window offset whose bits 38 to 36 are `top`, 35 to 13 `hi`, 12 to 8 `low` and 7 to 0 `r`. -/
def offsetOf (top hi low r : Nat) : Nat := top * 2 ^ 36 + hi * 8192 + low * 256 + r

/-- Every offset of the window is put together from its four parts. -/
theorem offsetOf_parts {o : Nat} (ho : o < 2 ^ 39) : ∃ top hi low r, top < 8 ∧ hi < 2 ^ 23 ∧ low < 32 ∧ r < 256 ∧ o = offsetOf top hi low r :=
  ⟨o / 2 ^ 36, o / 8192 % 2 ^ 23, o / 256 % 32, o % 256, by omega, by omega, by omega, by omega, by rw [offsetOf]; omega⟩

theorem offsetOf_mod (top hi low : Nat) {r : Nat} (hr : r < 256) : offsetOf top hi low r % 256 = r := by
  rw [offsetOf]
  omega

theorem pierMap_offsetOf {top hi low r : Nat} (ht : top < 8) (hh : hi < 2 ^ 23) (hl : low < 32) (hr : r < 256) : pierMap (offsetOf top hi low r) =
    (top ^^^ hi / 256 % 8, hi / 256, low ^^^ hi % 32 ^^^ hi / 32 % 32, (hi * 256 + r) / 2048, (hi * 256 + r) % 2048 / 64) := by
  have h1 : bitsAt (offsetOf top hi low r) 36 3 = top := by rw [bitsAt_eq_div, offsetOf]; omega
  have h2 : bitsAt (offsetOf top hi low r) 21 3 = hi / 256 % 8 := by rw [bitsAt_eq_div, offsetOf]; omega
  have h3 : bitsAt (offsetOf top hi low r) 21 15 = hi / 256 := by rw [bitsAt_eq_div, offsetOf]; omega
  have h4 : bitsAt (offsetOf top hi low r) 8 5 = low := by rw [bitsAt_eq_div, offsetOf]; omega
  have h5 : bitsAt (offsetOf top hi low r) 13 5 = hi % 32 := by rw [bitsAt_eq_div, offsetOf]; omega
  have h6 : bitsAt (offsetOf top hi low r) 18 5 = hi / 32 % 32 := by rw [bitsAt_eq_div, offsetOf]; omega
  have h7 : bitsAt (offsetOf top hi low r) 13 23 = hi := by rw [bitsAt_eq_div, offsetOf]; omega
  simp only [pierMap, h1, h2, h3, h4, h5, h6, h7, offsetOf_mod top hi low hr]

/-- An offset is found again from its pier, channel, row and half-line, and its place in the half-line. -/
theorem rowAddr_parts (top hi low : Nat) {r : Nat} (hr : r < 256) :
    rowAddr (top ^^^ hi / 256 % 8) (low ^^^ hi % 32 ^^^ hi / 32 % 32) ((hi * 256 + r) / 2048) ((hi * 256 + r) % 2048 / 64) +
      offsetOf top hi low r % 64 = offsetOf top hi low r := by
  have hoff : (hi * 256 + r) / 2048 * 2048 + (hi * 256 + r) % 2048 / 64 * 64 = hi * 256 + r / 64 * 64 := by omega
  have hdiv : (hi * 256 + r / 64 * 64) / 256 = hi := by omega
  have hmod : (hi * 256 + r / 64 * 64) % 256 = r / 64 * 64 := by omega
  have hbyte : offsetOf top hi low r % 64 = r % 64 := by
    rw [← Nat.mod_mod_of_dvd _ (by decide : 64 ∣ 256), offsetOf_mod top hi low hr]
  simp only [rowAddr, hoff, hdiv, hmod, hbyte]
  generalize hi / 256 % 8 = a
  generalize hi / 32 % 32 = b
  generalize hi % 32 = c
  rw [xor_twice_cancel, xor_cancel, offsetOf, Nat.add_assoc, Nat.div_add_mod']

/-- The half-line of an offset, found again from its place in the channel. -/
theorem rowAddr_pierMap {o : Nat} (ho : o < 2 ^ 39) :
    rowAddr (pierMap o).1 (pierMap o).2.2.1 (pierMap o).2.2.2.1 (pierMap o).2.2.2.2 + o % 64 = o := by
  obtain ⟨top, hi, low, r, ht, hh, hl, hr, rfl⟩ := offsetOf_parts ho
  rw [pierMap_offsetOf ht hh hl hr]
  exact rowAddr_parts top hi low hr

section
variable {p ch row half : Nat}

/-- The place of a row's half-line in its four parts. -/
theorem rowAddr_eq_offsetOf (p ch row half : Nat) : rowAddr p ch row half =
    offsetOf (p ^^^ (row * 8 + half / 4) / 256 % 8) (row * 8 + half / 4)
      (ch ^^^ (row * 8 + half / 4) % 32 ^^^ (row * 8 + half / 4) / 32 % 32) (half % 4 * 64) := by
  have hdiv : (row * 2048 + half * 64) / 256 = row * 8 + half / 4 := by omega
  have hmod : (row * 2048 + half * 64) % 256 = half % 4 * 64 := by omega
  simp only [rowAddr, hdiv, hmod, offsetOf]

variable (hp : p < 8) (hc : ch < 32) (hr : row < 2 ^ 20) (hf : half < 32)
include hp hc hr hf

/-- A pier, channel, row and half-line name an offset that the map takes back to them; its page is the row's. -/
theorem pierMap_rowAddr : pierMap (rowAddr p ch row half) = (p, row / 32, ch, row, half) := by
  have hh : row * 8 + half / 4 < 2 ^ 23 := by omega
  rw [rowAddr_eq_offsetOf p ch row half, pierMap_offsetOf (Nat.xor_lt_two_pow (n := 3) hp (by omega)) hh
    (Nat.xor_lt_two_pow (n := 5) (Nat.xor_lt_two_pow (n := 5) hc (by omega)) (by omega)) (by omega)]
  refine Prod.ext ?_ (Prod.ext ?_ (Prod.ext ?_ (Prod.ext ?_ ?_)))
  · exact xor_cancel ..
  · show (row * 8 + half / 4) / 256 = row / 32
    omega
  · exact xor_twice_cancel ..
  · show ((row * 8 + half / 4) * 256 + half % 4 * 64) / 2048 = row
    omega
  · show ((row * 8 + half / 4) * 256 + half % 4 * 64) % 2048 / 64 = half
    omega

theorem rowAddr_lt : rowAddr p ch row half < 2 ^ 39 := by
  have htop := Nat.xor_lt_two_pow (n := 3) hp (show (row * 8 + half / 4) / 256 % 8 < 2 ^ 3 by omega)
  have hlow := Nat.xor_lt_two_pow (n := 5) (Nat.xor_lt_two_pow (n := 5) hc (show (row * 8 + half / 4) % 32 < 2 ^ 5 by omega))
    (show (row * 8 + half / 4) / 32 % 32 < 2 ^ 5 by omega)
  rw [rowAddr_eq_offsetOf p ch row half, offsetOf]
  omega

end

theorem rowAddr_mod (p ch row half : Nat) : rowAddr p ch row half % 64 = 0 := by
  simp only [rowAddr]
  omega

/-- A page of 2 MiB lies in one pier, under one page number. -/
theorem pierMap_page (o : Nat) : (pierMap (o / 2097152 * 2097152)).1 = (pierMap o).1 ∧ (pierMap (o / 2097152 * 2097152)).2.1 = (pierMap o).2.1 := by
  have h36 : bitsAt (o / 2097152 * 2097152) 36 3 = bitsAt o 36 3 := by rw [bitsAt_eq_div, bitsAt_eq_div]; omega
  have h21 (w : Nat) : bitsAt (o / 2097152 * 2097152) 21 w = bitsAt o 21 w := by
    rw [bitsAt_eq_div, bitsAt_eq_div, show (2 : Nat) ^ 21 = 2097152 from rfl, Nat.mul_div_cancel _ (by decide)]
  simp only [pierMap, h36, h21, and_self]

/-! The granules of a page. -/

/-- Granule `32 k + j` of a page lies in the channel whose number is `j` changed by numbers below 32 of `k` and the page alone. -/
theorem pierMap_granule {P k j : Nat} (hj : j < 32) (hk : k < 256) : (pierMap (P * 2097152 + (32 * k + j) * 256)).2.2.1 =
    j ^^^ k % 32 ^^^ (P % 4 * 8 + k / 32) := by
  have h8 : bitsAt (P * 2097152 + (32 * k + j) * 256) 8 5 = j := by rw [bitsAt_eq_div]; omega
  have h13 : bitsAt (P * 2097152 + (32 * k + j) * 256) 13 5 = k % 32 := by rw [bitsAt_eq_div]; omega
  have h18 : bitsAt (P * 2097152 + (32 * k + j) * 256) 18 5 = P % 4 * 8 + k / 32 := by rw [bitsAt_eq_div]; omega
  simp only [pierMap, h8, h13, h18]

/-- Of the numbers below 32 one is a given one. -/
theorem countP_range_eq : ∀ x < 32, (List.range 32).countP (· == x) = 1 := by decide

/-- Of the 32 granules that differ in bits 12 to 8 alone, one lies in a channel. -/
theorem countP_granules {P k ch : Nat} (hk : k < 256) (hch : ch < 32) :
    (List.range 32).countP (fun j => (pierMap (P * 2097152 + (32 * k + j) * 256)).2.2.1 == ch) = 1 := by
  have hx : ch ^^^ (P % 4 * 8 + k / 32) ^^^ k % 32 < 2 ^ 5 :=
    Nat.xor_lt_two_pow (Nat.xor_lt_two_pow hch (by omega)) (by omega)
  rw [← countP_range_eq _ hx]
  refine List.countP_congr fun j hj => ?_
  rw [beq_iff_eq, beq_iff_eq, pierMap_granule (List.mem_range.1 hj) hk]
  constructor
  · rintro rfl
    rw [xor_cancel, xor_cancel]
  · rintro rfl
    rw [xor_cancel, xor_cancel]

/-- A property that one number of each block of 32 has holds as often as there are blocks. -/
theorem countP_blocks (p : Nat → Bool) (n : Nat) (h : ∀ k < n, (List.range 32).countP (fun j => p (32 * k + j)) = 1) :
    (List.range (32 * n)).countP p = n := by
  induction n with
  | zero => rfl
  | succ n ih =>
    rw [Nat.mul_succ, List.range_add, List.countP_append, ih fun k hk => h k (by omega), List.countP_map]
    exact congrArg (n + ·) (h n (by omega))

/-- Settles O28: an offset by its four parts, and each 32 granules of a page by the one of them that lies in the channel. -/
theorem pierMapBijects : Obligations.PierMapBijects := by
  unfold Obligations.PierMapBijects
  refine ⟨fun o ho => ?parts, fun p hp ch hch row hrow half hhalf => ?inverse, fun o _ => (pierMap_page o).1.symm, fun P _ ch hch => ?granules⟩
  case parts =>
    have h36 : bitsAt o 36 3 = o >>> 36 &&& 7 := bitsAt_eq_and o 36 3
    have h21 : bitsAt o 21 3 = o >>> 21 &&& 7 := bitsAt_eq_and o 21 3
    have h8 : bitsAt o 8 5 = o >>> 8 &&& 31 := bitsAt_eq_and o 8 5
    have h13 : bitsAt o 13 5 = o >>> 13 &&& 31 := bitsAt_eq_and o 13 5
    have h18 : bitsAt o 18 5 = o >>> 18 &&& 31 := bitsAt_eq_and o 18 5
    have hhi : bitsAt o 13 23 = o >>> 13 &&& 0x7FFFFF := bitsAt_eq_and o 13 23
    have hbyte : o % 256 = o &&& 255 := (Nat.and_two_pow_sub_one_eq_mod o 8).symm
    refine ⟨?_, bitsAt_eq_and o 21 15, ?_, ?_, ?_, rowAddr_pierMap ho⟩
    · simp only [pierMap, h36, h21]
    · simp only [pierMap, h8, h13, h18]
    · simp only [pierMap, hhi, hbyte]
    · simp only [pierMap, hhi, hbyte]
  case inverse =>
    rw [pierMap_rowAddr hp hch hrow hhalf]
    exact ⟨rowAddr_lt hp hch hrow hhalf, rowAddr_mod p ch row half, rfl, rfl⟩
  case granules =>
    rw [← List.countP_eq_length_filter]
    exact countP_blocks _ 256 fun k hk => countP_granules hk hch

end Sys2Proof.Machine
end

section
/-! ### Ranges of the pier window -/

namespace Sys2Proof.Machine

/-! Places and their pages. -/

theorem pageKey_page (o : Nat) : pageKey (o / 2097152 * 2097152) = pageKey o := by
  rw [pageKey, pageKey, (pierMap_page o).1, (pierMap_page o).2]

theorem pageKey_congr {a b : Nat} (h : a / 2097152 = b / 2097152) : pageKey a = pageKey b := by
  rw [← pageKey_page a, ← pageKey_page b, h]

theorem pageKey_half (b : Nat) : pageKey (b / 64 * 64) = pageKey b := pageKey_congr (by omega)

/-- The bounds of the four numbers that the map gives. -/
theorem pierMap_lt (o : Nat) : (pierMap o).1 < 8 ∧ (pierMap o).2.2.1 < 32 ∧ (pierMap o).2.2.2.1 < 2 ^ 20 ∧ (pierMap o).2.2.2.2 < 32 := by
  have hb (lo w : Nat) : bitsAt o lo w < 2 ^ w := Nat.mod_lt _ (Nat.two_pow_pos w)
  have hrow := hb 13 23
  refine ⟨Nat.xor_lt_two_pow (n := 3) (hb 36 3) (hb 21 3), Nat.xor_lt_two_pow (n := 5) (Nat.xor_lt_two_pow (n := 5) (hb 8 5) (hb 13 5)) (hb 18 5), ?_, ?_⟩
  · show (bitsAt o 13 23 * 256 + o % 256) / 2048 < 2 ^ 20
    omega
  · show (bitsAt o 13 23 * 256 + o % 256) % 2048 / 64 < 32
    omega

/-- The page of an offset is that of its row: 32 rows of a channel make its part of a page. -/
theorem pierMap_page_row (o : Nat) : (pierMap o).2.1 = (pierMap o).2.2.2.1 / 32 := by
  calc bitsAt o 21 15 = bitsAt o 13 23 / 256 := by
        rw [bitsAt_eq_div, bitsAt_eq_div]
        omega
    _ = (bitsAt o 13 23 * 256 + o % 256) / 2048 / 32 := by omega

/-- The half-lines of a row. -/
def rowHalf (o half : Nat) : Nat := rowAddr (pierMap o).1 (pierMap o).2.2.1 (pierMap o).2.2.2.1 half

section
variable {half : Nat} (o : Nat) (hf : half < 32)
include hf

theorem pierMap_rowHalf : pierMap (rowHalf o half) = ((pierMap o).1, (pierMap o).2.1, (pierMap o).2.2.1, (pierMap o).2.2.2.1, half) := by
  obtain ⟨hp, hc, hr, -⟩ := pierMap_lt o
  rw [rowHalf, pierMap_rowAddr hp hc hr hf, pierMap_page_row]

theorem rowHalf_lt : rowHalf o half < pierEnd := by
  obtain ⟨hp, hc, hr, -⟩ := pierMap_lt o
  exact rowAddr_lt hp hc hr hf

/-- A row lies in one page. -/
theorem pageKey_rowHalf : pageKey (rowHalf o half) = pageKey o := by
  rw [pageKey, pierMap_rowHalf o hf, pageKey]

end

/-- A half-line is one of its row's. -/
theorem rowHalf_self {o : Nat} (ho : o < pierEnd) (h64 : o % 64 = 0) : rowHalf o (pierMap o).2.2.2.2 = o := by
  have h := rowAddr_pierMap ho
  rwa [h64, Nat.add_zero] at h

/-! The carrier units and pages of a range. -/

theorem unitSize_pier {a : Nat} (h : a < pierEnd) : unitSize a = 64 := if_pos h

theorem unitSize_beyond {a : Nat} (h : pierEnd ≤ a) : unitSize a = 32 := if_neg (Nat.not_lt.2 h)

theorem mem_unitsIn {a n x : Nat} (hn : 0 < n) :
    x ∈ unitsIn a n ↔ ∃ k, a / unitSize a ≤ k ∧ k ≤ (a + n - 1) / unitSize a ∧ x = k * unitSize a := by
  have hle : a / unitSize a ≤ (a + n - 1) / unitSize a := Nat.div_le_div_right (by omega)
  rw [unitsIn, if_neg (by omega), List.mem_map]
  constructor
  · rintro ⟨i, hi, rfl⟩
    rw [List.mem_range] at hi
    exact ⟨a / unitSize a + i, by omega, by omega, rfl⟩
  · rintro ⟨k, h1, h2, rfl⟩
    refine ⟨k - a / unitSize a, List.mem_range.2 (by omega), ?_⟩
    show (a / unitSize a + (k - a / unitSize a)) * unitSize a = _
    rw [Nat.add_sub_cancel' h1]

theorem mem_pagesIn {a n x : Nat} (hn : 0 < n) :
    x ∈ pagesIn a n ↔ ∃ k, a / 2097152 ≤ k ∧ k ≤ (a + n - 1) / 2097152 ∧ x = k * 2097152 := by
  rw [pagesIn, List.mem_map]
  constructor
  · rintro ⟨i, hi, rfl⟩
    rw [List.mem_range] at hi
    exact ⟨a / 2097152 + i, by omega, by omega, rfl⟩
  · rintro ⟨k, h1, h2, rfl⟩
    refine ⟨k - a / 2097152, List.mem_range.2 (by omega), ?_⟩
    rw [Nat.add_sub_cancel' h1]

section
variable {o : Nat} (ho : o < pierEnd) (h64 : o % 64 = 0)
include h64

theorem pagesIn_half : pagesIn o 64 = [o / 2097152 * 2097152] := by
  have h : (o + 64 - 1) / 2097152 - o / 2097152 + 1 = 1 := by omega
  rw [pagesIn, h]
  rfl

include ho

theorem unitsIn_half : unitsIn o 64 = [o] := by
  have h : (o + 64 - 1) / 64 - o / 64 + 1 = 1 := by omega
  have hself : (o / 64 + 0) * 64 = o := by omega
  rw [unitsIn, if_neg (by decide), unitSize_pier ho, h]
  show [(o / 64 + 0) * 64] = [o]
  rw [hself]

end

theorem unitsIn_byte {b : Nat} (hb : b < pierEnd) : unitsIn b 1 = [b / 64 * 64] := by
  have h : (b + 1 - 1) / 64 - b / 64 + 1 = 1 := by omega
  rw [unitsIn, if_neg (by decide), unitSize_pier hb, h]
  rfl

end Sys2Proof.Machine
end

section
/-! ### Half-lines (O30) -/

namespace Sys2Proof.Machine

theorem afterRead_sound {d : Dev} {o : Nat} (h : unitPoisoned d o = false) (read : Bool) : afterRead d read o = d := by
  rw [afterRead, h, Bool.and_false, if_neg Bool.false_ne_true]

theorem afterRead_unread (d : Dev) (o : Nat) : afterRead d false o = d := if_neg Bool.false_ne_true

/-- A word without a wrong symbol is found clean in either mode. -/
theorem halfCheck_clean (mode : Nat) : halfCheck mode (synXor [0, 0, 0, 0] (syndromes [])) = .clean := by
  have hs : synXor [0, 0, 0, 0] (syndromes []) = [0, 0, 0, 0] := by decide
  rw [hs, halfCheck, if_neg (by decide), if_pos rfl]

/-- A read of a half-line without a wrong symbol returns its bytes and changes nothing (R250). -/
theorem readHalf_clean {d : Dev} {o : Nat} (hp : unitPoisoned d o = false) (hl : rowLost d o = false) :
    readHalf d o [] = (d, devRead d o 64, false) := by
  simp only [readHalf, hl, hp, Bool.false_eq_true, if_false, halfCheck_clean]
  rfl

theorem pierReadRow_clean {d : Dev} {w : Who} {o : Nat} (ha : accessErr d w false o 64 = none) (hp : unitPoisoned d o = false)
    (hl : rowLost d o = false) : pierReadRow d w o [] = emit d (.halfLine o (devRead d o 64) false) := by
  have hread : pierRead d w o [] = emit d (.halfLine o (devRead d o 64) false) := by
    rw [pierRead, ha]
    simp only [readHalf_clean hp hl]
  rw [pierReadRow, hread]
  exact afterRead_sound (d := emit d _) hp _

theorem padTo_of_length {n : Nat} {bs : List Byte} (h : bs.length = n) : padTo n bs = bs := by
  rw [padTo, h, Nat.sub_self, List.replicate_zero, List.append_nil, ← h, List.take_length]

/-- The bytes of a half-line with those that a mask names replaced. -/
def merged (mask : Nat) (bs old : List Byte) : List Byte := (List.range 64).map (fun i => if bitOf mask i then lget 0 bs i else lget 0 old i)

section
variable {d : Dev} {w : Who} {o : Nat} {m : Word} {bs : List Byte} {p : Bool} {err : List (Nat × Nat)} (ha : accessErr d w true o 64 = none)
include ha

theorem pierWriteRow_full (hb : bs.length = 64) (hm : m.toNat = 2 ^ 64 - 1) : pierWriteRow d w o m.toNat bs p err = devWrite d o bs p := by
  have hfull : m.toNat % 2 ^ 64 = 2 ^ 64 - 1 := (Nat.mod_eq_of_lt m.isLt).trans hm
  have hread : (m.toNat % 2 ^ 64 != 2 ^ 64 - 1) = false := by rw [hfull]; rfl
  rw [pierWriteRow, hread, Bool.and_false, afterRead_unread, pierWrite, ha]
  simp only [hfull, if_true, padTo_of_length hb]

theorem pierWriteRow_partial (hm : m.toNat ≠ 2 ^ 64 - 1) : pierWriteRow d w o m.toNat bs p err =
    afterRead (devWrite (readHalf d o err).1 o (merged m.toNat bs (readHalf d o err).2.1) (p || (readHalf d o err).2.2)) true o := by
  have hpart : m.toNat % 2 ^ 64 ≠ 2 ^ 64 - 1 := by rw [Nat.mod_eq_of_lt m.isLt]; exact hm
  have hread : (m.toNat % 2 ^ 64 != 2 ^ 64 - 1) = true := bne_iff_ne.2 hpart
  rw [pierWriteRow, hread, Bool.and_true, pierWrite, ha]
  simp only [hpart, if_false, Option.isNone_none]
  rfl

end

/-! Scrubbing (R252). -/

/-- The half-lines of a row that a pass has read, with one more. -/
def scrubNow (d : Dev) (o : Nat) : Nat := setBits (tget 0 d.pier.scrub (rowKey o)) (pierMap o).2.2.2.2 1 1

/-- A half-line marked as read. -/
def scrubbed (d : Dev) (o : Nat) : Dev := { d with pier := { d.pier with scrub := tset d.pier.scrub (rowKey o) (scrubNow d o) } }

/-- When a half-line is read in a pass: scrubbing is on, the pass has begun, the channel is in service, and the word is sound. -/
structure ScrubReads (d : Dev) (o : Nat) : Prop where
  on      : fget d (regPierScrub (pierMap o).1) fldPierScrubScrubEn = 1
  due     : tget 0 d.pier.passFrom (pierMap o).1 ≤ tb2 d
  channel : fget d (regPierChState (pierMap o).1 (pierMap o).2.2.1) fldPierChStateState < 3
  pass    : d.pier.passOn.contains (pierMap o).1 = true
  sound   : unitPoisoned d o = false
  kept    : rowLost d o = false

/-- The pass of a pier with one more row counted. -/
def rowCounted (d : Dev) (o : Nat) : Dev :=
  fset (scrubbed d o) (regPierScrubState (pierMap o).1) fldPierScrubStateProgress (fget d (regPierScrubState (pierMap o).1) fldPierScrubStateProgress + 1)

/-- A bit that is set stays when it is set again. -/
theorem setBits_one_of_set {v i : Nat} (h : bitOf v i = true) : setBits v i 1 1 = v := by
  apply Nat.eq_of_testBit_eq
  intro k
  rw [testBit_setBits]
  split
  · next hk => rw [show k = i by omega, Nat.sub_self, show v.testBit i = true from h, Nat.testBit_one_zero]
  · rfl

theorem scrubMark_eq (d : Dev) (o : Nat) :
    scrubMark d o = (scrubbed d o, tget 0 d.pier.scrub (rowKey o) != scrubNow d o && scrubNow d o == 2 ^ 32 - 1) := rfl

section
variable {d : Dev} {o : Nat} (h : ScrubReads d o)
include h

theorem ScrubReads.scrubOpen : scrubOpen d o = true := by
  rw [Machine.scrubOpen]
  simp only [h.on, h.due, h.channel, decide_true, Bool.and_true, bne_iff_ne, ne_eq, Nat.one_ne_zero, not_false_eq_true]

theorem ScrubReads.pierScrub_eq : pierScrub d o [] =
    if (scrubMark d o).2 then
      if rowsInService (rowCounted d o) (pierMap o).1 ≤ fget d (regPierScrubState (pierMap o).1) fldPierScrubStateProgress + 1 then
        endPass (rowCounted d o) (pierMap o).1 else rowCounted d o
    else scrubbed d o := by
  have hpass : startPass d (pierMap o).1 = d := by rw [startPass, if_pos h.pass]
  rw [pierScrub, h.scrubOpen, hpass, readHalf_clean h.sound h.kept]
  rfl

/-- A half-line that the pass has read, or that leaves others of its row to read, is marked and no more. -/
theorem ScrubReads.marks (hn : bitOf (tget 0 d.pier.scrub (rowKey o)) (pierMap o).2.2.2.2 = true ∨ scrubNow d o ≠ 2 ^ 32 - 1) :
    pierScrubRow d o [] = scrubbed d o := by
  have hdone : (scrubMark d o).2 = false := by
    rcases hn with hn | hn
    · rw [scrubMark_eq, scrubNow, setBits_one_of_set hn, bne_self_eq_false, Bool.false_and]
    · rw [scrubMark_eq, beq_eq_false_iff_ne.2 hn, Bool.and_false]
  rw [pierScrubRow, h.pierScrub_eq, hdone, if_neg Bool.false_ne_true]
  exact afterRead_sound (d := scrubbed d o) h.sound _

/-- The half-line that completes its row counts the row. -/
theorem ScrubReads.counts (hb : bitOf (tget 0 d.pier.scrub (rowKey o)) (pierMap o).2.2.2.2 = false) (hn : scrubNow d o = 2 ^ 32 - 1)
    (hrows : fget d (regPierScrubState (pierMap o).1) fldPierScrubStateProgress + 1 < rowsInService (rowCounted d o) (pierMap o).1) :
    pierScrubRow d o [] = rowCounted d o := by
  have hdone : (scrubMark d o).2 = true := by
    have hne : tget 0 d.pier.scrub (rowKey o) ≠ scrubNow d o := by
      intro e
      rw [e, bitOf, scrubNow, testBit_setBits, if_pos (by omega), Nat.sub_self] at hb
      exact absurd hb (by decide)
    rw [scrubMark_eq, bne_iff_ne.2 hne, hn]
    rfl
  rw [pierScrubRow, h.pierScrub_eq, hdone, if_pos rfl, if_neg (by omega)]
  exact afterRead_sound (d := rowCounted d o) h.sound _

end

/-- A refresh without accesses that wait, or put off 8 times, runs (R251). -/
theorem refreshDue_runs {d : Dev} {p ch bank : Nat} {pending : Bool}
    (h : ¬ (pending = true ∧ tget 0 d.pier.postpone ((p * 32 + ch) * 65536 + bank) < 8)) : refreshDue d p ch bank pending =
      { d with pier := { d.pier with postpone := tdel d.pier.postpone ((p * 32 + ch) * 65536 + bank) } } := if_neg h

/-- Settles O30: each access where its conditions hold. -/
theorem pierAccess : Obligations.PierAccess := by
  unfold Obligations.PierAccess
  intro s hr
  refine ⟨fun w l ha hp hl => ?read, fun w l m bs p ha hb => ⟨fun hm => ?full, fun err hm => ?part⟩, fun l hon hdue hch hpass hp hl => ?scrub,
    fun p ch bank => ⟨fun hk => ?pending, fun hk => ?eight, ?idle⟩⟩
  case read => exact onDev_eq hr (fun d => pierReadRow d w (64 * l) []) (pierReadRow_clean ha hp hl)
  case full => exact onDev_eq hr (fun d => pierWriteRow d w (64 * l) m.toNat bs p []) (pierWriteRow_full ha hb hm)
  case part => exact onDev_eq hr (fun d => pierWriteRow d w (64 * l) m.toNat bs p err) (pierWriteRow_partial ha hm)
  case scrub =>
    have h : ScrubReads s.dev (64 * l) := ⟨hon, hdue, hch, hpass, hp, hl⟩
    exact ⟨fun hn => onDev_eq hr (fun d => pierScrubRow d (64 * l) []) (h.marks hn),
      fun hb _ hn hrows => onDev_eq hr (fun d => pierScrubRow d (64 * l) []) (h.counts hb hn hrows)⟩
  case pending => exact onDev_eq hr (fun d => refreshDue d p ch bank true) (if_pos ⟨rfl, hk⟩)
  case eight => exact onDev_eq hr (fun d => refreshDue d p ch bank true) (refreshDue_runs fun h => Nat.not_lt.2 hk h.2)
  case idle => exact onDev_eq hr (fun d => refreshDue d p ch bank false) (refreshDue_runs fun h => nomatch h.1)

end Sys2Proof.Machine
end

section
/-! ### The care of the piers (O31) -/

namespace Sys2Proof.Machine

theorem scrubOverrun_late {d : Dev} {p : Nat}
    (ht : tget 0 d.pier.passFrom p + fact d (regPierScrub p) fldPierScrubScrubHours * 3600 * subPerSec * 3 / 2 < tb2 d)
    (ho : d.pier.overrun.contains p = false) (hon : fget d (regPierScrub p) fldPierScrubScrubEn = 1) : scrubOverrun d p =
      record { d with pier := { d.pier with overrun := natPut d.pier.overrun p } } { status := 0x1309, detail := p } := by
  refine if_neg ?_
  rintro (h | h | h)
  · omega
  · rw [ho] at h
    cases h
  · omega

theorem rowSpare_due {d : Dev} {p ch row : Nat} (ha : fget d (regPierSpareCfg p) fldPierSpareCfgAutoRow ≠ 0)
    (hd : d.pier.due.contains ((p * 32 + ch) * 2 ^ 20 + row) = true)
    (hu : fget d (regPierChState p (physRow d p ch row).1) fldPierChStateRowsSpared < 16384) :
    let k := (p * 32 + ch) * 2 ^ 20 + row
    let c := (physRow d p ch row).1
    let used := fget d (regPierChState p c) fldPierChStateRowsSpared
    let d1 := fset { d with pier := { d.pier with due := d.pier.due.filter (· != k) } } (regPierChState p c) fldPierChStateRowsSpared (used + 1)
    rowSpare d p ch row = record { d1 with pier := { d1.pier with rowMap := tset d1.pier.rowMap k used, rowCorr := tdel d1.pier.rowCorr k } }
      { status := 0x2304, addr := rowAddr p ch row 0, detail := chDetail p ch row } := by
  have hgo : ¬ (fget d (regPierSpareCfg p) fldPierSpareCfgAutoRow = 0 || !d.pier.due.contains ((p * 32 + ch) * 2 ^ 20 + row)) = true := by
    simp only [ha, hd, decide_false, Bool.not_true, Bool.or_false, Bool.false_eq_true, not_false_eq_true]
  dsimp only
  rw [rowSpare]
  exact (if_neg hgo).trans (if_neg (Nat.not_le.2 hu))

theorem spareChannel_ready {d : Dev} {p : Nat} (h : fget d (regPierStatus p) fldPierStatusState = 0) (ch : Nat) :
    let d1 := fset (fset d (regPierStatus p) fldPierStatusState 1) (regPierStatus p) fldPierStatusSpareCh ch
    spareChannel d p ch = fset { d1 with pier := { d1.pier with copied := tdel d1.pier.copied p } } (regPierChState p ch) fldPierChStateState 2 :=
  if_neg fun hne => hne h

theorem spareDone_copying {d : Dev} {p : Nat} (h : fget d (regPierStatus p) fldPierStatusState = 1) :
    let ch := fget d (regPierStatus p) fldPierStatusSpareCh
    let d1 := fset (fset d (regPierStatus p) fldPierStatusState 2) (regPierChState p ch) fldPierChStateState 3
    spareDone d p = record { d1 with pier := mapChannel d1.pier p ch } { status := 0x2305, detail := chDetail p ch 0 } :=
  if_neg fun hne => hne h

/-- The retraining of a channel as it stands. -/
def putRetrain (d : Dev) (p ch : Nat) (r : RetrainSt) : Dev := { d with pier := { d.pier with retrain := tset d.pier.retrain (p * 32 + ch) r } }

theorem retrainCh_inService {d : Dev} {p ch : Nat} (h : fget d (regPierChState p ch) fldPierChStateState = 0) : retrainCh d p ch =
    fset (putRetrain d p ch { tget {} d.pier.retrain (p * 32 + ch) with active := true, slices := 0 }) (regPierChState p ch) fldPierChStateState 1 := by
  rw [retrainCh, if_neg (by omega)]
  exact if_pos h

/-- A register field keeps its value when a field beside it is set. -/
theorem fget_fset_beside {f g : Fld} (hg : g.lo + g.w ≤ 64) (h : f.lo + f.w ≤ g.lo ∨ g.lo + g.w ≤ f.lo) (d : Dev) (k v : Nat) :
    fget (fset d k f v) k g = fget d k g := by
  rw [fget, fget, fset_eq, getReg_setReg_self, bitsAt_mod hg]
  apply Nat.eq_of_testBit_eq
  intro i
  simp only [bitsAt, Nat.testBit_mod_two_pow, Nat.testBit_shiftRight, testBit_setBits]
  by_cases hi : i < g.w
  · rw [if_neg (by omega)]
  · simp [hi]

theorem fget_showStatus_beside (d : Dev) (r : Rec) {k : Nat} {g : Fld} (hg : g.lo + g.w ≤ 64)
    (h : ∀ x ∈ lastStatusOf r, k = x.1 → x.2.lo + x.2.w ≤ g.lo ∨ g.lo + g.w ≤ x.2.lo) : fget (showStatus d r) k g = fget d k g := by
  unfold showStatus
  split
  · next k' f hs =>
    by_cases hk : k = k'
    · subst hk
      exact fget_fset_beside hg (h _ hs rfl) d k _
    · exact fget_fset_ne d hk f g _
  · rfl

/-- A record of a pier's block leaves the state of every pier. -/
theorem pierState_record (d : Dev) {r : Rec} (h : r.status / 256 % 16 = 3) (p : Nat) :
    fget (record d r) (regPierStatus p) fldPierStatusState = fget d (regPierStatus p) fldPierStatusState := by
  have hne : regPierStatus p ≠ regMgtFhRecords := by
    simp only [regPierStatus, regMgtFhRecords]
    omega
  have hlast : lastStatusOf r = some (regPierStatus (detByte r.detail 0), fldPierStatusLastStatus) := by simp only [lastStatusOf, h]
  have hshow : ∀ e : Dev, fget (showStatus e r) (regPierStatus p) fldPierStatusState = fget e (regPierStatus p) fldPierStatusState := by
    refine fun e => fget_showStatus_beside e r (by decide) fun x hx _ => ?_
    obtain rfl := Option.some.inj (hlast.symm.trans hx)
    exact .inr (by decide : fldPierStatusState.lo + fldPierStatusState.w ≤ fldPierStatusLastStatus.lo)
  calc fget (record d r) (regPierStatus p) fldPierStatusState
      = fget (showStatus (chargeRecord d r) r) (regPierStatus p) fldPierStatusState := by
        rw [fget, fget, record, getReg_fileRec _ _ hne, getReg_countNesting]
    _ = fget d (regPierStatus p) fldPierStatusState := by rw [hshow, fget, fget, getReg_chargeRecord]

/-! Retraining slices (R256). -/

/-- A slice that leaves the pier's state ends with itself: no channel is lost. -/
theorem retrainRow_kept {d e : Dev} {p ch copied : Nat} {done ok : Bool} {group : Option Nat} (h : retrainSlice d p ch done ok group copied = e)
    (hst : fget e (regPierStatus p) fldPierStatusState = fget d (regPierStatus p) fldPierStatusState) :
    retrainRow d p ch done ok group copied = e := by
  rw [retrainRow, h]
  exact if_neg fun hlost => hlost.1 (hst.symm.trans hlost.2)

/-- The end of a retraining with success: it is counted, and a channel in retraining returns to service. -/
def slicesSucceeded (d : Dev) (p ch : Nat) : Dev :=
  let d := fsat (putRetrain d p ch {}) (regPierChState p ch) fldPierChStateRetrains 1
  record (if fget d (regPierChState p ch) fldPierChStateState = 1 then fset d (regPierChState p ch) fldPierChStateState 0 else d)
    { status := 0x2306, detail := chDetail p ch 0 }

section
variable {d : Dev} {p ch : Nat} (hst : fget d (regPierChState p ch) fldPierChStateState = 1)
include hst

theorem retraining_not_spared : ¬ 3 ≤ fget d (regPierChState p ch) fldPierChStateState := by
  omega

theorem retrainRow_goesOn (hs : (tget {} d.pier.retrain (p * 32 + ch)).slices + 1 < 64) : retrainRow d p ch false true none 0 =
    putRetrain d p ch { tget {} d.pier.retrain (p * 32 + ch) with active := true, slices := (tget {} d.pier.retrain (p * 32 + ch)).slices + 1 } := by
  refine retrainRow_kept ?_ rfl
  calc retrainSlice d p ch false true none 0
      = putRetrain (if fget d (regPierChState p ch) fldPierChStateState = 0 then fset d (regPierChState p ch) fldPierChStateState 1 else d) p ch
          { tget {} d.pier.retrain (p * 32 + ch) with active := true, slices := (tget {} d.pier.retrain (p * 32 + ch)).slices + 1 } :=
        (if_neg (retraining_not_spared hst)).trans (if_pos ⟨rfl, hs⟩)
    _ = _ := by rw [if_neg (by omega)]

theorem retrainRow_succeeds : retrainRow d p ch true true none 0 =
    record (fset (fsat (putRetrain d p ch {}) (regPierChState p ch) fldPierChStateRetrains 1) (regPierChState p ch) fldPierChStateState 0)
      { status := 0x2306, detail := chDetail p ch 0 } := by
  have hcount : fget (fsat (putRetrain d p ch {}) (regPierChState p ch) fldPierChStateRetrains 1) (regPierChState p ch) fldPierChStateState = 1 :=
    (fget_fset_beside (by decide) (.inr (by decide)) _ _ _).trans hst
  have hne : regPierStatus p ≠ regPierChState p ch := by
    simp only [regPierStatus, regPierChState]
    omega
  refine retrainRow_kept ?_ ?_
  · calc retrainSlice d p ch true true none 0
      = slicesSucceeded (if fget d (regPierChState p ch) fldPierChStateState = 0 then fset d (regPierChState p ch) fldPierChStateState 1 else d) p ch :=
        (if_neg (retraining_not_spared hst)).trans ((if_neg nofun).trans (if_pos rfl))
      _ = slicesSucceeded d p ch := by rw [if_neg (by omega)]
      _ = _ := congrArg (fun e => record e _) (if_pos hcount)
  · rw [pierState_record _ (show 0x2306 / 256 % 16 = 3 by decide), fget_fset_ne _ hne, fsat, fget_fset_ne _ hne]
    rfl

end

/-- Settles O31: the equation of each event where its conditions hold. -/
theorem pierCare : Obligations.PierCare := by
  unfold Obligations.PierCare
  intro s p hr
  refine ⟨fun ht ho hon => ?overrun, fun ch row ha hd hu => ?row, fun ch hst => ?spare, fun hst => ?spared,
    fun ch => ⟨fun hst => ?begins, fun hst hs => ?slice, fun hst => ?success⟩⟩
  case overrun => exact onDev_eq hr (fun d => scrubOverrun d p) (scrubOverrun_late ht ho hon)
  case row => exact onDev_eq hr (fun d => rowSpare d p ch row) (rowSpare_due ha hd hu)
  case spare => exact onDev_eq hr (fun d => spareChannel d p ch) (spareChannel_ready hst ch)
  case spared => exact onDev_eq hr (fun d => spareDone d p) (spareDone_copying hst)
  case begins => exact onDev_eq hr (fun d => retrainCh d p ch) (retrainCh_inService hst)
  case slice => exact onDev_eq hr (fun d => retrainRow d p ch false true none 0) (retrainRow_goesOn hst hs)
  case success => exact onDev_eq hr (fun d => retrainRow d p ch true true none 0) (retrainRow_succeeds hst)

end Sys2Proof.Machine
end

section
/-! ### Writes of the pier window -/

namespace Sys2Proof.Machine

/-! Poison marks. -/

theorem mem_natPut {l : List Nat} {a x : Nat} : x ∈ natPut l a ↔ x = a ∨ x ∈ l := by
  induction l with
  | nil => simp [natPut]
  | cons b l ih =>
    rw [natPut]
    split
    · exact List.mem_cons
    · split
      · next h => rw [h, List.mem_cons, or_self_left]
      · rw [List.mem_cons, ih, List.mem_cons, or_left_comm]

theorem mem_foldl_natPut {xs l : List Nat} {x : Nat} : x ∈ xs.foldl natPut l ↔ x ∈ xs ∨ x ∈ l := by
  induction xs generalizing l with
  | nil => simp
  | cons y xs ih => rw [List.foldl_cons, ih, mem_natPut, List.mem_cons, ← or_assoc, or_comm (b := x = y)]

theorem contains_congr {l m : List Nat} {x : Nat} (h : x ∈ l ↔ x ∈ m) : l.contains x = m.contains x := by
  rw [Bool.eq_iff_iff, List.contains_iff_mem, List.contains_iff_mem, h]

/-! A lost row before a write into it (R255). -/

theorem healRow_kept {d : Dev} {o : Nat} (h : ¬ (o < pierEnd ∧ rowLost d o = true)) : healRow d o = d := by
  refine if_neg ?_
  rwa [Bool.and_eq_true, decide_eq_true_eq]

theorem healRow_lost {d : Dev} {o : Nat} (ho : o < pierEnd) (h : rowLost d o = true) : healRow d o =
    { d with
      poison := ((List.range 32).map (rowHalf o)).foldl natPut d.poison
      pier := { d.pier with lost := tmod (0, []) d.pier.lost (pierMap o).1 (fun x => (x.1, (pierMap o).2.2.2.1 :: x.2)) } } := by
  refine if_pos ?_
  rw [h, Bool.and_true, decide_eq_true ho]

theorem healRow_only (d : Dev) (o : Nat) : ∃ m l, healRow d o = { d with poison := m, pier := { d.pier with lost := l } } := by
  unfold healRow
  split <;> exact ⟨_, _, rfl⟩

theorem rowLost_iff (d : Dev) (o : Nat) : rowLost d o = true ↔ ∃ e, tget? d.pier.lost (pierMap o).1 = some e ∧ e.1 = (pierMap o).2.2.1 ∧
    tget 0 d.pier.copied (pierMap o).1 ≤ (pierMap o).2.2.2.1 ∧ (pierMap o).2.2.2.1 ∉ e.2 := by
  simp only [rowLost]
  cases h : tget? d.pier.lost (pierMap o).1 with
  | none => simp
  | some e => simp [and_assoc]

/-- Two offsets of one row. -/
def SameRow (a b : Nat) : Prop := (pierMap a).1 = (pierMap b).1 ∧ (pierMap a).2.2.1 = (pierMap b).2.2.1 ∧ (pierMap a).2.2.2.1 = (pierMap b).2.2.2.1

theorem rowLost_of_sameRow {a b : Nat} (h : SameRow a b) (d : Dev) : rowLost d a = rowLost d b := by
  obtain ⟨hp, hc, hr⟩ := h
  rw [Bool.eq_iff_iff, rowLost_iff, rowLost_iff, hp, hc, hr]

theorem sameRow_rowHalf (o : Nat) {half : Nat} (hf : half < 32) : SameRow (rowHalf o half) o := by
  rw [SameRow, pierMap_rowHalf o hf]
  exact ⟨rfl, rfl, rfl⟩

theorem SameRow.eq_rowHalf {x o : Nat} (h : SameRow x o) (hx : x < pierEnd) (h64 : x % 64 = 0) : rowHalf o (pierMap x).2.2.2.2 = x := by
  obtain ⟨hp, hc, hr⟩ := h
  rw [rowHalf, ← hp, ← hc, ← hr]
  exact rowHalf_self hx h64

/-- The heal clears the lost bit of its row and of no other. -/
theorem rowLost_healRow {d : Dev} {o : Nat} (ho : o < pierEnd) (h : rowLost d o = true) (x : Nat) :
    rowLost (healRow d o) x = true ↔ rowLost d x = true ∧ ¬ SameRow x o := by
  obtain ⟨e, he, hch, -, -⟩ := (rowLost_iff d o).1 h
  have hget : tget (0, []) d.pier.lost (pierMap o).1 = e := by rw [tget, he]; rfl
  have hlost : (healRow d o).pier.lost = tset d.pier.lost (pierMap o).1 (e.1, (pierMap o).2.2.2.1 :: e.2) := by
    rw [healRow_lost ho h, ← hget, tmod]
  have hcopied : (healRow d o).pier.copied = d.pier.copied := by rw [healRow_lost ho h]
  rw [rowLost_iff, rowLost_iff, hlost, hcopied]
  by_cases hp : (pierMap x).1 = (pierMap o).1
  · rw [hp, tget?_tset_self, he]
    constructor
    · rintro ⟨e', he', hc, hle, hnot⟩
      obtain rfl := Option.some.inj he'
      exact ⟨⟨e, rfl, hc, hle, fun hr => hnot (List.mem_cons_of_mem _ hr)⟩, fun hs => hnot (List.mem_cons.2 (.inl hs.2.2))⟩
    · rintro ⟨⟨e', he', hc, hle, hnot⟩, hrow⟩
      obtain rfl := Option.some.inj he'
      refine ⟨_, rfl, hc, hle, fun hr => ?_⟩
      rcases List.mem_cons.1 hr with hr | hr
      · exact hrow ⟨hp, hc.symm.trans hch, hr⟩
      · exact hnot hr
  · rw [tget?_tset_ne _ hp]
    exact (and_iff_left fun hs => hp hs.1).symm

/-- The heal marks the half-lines of its row. -/
theorem mem_poison_healRow {d : Dev} {o : Nat} (ho : o < pierEnd) (h : rowLost d o = true) {x : Nat} :
    x ∈ (healRow d o).poison ↔ (∃ half < 32, rowHalf o half = x) ∨ x ∈ d.poison := by
  rw [healRow_lost ho h]
  simp only [mem_foldl_natPut, List.mem_map, List.mem_range]

theorem rowLost_healRow_self (d : Dev) {o : Nat} (ho : o < pierEnd) : rowLost (healRow d o) o = false := by
  by_cases h : rowLost d o = true
  · rw [Bool.eq_false_iff, ne_eq, rowLost_healRow ho h]
    exact fun hs => hs.2 ⟨rfl, rfl, rfl⟩
  · rw [healRow_kept fun hl => h hl.2, Bool.eq_false_iff]
    exact h

theorem flashGone_pier (d : Dev) {o : Nat} (ho : o < pierEnd) : flashGone d o = false := by
  have h : ¬ flashBase ≤ o := by simp only [flashBase, pierEnd] at *; omega
  rw [flashGone, decide_eq_false h, Bool.false_and, Bool.false_and]

theorem unitPoisoned_iff (d : Dev) (x : Nat) :
    unitPoisoned d x = true ↔ x ∈ d.poison ∨ (x < pierEnd ∧ rowLost d x = true) ∨ flashGone d x = true := by
  simp only [unitPoisoned, Bool.or_eq_true, Bool.and_eq_true, decide_eq_true_eq, List.contains_iff_mem, or_assoc]

/-- A heal writes out the poison that its row read, and no half-line changes. -/
theorem unitPoisoned_healRow (d : Dev) (o : Nat) {x : Nat} (h64 : x % 64 = 0) : unitPoisoned (healRow d o) x = unitPoisoned d x := by
  by_cases h : o < pierEnd ∧ rowLost d o = true
  · obtain ⟨ho, hl⟩ := h
    have hflash : flashGone (healRow d o) x = flashGone d x := by
      obtain ⟨m, l, e⟩ := healRow_only d o
      rw [flashGone, flashGone, e]
    rw [Bool.eq_iff_iff, unitPoisoned_iff, unitPoisoned_iff, hflash, mem_poison_healRow ho hl, rowLost_healRow ho hl]
    by_cases hrow : x < pierEnd ∧ SameRow x o
    · have hx : rowLost d x = true := rowLost_of_sameRow hrow.2 d ▸ hl
      exact iff_of_true (.inl (.inl ⟨_, (pierMap_lt x).2.2.2, hrow.2.eq_rowHalf hrow.1 h64⟩)) (.inr (.inl ⟨hrow.1, hx⟩))
    · have hout : ¬ ∃ half < 32, rowHalf o half = x := by
        rintro ⟨half, hf, rfl⟩
        exact hrow ⟨rowHalf_lt o hf, sameRow_rowHalf o hf⟩
      have hsame : x < pierEnd ∧ rowLost d x = true ∧ ¬ SameRow x o ↔ x < pierEnd ∧ rowLost d x = true :=
        and_congr_right fun hx => and_iff_left fun hs => hrow ⟨hx, hs⟩
      rw [hsame, or_iff_right hout]
  · rw [healRow_kept h]

/-! A write of a whole half-line. -/

/-- The page entry with its dirty bit set. -/
def dirtied (e : PageEnt) : PageEnt := { e with dirty := true }

/-- A device with a half-line stored and its page marked dirty. -/
def stored (d : Dev) (o : Nat) (bs : List Byte) (l : List Nat) : Dev := modPage { d with mem := memWrite d.mem o bs, poison := l } o dirtied

section
variable {d : Dev} {o : Nat} {bs : List Byte} (ho : o < pierEnd) (h64 : o % 64 = 0) (hb : bs.length = 64)
include ho h64

theorem poisonAfter_half (l : List Nat) : poisonAfter l o 64 false = l.filter (· != o) := by
  rw [poisonAfter, if_neg Bool.false_ne_true, unitsIn_half ho h64]
  refine List.filter_congr fun x _ => ?_
  by_cases hx : x = o
  · subst hx
    simp [unitSize_pier ho]
  · simp [hx]

theorem touch_half (d : Dev) : touch d o 64 = modPage d o dirtied := by
  rw [touch, if_pos ho, pagesIn_half h64]
  show modPage d (o / 2097152 * 2097152) dirtied = modPage d o dirtied
  rw [modPage, modPage, pageKey_page]

include hb

theorem devWrite_half : devWrite d o bs false = stored (healRow d o) o bs ((healRow d o).poison.filter (· != o)) := by
  have hne : bs.isEmpty = false := by cases bs with | nil => cases hb | cons => rfl
  have hlt : ¬ hostBase ≤ o := by simp only [hostBase, pierEnd] at *; omega
  rw [devWrite, hne, if_neg Bool.false_ne_true, if_neg hlt, hb, unitsIn_half ho h64, touch_half ho h64]
  simp only [List.foldl_cons, List.foldl_nil, poisonAfter_half ho h64]
  rfl

/-- After a good write a half-line is not poisoned, and the others are as before. -/
theorem unitPoisoned_devWrite_half {x : Nat} (hx : x % 64 = 0) :
    unitPoisoned (devWrite d o bs false) x = if x = o then false else unitPoisoned d x := by
  have hlost : rowLost (devWrite d o bs false) x = rowLost (healRow d o) x := by rw [devWrite_half ho h64 hb]; rfl
  have hflash : flashGone (devWrite d o bs false) x = flashGone (healRow d o) x := by rw [devWrite_half ho h64 hb]; rfl
  have hmark : x ∈ (devWrite d o bs false).poison ↔ x ∈ (healRow d o).poison ∧ x ≠ o := by
    rw [devWrite_half ho h64 hb]
    exact List.mem_filter.trans (by rw [bne_iff_ne])
  split
  · next h =>
    subst h
    rw [Bool.eq_false_iff, ne_eq, unitPoisoned_iff, hlost, hflash, hmark, rowLost_healRow_self d ho, flashGone_pier _ ho]
    simp
  · next h =>
    rw [← unitPoisoned_healRow d o hx, Bool.eq_iff_iff, unitPoisoned_iff, unitPoisoned_iff, hlost, hflash, hmark, and_iff_left h]

end

/-! What a byte of the device space reads as. -/

theorem devRead_pierByte {b : Nat} (hb : b < pierEnd) (d : Dev) : devRead d b 1 = [if unitPoisoned d (b / 64 * 64) then 0 else memGet d.mem b] := by
  have hlt : ¬ hostBase ≤ b := by simp only [hostBase, pierEnd] at *; omega
  rw [devRead, if_neg hlt, decide_eq_true hb, Bool.true_and, unitsIn_byte hb]
  simp only [List.any_cons, List.any_nil, Bool.or_false]
  cases h : unitPoisoned d (b / 64 * 64) <;> simp [memRead, h]

theorem devRead_host {d t : Dev} {b : Nat} (hb : hostBase ≤ b) (hm : t.hmem = d.hmem) (hi : t.insts = d.insts) (n : Nat) :
    devRead t b n = devRead d b n := by
  have hkey : windowKey t b n = windowKey d b n := by simp only [windowKey, instSt, hi]
  rw [devRead, devRead, if_pos hb, if_pos hb, hkey, hm]

/-- A byte reads as before where memory, the mark of its half-line and the windows are as before. -/
theorem devRead_byte_congr {d t : Dev} {b : Nat} (hmem : memGet t.mem b = memGet d.mem b)
    (hmark : b < pierEnd → unitPoisoned t (b / 64 * 64) = unitPoisoned d (b / 64 * 64)) (hm : t.hmem = d.hmem) (hi : t.insts = d.insts) :
    devRead t b 1 = devRead d b 1 := by
  by_cases h : hostBase ≤ b
  · exact devRead_host h hm hi 1
  · by_cases hb : b < pierEnd
    · rw [devRead_pierByte hb, devRead_pierByte hb, hmem, hmark hb]
    · rw [devRead_byte (Nat.not_lt.1 hb) (Nat.not_le.1 h), devRead_byte (Nat.not_lt.1 hb) (Nat.not_le.1 h), hmem]

end Sys2Proof.Machine
end

section
/-! ### Page ownership (O33) -/

namespace Sys2Proof.Machine

theorem devWrite_pier_mem {o : Nat} (ho : o < pierEnd) (d : Dev) (bs : List Byte) (p : Bool) : (devWrite d o bs p).mem = memWrite d.mem o bs :=
  devWrite_mem (by simp only [hostBase, pierEnd] at *; omega) d bs p

section
variable {d : Dev} {o : Nat} (ho : o < pierEnd) (h64 : o % 64 = 0)
include ho h64

/-- A half-line in the window is reached as its page and the ashlar map allow (R231, R265). -/
theorem accessErr_half (w : Who) (write : Bool) :
    accessErr d w write o 64 = if pageAllows (pageOf d o) w write && !mapMeets d w o 64 then none else some 0x4308 := by
  have hfit : o + 64 ≤ pierEnd := by simp only [pierEnd] at *; omega
  have hpage : pageOf d (o / 2097152 * 2097152) = pageOf d o := by rw [pageOf, pageKey_page, pageOf]
  rw [accessErr, if_neg (by decide), if_pos hfit, pagesIn_half h64]
  simp only [List.all_cons, List.all_nil, Bool.and_true, hpage]

variable {bs : List Byte} (hb : bs.length = 64)
include hb

/-- All that a good write of a half-line changes. -/
theorem devWrite_half_only : ∃ m l x, devWrite d o bs false = { d with mem := m, poison := l, pier := x } := by
  obtain ⟨m, l, e⟩ := healRow_only d o
  rw [devWrite_half ho h64 hb, e]
  exact ⟨_, _, _, rfl⟩

theorem pageOf_devWrite_half : pageOf (devWrite d o bs false) o = dirtied (pageOf d o) := by
  obtain ⟨m, l, e⟩ := healRow_only d o
  rw [devWrite_half ho h64 hb, e]
  exact tget_tset_self _ _ _ _

/-- A byte of the half-line reads as it was written. -/
theorem devRead_devWrite_in (hm : memWf d.mem = true) {j : Nat} (hj : j < 64) :
    devRead (devWrite d o bs false) (o + j) 1 = [lget 0 bs j] := by
  have hself : (o + j) / 64 * 64 = o := by omega
  have hin : o + j < pierEnd := by simp only [pierEnd] at *; omega
  rw [devRead_pierByte hin, hself, unitPoisoned_devWrite_half ho h64 hb h64, if_pos rfl, devWrite_pier_mem ho d bs false,
    memGet_memWrite_in hm _ _ _ (by omega), lget, List.getElem?_eq_getElem (by omega)]
  rfl

/-- A byte elsewhere reads as before. -/
theorem devRead_devWrite_out (hm : memWf d.mem = true) {b : Nat} (hout : b < o ∨ o + 64 ≤ b) :
    devRead (devWrite d o bs false) b 1 = devRead d b 1 := by
  obtain ⟨m, l, x, e⟩ := devWrite_half_only (d := d) ho h64 hb
  refine devRead_byte_congr ?_ (fun _ => ?_) (by rw [e]) (by rw [e])
  · rw [devWrite_pier_mem ho d bs false, memGet_memWrite_out hm _ _ _ (by omega)]
  · rw [unitPoisoned_devWrite_half ho h64 hb (by omega), if_neg (by omega)]

end

/-! The bytes of a masked write. -/

theorem merged_length (mask : Nat) (bs old : List Byte) : (merged mask bs old).length = 64 := by
  rw [merged, List.length_map, List.length_range]

theorem lget_merged (mask : Nat) (bs old : List Byte) {j : Nat} (hj : j < 64) :
    lget 0 (merged mask bs old) j = if bitOf mask j then lget 0 bs j else lget 0 old j := by
  rw [lget, merged, List.getElem?_map, List.getElem?_range hj]
  rfl

theorem bitOf_full {j : Nat} (hj : j < 64) : bitOf (2 ^ 64 - 1) j = true := by
  rw [bitOf, Nat.testBit_two_pow_sub_one, decide_eq_true hj]

/-- Under a full mask nothing of the old bytes is left. -/
theorem merged_full {bs : List Byte} (hb : bs.length = 64) (old : List Byte) : merged (2 ^ 64 - 1) bs old = bs := by
  refine List.ext_getElem (by rw [merged_length, hb]) fun j h1 h2 => ?_
  simp only [merged, List.getElem_map, List.getElem_range, bitOf_full (hb ▸ h2), if_true, lget, List.getElem?_eq_getElem h2, Option.getD_some]

theorem lget_devRead {d : Dev} {o : Nat} (ho : o < pierEnd) (h64 : o % 64 = 0) (hp : unitPoisoned d o = false) {j : Nat} (hj : j < 64) :
    [lget 0 (devRead d o 64) j] = devRead d (o + j) 1 := by
  have hself : (o + j) / 64 * 64 = o := by omega
  have hin : o + j < pierEnd := by simp only [pierEnd] at *; omega
  have hlt : ¬ hostBase ≤ o := by simp only [hostBase, pierEnd] at *; omega
  rw [devRead_pierByte hin, hself, hp, devRead, if_neg hlt, unitsIn_half ho h64]
  simp only [List.any_cons, List.any_nil, hp, Bool.or_false, Bool.and_false, Bool.false_eq_true, if_false, lget, memRead,
    List.getElem?_map, List.getElem?_range hj, Option.map_some, Option.getD_some]

theorem rowLost_of_sound {d : Dev} {o : Nat} (ho : o < pierEnd) (hp : unitPoisoned d o = false) : rowLost d o = false := by
  rw [Bool.eq_false_iff] at hp ⊢
  exact fun hl => hp ((unitPoisoned_iff d o).2 (.inr (.inl ⟨ho, hl⟩)))

/-- A good write that page ownership admits, to a half-line that it fills or that is sound, stores the masked bytes (R229, R250). -/
theorem pierWriteRow_good {d : Dev} {w : Who} {o : Nat} {m : Word} {bs : List Byte} (ho : o < pierEnd) (h64 : o % 64 = 0) (hb : bs.length = 64)
    (ha : accessErr d w true o 64 = none) (hcase : m.toNat = 2 ^ 64 - 1 ∨ unitPoisoned d o = false) :
    pierWriteRow d w o m.toNat bs false [] = devWrite d o (merged m.toNat bs (devRead d o 64)) false := by
  by_cases hm : m.toNat = 2 ^ 64 - 1
  · rw [pierWriteRow_full ha hb hm, hm, merged_full hb]
  · have hp : unitPoisoned d o = false := hcase.resolve_left hm
    rw [pierWriteRow_partial ha hm, readHalf_clean hp (rowLost_of_sound ho hp)]
    exact afterRead_sound (by rw [Bool.or_self, unitPoisoned_devWrite_half ho h64 (merged_length _ _ _) h64, if_pos rfl]) true

/-- A write that page ownership refuses is not made, and ends its context (R231, R431). -/
theorem pierWriteRow_refused {d : Dev} {i x o : Nat} (ho : o < pierEnd) (h64 : o % 64 = 0) (h : pageAllows (pageOf d o) (.ctx i x) true = false)
    (mask : Nat) (bs : List Byte) (p : Bool) (err : List (Nat × Nat)) :
    pierWriteRow d (.ctx i x) o mask bs p err = endCtx d i x 0x4308 o (pierDetail o) := by
  have ha : accessErr d (.ctx i x) true o 64 = some 0x4308 := by
    rw [accessErr_half ho h64, h, Bool.false_and, if_neg Bool.false_ne_true]
  rw [pierWriteRow, pierWrite, ha]
  exact afterRead_unread _ _

theorem pageAllows_ctx_write (e : PageEnt) (i x : Nat) : pageAllows e (.ctx i x) true = true ↔ e.owner = i ∧ e.slot = false := by
  simp [pageAllows, and_comm]

/-- Settles O33: a write that its page admits stores the masked bytes, any other ends the context. -/
theorem pageRules : Obligations.PageRules := by
  unfold Obligations.PageRules
  intro s i x l m bs hr hb hm
  dsimp only
  have ho : 64 * l.val < pierEnd := by simp only [pierEnd]; omega
  have h64 : 64 * l.val % 64 = 0 := Nat.mul_mod_right 64 _
  refine ⟨fun how hsl hmap hcase => ?_, fun hforeign => ?_⟩
  · have ha : accessErr s.dev (.ctx i x) true (64 * l.val) 64 = none := by
      rw [accessErr_half ho h64, (pageAllows_ctx_write _ i x).2 ⟨how, hsl⟩, hmap]
      rfl
    have hlen := merged_length m.toNat bs (devRead s.dev (64 * l.val) 64)
    obtain ⟨m', l', x', e⟩ := devWrite_half_only (d := s.dev) ho h64 hlen
    refine ⟨_, onDev_eq hr (fun d => pierWriteRow d (.ctx i x) (64 * l) m.toNat bs false []) (pierWriteRow_good ho h64 hb ha hcase),
      fun j hj => ?_, fun b hout => devRead_devWrite_out ho h64 hlen hm hout, ?_, ?_, ?_, ?_, ?_, ?_, ?_⟩
    · refine (devRead_devWrite_in ho h64 hlen hm hj).trans ?_
      rw [lget_merged _ _ _ hj]
      split
      · rfl
      · next hbit =>
        exact lget_devRead ho h64 (hcase.resolve_left fun hfull => hbit (by rw [hfull, bitOf_full hj])) hj
    · rw [unitPoisoned_devWrite_half ho h64 hlen h64, if_pos rfl]
    · rw [pageOf_devWrite_half ho h64 hlen, dirtied]
    · rw [pageOf_devWrite_half ho h64 hlen, dirtied, how]
    · rw [devWrite_pier_mem ho _ _ false]
      exact memWrite_wf hm _ _
    all_goals simp only [e]
  · have hno : pageAllows (pageOf s.dev (64 * l.val)) (.ctx i x) true = false := by
      rw [Bool.eq_false_iff, ne_eq, pageAllows_ctx_write]
      rintro ⟨how, hsl⟩
      exact hforeign.elim (fun h => by rw [hsl] at h; cases h) fun h => h how
    refine ⟨_, onDev_eq hr (fun d => pierWriteRow d (.ctx i x) (64 * l) m.toNat bs false []) (pierWriteRow_refused ho h64 hno _ _ _ _), rfl, ?_, ?_, ?_⟩
    · exact endCtx_mem ..
    · exact endCtx_poison ..
    · exact endCtx_pier ..

end Sys2Proof.Machine
end

section
/-! ### BAR 2 and the pages of others (O50) -/

namespace Sys2Proof.Machine

/-- A place of the pier window is left as it was: its byte, the mark of its half-line and its page's entry. -/
structure SamePlace (b : Nat) (d t : Dev) : Prop where
  byte : memGet t.mem b = memGet d.mem b
  mark : t.poison.contains (b / 64 * 64) = d.poison.contains (b / 64 * 64)
  page : pageOf t b = pageOf d b

theorem SamePlace.refl (b : Nat) (d : Dev) : SamePlace b d d := ⟨rfl, rfl, rfl⟩

theorem SamePlace.trans {b : Nat} {d t u : Dev} (h : SamePlace b d t) (k : SamePlace b t u) : SamePlace b d u :=
  ⟨k.byte.trans h.byte, k.mark.trans h.mark, k.page.trans h.page⟩

theorem SamePlace.of_eq {b : Nat} {d t : Dev} (hm : t.mem = d.mem) (hp : t.poison = d.poison) (hx : t.pier = d.pier) : SamePlace b d t :=
  ⟨by rw [hm], by rw [hp], by rw [pageOf, hx, pageOf]⟩

theorem SamePlace.foldl {α : Type} {b : Nat} {f : Dev → α → Dev} {l : List α} (h : ∀ x ∈ l, ∀ d, SamePlace b d (f d x)) (d : Dev) :
    SamePlace b d (l.foldl f d) :=
  List.foldlRecOn l f (motive := fun e => SamePlace b d e) (.refl b d) fun e he x hx => he.trans (h x hx e)

/-- A range that keeps off a place's page: it lies beyond the pier window, or within the window on other pages. -/
def KeepsOff (b a n : Nat) : Prop := pierEnd ≤ a ∨ a + n ≤ pierEnd ∧ ∀ q ∈ pagesIn a n, pageKey q ≠ pageKey b

/-- The pages that a range touches are none of a place that it keeps off. -/
theorem KeepsOff.touch {b a n : Nat} (h : KeepsOff b a n) (d : Dev) : SamePlace b d (touch d a n) := by
  rw [Machine.touch]
  split
  · next ha =>
    obtain ⟨-, hpages⟩ := h.resolve_left (Nat.not_le.2 ha)
    refine SamePlace.foldl (fun q hq e => ?_) d
    exact ⟨rfl, rfl, tget_tset_ne _ _ (hpages q hq).symm _⟩
  · exact .refl b d

section
variable {b a n : Nat} (hb : b < pierEnd) (hn : 0 < n) (h : KeepsOff b a n)
include hn h

/-- No carrier unit of the range lies on the place's page. -/
theorem KeepsOff.unit {u : Nat} (hu : u ∈ unitsIn a n) : pierEnd ≤ u ∨ pageKey u ≠ pageKey b := by
  obtain ⟨k, h1, h2, rfl⟩ := (mem_unitsIn hn).1 hu
  rcases h with ha | ⟨hfit, hpages⟩
  · rw [unitSize_beyond ha] at h1 ⊢
    simp only [pierEnd] at *
    omega
  · have ha : a < pierEnd := by omega
    rw [unitSize_pier ha] at h1 h2 ⊢
    right
    have hq : k * 64 / 2097152 * 2097152 ∈ pagesIn a n := (mem_pagesIn hn).2 ⟨k * 64 / 2097152, by omega, by omega, rfl⟩
    rw [← pageKey_page (k * 64)]
    exact hpages _ hq

include hb

theorem KeepsOff.byte : b < a ∨ a + n ≤ b := by
  rcases h with ha | ⟨hfit, hpages⟩
  · exact .inl (by omega)
  · refine Decidable.byContradiction fun hin => ?_
    have hq : b / 2097152 * 2097152 ∈ pagesIn a n := (mem_pagesIn hn).2 ⟨b / 2097152, by omega, by omega, rfl⟩
    exact hpages _ hq (pageKey_page b)

theorem KeepsOff.half : b / 64 * 64 ∉ unitsIn a n := by
  intro hu
  rcases h.unit hn hu with hlt | hkey
  · omega
  · exact hkey (pageKey_half b)

theorem KeepsOff.mark (l : List Nat) (p : Bool) : (poisonAfter l a n p).contains (b / 64 * 64) = l.contains (b / 64 * 64) := by
  refine contains_congr ?_
  have hout := h.half hb hn
  rw [poisonAfter]
  split
  · rw [mem_foldl_natPut, or_iff_right hout]
  · rw [List.mem_filter, and_iff_left]
    simp [hout]

end

theorem pageOf_healRow (d : Dev) (u b : Nat) : pageOf (healRow d u) b = pageOf d b := by
  obtain ⟨m, l, e⟩ := healRow_only d u
  rw [pageOf, pageOf, e]

/-- Healing the row of another page leaves a place. -/
theorem healRow_samePlace {b u : Nat} (hu : pierEnd ≤ u ∨ pageKey u ≠ pageKey b) (d : Dev) : SamePlace b d (healRow d u) := by
  refine ⟨by rw [healRow_mem], contains_congr ?_, pageOf_healRow d u b⟩
  by_cases hl : u < pierEnd ∧ rowLost d u = true
  · rw [mem_poison_healRow hl.1 hl.2, or_iff_right]
    rintro ⟨half, hf, he⟩
    rw [← pageKey_half b, ← he, pageKey_rowHalf u hf] at hu
    exact hu.elim (Nat.not_le.2 hl.1) fun h => h rfl
  · rw [healRow_kept hl]

/-- A write that keeps off a place's page leaves the place. -/
theorem devWrite_samePlace {b a : Nat} {bs : List Byte} {d : Dev} (hb : b < pierEnd) (hm : memWf d.mem = true) (h : bs ≠ [] → KeepsOff b a bs.length)
    (p : Bool) : SamePlace b d (devWrite d a bs p) := by
  by_cases hbs : bs = []
  · rw [hbs]
    exact .refl b d
  have hn : 0 < bs.length := List.length_pos_iff.2 hbs
  have hoff := h hbs
  rw [devWrite, if_neg (by simpa using hbs)]
  split
  · split
    · cases p <;> exact .of_eq rfl rfl rfl
    · exact .refl b d
  · extract_lets e
    have hheal : SamePlace b d e := .foldl (fun u hu e => healRow_samePlace (hoff.unit hn hu) e) d
    have hwf : memWf e.mem = true := (foldl_mem healRow_mem _ d).symm ▸ hm
    have hput : SamePlace b e { e with mem := memWrite e.mem a bs, poison := poisonAfter e.poison a bs.length p } :=
      ⟨memGet_memWrite_out hwf a bs b (hoff.byte hb hn), hoff.mark hb hn _ p, rfl⟩
    exact hheal.trans (hput.trans (hoff.touch _))

/-- An access that is allowed lies on pages of the pier window that allow it, or beyond the window (R231, R293). -/
theorem accessErr_none_cases {d : Dev} {w : Who} {write : Bool} {a n : Nat} (hn : 0 < n) (h : accessErr d w write a n = none) :
    (a + n ≤ pierEnd ∧ ∀ q ∈ pagesIn a n, pageAllows (pageOf d q) w write = true) ∨ pierEnd ≤ a := by
  rw [accessErr, if_neg (by omega)] at h
  split at h
  · next hfit =>
    split at h
    · next hall =>
      rw [Bool.and_eq_true, List.all_eq_true] at hall
      exact .inl ⟨hfit, hall.1⟩
    · cases h
  · refine .inr (Nat.not_lt.1 fun hlt => ?_)
    have hout {base : Nat} (hb : pierEnd ≤ base) (p : Prop) : ¬ (base ≤ a ∧ p) := fun hx => Nat.not_le.2 hlt (Nat.le_trans hb hx.1)
    rw [if_neg (hout (by decide) _), if_neg (hout (by decide) _), if_neg (hout (by decide) _), if_neg (hout (by decide) _),
      if_neg (hout (by decide) _)] at h
    cases h

/-- A write that is allowed keeps off the pages that refuse it. -/
theorem keepsOff_of_admitted {d : Dev} {w : Who} {a n k b : Nat} (ha : accessErr d w true a n = none) (hk : 0 < k) (hkn : k ≤ n)
    (hb : pageAllows (pageOf d b) w true = false) : KeepsOff b a k := by
  rcases accessErr_none_cases (by omega) ha with ⟨hfit, hpages⟩ | hbeyond
  · refine .inr ⟨by omega, fun q hq hkey => ?_⟩
    obtain ⟨j, h1, h2, rfl⟩ := (mem_pagesIn hk).1 hq
    have hin := hpages _ ((mem_pagesIn (by omega)).2 ⟨j, h1, Nat.le_trans h2 (Nat.div_le_div_right (by omega)), rfl⟩)
    rw [pageOf, hkey, ← pageOf, hb] at hin
    cases hin
  · exact .inl hbeyond

/-- The write of one part of a BAR 2 access, or its refusal. -/
def bar2Part (i off : Nat) (data : List Byte) (ep : Bool) (d : Dev) (p : Nat × Nat) : Dev :=
  if bar2Ok d i p.1 p.2 true then devWrite d (bar2Addr d i p.1) ((data.drop (p.1 - off)).take p.2) ep else bar2Refused d i p.1

theorem bar2Refused_keeps (d : Dev) (i off : Nat) :
    (bar2Refused d i off).mem = d.mem ∧ (bar2Refused d i off).poison = d.poison ∧ (bar2Refused d i off).pier = d.pier := by
  unfold bar2Refused
  dsimp only
  split
  · exact ⟨rfl, rfl, rfl⟩
  · simp only [record_mem, modInst_mem, record_poison, modInst_poison, record_pier, modInst_pier, and_self]

theorem devWrite_mem_wf {d : Dev} (hm : memWf d.mem = true) (a : Nat) (bs : List Byte) (p : Bool) : memWf (devWrite d a bs p).mem = true := by
  by_cases ha : a < hostBase
  · rw [devWrite_mem ha]
    exact memWrite_wf hm a bs
  · rw [devWrite, if_pos (Nat.not_lt.1 ha)]
    split
    · exact hm
    · split
      · cases p <;> exact hm
      · exact hm

theorem bar2Part_mem_wf {d : Dev} (hm : memWf d.mem = true) (i off : Nat) (data : List Byte) (ep : Bool) (p : Nat × Nat) :
    memWf (bar2Part i off data ep d p).mem = true := by
  unfold bar2Part
  split
  · exact devWrite_mem_wf hm _ _ _
  · rw [(bar2Refused_keeps d i p.1).1]
    exact hm

theorem bar2Part_samePlace {d : Dev} {i b : Nat} (hm : memWf d.mem = true) (hb : b < pierEnd)
    (hf : pageAllows (pageOf d b) (.ctx i 16) true = false) (off : Nat) (data : List Byte) (ep : Bool) (p : Nat × Nat) :
    SamePlace b d (bar2Part i off data ep d p) := by
  unfold bar2Part
  split
  · next hok =>
    have ha : accessErr d (.ctx i 16) true (bar2Addr d i p.1) p.2 = none := by
      simp only [bar2Ok, Bool.and_eq_true, Option.isNone_iff_eq_none] at hok
      exact hok.2
    refine devWrite_samePlace hb hm (fun hne => keepsOff_of_admitted ha (List.length_pos_iff.2 hne) ?_ hf) ep
    rw [List.length_take]
    exact Nat.min_le_left _ _
  · obtain ⟨h1, h2, h3⟩ := bar2Refused_keeps d i p.1
    exact .of_eq h1 h2 h3

theorem bar2Write_samePlace {d : Dev} {i b : Nat} (hm : memWf d.mem = true) (hb : b < pierEnd)
    (hf : pageAllows (pageOf d b) (.ctx i 16) true = false) (off : Nat) (data : List Byte) (ep : Bool) :
    SamePlace b d (bar2Write d i off data ep) := by
  have hfold : memWf ((bar2Parts d i off data.length).foldl (bar2Part i off data ep) d).mem = true ∧
      SamePlace b d ((bar2Parts d i off data.length).foldl (bar2Part i off data ep) d) :=
    List.foldlRecOn _ _ (motive := fun e => memWf e.mem = true ∧ SamePlace b d e) ⟨hm, .refl b d⟩ fun e he p _ =>
      ⟨bar2Part_mem_wf he.1 i off data ep p, he.2.trans (bar2Part_samePlace he.1 hb (he.2.page.symm ▸ hf) off data ep p)⟩
  unfold bar2Write
  split
  · exact .refl b d
  · cases ep
    · exact hfold.2
    · exact hfold.2.trans (.of_eq rfl rfl rfl)

/-- Settles O50: each part of the write keeps off the pages that its function may not write. -/
theorem bar2Isolates : Obligations.Bar2Isolates := by
  unfold Obligations.Bar2Isolates
  intro s t i off bs ep hm h b hb hforeign
  have hf : pageAllows (pageOf s.dev b) (.ctx i.val 16) true = false := by
    rw [Bool.eq_false_iff, ne_eq, pageAllows_ctx_write]
    rintro ⟨how, hsl⟩
    exact hforeign.elim (fun h => h how) fun h => by rw [hsl] at h; cases h
  have hsame : SamePlace b s.dev t.dev := by
    rcases onDev_cases s (fun d => bar2Write d i off bs ep) with hx | hx
    · cases (show exec (.bar2Write i off bs ep) s = _ from hx).symm.trans h
      exact .refl b s.dev
    · cases (show exec (.bar2Write i off bs ep) s = _ from hx).symm.trans h
      exact bar2Write_samePlace hm hb hf off bs ep
  exact ⟨hsame.byte, hsame.mark, hsame.page⟩

end Sys2Proof.Machine
end

section
/-! ### The half-line that a read returns (O29) -/

namespace Sys2Proof.Machine

/-- A device with a page that function 3 owns and two bytes in it, which has put out an advisory error message. -/
def spokenDev : Dev :=
  { pier := { pages := [(pageKey 0, { owner := 3 })] }
    mem := [(64, 1), (65, 2)]
    outs := [.aerAdvisory] }

/-- A corrected read puts its half-line in front of what the device put out before. -/
theorem pierReadRow_spokenDev_outs : (pierReadRow spokenDev (.ctx 3 0) 64 [(66, 0xFF)]).outs =
    [.halfLine 64 (devRead spokenDev 64 64) false, .aerAdvisory] := by decide +kernel

/-- Refutes O29: the outputs are listed newest first, and the statement takes the half-line read for the last of the list. After an earlier
output, here an advisory error message, the last is that one. -/
theorem not_pierCorrectsOneSymbol : ¬ Obligations.PierCorrectsOneSymbol := by
  unfold Obligations.PierCorrectsOneSymbol
  intro h
  let s : State := { pending := [], perstN := true, dev := spokenDev }
  have hr : Runs s := ⟨rfl, rfl⟩
  obtain ⟨t, ht, hlast, -⟩ := h s (.ctx 3 0) 1 66 0xFF hr (by decide) (by decide) (by decide) rfl (by decide +kernel) (by decide +kernel)
    (by decide +kernel)
  have hex : exec (.pierRead (.ctx 3 0) 1 [(66, 0xFF)]) s =
      .next (withDev s (pierReadRow spokenDev (.ctx 3 0) 64 [(66, 0xFF)])) :=
    onDev_runs hr fun d => pierReadRow d (.ctx 3 0) 64 [(66, 0xFF)]
  rw [hex] at ht
  injection ht with ht
  subst ht
  rw [pierReadRow_spokenDev_outs] at hlast
  exact absurd (Option.some.inj hlast) nofun

end Sys2Proof.Machine
end

section
/-! ### The bits of an ashlar map entry (O37) -/

namespace Sys2Proof.Machine

/-! Fields put one above the other. -/

/-- The number made of fields of the widths and values listed, the lowest first. -/
def packFields : List Nat → List Nat → Nat
  | w :: ws, x :: xs => x % 2 ^ w + 2 ^ w * packFields ws xs
  | _, _ => 0

theorem packFields_lt (ws xs : List Nat) : packFields ws xs < 2 ^ ws.sum := by
  induction ws generalizing xs with
  | nil => exact Nat.one_pos
  | cons w ws ih =>
    cases xs with
    | nil => exact Nat.two_pow_pos _
    | cons x xs =>
      have hx : x % 2 ^ w < 2 ^ w := Nat.mod_lt _ (Nat.two_pow_pos w)
      calc x % 2 ^ w + 2 ^ w * packFields ws xs < 2 ^ w * (packFields ws xs + 1) := by rw [Nat.mul_succ]; omega
        _ ≤ 2 ^ w * 2 ^ ws.sum := Nat.mul_le_mul_left _ (ih xs)
        _ = 2 ^ (w :: ws).sum := by rw [← Nat.pow_add, List.sum_cons]

/-- A field stands above those before it. -/
theorem bitsAt_packFields {ws xs : List Nat} {i lo w x : Nat} (hw : ws[i]? = some w) (hx : xs[i]? = some x) (hlo : (ws.take i).sum = lo) :
    bitsAt (packFields ws xs) lo w = x % 2 ^ w := by
  subst hlo
  induction ws generalizing xs i with
  | nil => cases hw
  | cons v ws ih =>
    cases xs with
    | nil => cases hx
    | cons y xs =>
      rw [packFields]
      cases i with
      | zero =>
        obtain ⟨rfl, rfl⟩ : v = w ∧ y = x := ⟨Option.some.inj hw, Option.some.inj hx⟩
        rw [List.take_zero, List.sum_nil, bitsAt_eq_div, Nat.pow_zero, Nat.div_one, Nat.add_mul_mod_self_left, Nat.mod_mod]
      | succ i =>
        have hrest : (y % 2 ^ v + 2 ^ v * packFields ws xs) / 2 ^ v = packFields ws xs := by
          rw [Nat.add_mul_div_left _ _ (Nat.two_pow_pos v), Nat.div_eq_of_lt (Nat.mod_lt _ (Nat.two_pow_pos v)), Nat.zero_add]
        rw [← ih hw hx, List.take_succ_cons, List.sum_cons, bitsAt_eq_div, bitsAt_eq_div, Nat.pow_add, ← Nat.div_div_eq_div_mul, hrest]

theorem bitOf_of_bitsAt {v i : Nat} {b : Bool} (h : bitsAt v i 1 = b2n b) : bitOf v i = b := by
  rw [bitsAt_eq_div, Nat.pow_one] at h
  rw [bitOf, Nat.testBit_eq_decide_div_mod_eq, h]
  cases b <;> rfl

/-! The entry. -/

/-- The widths of a map entry's fields from bit 0 on; the lowest 59 bits are reserved (R265). -/
def ashWidths : List Nat := [59, 1, 4, 3, 3, 2, 8, 8, 8, 8, 1, 7, 12, 12, 24, 32, 64]

/-- The fields of a map entry in the order of its bits (R265). -/
def ashValues (e : AshEnt) : List Nat :=
  [0, e.size, e.layout, e.resident, e.integ, e.promo, e.ppins, e.mpins, e.prefs, e.mrefs, b2n e.shared, e.owner, e.set, e.mortar, e.pier, e.flash,
    e.crc]

theorem ashBits_eq_packFields (e : AshEnt) : ashBits e = packFields ashWidths (ashValues e) := by
  have hshared : b2n e.shared % 2 = b2n e.shared := by cases e.shared <;> rfl
  simp only [ashBits, ashWidths, ashValues, packFields, Nat.reducePow, hshared]
  omega

theorem ashBits_lt (e : AshEnt) : ashBits e < 2 ^ 256 := by
  rw [ashBits_eq_packFields, show 256 = ashWidths.sum by decide]
  exact packFields_lt _ _

/-- The fields of a map entry fit their widths (R265). -/
structure AshFits (e : AshEnt) : Prop where
  crc      : e.crc < 2 ^ 64
  flash    : e.flash < 2 ^ 32
  pier     : e.pier < 2 ^ 24
  mortar   : e.mortar < 4096
  set      : e.set < 4096
  owner    : e.owner < 128
  mrefs    : e.mrefs < 256
  prefs    : e.prefs < 256
  mpins    : e.mpins < 256
  ppins    : e.ppins < 256
  promo    : e.promo < 4
  integ    : e.integ < 8
  resident : e.resident < 8
  layout   : e.layout < 16
  size     : e.size < 2

theorem bitsAt_ashBits {e : AshEnt} (i : Nat) {lo w x : Nat} (hw : ashWidths[i]? = some w) (hlo : (ashWidths.take i).sum = lo)
    (hx : (ashValues e)[i]? = some x) (hlt : x < 2 ^ w) : bitsAt (ashBits e) lo w = x := by
  rw [ashBits_eq_packFields, bitsAt_packFields hw hx hlo, Nat.mod_eq_of_lt hlt]

theorem ashOfBits_ashBits {e : AshEnt} (h : AshFits e) : ashOfBits (ashBits e) = e := by
  have hshared : bitsAt (ashBits e) 104 1 = b2n e.shared := bitsAt_ashBits 10 rfl rfl rfl (by cases e.shared <;> decide)
  rw [ashOfBits, AshEnt.mk.injEq]
  exact ⟨bitsAt_ashBits 16 rfl rfl rfl h.crc, bitsAt_ashBits 15 rfl rfl rfl h.flash, bitsAt_ashBits 14 rfl rfl rfl h.pier,
    bitsAt_ashBits 13 rfl rfl rfl h.mortar, bitsAt_ashBits 12 rfl rfl rfl h.set, bitsAt_ashBits 11 rfl rfl rfl h.owner, bitOf_of_bitsAt hshared,
    bitsAt_ashBits 9 rfl rfl rfl h.mrefs, bitsAt_ashBits 8 rfl rfl rfl h.prefs, bitsAt_ashBits 7 rfl rfl rfl h.mpins,
    bitsAt_ashBits 6 rfl rfl rfl h.ppins, bitsAt_ashBits 5 rfl rfl rfl h.promo, bitsAt_ashBits 4 rfl rfl rfl h.integ,
    bitsAt_ashBits 3 rfl rfl rfl h.resident, bitsAt_ashBits 2 rfl rfl rfl h.layout, bitsAt_ashBits 1 rfl rfl rfl h.size⟩

/-- Settles O37: what each field of the entry is, the reading of the bits gives back, and each field is the bits at its place. -/
theorem ashlarEntryBits : Obligations.AshlarEntryBits := by
  unfold Obligations.AshlarEntryBits
  intro e hcrc hflash hpier hmortar hset howner hmrefs hprefs hmpins hppins hpromo hinteg hresident hlayout hsize
  have hread : ashOfBits (ashBits e) = e := ashOfBits_ashBits
    ⟨hcrc, hflash, hpier, hmortar, hset, howner, hmrefs, hprefs, hmpins, hppins, hpromo, hinteg, hresident, hlayout, hsize⟩
  have htop : ashBits e >>> 192 = e.crc := by
    have hlt : ashBits e >>> 192 < 2 ^ 64 := by
      rw [Nat.shiftRight_eq_div_pow]
      exact Nat.div_lt_of_lt_mul (ashBits_lt e)
    rw [← Nat.mod_eq_of_lt hlt]
    exact congrArg AshEnt.crc hread
  exact ⟨hread, ashBits_lt e, htop, congrArg AshEnt.flash hread, congrArg AshEnt.pier hread, congrArg AshEnt.mortar hread,
    congrArg AshEnt.set hread, congrArg AshEnt.owner hread, congrArg AshEnt.shared hread, congrArg AshEnt.mrefs hread,
    congrArg AshEnt.prefs hread, congrArg AshEnt.mpins hread, congrArg AshEnt.ppins hread, congrArg AshEnt.promo hread,
    congrArg AshEnt.integ hread, congrArg AshEnt.resident hread, congrArg AshEnt.layout hread, congrArg AshEnt.size hread⟩

end Sys2Proof.Machine
end

section
/-! ### A promotion that lands (R268) -/

namespace Sys2Proof.Machine

theorem promoOf_names {d : Dev} {a tier : Nat} {p : Promo} (h : promoOf d a tier = some p) : p.ash = a ∧ p.tier = tier := by
  have hp := List.find?_some h
  rwa [Bool.and_eq_true, beq_iff_eq, beq_iff_eq] at hp

/-- What was read may be given to the instances: codewords were given up, or no poison was read and the CRC-64 is the recorded one (R281). -/
def GoodRead (d : Dev) (p : Promo) : Prop :=
  p.allLost = true ∨ p.lostCw ≠ [] ∨
    (p.pier && isPoisoned d (tierAddr 1 (getAsh d p.ash).pier) (ashBytes (getAsh d p.ash))) = false ∧ crc64 (promoBytes d p) = (getAsh d p.ash).crc

theorem promoDone_lands {d : Dev} {a tier : Nat} {p : Promo} (hp : promoOf d a tier = some p) (hfull : promoFull d p = true)
    (hagain : p.again = false) (hgood : GoodRead d p) : promoDone d a tier 0 = settlePromo (landPromo d p) p := by
  obtain ⟨rfl, rfl⟩ := promoOf_names hp
  have hsame : (p.allLost || decide (p.lostCw ≠ []) ||
      (!(p.pier && isPoisoned d (tierAddr 1 (getAsh d p.ash).pier) (ashBytes (getAsh d p.ash))) &&
        crc64 (promoBytes d p) == (getAsh d p.ash).crc)) = true := by
    rcases hgood with hall | hlost | ⟨hclean, hcrc⟩
    · rw [hall, Bool.true_or, Bool.true_or]
    · rw [decide_eq_true hlost, Bool.or_true, Bool.true_or]
    · rw [hclean, hcrc, beq_self_eq_true, Bool.not_false, Bool.and_self, Bool.or_true]
  simp only [promoDone, hp, hfull, hsame, hagain, b2n, Bool.not_true, Bool.false_eq_true, if_false, Nat.add_zero, Nat.zero_le, and_self, if_true]

/-- Nothing is decided again while no request waits. -/
theorem resumeLater_none {d : Dev} (h : d.tier.later = []) : resumeLater d = d := by
  rw [resumeLater, retryLater, h]
  rfl

end Sys2Proof.Machine
end

section
/-! ### Changes of the ashlar map and the set table -/

namespace Sys2Proof.Machine

/-- The first offset of the ashlar map (R265). -/
def mapBase (d : Dev) : Nat := fget d regTierMapBase fldTierMapBaseBase

/-- Whether an offset lies outside the pages of the ashlar map and the set table (R265, R266). -/
def OffTables (d : Dev) (b : Nat) : Prop := b < mapBase d ∨ mapBase d + 65 * 2097152 ≤ b

/-- Of memory only the tables change and of the registers only `TIER_STATUS`; memory keeps its form, and the same requests wait. -/
structure TablesOnly (d t : Dev) : Prop where
  form  : memWf d.mem = true → memWf t.mem = true
  bytes : memWf d.mem = true → ∀ b, OffTables d b → memGet t.mem b = memGet d.mem b
  regs  : ∀ r, r ≠ regTierStatus → getReg t r = getReg d r
  later : t.tier.later = d.tier.later

/-- A device with memory, registers and waiting requests of another. -/
theorem TablesOnly.keep {d t : Dev} (hm : t.mem = d.mem) (hr : t.regs = d.regs) (hl : t.tier.later = d.tier.later) : TablesOnly d t :=
  ⟨fun h => hm ▸ h, fun _ _ _ => by rw [hm], fun r _ => getReg_of_regs hr r, hl⟩

theorem TablesOnly.mapBase {d t : Dev} (h : TablesOnly d t) : mapBase t = mapBase d := by
  rw [Machine.mapBase, Machine.mapBase, fget, fget, h.regs _ (by decide)]

theorem TablesOnly.trans {d t u : Dev} (h : TablesOnly d t) (k : TablesOnly t u) : TablesOnly d u where
  form hd := k.form (h.form hd)
  bytes hd b hb := by rw [k.bytes (h.form hd) b (by rwa [OffTables, h.mapBase]), h.bytes hd b hb]
  regs r hr := (k.regs r hr).trans (h.regs r hr)
  later := k.later.trans h.later

theorem TablesOnly.foldl {α : Type} {f : Dev → α → Dev} (h : ∀ d x, TablesOnly d (f d x)) (l : List α) (d : Dev) : TablesOnly d (l.foldl f d) :=
  List.foldlRecOn l f (motive := fun e => TablesOnly d e) (.keep rfl rfl rfl) fun e he x _ => he.trans (h e x)

/-- A write within the tables. -/
theorem TablesOnly.write {d : Dev} {a : Nat} {bs : List Byte} (hlo : Machine.mapBase d ≤ a)
    (hhi : a + bs.length ≤ Machine.mapBase d + 65 * 2097152) : TablesOnly d { d with mem := memWrite d.mem a bs } where
  form hd := memWrite_wf hd a bs
  bytes hd b hb := memGet_memWrite_out hd a bs b (hb.imp (fun h => Nat.lt_of_lt_of_le h hlo) fun h => Nat.le_trans hhi h)
  regs _ _ := rfl
  later := rfl

theorem OnlyMem.laters {d t : Dev} (h : OnlyMem d t) : t.tier.later = d.tier.later := by obtain ⟨_, _, _, _, _, _, rfl⟩ := h; rfl

theorem tablesOnly_touch (d : Dev) (a n : Nat) : TablesOnly d (touch d a n) :=
  .keep (touch_mem d a n) (touch_onlyMem d a n).regs (touch_onlyMem d a n).laters

theorem tablesOnly_modTier (d : Dev) {f : TierSt → TierSt} (h : ∀ t, (f t).later = t.later) : TablesOnly d (modTier d f) := .keep rfl rfl (h d.tier)

theorem tablesOnly_fset (d : Dev) (f : Fld) (v : Nat) : TablesOnly d (fset d regTierStatus f v) :=
  ⟨id, fun _ _ _ => rfl, fun _ hr => getReg_fset_ne d hr f v, rfl⟩

theorem ashAddr_fits {a : Nat} (ha : a < ashMax) (d : Dev) :
    mapBase d ≤ ashAddr d a ∧ ashAddr d a + 32 ≤ mapBase d + 65 * 2097152 := by
  simp only [ashAddr, mapBase, ashMax] at *
  omega

theorem setAddr_fits {s : Nat} (hs : s < 4096) (d : Dev) :
    mapBase d ≤ setAddr d s ∧ setAddr d s + 16 ≤ mapBase d + 65 * 2097152 := by
  simp only [setAddr, mapBase]
  omega

theorem tablesOnly_putAsh {a : Nat} (ha : a < ashMax) (d : Dev) (e : AshEnt) : TablesOnly d (putAsh d a e) := by
  obtain ⟨hlo, hhi⟩ := ashAddr_fits ha d
  unfold putAsh
  extract_lets d1 live gone tier d2
  have h1 : TablesOnly d d1 := (TablesOnly.write hlo (by rwa [natLe_length])).trans (tablesOnly_touch _ _ _)
  have h2 : TablesOnly d1 d2 := .keep rfl rfl rfl
  exact (h1.trans h2).trans (tablesOnly_fset _ _ _)

theorem tablesOnly_putSet {n : Nat} (hn : n < 4096) (d : Dev) (e : SetEnt) : TablesOnly d (putSet d n e) := by
  obtain ⟨hlo, hhi⟩ := setAddr_fits hn d
  unfold putSet
  exact (TablesOnly.write hlo (by rwa [natLe_length])).trans (tablesOnly_touch _ _ _)

theorem bitsAt_lt (v lo w : Nat) : bitsAt v lo w < 2 ^ w := Nat.mod_lt _ (Nat.two_pow_pos w)

theorem set_getAsh_lt (d : Dev) (a : Nat) : (getAsh d a).set < 4096 := by
  rw [getAsh, ashOfBits]
  exact Nat.lt_of_lt_of_eq (bitsAt_lt _ 112 12) (by decide)

theorem tablesOnly_freeSpace (d : Dev) : TablesOnly d (freeSpace d) := by
  unfold freeSpace
  extract_lets mu d1 pu
  have h1 : TablesOnly d d1 := .foldl (fun e r => by split <;> exact .keep rfl rfl rfl) _ d
  exact h1.trans (.foldl (fun e o => by split <;> exact .keep rfl rfl rfl) _ d1)

theorem tablesOnly_leaveSet {n : Nat} (hn : n < 4096) (d : Dev) : TablesOnly d (leaveSet d n) := by
  unfold leaveSet
  extract_lets se
  split
  · exact (tablesOnly_putSet hn d _).trans (tablesOnly_modTier _ fun _ => rfl)
  · exact tablesOnly_putSet hn d _

theorem tablesOnly_freeRows (d : Dev) (n : Nat) : TablesOnly d (freeRows d n) := .keep rfl rfl rfl

section
variable {a : Nat} (ha : a < ashMax)
include ha

theorem tablesOnly_addRef (d : Dev) (i tier : Nat) (pin : Bool) : TablesOnly d (addRef d i a tier pin) := by
  unfold addRef countRefs
  extract_lets old q d1 n e
  have h1 : TablesOnly d d1 := tablesOnly_modTier d fun _ => rfl
  exact h1.trans (tablesOnly_putAsh ha d1 _)

theorem tablesOnly_freeCopy (d : Dev) (tier : Nat) : TablesOnly d (freeCopy d a tier) := by
  unfold freeCopy
  extract_lets e addr d1
  split
  · have h1 : TablesOnly d d1 := tablesOnly_putAsh ha d _
    have h2 : TablesOnly d1 { d1 with poison := natDrop d1.poison addr (ashBytes e) } := .keep rfl rfl rfl
    exact (h1.trans h2).trans (tablesOnly_freeSpace _)
  · exact .keep rfl rfl rfl

theorem tablesOnly_freeEntry (d : Dev) : TablesOnly d (freeEntry d a) := by
  unfold freeEntry
  extract_lets e
  have hset : e.set < 4096 := set_getAsh_lt d a
  split
  · exact (((tablesOnly_putAsh ha d {}).trans (tablesOnly_leaveSet hset _)).trans (tablesOnly_freeSpace _)).trans (tablesOnly_freeRows _ _)
  · exact .keep rfl rfl rfl

end

theorem tablesOnly_settlePromo {p : Promo} (hp : p.ash < ashMax) (d : Dev) : TablesOnly d (settlePromo d p) := by
  unfold settlePromo
  extract_lets e loc d1 d2 d3 d4
  have h1 : TablesOnly d d1 := tablesOnly_modTier d fun _ => rfl
  have h2 : TablesOnly d1 d2 := tablesOnly_putAsh hp d1 _
  have hstep (e : Dev) (w : Want) : TablesOnly e (addRef e w.inst p.ash p.tier w.pin) := tablesOnly_addRef hp e w.inst p.tier w.pin
  have h3 : TablesOnly d2 d3 := .foldl hstep p.wants d2
  have h4 : TablesOnly d3 d4 := by
    unfold d4
    split
    · exact tablesOnly_modTier d3 fun _ => rfl
    · exact .keep rfl rfl rfl
  exact (((h1.trans h2).trans h3).trans h4).trans
    (((tablesOnly_freeCopy hp d4 0).trans (tablesOnly_freeCopy hp _ 1)).trans (tablesOnly_freeEntry hp _))

end Sys2Proof.Machine
end

section
/-! ### The bytes of a promotion (O36) -/

namespace Sys2Proof.Machine

/-- A byte outside a range cleared reads as before. -/
theorem memGet_memClear_out (m : List Host.Cell) {a n b : Nat} (h : b < a ∨ a + n ≤ b) : memGet (memClear m a n) b = memGet m b := by
  induction m with
  | nil => rfl
  | cons c m ih =>
    rw [memClear, List.filter_cons, memGet_cons]
    split
    · rw [memGet_cons, ← ih, memClear]
    · next hc =>
      have hne : c.1 ≠ b := by
        rintro rfl
        exact hc (by simpa using h)
      rw [if_neg hne, ← ih, memClear]

theorem devZero_onlyMem (d : Dev) (a n : Nat) : OnlyMem d (devZero d a n) := by
  unfold devZero
  extract_lets e
  have he : OnlyMem d e := by
    unfold e
    split
    · exact .refl d
    · exact .foldl healRow_onlyMem _ d
  exact he.trans ⟨_, _, _, _, _, _, rfl⟩

theorem devZero_mem (d : Dev) (a n : Nat) : (devZero d a n).mem = memClear d.mem a n := by
  unfold devZero
  split
  · rfl
  · exact congrArg (memClear · a n) (foldl_mem healRow_mem _ d)

theorem putCopy_onlyMem (d : Dev) (dst n : Nat) (bs : List Byte) : OnlyMem d (putCopy d dst n bs) := by
  unfold putCopy
  exact ((devZero_onlyMem d dst n).trans ⟨_, _, _, _, _, _, rfl⟩).trans (touch_onlyMem _ dst n)

theorem putCopy_mem (d : Dev) (dst n : Nat) (bs : List Byte) : (putCopy d dst n bs).mem = memWrite (memClear d.mem dst n) dst bs := by
  rw [putCopy, touch_mem, devZero_mem]

/-- The offset from which a promotion reads: the pier copy, else the flash pages (R268). -/
def promoSource (d : Dev) (p : Promo) : Nat :=
  if p.pier then tierAddr 1 (getAsh d p.ash).pier else flashPage (getAsh d p.ash).flash

/-- With every codeword delivered as it was written a promotion has the bytes of its source. -/
theorem promoBytes_source {d : Dev} {p : Promo} (hgot : p.got = []) :
    promoBytes d p = memRead d.mem (promoSource d p) (ashBytes (getAsh d p.ash)) := by
  rw [promoBytes, promoSource, hgot]
  split <;> rfl

/-- With no codeword given up a promotion puts what it read in its place. -/
theorem landPromo_whole {d : Dev} {p : Promo} (hlost : p.lostCw = []) (hall : p.allLost = false) :
    landPromo d p = putCopy d (tierAddr p.tier p.dst) (ashBytes (getAsh d p.ash)) (promoBytes d p) := by
  rw [landPromo, hall, hlost, if_neg Bool.false_ne_true]
  rfl

section
variable {d : Dev} {dst n : Nat} (hd : memWf d.mem = true)
include hd

theorem memWf_putCopy (bs : List Byte) : memWf (putCopy d dst n bs).mem = true := by
  rw [putCopy_mem]
  exact memWrite_wf (memClear_wf hd dst n) dst bs

theorem memGet_putCopy_in (src : Nat) {j : Nat} (hj : j < n) : memGet (putCopy d dst n (memRead d.mem src n)).mem (dst + j) = memGet d.mem (src + j) := by
  have hlen : j < (memRead d.mem src n).length := by simpa [memRead] using hj
  rw [putCopy_mem, memGet_memWrite_in (memClear_wf hd dst n) _ _ _ hlen]
  simp [memRead]

theorem memGet_putCopy_out (src : Nat) {b : Nat} (hb : b < dst ∨ dst + n ≤ b) : memGet (putCopy d dst n (memRead d.mem src n)).mem b = memGet d.mem b := by
  rw [putCopy_mem, memGet_memWrite_out (memClear_wf hd dst n) _ _ _ (by simpa [memRead] using hb), memGet_memClear_out _ hb]

end

/-- Settles O36: the copy's bytes are put in their place, and what follows writes the tables alone. -/
theorem promotionKeepsBytes : Obligations.PromotionKeepsBytes := by
  unfold Obligations.PromotionKeepsBytes
  intro s a k p hr hm ha hp hk hfull hlost hall hagain hgot hlater d e n src dst base hclean hcrc hdst
  obtain ⟨rfl, -⟩ := promoOf_names hp
  have hbytes : promoBytes d p = memRead d.mem src n := promoBytes_source hgot
  have hpoison : (p.pier && isPoisoned d (tierAddr 1 e.pier) n) = false := by
    cases hpier : p.pier with
    | false => rfl
    | true => simpa only [src, hpier, if_true] using hclean
  have hdone : promoDone d p.ash k 0 = settlePromo (landPromo d p) p :=
    promoDone_lands hp hfull hagain (.inr (.inr ⟨hpoison, hbytes ▸ hcrc⟩))
  let d1 := putCopy d dst n (memRead d.mem src n)
  have hland : landPromo d p = d1 := by rw [landPromo_whole hlost hall, hbytes, hk]
  have hwf : memWf d1.mem = true := memWf_putCopy hm _
  have hregs : d1.regs = d.regs := (putCopy_onlyMem d dst n _).regs
  have hbase : mapBase d1 = base := fget_of_regs hregs _ _
  have htab : TablesOnly d1 (settlePromo d1 p) := tablesOnly_settlePromo ha d1
  have hnone : (settlePromo d1 p).tier.later = [] := (htab.later.trans (putCopy_onlyMem d dst n _).laters).trans hlater
  have hrow : resumeLater (promoDone d p.ash k 0) = settlePromo d1 p := by rw [hdone, hland, resumeLater_none hnone]
  refine ⟨withDev s (settlePromo d1 p), onDev_eq hr (fun d => resumeLater (promoDone d p.ash k 0)) hrow, fun j hj => ?_, fun b hout hoff => ?_,
    htab.form hwf, fun r hne => (htab.regs r hne).trans (getReg_of_regs hregs r)⟩
  · have hoff : OffTables d1 (dst + j) := by rw [OffTables, hbase]; omega
    rw [htab.bytes hwf _ hoff]
    exact memGet_putCopy_in hm src hj
  · have hoff1 : OffTables d1 b := by rwa [OffTables, hbase]
    rw [htab.bytes hwf b hoff1]
    exact memGet_putCopy_out hm src hout

end Sys2Proof.Machine
end

section
/-! ### The requests to the tiers manager (O35) -/

namespace Sys2Proof.Machine

/-! A reference that is allowed (R267, R268). -/

theorem evictUntil_ok {i tier n : Nat} {ok : Dev → Bool} {d : Dev} (h : ok d = true) : evictUntil i tier ok n d = d := by
  cases n with
  | zero => rfl
  | succ n => rw [evictUntil, if_pos h]

/-- A new reference that is not refused, does not wait for a rebuild, and stays within the cap of the mortar (R267, R268, R270). -/
structure RefFits (d : Dev) (i a tier : Nat) : Prop where
  allowed : refErr d i a = none
  fresh   : refOf d i a tier = none
  whole   : (getAsh d a).integ ≠ 2
  cap     : tier = 0 → refBytes d i 0 true + ashBytes (getAsh d a) ≤ (instSt d i).part.cap * 1048576 ∧
    refBytes d i 0 false + ashBytes (getAsh d a) ≤ (instSt d i).part.cap * 1048576

section
variable {d : Dev} {i a tier : Nat} (h : RefFits d i a tier)
include h

theorem RefFits.unpinned : ¬ (tier = 0 ∧ (instSt d i).part.cap * 1048576 < refBytes d i 0 true + ashBytes (getAsh d a)) :=
  fun hp => Nat.not_lt.2 (h.cap hp.1).1 hp.2

theorem RefFits.evicts_nothing : (if tier = 0 then
    evictUntil i 0 (fun e => refBytes e i 0 false + ashBytes (getAsh d a) ≤ (instSt d i).part.cap * 1048576) (heldRefs d i 0).length d
    else d) = d := by
  split
  · next ht => exact evictUntil_ok (decide_eq_true (h.cap ht).2)
  · rfl

theorem promote_resident (hres : resident (getAsh d a) tier = true) (pin : Bool) : promote d i a tier pin = (addRef d i a tier pin, .done) := by
  simp only [promote, h.allowed, h.fresh, h.whole, h.unpinned, h.evicts_nothing, hres, Option.isSome_none, Bool.false_eq_true, if_false, if_true]

theorem promote_flying (hres : resident (getAsh d a) tier = false) {p : Promo} (hp : promoOf d a tier = some p) (pin : Bool) :
    promote d i a tier pin = (joinPromo d i a tier pin, .flying) := by
  simp only [promote, h.allowed, h.fresh, h.whole, h.unpinned, h.evicts_nothing, hres, hp, Option.isSome_none, Bool.false_eq_true, if_false]

theorem promote_space (hres : resident (getAsh d a) tier = false) (hp : promoOf d a tier = none) {dst : Nat} {t : Dev}
    (hspace : allocCopy d (getAsh d a) tier = some (dst, t)) (pin : Bool) : promote d i a tier pin = (startPromo t a tier dst i pin, .flying) := by
  simp only [promote, h.allowed, h.fresh, h.whole, h.unpinned, h.evicts_nothing, hres, hp, hspace, Option.isSome_none, Bool.false_eq_true, if_false]

end

/-- No request that waits goes before one that takes no space, or while none waits. -/
theorem ask_of_promote {d t : Dev} {r : AshAsk} {ans : PromoAns} (hq : promote d r.inst r.ash r.tier r.pin = (t, ans)) (hans : ans ≠ .waits)
    (hfree : needsCopy d r = false ∨ d.tier.later = []) : ask d r = (t, ans) := by
  have hfirst : ((refErr d r.inst r.ash).isNone && needsCopy d r &&
      d.tier.later.any (fun q => q.tier == r.tier && needsCopy d q && decide (q.rank ≤ r.rank) && !r.same q)) = false := by
    rcases hfree with hneed | hnone
    · rw [hneed, Bool.and_false, Bool.false_and]
    · rw [hnone, List.any_nil, Bool.and_false]
  simp only [ask, hfirst, hq, hans, Bool.false_eq_true, if_false]

theorem promoteRow_of_ask {d t : Dev} {i a tier : Nat} {ans : PromoAns} (h : ask d { inst := i, ash := a, tier := tier } = (t, ans))
    (hans : ans = .done ∨ ans = .flying) : promoteRow d i a tier = t := by
  rw [promoteRow, h]
  rcases hans with rfl | rfl <;> rfl

theorem needsCopy_resident {d : Dev} {r : AshAsk} (h : resident (getAsh d r.ash) r.tier = true) : needsCopy d r = false := by
  simp only [needsCopy, h, Bool.not_true, Bool.and_false, Bool.false_and]

theorem needsCopy_flying {d : Dev} {r : AshAsk} (h : (promoOf d r.ash r.tier).isSome = true) : needsCopy d r = false := by
  simp only [needsCopy, ← Option.not_isSome, h, Bool.not_true, Bool.and_false]

/-! On-demand promotions (R273). -/

/-- An on-demand promotion is asked for in the context's class. -/
def demandAsk (d : Dev) (i x a : Nat) : AshAsk := { inst := i, ash := a, tier := 0, cls := (ctxSt d i x).cls, demand := true, ctx := some x }

/-- The device with an on-demand promotion asked for and counted. -/
def demandCounted (d : Dev) (i x a : Nat) : Dev :=
  modCtx (fsat (ask d (demandAsk d i x a)).1 regTierCount fldTierCountOndemand 1) i x
    (fun y => { y with tele := { y.tele with onDemand := satAdd 64 y.tele.onDemand 1 } })

theorem demand_done {d : Dev} {i x a : Nat} (h : (ask d (demandAsk d i x a)).2 = .done) : demand d i x a = (demandCounted d i x a, none) := by
  simp only [demandAsk] at h
  simp only [demand, h, demandCounted, demandAsk]

theorem demand_waits {d : Dev} {i x a : Nat} (h : (ask d (demandAsk d i x a)).2 = .flying ∨ (ask d (demandAsk d i x a)).2 = .waits)
    (hnew : (demandCounted d i x a).tier.waits.any (fun w => w.inst == i && w.ctx == x && w.ash == a) = false) :
    demand d i x a = (modTier (demandCounted d i x a) (fun t => { t with waits := { inst := i, ctx := x, ash := a } :: t.waits }), none) := by
  simp only [demandCounted, demandAsk] at h hnew
  rcases h with h | h <;> simp only [demand, h, hnew, Bool.false_eq_true, if_false, demandCounted, demandAsk]

theorem onDemand_of_demand {d t : Dev} {i x a : Nat} (hlive : (ctxSt d i x).live = true) (hend : (ctxSt d i x).ending = none)
    (h : demand d i x a = (t, none)) : onDemand d i x a = t := by
  simp only [onDemand, hlive, hend, h, Bool.not_true, Option.isSome_none, Bool.or_self, Bool.false_eq_true, if_false]

theorem fetchLimit_waiting {d : Dev} {i x : Nat} {w : AshWait} (h : d.tier.waits.find? (fun w => w.inst == i && w.ctx == x) = some w)
    (hq : (ctxSt (stopWaits d i x) i x).queue ≠ []) : fetchLimit d i x = stepDone (stopWaits d i x) i x 0x340E w.ash 0 0 true := by
  rw [fetchLimit, h]
  exact if_neg (mt List.isEmpty_iff.1 hq)

/-! Prefetching (R272). -/

/-- The plan of a context is in a layer, and has left the one before it. -/
def enterLayer (d : Dev) (i x layer : Nat) : Dev :=
  if (ctxSt d i x).layer = some layer then d else modCtx (leaveLayer d i x) i x (fun y => { y with layer := some layer })

/-- An entry of the schedule is asked for when its layer lies ahead, and it is a copy to fetch. -/
def askAhead (cls ahead i x layer : Nat) (d : Dev) (e : PrefEnt) : Dev :=
  if (ctxSt d i x).ending.isNone ∧ layer < e.layer ∧ e.layer ≤ layer + ahead ∧ (!bitOf e.flags 2 ∨ e.dest = 1) then
    let r := ask d { inst := i, ash := e.ash, tier := e.dest, pin := bitOf e.flags 0, cls := cls, ctx := some x }
    match r.2 with
    | .refused st => ashRefused r.1 i x e.ash st
    | _ => r.1
  else d

theorem prefetchLayer_working {d : Dev} {i x layer : Nat} (hlive : (ctxSt d i x).live = true) (hend : (ctxSt d i x).ending = none)
    (hentries : (ctxSt d i x).comp.entries ≠ 0)
    (hacc : accessErr d (.ctx i x) false (ctxSt d i x).comp.schedule (16 * (ctxSt d i x).comp.entries) = none) :
    prefetchLayer d i x layer = (scheduleOf (enterLayer d i x layer) i x).foldl
      (askAhead (ctxSt d i x).cls (fact d regTierPrefetch fldTierPrefetchLookahead) i x layer) (enterLayer d i x layer) := by
  have hworks : ¬ ((!(ctxSt d i x).live || (ctxSt d i x).ending.isSome || decide ((ctxSt d i x).comp.entries = 0)) = true) := by
    simp [hlive, hend, hentries]
  rw [prefetchLayer, if_neg hworks, hacc]
  rfl

/-- Settles O35: each request under the conditions in which the tiers manager serves it. -/
theorem tierRequests : Obligations.TierRequests := by
  unfold Obligations.TierRequests
  intro s i x a k hr d e
  refine ⟨?promotion, ?complete, ?demand, ?limit, ?prefetch⟩
  case promotion =>
    intro hallowed hfresh hwhole hcap
    have h : RefFits d i a k := ⟨hallowed, hfresh, hwhole, hcap⟩
    refine ⟨fun hres => ?_, fun hres hfly => ?_, fun hres hnone hlater dst d1 hspace => ?_⟩
    · have hask := ask_of_promote (r := { inst := i, ash := a, tier := k }) (promote_resident h hres false) nofun (.inl (needsCopy_resident hres))
      exact onDev_eq hr (fun d => promoteRow d i a k) (promoteRow_of_ask hask (.inl rfl))
    · obtain ⟨p, hp⟩ := Option.isSome_iff_exists.1 hfly
      have hask := ask_of_promote (r := { inst := i, ash := a, tier := k }) (promote_flying h hres hp false) nofun (.inl (needsCopy_flying hfly))
      exact onDev_eq hr (fun d => promoteRow d i a k) (promoteRow_of_ask hask (.inr rfl))
    · have hask := ask_of_promote (r := { inst := i, ash := a, tier := k }) (promote_space h hres hnone hspace false) nofun (.inr hlater)
      exact onDev_eq hr (fun d => promoteRow d i a k) (promoteRow_of_ask hask (.inr rfl))
  case complete =>
    intro p hp hfull hagain hgood
    obtain ⟨rfl, -⟩ := promoOf_names hp
    exact onDev_eq hr (fun d => resumeLater (promoDone d p.ash k 0)) (congrArg resumeLater (promoDone_lands hp hfull hagain hgood))
  case demand =>
    intro hlive hend r d2
    exact ⟨fun h => onDev_eq hr (fun d => onDemand d i x a) (onDemand_of_demand hlive hend (demand_done h)),
      fun h hnew => onDev_eq hr (fun d => onDemand d i x a) (onDemand_of_demand hlive hend (demand_waits h hnew))⟩
  case limit => exact fun w hw hq => onDev_eq hr (fun d => fetchLimit d i x) (fetchLimit_waiting hw hq)
  case prefetch =>
    intro layer c hlive hend hentries hacc ahead d1 d2
    exact onDev_eq hr (fun d => resumeLater (prefetchLayer d i x layer)) (congrArg resumeLater (prefetchLayer_working hlive hend hentries hacc))

end Sys2Proof.Machine
end

section
/-! ### The reset pin and the device-fatal error: what a command may do to the state (O2, O3, O4, O5, O6) -/

namespace Sys2Proof.Machine

theorem exec_perstNRise (s : State) : exec .perstNRise s = execPerstNRise s := rfl

theorem exec_perstNFall (s : State) : exec .perstNFall s = execPerstNFall s := rfl

theorem exec_bar2Read (i : Fin 65) (off n : Nat) (s : State) : exec (.bar2Read i off n) s = execBar2Read i off n s := rfl

theorem execBar2Read_low {s : State} (h : s.perstN = false) (i : Fin 65) (off n : Nat) : execBar2Read i off n s = .next s := by
  rw [execBar2Read, h, Bool.false_and, if_neg Bool.false_ne_true, onDev_low h]

theorem execBar2Read_dead {s : State} (hp : s.perstN = true) (h : alive s.dev = false) (i : Fin 65) (off n : Nat) :
    execBar2Read i off n s = .next (withDev s (emit s.dev (.cplData true false []))) :=
  if_pos (by rw [hp, h]; rfl)

/-- All that a command can do, the two of PERST_N apart: replace the device. -/
theorem exec_device (c : Instr) (hrise : c ≠ .perstNRise) (hfall : c ≠ .perstNFall) (s : State) : ∃ d, exec c s = .next (withDev s d) := by
  by_cases hread : ∃ i off n, c = .bar2Read i off n
  · obtain ⟨i, off, n, rfl⟩ := hread
    rw [exec_bar2Read, execBar2Read]
    split
    · exact ⟨_, rfl⟩
    · rcases onDev_cases s (fun d => bar2Read d i off n) with h | h <;> exact ⟨_, h⟩
  · obtain ⟨f, hf⟩ := exec_onDev c hrise hfall (fun i off n h => hread ⟨i, off, n, h⟩)
    rcases onDev_cases s f with h | h <;> exact ⟨_, (hf s).trans h⟩

/-- With PERST_N low, only its rise does anything (R487). -/
theorem exec_low {s : State} (h : s.perstN = false) {c : Instr} (hrise : c ≠ .perstNRise) : exec c s = .next s := by
  by_cases hfall : c = .perstNFall
  · rw [hfall, exec_perstNFall, execPerstNFall, h, if_neg Bool.false_ne_true]
  by_cases hread : ∃ i off n, c = .bar2Read i off n
  · obtain ⟨i, off, n, rfl⟩ := hread
    exact execBar2Read_low h i off n
  · obtain ⟨f, hf⟩ := exec_onDev c hrise hfall (fun i off n h => hread ⟨i, off, n, h⟩)
    rw [hf, onDev_low h]

theorem exec_rise {s : State} (h : s.perstN = false) : exec .perstNRise s = .next { s with perstN := true, dev := startBoot s.dev } := by
  rw [exec_perstNRise, execPerstNRise, h, if_neg Bool.false_ne_true]

theorem exec_fall {s : State} (h : s.perstN = true) : exec .perstNFall s = .next { s with perstN := false, dev := resetDev s.dev } := by
  rw [exec_perstNFall, execPerstNFall, if_pos h]

/-- Settles O2: the rows of PERST_N replace the device and the level of the pin, every other command the device alone. -/
theorem queueKept : Obligations.QueueKept := by
  unfold Obligations.QueueKept
  intro c s
  by_cases hrise : c = .perstNRise
  · subst hrise
    rw [exec_perstNRise, execPerstNRise]
    split <;> exact ⟨_, rfl, rfl, fun h => absurd rfl h⟩
  by_cases hfall : c = .perstNFall
  · subst hfall
    rw [exec_perstNFall, execPerstNFall]
    split <;> exact ⟨_, rfl, rfl, fun _ h => absurd rfl h⟩
  obtain ⟨d, hd⟩ := exec_device c hrise hfall s
  exact ⟨_, hd, rfl, fun _ _ => rfl⟩

/-- Settles O5: what is left of the commands after a device-fatal error. -/
theorem fatalFreezes : Obligations.FatalFreezes := by
  unfold Obligations.FatalFreezes
  intro s hp hdead
  refine ⟨fun c hfall hread => ?_, fun i off n => execBar2Read_dead hp hdead i off n, ⟨_, exec_fall hp, rfl, rfl, rfl⟩⟩
  by_cases hrise : c = .perstNRise
  · rw [hrise, exec_perstNRise, execPerstNRise, if_pos hp]
  · obtain ⟨f, hf⟩ := exec_onDev c hrise hfall hread
    rw [hf, onDev_dead hdead]

/-! The device in reset. -/

theorem getReg_secFuse_reset {d : Dev} {fuse : Nat} (h : d.regs = resetRegs fuse) : getReg d regSecFuse = fuse % 2 ^ 64 := by
  simp [getReg, h, resetRegs, tget, tget?]

theorem getReg_secFuse_resetDev (d : Dev) : getReg (resetDev d) regSecFuse = getReg d regSecFuse :=
  (getReg_secFuse_reset rfl).trans (Nat.mod_eq_of_lt (getReg_lt d regSecFuse))

/-- A fundamental reset holds whatever device it resets. -/
theorem resetDev_held (d : Dev) : Held (resetDev d) where
  regs := by rw [getReg_secFuse_resetDev]; rfl
  act := rfl
  mem c hc := by simpa using (List.mem_filter.1 hc).2
  poison b hb := by simpa using (List.mem_filter.1 hb).2
  pins := ⟨rfl, rfl⟩
  life := ⟨rfl, rfl, rfl, rfl⟩
  tbs := rfl
  cores := ⟨rfl, rfl, rfl, rfl⟩
  shares := ⟨rfl, rfl, rfl⟩
  owners := ⟨rfl, rfl, rfl⟩
  units := ⟨rfl, rfl, rfl, rfl⟩
  works := ⟨rfl, rfl, rfl⟩
  health := ⟨rfl, rfl, rfl, rfl⟩

theorem mem_resetDev (d : Dev) {c : Host.Cell} (hlo : flashBase ≤ c.1) (hhi : c.1 < hostBase) : c ∈ (resetDev d).mem ↔ c ∈ d.mem := by
  have hmem : (resetDev d).mem = d.mem.filter (fun c => flashBase ≤ c.1 && c.1 < hostBase) := rfl
  simp [hmem, hlo, hhi]

/-- The machine of `State.reset` is one that a fundamental reset holds, its memory empty. -/
theorem reset_held : Held State.reset.dev where
  regs := by
    have hfuse : getReg State.reset.dev regSecFuse = resetFuse := (getReg_secFuse_reset rfl).trans (by decide)
    rw [hfuse]; rfl
  act := rfl
  mem := nofun
  poison := nofun
  pins := ⟨rfl, rfl⟩
  life := ⟨rfl, rfl, rfl, rfl⟩
  tbs := rfl
  cores := ⟨rfl, rfl, rfl, rfl⟩
  shares := ⟨rfl, rfl, rfl⟩
  owners := ⟨rfl, rfl, rfl⟩
  units := ⟨rfl, rfl, rfl, rfl⟩
  works := ⟨rfl, rfl, rfl⟩
  health := ⟨rfl, rfl, rfl, rfl⟩

theorem instState_reset : instState State.reset.dev 0 = 1 ∧ ∀ i : Fin 65, 1 ≤ i.val → instState State.reset.dev i = 0 := by decide +kernel

/-- Settles O4. -/
theorem resetHeld : Obligations.ResetHeld := by
  unfold Obligations.ResetHeld
  obtain ⟨hbare, hvirtual⟩ := instState_reset
  exact ⟨fun _ => reset_held, reset_held, rfl, rfl, by decide +kernel, hbare, fun i hlo hhi => hvirtual ⟨i, hhi⟩ hlo, fun _ => rfl⟩

/-- Settles O6: the fall of PERST_N, the commands while it is low, and its rise. -/
theorem resetPin : Obligations.ResetPin := by
  unfold Obligations.ResetPin
  refine ⟨fun s h => ⟨_, exec_fall h, rfl, resetDev_held s.dev, rfl, rfl, rfl, getReg_secFuse_resetDev s.dev, rfl, rfl, ?_⟩, fun c s h hrise => exec_low h hrise,
    fun s h => ⟨_, exec_rise h, rfl, rfl, rfl, rfl⟩⟩
  exact fun c hlo hhi => mem_resetDev s.dev hlo hhi

/-! The invariant. -/

theorem inv_of_high {t : State} (h : t.perstN = true) : Sys2Proof.Inv t := fun hlow => absurd (hlow.symm.trans h) Bool.false_ne_true

/-- A command keeps the invariant: with the pin low it does nothing or raises it, with the pin high it resets the device or leaves the pin. -/
theorem exec_keeps_inv {c : Instr} {s t : State} (hs : Sys2Proof.Inv s) (h : exec c s = .next t) : Sys2Proof.Inv t := by
  cases hp : s.perstN with
  | false =>
    by_cases hrise : c = .perstNRise
    · rw [hrise, exec_rise hp] at h
      cases h
      exact inv_of_high rfl
    · rw [exec_low hp hrise] at h
      cases h
      exact hs
  | true =>
    by_cases hfall : c = .perstNFall
    · rw [hfall, exec_fall hp] at h
      cases h
      exact fun _ => resetDev_held s.dev
    · by_cases hrise : c = .perstNRise
      · rw [hrise, exec_perstNRise, execPerstNRise, if_pos hp] at h
        cases h
        exact hs
      · obtain ⟨d, hd⟩ := exec_device c hrise hfall s
        rw [hd] at h
        cases h
        exact inv_of_high hp

/-- Settles O3, by what the front of the queue, or the cycle of an empty one, does to the pin and the device. -/
theorem heldInReset : Obligations.HeldInReset := by
  unfold Obligations.HeldInReset
  intro s t hs h
  cases hq : s.pending with
  | cons c rest => exact exec_keeps_inv (s := { s with pending := rest }) hs ((step_cons hq).symm.trans h)
  | nil =>
    rw [step_nil hq, clockTick] at h
    cases hp : s.perstN with
    | false =>
      rw [onDev_low hp] at h
      cases h
      exact hs
    | true => exact inv_of_high ((onDev_frame h).2.trans hp)

end Sys2Proof.Machine
end

section
/-! ### The address hash (O46) -/

namespace Sys2Proof.Machine

/-- The exclusive or of a list of groups of bits. -/
def xorOf (f : Nat → Nat) (l : List Nat) : Nat := l.foldl (fun h i => h ^^^ f i) 0

theorem foldl_xor (f : Nat → Nat) (z : Nat) (l : List Nat) : l.foldl (fun h i => h ^^^ f i) z = z ^^^ xorOf f l := by
  induction l generalizing z with
  | nil => exact (Nat.xor_zero z).symm
  | cons i l ih => rw [xorOf, List.foldl_cons, List.foldl_cons, ih, ih, Nat.zero_xor, Nat.xor_assoc]

theorem xorOf_cons (f : Nat → Nat) (i : Nat) (l : List Nat) : xorOf f (i :: l) = f i ^^^ xorOf f l := by
  rw [xorOf, List.foldl_cons, foldl_xor, Nat.zero_xor]

theorem xorOf_lt {w : Nat} {f : Nat → Nat} (h : ∀ i, f i < 2 ^ w) (l : List Nat) : xorOf f l < 2 ^ w := by
  induction l with
  | nil => exact Nat.two_pow_pos w
  | cons i l ih => rw [xorOf_cons]; exact Nat.xor_lt_two_pow (h i) ih

theorem xorOf_xor (f g : Nat → Nat) (l : List Nat) : xorOf (fun i => f i ^^^ g i) l = xorOf f l ^^^ xorOf g l := by
  induction l with
  | nil => exact (Nat.xor_self 0).symm
  | cons i l ih =>
    rw [xorOf_cons, xorOf_cons, xorOf_cons, ih]
    ac_rfl

theorem xorOf_congr {f g : Nat → Nat} {l : List Nat} (h : ∀ i ∈ l, f i = g i) : xorOf f l = xorOf g l :=
  List.foldl_ext _ _ 0 fun _ i hi => congrArg _ (h i hi)

theorem bitsAt_xor (a b lo w : Nat) : bitsAt (a ^^^ b) lo w = bitsAt a lo w ^^^ bitsAt b lo w := by
  rw [bitsAt, Nat.shiftRight_xor_distrib, Nat.xor_mod_two_pow]
  rfl

/-- The three-bit groups of a line number above the lowest. -/
def upperGroups (n : Nat) : Nat := xorOf (fun i => bitsAt n (3 * i) 3) (rangeFrom 1 13)

theorem treanHash_eq (a : Nat) : treanHash a = xorOf (fun i => bitsAt (a / 128) (3 * i) 3) (List.range 14) := rfl

theorem treanHash_line (n : Nat) : treanHash (128 * n) = n % 8 ^^^ upperGroups n := by
  rw [treanHash_eq, Nat.mul_div_cancel_left n (by decide)]
  exact xorOf_cons _ 0 (rangeFrom 1 13)

/-- The groups above the lowest are those of the aligned KiB. -/
theorem upperGroups_kib (k : Nat) {i : Nat} (hi : i < 8) : upperGroups (8 * k + i) = upperGroups (8 * k) := by
  refine xorOf_congr fun j hj => ?_
  obtain ⟨m, -, rfl⟩ := List.mem_map.1 hj
  have hshift : ∀ n, n >>> (3 * (1 + m)) = (n / 8) >>> (3 * m) := fun n => by
    rw [show n / 8 = n >>> 3 from (Nat.shiftRight_eq_div_pow n 3).symm, ← Nat.shiftRight_add, Nat.mul_add]
  have hkib : (8 * k + i) / 8 = 8 * k / 8 := by omega
  simp only [bitsAt, hshift, hkib]

/-- Settles O46: a line's agent is its lowest group of bits, turned by the groups that its KiB shares. -/
theorem hashSpreads : Obligations.HashSpreads := by
  unfold Obligations.HashSpreads
  refine ⟨fun a => ⟨xorOf_lt (w := 3) (fun i => Nat.mod_lt _ (by decide)) _, ?sameLine⟩, fun a i j hi hj h => ?spread, fun a b => ?linear⟩
  case sameLine => rw [treanHash_eq, treanHash_eq, Nat.mul_div_cancel _ (by decide)]
  case spread =>
    have hline (l : Nat) (hl : l < 8) : treanHash (a / 1024 * 1024 + 128 * l) = l ^^^ upperGroups (8 * (a / 1024)) := by
      rw [show a / 1024 * 1024 + 128 * l = 128 * (8 * (a / 1024) + l) by omega, treanHash_line, upperGroups_kib _ hl]
      congr 1
      omega
    rw [hline i hi, hline j hj] at h
    exact Nat.xor_left_inj.1 h
  case linear =>
    simp only [treanHash_eq, Nat.mul_div_cancel_left _ (show 0 < 128 by decide), bitsAt_xor]
    exact xorOf_xor _ _ _

end Sys2Proof.Machine
end

section
/-! ### The states of the Trean ports (O40) -/

namespace Sys2Proof.Machine

/-- What leaves the state of every port, the memory and its poison. -/
structure PortsKept (d t : Dev) : Prop where
  mem    : t.mem = d.mem
  poison : t.poison = d.poison
  state  : ∀ q, portState t q = portState d q

theorem PortsKept.refl (d : Dev) : PortsKept d d := ⟨rfl, rfl, fun _ => rfl⟩

theorem PortsKept.trans {d t u : Dev} (h : PortsKept d t) (k : PortsKept t u) : PortsKept d u :=
  ⟨k.mem.trans h.mem, k.poison.trans h.poison, fun q => (k.state q).trans (h.state q)⟩

theorem PortsKept.foldl {α : Type} {f : Dev → α → Dev} (h : ∀ d x, PortsKept d (f d x)) (l : List α) (d : Dev) : PortsKept d (l.foldl f d) :=
  List.foldlRecOn l f (motive := PortsKept d) (.refl d) (fun e he x _ => he.trans (h e x))

/-- A register that is no port's state register. -/
def OffPortState (k : Nat) : Prop := ∀ q, regTrnPortState q ≠ k

theorem portsKept_fset {k : Nat} (h : OffPortState k) (d : Dev) (f : Fld) (v : Nat) : PortsKept d (fset d k f v) :=
  ⟨rfl, rfl, fun q => fget_fset_ne d (h q) f _ v⟩

theorem portsKept_fset_state {f : Fld} (h : 4 ≤ f.lo) (d : Dev) (p v : Nat) : PortsKept d (fset d (regTrnPortState p) f v) := by
  refine ⟨rfl, rfl, fun q => ?_⟩
  by_cases hq : regTrnPortState q = regTrnPortState p
  · rw [portState, hq, fget_fset_beside (g := fldTrnPortStateState) (by decide) (.inr h), portState, hq]
  · exact fget_fset_ne d hq f _ v

theorem portsKept_modPort (d : Dev) (p : Nat) (f : PortSt → PortSt) : PortsKept d (modPort d p f) := ⟨rfl, rfl, fun _ => rfl⟩

theorem portsKept_emit (d : Dev) (o : Out) : PortsKept d (emit d o) := ⟨rfl, rfl, fun _ => rfl⟩

theorem portsKept_charge (d : Dev) (part w : Nat) : PortsKept d (charge d part w) := ⟨rfl, rfl, fun _ => rfl⟩

theorem portsKept_commitReg (d : Dev) (k : Nat) : PortsKept d (commitReg d k) := ⟨rfl, rfl, fun _ => rfl⟩

theorem offPortState_records : OffPortState regMgtFhRecords := fun q => by simp only [regTrnPortState, regMgtFhRecords]; omega

theorem offPortState_trnStatus : OffPortState regTrnStatus := fun q => by simp only [regTrnPortState, regTrnStatus]; omega

theorem offPortState_ctrl (p : Nat) : OffPortState (regTrnPortCtrl p) := fun q => by simp only [regTrnPortState, regTrnPortCtrl]; omega

theorem offPortState_retry (p : Nat) : OffPortState (regTrnPortRetry p) := fun q => by simp only [regTrnPortState, regTrnPortRetry]; omega

theorem offPortState_tx (p : Nat) : OffPortState (regTrnPortTx p) := fun q => by simp only [regTrnPortState, regTrnPortTx]; omega

/-- A record of the fabric's block shows its status in a register of its own. -/
theorem getReg_record_trn (d : Dev) {r : Rec} (h : r.status / 256 % 16 = 5) {k : Nat} (hrec : k ≠ regMgtFhRecords) (hst : k ≠ regTrnStatus) :
    getReg (record d r) k = getReg d k := by
  refine getReg_record_ne d r hrec fun x hx => ?_
  obtain rfl : x = (regTrnStatus, fldTrnStatusLastStatus) := by simpa [lastStatusOf, h] using hx.symm
  exact hst

theorem portsKept_record (d : Dev) {r : Rec} (h : r.status / 256 % 16 = 5) : PortsKept d (record d r) :=
  ⟨record_mem d r, record_poison d r, fun q =>
    congrArg (bitsAt · 0 4) (getReg_record_trn d h (offPortState_records q) (offPortState_trnStatus q))⟩

theorem portsKept_trnReject (d : Dev) (key : Nat) : PortsKept d (trnReject d key) :=
  (portsKept_fset offPortState_trnStatus d _ _).trans (portsKept_record _ (by norm_num))

theorem portsKept_showMode (d : Dev) (p : Nat) (m : TrnMode) : PortsKept d (showMode d p m) :=
  ((portsKept_fset_state (by decide) d p _).trans (portsKept_fset_state (by decide) _ p _)).trans (portsKept_fset_state (by decide) _ p _)

theorem portsKept_retrainPort (d : Dev) (p : Nat) : PortsKept d (retrainPort d p) :=
  ((portsKept_fset (offPortState_retry p) d _ _).trans (.foldl (fun d l => portsKept_charge d _ _) _ _)).trans (portsKept_record _ (by norm_num))

/-- What takes port `p` to state `st` and leaves the other ports, the memory and its poison. -/
structure PortMoves (p st : Nat) (d t : Dev) : Prop where
  mem    : t.mem = d.mem
  poison : t.poison = d.poison
  others : ∀ q, q ≠ p → portState t q = portState d q
  state  : portState t p = st

theorem PortMoves.after {p st : Nat} {d t u : Dev} (h : PortMoves p st t u) (k : PortsKept d t) : PortMoves p st d u :=
  ⟨h.mem.trans k.mem, h.poison.trans k.poison, fun q hq => (h.others q hq).trans (k.state q), h.state⟩

theorem PortMoves.then {p st : Nat} {d t u : Dev} (h : PortMoves p st d t) (k : PortsKept t u) : PortMoves p st d u :=
  ⟨k.mem.trans h.mem, k.poison.trans h.poison, fun q hq => (k.state q).trans (h.others q hq), (k.state p).trans h.state⟩

theorem PortMoves.trans {p st st' : Nat} {d t u : Dev} (h : PortMoves p st d t) (k : PortMoves p st' t u) : PortMoves p st' d u :=
  ⟨k.mem.trans h.mem, k.poison.trans h.poison, fun q hq => (k.others q hq).trans (h.others q hq), k.state⟩

theorem PortsKept.moves {d t : Dev} (h : PortsKept d t) (p : Nat) : PortMoves p (portState d p) d t :=
  ⟨h.mem, h.poison, fun q _ => h.state q, h.state p⟩

theorem regTrnPortState_inj {p q : Nat} (h : regTrnPortState q = regTrnPortState p) : q = p := by
  simp only [regTrnPortState] at h
  omega

theorem portMoves_fset (d : Dev) (p : Nat) {st : Nat} (h : st < 16) : PortMoves p st d (fset d (regTrnPortState p) fldTrnPortStateState st) :=
  ⟨rfl, rfl, fun _ hq => fget_fset_ne d (fun e => hq (regTrnPortState_inj e)) _ _ _, (fget_fset_self (by decide) d _ st).trans (Nat.mod_eq_of_lt h)⟩

/-- A port that changes state is recorded and reported; no other port changes (R297). -/
theorem portMoves_setPortState (d : Dev) (p : Nat) {st : Nat} (h : st < 16) : PortMoves p st d (setPortState d p st) := by
  unfold setPortState
  extract_lets old d1 ups d2 d3 d4 peer d5
  split
  · next hold => exact hold ▸ (PortsKept.refl d).moves p
  · have h2 : PortMoves p st d d2 := (portMoves_fset d p h).then (portsKept_fset offPortState_trnStatus d1 _ ups)
    have h3 : PortsKept d2 d3 := by
      simp only [d3]
      split
      · exact .refl d2
      · exact portsKept_fset_state (by decide) d2 p 0
    have h4 : PortsKept d3 d4 := by
      simp only [d4]
      split
      · exact .refl d3
      · exact portsKept_modPort d3 p _
    exact (((h2.then h3).then h4).then (portsKept_record d4 (by norm_num))).then (portsKept_emit d5 _)

/-! Where each event of a port takes it. -/

/-- The table of port states (R297, R298, R301, R332). -/
def portTable : List (Nat × Nat) :=
  [(0, 1), (1, 2), (2, 1), (2, 3), (2, 0), (3, 4), (3, 0), (4, 5), (4, 7), (5, 6), (6, 5), (6, 7), (1, 0), (4, 0), (5, 0), (6, 0), (7, 0), (3, 2), (4, 2),
   (5, 2), (6, 2), (7, 2), (5, 3), (6, 3), (7, 3), (0, 5), (0, 7)]

/-- Port `p` stays in its state or moves along the table, and nothing else of `PortMoves` changes. -/
def PortGoes (p : Nat) (d t : Dev) : Prop :=
  ∃ st, PortMoves p st d t ∧ (st = portState d p ∨ (portState d p, st) ∈ portTable ∨ 8 < portState d p ∧ st = 0)

theorem PortsKept.goes {d t : Dev} (h : PortsKept d t) (p : Nat) : PortGoes p d t := ⟨_, h.moves p, .inl rfl⟩

theorem PortMoves.goes {p st : Nat} {d t : Dev} (h : PortMoves p st d t) {old : Nat} (hold : portState d p = old) (htab : (old, st) ∈ portTable) :
    PortGoes p d t :=
  ⟨_, h, .inr (.inl (hold ▸ htab))⟩

section
variable (d : Dev) (p : Nat)

theorem signalDetect_goes : PortGoes p d (signalDetect d p) := by
  unfold signalDetect
  split
  · next h => exact (portMoves_setPortState d p (by decide)).goes h (by decide)
  · exact (PortsKept.refl d).goes p

theorem abilityTimeout_goes : PortGoes p d (abilityTimeout d p) := by
  unfold abilityTimeout
  split
  · next h => exact (portMoves_setPortState d p (by decide)).goes h (by decide)
  · exact (PortsKept.refl d).goes p

/-- The choice of a mode trains it or leaves the port down; a port without a partner's ability stays as it is. -/
theorem chooseMode_moves : chooseMode d p = d ∨ ∃ st, (st = 0 ∨ st = 3) ∧ PortMoves p st d (chooseMode d p) := by
  unfold chooseMode
  split
  · exact .inl rfl
  · split
    · exact .inr ⟨0, .inl rfl, portMoves_setPortState d p (by decide)⟩
    · exact .inr ⟨3, .inr rfl, (portMoves_setPortState _ p (by decide)).after ((portsKept_modPort d p _).trans (portsKept_showMode _ p _))⟩

theorem abilityDone_goes (a : Ability) : PortGoes p d (abilityDone d p a) := by
  unfold abilityDone
  split
  · exact (PortsKept.refl d).goes p
  · next h =>
    have h2 : portState d p = 2 := not_not.1 h
    extract_lets d1 d2
    have hkept : PortsKept d d2 := (portsKept_fset_state (by decide) d p _).trans (portsKept_modPort d1 p _)
    split
    · rcases chooseMode_moves d2 p with hsame | ⟨st, hst, hmoves⟩
      · rw [hsame]
        exact hkept.goes p
      · exact (hmoves.after hkept).goes h2 (by rcases hst with rfl | rfl <;> decide)
    · exact ((portMoves_setPortState d2 p (by decide)).after hkept).goes h2 (by decide)

theorem trainDone_goes (ok : Bool) : PortGoes p d (trainDone d p ok) := by
  unfold trainDone
  split
  · exact (PortsKept.refl d).goes p
  · next h =>
    have h3 : portState d p = 3 := not_not.1 h
    split
    · exact (portMoves_setPortState d p (by decide)).goes h3 (by decide)
    · extract_lets struck
      have hmoves := (portMoves_setPortState (modPort d p fun s => { s with struck := struck }) p (st := 2) (by decide)).after (portsKept_modPort d p _)
      rcases chooseMode_moves (setPortState (modPort d p fun s => { s with struck := struck }) p 2) p with hsame | ⟨st, hst, hchosen⟩
      · rw [hsame]
        exact hmoves.goes h3 (by decide)
      · rcases hst with rfl | rfl
        · exact (hmoves.trans hchosen).goes h3 (by decide)
        · exact ⟨3, hmoves.trans hchosen, .inl h3.symm⟩

theorem initDone_goes : PortGoes p d (initDone d p) := by
  unfold initDone
  split
  · exact (PortsKept.refl d).goes p
  · next h =>
    have h4 : portState d p = 4 := not_not.1 h
    extract_lets d1 lanes d2
    have hkept : PortsKept d d2 := (portsKept_modPort d p _).trans (portsKept_fset_state (by decide) d1 p lanes)
    split
    · exact ((portMoves_setPortState d2 p (by decide)).after hkept).goes h4 (by decide)
    · exact ((portMoves_setPortState d2 p (by decide)).after hkept).goes h4 (by decide)

theorem portEnable_goes (on : Bool) : PortGoes p d (portEnable d p on) := by
  unfold portEnable
  split
  · split
    · exact (portsKept_trnReject d _).goes p
    · exact (PortsKept.refl d).goes p
  · next h8 =>
    extract_lets d1 d2
    have hkept : PortsKept d d2 := (portsKept_fset (offPortState_ctrl p) d _ _).trans (portsKept_commitReg d1 _)
    split
    · split
      · next h0 =>
        exact ((portMoves_setPortState _ p (by decide)).after (hkept.trans (portsKept_modPort d2 p _))).goes ((hkept.state p).symm.trans h0) (by decide)
      · exact hkept.goes p
    · refine ⟨0, (portMoves_setPortState _ p (by decide)).after (hkept.trans (portsKept_modPort d2 p _)), ?_⟩
      by_cases hhigh : 8 < portState d p
      · exact .inr (.inr ⟨hhigh, rfl⟩)
      · have hlow : portState d p < 8 := by omega
        generalize portState d p = st at hlow
        interval_cases st
        · exact .inl rfl
        all_goals exact .inr (.inl (by decide))

theorem portRetrain_goes : PortGoes p d (portRetrain d p) := by
  unfold portRetrain
  extract_lets st
  split
  · next h =>
    refine ⟨2, (portMoves_setPortState _ p (by decide)).after ((portsKept_retrainPort d p).trans (portsKept_modPort _ p _)), .inr (.inl ?_)⟩
    change (st, 2) ∈ portTable
    obtain ⟨hlo, hhi⟩ := h
    interval_cases st <;> decide
  · exact (PortsKept.refl d).goes p

theorem portLive_iff : portLive d p = true ↔ portState d p = 5 ∨ portState d p = 6 := by
  simp only [portLive, Bool.or_eq_true, beq_iff_eq]

theorem linkLoss_goes : PortGoes p d (linkLoss d p) := by
  unfold linkLoss
  split
  · next h =>
    have hmoves := (portMoves_setPortState (modPort d p fun s => { s with recal := none }) p (st := 0) (by decide)).after (portsKept_modPort d p _)
    rcases (portLive_iff d p).1 h with h5 | h6
    · exact hmoves.goes h5 (by decide)
    · exact hmoves.goes h6 (by decide)
  · exact (PortsKept.refl d).goes p

/-- A port that takes flits: it is up, degraded or fenced. -/
theorem takesFlits_iff : (portLive d p || portState d p == 7) = true ↔ 5 ≤ portState d p ∧ portState d p ≤ 7 := by
  rw [Bool.or_eq_true, portLive_iff, beq_iff_eq]
  omega

theorem flitNak_goes (seq : Nat) : PortGoes p d (flitNak d p seq) := by
  unfold flitNak
  split
  · exact (PortsKept.refl d).goes p
  · next h =>
    extract_lets s n d1 d2 again k
    have hkept : PortsKept d d2 := (portsKept_fset (offPortState_retry p) d _ _).trans (portsKept_modPort d1 p _)
    split
    · exact (hkept.trans ((portsKept_fset (offPortState_tx p) d2 _ _).trans (portsKept_emit _ _))).goes p
    · refine ⟨3, (portMoves_setPortState _ p (by decide)).after (hkept.trans ((portsKept_retrainPort d2 p).trans (portsKept_modPort _ p _))), .inr (.inl ?_)⟩
      obtain ⟨hlo, hhi⟩ := (takesFlits_iff d p).1 (by simpa only [Bool.not_eq_true', Bool.not_eq_false] using h)
      generalize portState d p = st at hlo hhi
      interval_cases st <;> decide

theorem ageExpiry_goes : PortGoes p d (ageExpiry d p) := by
  unfold ageExpiry
  extract_lets out old n d1 trn d2
  have hkept : PortsKept d d2 := ⟨rfl, rfl, fun _ => rfl⟩
  exact (hkept.trans (.foldl (fun e _ => portsKept_fset (offPortState_retry p) e _ _) _ d2)).goes p

/-- A recalibration that begins leaves a port of one lane down and others degraded; its end brings them back, or to the fenced state (R298). -/
theorem portRecal_goes (lane : Nat) (done : Bool) : PortGoes p d (portRecal d p lane done) := by
  unfold portRecal
  extract_lets s n d1 mask e1 e2 e3 e4 up
  have hbegin : PortsKept d d1 := portsKept_modPort d p _
  have hend : PortsKept d e4 := (((portsKept_modPort d p _).trans (portsKept_fset (offPortState_retry p) e1 _ _)).trans (portsKept_charge e2 _ _)).trans
    (portsKept_record e3 (by norm_num))
  split
  · split
    · next h =>
      obtain ⟨h5, -⟩ := h
      split
      · exact ((portMoves_setPortState d1 p (by decide)).after hbegin).goes h5 (by decide)
      · exact (((portMoves_setPortState d1 p (by decide)).after hbegin).then (portsKept_fset_state (by decide) _ p _)).goes h5 (by decide)
    · exact (PortsKept.refl d).goes p
  · split
    · split
      · next h =>
        have hold : portState d p = 0 ∨ portState d p = 6 := by
          rw [hend.state p] at h
          exact h.imp And.right id
        have hmoves {st : Nat} (hst : st < 16) := ((portMoves_setPortState e4 p hst).after hend).then
          (portsKept_fset_state (f := fldTrnPortStateLanesActive) (by decide) _ p (2 ^ n - 1))
        have hup : up = 7 ∨ up = 5 := ite_eq_or_eq _ _ _
        rcases hold with h0 | h6
        · exact (hmoves (by omega)).goes h0 (by rcases hup with h | h <;> rw [h] <;> decide)
        · exact (hmoves (by omega)).goes h6 (by rcases hup with h | h <;> rw [h] <;> decide)
      · exact hend.goes p
    · exact (PortsKept.refl d).goes p

end

/-- Settles O40: where each event takes its port. -/
theorem portStatesMove : Obligations.PortStatesMove := by
  unfold Obligations.PortStatesMove
  intro s t p i hi h
  have hgoes {f : Dev → Dev} (hf : ∀ d, PortGoes p d (f d)) (h : onDev s f = .next t) : PortGoes p s.dev t.dev := by
    rcases onDev_cases s f with h' | h' <;> rw [h'] at h <;> cases h
    · exact (PortsKept.refl s.dev).goes p
    · exact hf s.dev
  have key : PortGoes p s.dev t.dev := by
    cases hi with
    | detect => exact hgoes (signalDetect_goes · p) h
    | ability a => exact hgoes (abilityDone_goes · p a) h
    | timeout => exact hgoes (abilityTimeout_goes · p) h
    | train ok => exact hgoes (trainDone_goes · p ok) h
    | init => exact hgoes (initDone_goes · p) h
    | enable on => exact hgoes (portEnable_goes · p on) h
    | retrain => exact hgoes (portRetrain_goes · p) h
    | recal l done => exact hgoes (portRecal_goes · p l done) h
    | loss => exact hgoes (linkLoss_goes · p) h
    | nak seq => exact hgoes (flitNak_goes · p seq) h
    | age => exact hgoes (ageExpiry_goes · p) h
  obtain ⟨st, hmoves, hst⟩ := key
  obtain ⟨hmem, hpoison, hothers, rfl⟩ := hmoves
  exact ⟨fun q hq => hothers q (Fin.val_ne_of_ne hq), hmem, hpoison, hst⟩

end Sys2Proof.Machine
end

section
/-! ### The answer to a bad flit (O39) -/

namespace Sys2Proof.Machine

@[simp] theorem emit_outs (d : Dev) (o : Out) : (emit d o).outs = o :: d.outs := rfl

theorem outs_foldl {α : Type} {f : Dev → α → Dev} (h : ∀ d x, (f d x).outs = d.outs) (l : List α) (d : Dev) : (l.foldl f d).outs = d.outs :=
  List.foldlRecOn l f (motive := fun e => e.outs = d.outs) rfl (fun e he x _ => (h e x).trans he)

/-- The symbols corrected on a lane are charged to it (R441). -/
def chargeSyms (f : Flit) (p : Nat) (d : Dev) (l : Nat) : Dev := if lget 0 f.laneSym l = 0 then d else charge d (partTrn p l) (lget 0 f.laneSym l)

theorem chargeSyms_keeps (f : Flit) (p : Nat) (d : Dev) (l : Nat) : (chargeSyms f p d l).outs = d.outs ∧ (chargeSyms f p d l).trn = d.trn := by
  unfold chargeSyms
  split <;> exact ⟨rfl, rfl⟩

/-- A bad flit is answered by a NAK of the flit that its port expects, the newest of what the device has driven: `outs` lists the newest first. -/
theorem flitReceive_bad_outs {d : Dev} {p : Nat} {f : Flit} (hlive : portLive d p = true) (hbad : flitGood f = false) :
    (flitReceive d p f).outs = .flitAck p 2 (portSt d p).expect :: d.outs := by
  let d1 := (List.range 4).foldl (chargeSyms f p) (fsat d (regTrnPortErr p) fldTrnPortErrFecCorr f.fecCorr)
  let d2 := fsat d1 (regTrnPortErr p) (if f.fecBad then fldTrnPortErrFecUncorr else fldTrnPortErrCrcErr) 1
  let lanes := bitList 4 (fget d2 (regTrnPortState p) fldTrnPortStateLanesActive)
  have hrun : flitReceive d p f = emit (lanes.foldl (fun e l => charge e (partTrn p l) (5 * wUnit)) d2) (.flitAck p 2 (portSt d1 p).expect) := by
    rw [flitReceive, hlive, hbad]
    rfl
  have houts : d1.outs = d.outs := outs_foldl (fun e l => (chargeSyms_keeps f p e l).1) _ _
  have htrn : d1.trn = d.trn := trn_foldl (fun e l => (chargeSyms_keeps f p e l).2) _ _
  have hcharged : (lanes.foldl (fun e l => charge e (partTrn p l) (5 * wUnit)) d2).outs = d1.outs :=
    outs_foldl (f := fun e l => charge e (partTrn p l) (5 * wUnit)) (fun _ _ => rfl) lanes d2
  rw [hrun, emit_outs, hcharged, houts, portSt, htrn, ← portSt]

/-- A device that has driven an error message. -/
def toldDev : Dev := { State.reset.dev with outs := [.aerAdvisory] }

/-- The same with port 0 up. -/
def nakDev : Dev := setReg toldDev (regTrnPortState 0) 5

/-- Refutes O39: the clause of a bad flit names the oldest of what the device has driven, which is the NAK only on a device that had driven nothing. -/
theorem not_treanPorts : ¬ Obligations.TreanPorts := by
  unfold Obligations.TreanPorts
  intro h
  let s : State := { pending := [], perstN := true, dev := nakDev }
  have hr : Runs s := ⟨rfl, rfl⟩
  have hlive : portLive nakDev (0 : Fin 8) = true := by decide +kernel
  obtain ⟨-, -, -, -, -, -, -, -, -, hworks⟩ := h s 0 hr
  obtain ⟨-, -, hbad, -, -⟩ := hworks hlive
  obtain ⟨t, ht, hlast, -⟩ := hbad { raw := [] } rfl
  have hrun : exec (.flitReceive 0 { raw := [] }) s = .next (withDev s (flitReceive nakDev (0 : Fin 8) { raw := [] })) :=
    onDev_runs hr (fun d => flitReceive d (0 : Fin 8) { raw := [] })
  rw [hrun] at ht
  cases ht
  rw [flitReceive_bad_outs hlive rfl] at hlast
  exact absurd hlast (by decide)

end Sys2Proof.Machine
end

section
/-! ### A second copy of a write (O42) -/

namespace Sys2Proof.Machine

/-- What leaves the memory, its poison and all that the home agents hold. -/
structure HomeKept (d t : Dev) : Prop where
  env     : t.env = d.env
  mem     : t.mem = d.mem
  poison  : t.poison = d.poison
  lines   : t.trn.lines = d.trn.lines
  cache   : t.trn.cache = d.trn.cache
  exports : t.trn.exports = d.trn.exports
  jobs    : t.jobs = d.jobs

theorem HomeKept.refl (d : Dev) : HomeKept d d := ⟨rfl, rfl, rfl, rfl, rfl, rfl, rfl⟩

theorem HomeKept.trans {d t u : Dev} (h : HomeKept d t) (k : HomeKept t u) : HomeKept d u :=
  ⟨k.env.trans h.env, k.mem.trans h.mem, k.poison.trans h.poison, k.lines.trans h.lines, k.cache.trans h.cache, k.exports.trans h.exports,
    k.jobs.trans h.jobs⟩

theorem HomeKept.foldl {α : Type} {f : Dev → α → Dev} (h : ∀ d x, HomeKept d (f d x)) (l : List α) (d : Dev) : HomeKept d (l.foldl f d) :=
  List.foldlRecOn l f (motive := HomeKept d) (.refl d) (fun e he x _ => he.trans (h e x))

theorem HomeKept.ite {c : Prop} [Decidable c] {d t u : Dev} (ht : HomeKept d t) (hu : HomeKept d u) : HomeKept d (if c then t else u) := by
  split
  · exact ht
  · exact hu

theorem homeKept_fset (d : Dev) (k : Nat) (f : Fld) (v : Nat) : HomeKept d (fset d k f v) := ⟨rfl, rfl, rfl, rfl, rfl, rfl, rfl⟩

theorem homeKept_modPort (d : Dev) (p : Nat) (f : PortSt → PortSt) : HomeKept d (modPort d p f) := ⟨rfl, rfl, rfl, rfl, rfl, rfl, rfl⟩

theorem homeKept_emit (d : Dev) (o : Out) : HomeKept d (emit d o) := ⟨rfl, rfl, rfl, rfl, rfl, rfl, rfl⟩

theorem homeKept_dropAged (d : Dev) (p : Nat) : HomeKept d (dropAged d p) := homeKept_fset d _ _ _

theorem homeKept_drivePkt (d : Dev) (p : Nat) (q : TrnPkt) (wait : Nat) : HomeKept d (drivePkt d p q wait) :=
  ((homeKept_modPort d p _).trans (homeKept_fset _ _ _ _)).trans (homeKept_emit _ _)

/-- A packet that is sent goes into the port's buffers or out of it. -/
theorem homeKept_sendPkt (d : Dev) (p : Nat) (q : TrnPkt) : HomeKept d (sendPkt d p q) := by
  unfold sendPkt
  split
  · exact .refl d
  · dsimp only
    split
    · exact homeKept_drivePkt d p q 0
    · exact homeKept_modPort d p _

theorem homeKept_gwClose (d : Dev) (far chan : Nat) : HomeKept d (gwClose d far chan) := by
  unfold gwClose
  split
  · exact .refl d
  · extract_lets seq aged d1 pkts b t
    have h1 : HomeKept d d1 :=
      .foldl (f := fun e (q : TrnPkt × Nat) => dropAged e q.2) (fun e q => homeKept_dropAged e q.2) _ d
    exact h1.trans ⟨rfl, rfl, rfl, rfl, rfl, rfl, rfl⟩

theorem homeKept_gwPack (d : Dev) (p : Nat) (q : TrnPkt) : HomeKept d (gwPack d p q) := by
  unfold gwPack
  extract_lets far chan n full d1 b rest
  have h1 : HomeKept d d1 := by
    simp only [d1]
    split
    · exact homeKept_gwClose d far chan
    · exact .refl d
  exact h1.trans ⟨rfl, rfl, rfl, rfl, rfl, rfl, rfl⟩

theorem homeKept_arrive {d : Dev} {own : Dev → Dev} (hown : HomeKept d (own d)) (port src epoch age : Nat) (isReq : Bool) (q : TrnPkt) :
    HomeKept d (arrive d port src epoch age isReq q own) := by
  rw [arrive]
  exact .ite (.refl d) (.ite (homeKept_fset d _ _ _) (.ite (homeKept_dropAged d port) (.ite (.ite (homeKept_gwPack d port q) (.refl d)) hown)))

/-- A copy of a request that is in the reply cache is answered from there: by the reply, or by ACCEPT while the request waits on its line (R313). -/
theorem homeKept_homeServe {d : Dev} {op : Nat} {r : TrnReq} (hop : op ≠ 1) (hhost : r.hostFault = false)
    (hcached : (tget? d.trn.cache (cacheKey r)).isSome = true) (p : Nat) : HomeKept d (homeServe d p op r) := by
  by_cases hal : opAligned op r.addr = true
  · rw [homeServe_write hop hal hhost, homeWrite]
    split
    · exact (homeKept_fset d _ _ _).trans (homeKept_sendPkt _ p _)
    · exact (homeKept_fset d _ _ _).trans (homeKept_sendPkt _ p _)
    · next hnone => simp [hnone] at hcached
  · rw [homeServe, if_pos (by simpa using hal)]
    exact homeKept_sendPkt d p _

theorem homeKept_reqArrive {d : Dev} {op : Nat} {r : TrnReq} (hop : op ≠ 1) (hhost : r.hostFault = false)
    (hcached : (tget? d.trn.cache (cacheKey r)).isSome = true) (p : Nat) : HomeKept d (reqArrive d p op r) :=
  homeKept_arrive (homeKept_homeServe hop hhost hcached p) p _ _ _ _ _

/-! The first copy. -/

theorem OnlyMem.env {d t : Dev} (h : OnlyMem d t) : t.env = d.env := by obtain ⟨_, _, _, _, _, _, rfl⟩ := h; rfl

theorem devWrite_env (d : Dev) (a : Nat) (bs : List Byte) (p : Bool) : (devWrite d a bs p).env = d.env := (devWrite_onlyMem d a bs p).env

theorem devPut_env (d : Dev) (a w v : Nat) (p : Bool) : (devPut d a w v p).env = d.env := devWrite_env d a _ p

theorem poisonLine_env (d : Dev) (line : Nat) : (poisonLine d line).env = d.env := (OnlyMem.foldl healRow_onlyMem (unitsIn line 128) d).env

theorem maskedWrite_env (d : Dev) (line mask : Nat) (data : List Byte) (p : Bool) : (maskedWrite d line mask data p).env = d.env := by
  unfold maskedWrite
  extract_lets
  split
  · rfl
  · exact devWrite_env d line _ p

theorem countJobChoice_env (d : Dev) (job : Nat) : (countJobChoice d job).env = d.env := rfl

theorem applyWriteType_env (d : Dev) (op : Nat) (r : TrnReq) : (applyWriteType d op r).1.env = d.env := by
  simp only [applyWriteType, fsat, apply_ite Prod.fst, apply_ite Dev.env, maskedWrite_env, devPut_env, devWrite_env, poisonLine_env,
    countJobChoice_env, fset_env, ite_self]

theorem served_keeps (d1 : Dev) (p op : Nat) (r : TrnReq) (reply : TrnPkt) :
    (served d1 p op r reply).env = d1.env ∧ (tget? (served d1 p op r reply).trn.cache (cacheKey r)).isSome = true := by
  have h := homeKept_sendPkt { d1 with trn := { d1.trn with
    lines := tset d1.trn.lines (r.addr / 128)
      { tget {} d1.trn.lines (r.addr / 128) with until_ := tb2 d1 + lineTime op, isWr := op == 2, src := r.src, job := r.job, counted := false }
    cache := tset d1.trn.cache (cacheKey r) { reply := some reply, job := r.job, at_ := tb2 d1 } } } p reply
  exact ⟨h.env, by rw [served, h.cache, tget?_tset_self]; rfl⟩

/-- Settles O42: the first copy leaves its entry in the reply cache, and an entry there answers every later copy. -/
theorem writeAppliedOnce : Obligations.WriteAppliedOnce := by
  unfold Obligations.WriteAppliedOnce
  intro p r op i hi
  obtain ⟨hop, hexec⟩ : op ≠ 1 ∧ ∀ s, exec i s = onDev s (fun d => reqArrive d p op r) := by
    simp only [List.mem_cons, Prod.mk.injEq, List.not_mem_nil, or_false] at hi
    rcases hi with ⟨rfl, rfl⟩ | ⟨rfl, rfl⟩ | ⟨rfl, rfl⟩ | ⟨rfl, rfl⟩ | ⟨rfl, rfl⟩ | ⟨rfl, rfl⟩ | ⟨rfl, rfl⟩ | ⟨rfl, rfl⟩ | ⟨rfl, rfl⟩ | ⟨rfl, rfl⟩ | ⟨rfl, rfl⟩ | ⟨rfl, rfl⟩ <;>
      exact ⟨by decide, fun s => rfl⟩
  have hcopy (s : State) (hr : Runs s) (hc : (tget? s.dev.trn.cache (cacheKey r)).isSome = true) (hhost : r.hostFault = false) :
      ∃ u, exec i s = .next u ∧ HomeKept s.dev u.dev :=
    ⟨_, (hexec s).trans (onDev_runs hr _), homeKept_reqArrive hop hhost hc p⟩
  refine ⟨fun s hr hc hhost => ?copy, fun s hr h => ?first⟩
  case copy =>
    obtain ⟨u, hu, hk⟩ := hcopy s hr hc hhost
    exact ⟨u, hu, hk.mem, hk.poison, hk.lines, hk.cache, hk.exports, hk.jobs⟩
  case first =>
    have hrun := reqArrive_applies h hop rfl
    obtain ⟨henv, hc⟩ := served_keeps (applyWriteType s.dev op r).1 p op r (applyWriteType s.dev op r).2
    let t : State := withDev s (served (applyWriteType s.dev op r).1 p op r (applyWriteType s.dev op r).2)
    have ht : Runs t := ⟨hr.1, by rw [alive, henv, applyWriteType_env]; exact hr.2⟩
    obtain ⟨⟨-, -, -, -, -, hhost, -⟩, -⟩ := h
    obtain ⟨u, hu, hk⟩ := hcopy t ht hc hhost
    exact ⟨t, u, (hexec s).trans (onDev_eq hr _ hrun), hc, hu, hk.mem, hk.poison⟩

end Sys2Proof.Machine
end

section
/-! ### Corrected errors of the host link (O52) -/

namespace Sys2Proof.Machine

/-- A corrected error is driven before it is recorded, the newest of what the device has driven (R376). -/
theorem linkCorrected_outs (d : Dev) : (linkCorrected d).outs = .aerCorrected :: d.outs := by
  rw [linkCorrected, record_outs, emit_outs]

theorem linkCorrected_env (d : Dev) : (linkCorrected d).env = d.env := by
  rw [linkCorrected, record_env, emit_env]

theorem exec_linkCorrected {s : State} (hr : Runs s) : exec .linkCorrected s = .next (withDev s (linkCorrected s.dev)) :=
  onDev_runs hr linkCorrected

/-- Refutes O52: the two messages are the newest of what was driven, at the front of the list, and the statement puts them behind the others. -/
theorem not_recordsCoalesce : ¬ Obligations.RecordsCoalesce := by
  unfold Obligations.RecordsCoalesce
  intro h
  let s : State := { pending := [], perstN := true, dev := toldDev }
  have hr : Runs s := ⟨rfl, rfl⟩
  obtain ⟨hpair, -⟩ := h s hr rfl
  obtain ⟨t, u, ht, hu, -, -, houts, -⟩ := hpair (by decide) (by decide +kernel) nofun
  have hr' : Runs (withDev s (linkCorrected s.dev)) := ⟨rfl, by rw [alive, linkCorrected_env]; exact hr.2⟩
  rw [exec_linkCorrected hr] at ht
  cases ht
  rw [exec_linkCorrected hr'] at hu
  cases hu
  rw [linkCorrected_outs, linkCorrected_outs] at houts
  exact absurd houts (by decide)

end Sys2Proof.Machine
end

section
/-! ### Replies, their timers, and the end of reply-cache entries (O43) -/

namespace Sys2Proof.Machine

/-! Replies (R305). -/

/-- A reply for the device itself that its port and its fence map let through (R297, R315, R326). -/
theorem arrive_reply {d : Dev} {port op : Nat} {r : TrnRsp} (own : Dev → Dev) (hlive : portLive d port = true)
    (hfence : (tget (false, 0) d.trn.fence r.src).1 = false) (hage : r.age < maxAge) (hdst : r.dst = ownEndpoint d) :
    arrive d port r.src 0 r.age false (.rsp op r) own = own d := by
  simp only [arrive, hlive, hfence, Nat.not_le.2 hage, pktDst, hdst, Bool.not_true, Bool.false_eq_true, if_false, ne_eq, not_true_eq_false]

section
variable {d : Dev} {p : Fin 8} {r : TrnRsp} {o : OutReq} (h : Answers d p r o)
include h

theorem rspArrive_rdData (hop : o.op = 1) : rspArrive d p 0x81 r = readDone d r.tag o r := by
  obtain ⟨hlive, hfence, hage, hdst, hreq, hheld, hsrc⟩ := h
  rw [rspArrive, arrive_reply _ hlive hfence hage hdst]
  simp [hreq, hheld, hsrc, hop]

theorem rspArrive_done (hop : o.op ∈ [2, 0x0A, 0x0B, 0x0C]) : rspArrive d p 0x82 r = writeDone d r.tag o none := by
  obtain ⟨hlive, hfence, hage, hdst, hreq, hheld, hsrc⟩ := h
  have hends : o.op = 2 ∨ o.op = 0x0A ∨ o.op = 0x0B ∨ o.op = 0x0C := by simpa using hop
  rw [rspArrive, arrive_reply _ hlive hfence hage hdst]
  simp [hreq, hheld, hsrc, hends]

theorem rspArrive_atom (hop : o.op ∈ [3, 4, 5, 6, 7, 8, 9, 0x0D]) : rspArrive d p 0x84 r = writeDone d r.tag o (some (r.value, r.poison)) := by
  obtain ⟨hlive, hfence, hage, hdst, hreq, hheld, hsrc⟩ := h
  have hends : (3 ≤ o.op ∧ o.op ≤ 9) ∨ o.op = 0x0D := by
    simp only [List.mem_cons, List.not_mem_nil, or_false] at hop
    omega
  rw [rspArrive, arrive_reply _ hlive hfence hage hdst]
  simp [hreq, hheld, hsrc, hends]

theorem rspArrive_nack : rspArrive d p 0x85 r = endReq d r.tag r.status := by
  obtain ⟨hlive, hfence, hage, hdst, hreq, hheld, hsrc⟩ := h
  rw [rspArrive, arrive_reply _ hlive hfence hage hdst]
  simp [hreq, hheld, hsrc]

theorem rspArrive_accept : rspArrive d p 0x83 r =
    { d with trn := { d.trn with reqs := tset d.trn.reqs r.tag { o with moved := tb2 d, sent := tb2 d } } } := by
  obtain ⟨hlive, hfence, hage, hdst, hreq, hheld, hsrc⟩ := h
  rw [rspArrive, arrive_reply _ hlive hfence hage hdst]
  simp [hreq, hheld, hsrc]

end

/-! Timers (R314, R316, R329). -/

/-- A request whose timers run: it was sent, and its context and instance are not ending. -/
structure Running (d : Dev) (tag : Nat) (o : OutReq) : Prop where
  named : tget? d.trn.reqs tag = some o
  sent  : o.held = false
  ctx   : (ctxSt d o.inst o.ctx).ending = none
  inst  : (instSt d o.inst).ending = none

section
variable {d : Dev} {tag : Nat} {o : OutReq} (h : Running d tag o)
include h

theorem sentReq_running : sentReq d tag = some o := by
  simp [sentReq, h.named, h.sent, h.ctx, h.inst]

theorem writeResend_running (hop : isWriteType o.op = true) (hcopy : o.sent + copyTime ≤ tb2 d) (hprog : tb2 d < o.moved + progressTime) :
    writeResend d tag = resend d tag := by
  simp only [writeResend, sentReq_running h, hop, hcopy, hprog, decide_true, Bool.and_self, if_true]

theorem writeUnknown_running (hop : isWriteType o.op = true) (hprog : o.moved + progressTime ≤ tb2 d) : writeUnknown d tag =
    failReq (toFm (fsat d regTrnReqCnt fldTrnReqCntOutcomeUnknown 1) 0xD1 [o.pkt.dst, o.pkt.job, 1]) tag 0x4502 := by
  simp only [writeUnknown, sentReq_running h, hop, hprog, decide_true, Bool.and_self, if_true]

/-- A read is sent again while it is not late, or was reported before. -/
theorem readResendRow_again (hop : o.op = 1) (hcopy : o.sent + copyTime ≤ tb2 d) (hprog : tb2 d < o.moved + progressTime ∨ o.suspect = true) :
    readResendRow d tag false = resend d tag := by
  have hlate : ¬ (o.moved + progressTime ≤ tb2 d ∧ o.suspect = false) := by
    rintro ⟨hmoved, hsus⟩
    rcases hprog with hprog | hprog
    · omega
    · exact absurd (hsus.symm.trans hprog) Bool.false_ne_true
  simp [readResendRow, readResend, sentReq_running h, hop, hcopy, hlate]

/-- A read that is late for the first time is reported as it is sent again. -/
theorem readResendRow_late (hop : o.op = 1) (hcopy : o.sent + copyTime ≤ tb2 d) (hprog : o.moved + progressTime ≤ tb2 d) (hsus : o.suspect = false) :
    let t := { d.trn with reqs := tset d.trn.reqs tag { o with suspect := true } }
    readResendRow d tag true = resend (toFm { d with trn := t } 0xD1 [o.pkt.dst, o.pkt.job, 0]) tag := by
  simp [readResendRow, readResend, sentReq_running h, hop, hcopy, hprog, hsus]

theorem loadLimit_running (hop : o.op = 1) (hlim : o.moved + o.limit * 8000000 ≤ tb2 d) :
    loadLimit d tag = failReq (fsat d regTrnReqCnt fldTrnReqCntReadTimeout 1) tag 0x4505 := by
  rw [loadLimit, sentReq_running h]
  exact if_pos ⟨hop, hlim⟩

end

/-- An entry whose time is over is freed; no request waits for it (R313, R317). -/
theorem cacheExpiry_over {d : Dev} {h src seq at_ job : Nat} {q : TrnPkt} (hsrc : src < 65536) (hseq : seq < 2 ^ 32)
    (hent : tget? d.trn.cache (h * 2 ^ 48 + src * 2 ^ 32 + seq) = some { reply := some q, job := job, at_ := at_ }) (hover : at_ + 1600000 ≤ tb2 d)
    (hwait : d.trn.portWait = []) :
    cacheExpiry d h src seq = { d with trn := { d.trn with cache := tdel d.trn.cache (h * 2 ^ 48 + src * 2 ^ 32 + seq) } } := by
  have hsrc' : src % 2 ^ 16 = src := Nat.mod_eq_of_lt hsrc
  simp only [cacheExpiry, hsrc', Nat.mod_eq_of_lt hseq, hent, hover, hwait, if_true, List.length_nil, serveWaiting]

/-- Settles O43: each reply and each timer under the conditions in which the requester takes it. -/
theorem replyEnds : Obligations.ReplyEnds := by
  unfold Obligations.ReplyEnds
  intro s p r o tag hr d
  refine ⟨fun h => ?reply, fun hreq hheld hctx hinst => ?timer, ?cache⟩
  case reply =>
    exact ⟨fun hop => onDev_eq hr (fun d => rspArrive d p 0x81 r) (rspArrive_rdData h hop),
      fun hop => onDev_eq hr (fun d => rspArrive d p 0x82 r) (rspArrive_done h hop),
      fun hop => onDev_eq hr (fun d => rspArrive d p 0x84 r) (rspArrive_atom h hop),
      onDev_eq hr (fun d => rspArrive d p 0x85 r) (rspArrive_nack h),
      onDev_eq hr (fun d => rspArrive d p 0x83 r) (rspArrive_accept h)⟩
  case timer =>
    have h : Running d tag o := ⟨hreq, hheld, hctx, hinst⟩
    exact ⟨fun hop => ⟨fun hcopy hprog => onDev_eq hr (fun d => writeResend d tag) (writeResend_running h hop hcopy hprog),
        fun hprog => onDev_eq hr (fun d => writeUnknown d tag) (writeUnknown_running h hop hprog)⟩,
      fun hop => ⟨fun hcopy hprog => onDev_eq hr (fun d => readResendRow d tag false) (readResendRow_again h hop hcopy hprog),
        fun hcopy hprog hsus => onDev_eq hr (fun d => readResendRow d tag true) (readResendRow_late h hop hcopy hprog hsus),
        fun hlim => onDev_eq hr (fun d => loadLimit d tag) (loadLimit_running h hop hlim)⟩⟩
  case cache =>
    intro h src seq at_ job q hsrc hseq k hent hover hwait
    exact onDev_eq hr (fun d => cacheExpiry d h src seq) (cacheExpiry_over hsrc hseq hent hover hwait)

end Sys2Proof.Machine
end

section
/-! ### Gateway mode and the blocks between pods (O44) -/

namespace Sys2Proof.Machine

/-! A write to GW_EN (R322). -/

section
variable {d : Dev} {n : Nat} (hn : n < 256) (hstopped : ((List.range 8).any (fun p => portState d p != 0)) = false)
include hn hstopped

theorem gwEnable_on (hmesh : fget d regTrnTopo fldTrnTopoMesh ≠ 1) (hlo : 1 ≤ (bitList 8 n).length) (hhi : (bitList 8 n).length ≤ 7)
    (hwas : isGateway d = false) (hfree : 32 ≤ ((List.range 256).filter (fun r => tget 127 d.mortar r == 127)).length) :
    gwEnable d true n = { commitReg (setReg d regTrnGw (256 + n)) regTrnGw with
      mortar := (((List.range 256).filter (fun r => tget 127 d.mortar r == 127)).take 32).foldl (fun m r => tset m r 101) d.mortar } := by
  have hfits : ¬ (fget d regTrnTopo fldTrnTopoMesh = 1 ∨ (bitList 8 n).length < 1 ∨ 7 < (bitList 8 n).length ∨
      (!false) = true ∧ ((List.range 256).filter (fun r => tget 127 d.mortar r == 127)).length < 32) := by omega
  simp only [gwEnable, Nat.mod_eq_of_lt hn, hstopped, hwas, if_neg hfits, Bool.false_eq_true, if_false, if_true]
  rfl

theorem gwEnable_off :
    let d1 := { d with mortar := d.mortar.filter (fun p => p.2 != 101), trn := { d.trn with gwOpen := [], gwSent := [], gwEarly := [] } }
    gwEnable d false n = commitReg (setReg d1 regTrnGw n) regTrnGw := by
  simp only [gwEnable, Nat.mod_eq_of_lt hn, hstopped, Bool.false_eq_true, if_false, b2n, Nat.zero_mul, Nat.zero_add]

end

/-! Blocks out (R323). -/

/-- The packets of a block as it closes, with the ports they came by: `AGE` counts the wait and the hop. -/
def agedPkts (d : Dev) (b : GwBlock) : List (TrnPkt × Nat) := (b.pkts.zip b.came).map (fun q => (agePkt (tb2 d - q.2.1 + hopTime) q.1, q.2.2))

theorem gwClose_fresh {d : Dev} {far chan : Nat} {b : GwBlock} (hopen : d.trn.gwOpen = [b]) (hfar : b.far = far) (hchan : b.chan = chan)
    (hfresh : ∀ q ∈ agedPkts d b, pktAge q.1 < maxAge) :
    let seq := tget 0 d.trn.gwSeq (gwKey far chan)
    let pkts := (agedPkts d b).map (·.1)
    gwClose d far chan = emit { d with trn := { d.trn with
        gwOpen := []
        gwSent := d.trn.gwSent ++ [{ b with seq := seq, pkts := pkts, bytes := (pkts.map pktBytes).sum, came := [], sent := tb2 d }]
        gwSeq := tset d.trn.gwSeq (gwKey far chan) ((seq + 1) % 2 ^ 32) } }
      (.block (if chan = 0 then 0x20 else 0xA0) far seq (32 + (pkts.map pktBytes).sum) pkts) := by
  intro seq pkts
  have hkept : (agedPkts d b).filter (fun q => decide (pktAge q.1 < maxAge)) = agedPkts d b :=
    List.filter_eq_self.2 fun q hq => decide_eq_true (hfresh q hq)
  have hdropped : (agedPkts d b).filter (fun q => decide (maxAge ≤ pktAge q.1)) = [] :=
    List.filter_eq_nil_iff.2 fun q hq => by simpa using hfresh q hq
  have hthis : (b.far == far && b.chan == chan) = true := by simp [hfar, hchan]
  rw [agedPkts] at hkept hdropped
  simp only [gwClose, hopen, List.find?_cons, List.filter_cons, List.filter_nil, hthis, hkept, hdropped, List.foldl_nil, Bool.not_true, Bool.false_eq_true,
    if_false]
  rfl

theorem gwDue_fresh {d : Dev} {far chan : Nat} {b : GwBlock} (hopen : d.trn.gwOpen = [b]) (hfar : b.far = far) (hchan : b.chan = chan)
    (hdue : b.came.any (fun q => decide (q.1 + 16000 ≤ tb2 d)) = true) : gwDue d far chan = gwClose d far chan := by
  refine if_pos ?_
  rw [hopen, List.any_cons, hdue, hfar, hchan, beq_self_eq_true, beq_self_eq_true]
  rfl

theorem gwResend_late {d : Dev} {far chan seq : Nat} {b : GwBlock}
    (hb : d.trn.gwSent.find? (fun b => b.far == far && b.chan == chan && b.seq == seq) = some b) (hlate : b.sent + 160000 ≤ tb2 d) :
    let d1 := { d with trn := { d.trn with gwSent := d.trn.gwSent.map (fun y => if y == b then { y with sent := tb2 d } else y) } }
    gwResend d far chan seq = record (emit d1 (.block (if chan = 0 then 0x20 else 0xA0) far seq (32 + b.bytes) b.pkts))
      { status := 0x250B, detail := trnDetail far 0 seq (if chan = 0 then 0x20 else 0xA0) } := by
  simp only [gwResend, hb, if_neg (Nat.not_lt.2 hlate)]

/-! Blocks in (R323). -/

/-- The one block that waits is unpacked when it is next of its channel: each packet's `AGE` counts its wait. -/
theorem unpackEarly_first {d : Dev} {port near chan : Nat} {b : GwBlock} (hearly : d.trn.gwEarly = [b]) (hnear : b.far = near) (hchan : b.chan = chan)
    (hseq : b.seq = tget 0 d.trn.gwSeen (gwKey near chan)) : unpackEarly port near chan 1 d =
      unpack { d with trn := { d.trn with gwEarly := [], gwSeen := tset d.trn.gwSeen (gwKey near chan) ((tget 0 d.trn.gwSeen (gwKey near chan) + 1) % 2 ^ 32) } } port
        ((b.pkts.zip b.came).map (fun q => agePkt (tb2 d - q.2.1) q.1)) := by
  have hthis : (b.far == near && b.chan == chan && b.seq == tget 0 d.trn.gwSeen (gwKey near chan)) = true := by simp [hnear, hchan, hseq]
  simp only [unpackEarly, hearly, List.find?_cons, List.filter_cons, List.filter_nil, hthis, Bool.not_true, Bool.false_eq_true, if_false]

theorem gwEarly_none {t : TrnSt} (h : t.gwEarly = []) (m : Tbl Nat) : { t with gwEarly := [], gwSeen := m } = { t with gwSeen := m } := by
  rw [← h]

theorem agePkt_unwaited (t port : Nat) (pkts : List TrnPkt) :
    (pkts.zip (pkts.map fun _ => (t, port))).map (fun q => agePkt (t - q.2.1) q.1) = pkts.map (agePkt 0) := by
  induction pkts with
  | nil => rfl
  | cons q pkts ih => simp only [List.map_cons, List.zip_cons_cons, ih, Nat.sub_self]

/-- A block next in sequence is acknowledged and unpacked at once: its packets have not waited. -/
theorem blkArrive_next {d : Dev} {p : Fin 8} {near epoch chan seq : Nat} (h : BlockNext d p near epoch chan seq) (pkts : List TrnPkt) :
    let d1 := emit d (.block 0xA1 near seq 32 [])
    blkArrive d p near epoch chan seq pkts =
      unpack { d1 with trn := { d1.trn with gwSeen := tset d1.trn.gwSeen (gwKey near chan) ((seq + 1) % 2 ^ 32) } } p (pkts.map (agePkt 0)) := by
  obtain ⟨hlive, hgw, hfence, hseq, hlt, hearly⟩ := h
  intro d1
  have hnew : ¬ (2 ^ 31 ≤ (seq + 2 ^ 32 - tget 0 d1.trn.gwSeen (gwKey near chan)) % 2 ^ 32 ∨
      d1.trn.gwEarly.any (fun b => b.far == near && b.chan == chan && b.seq == seq) = true) := by
    rintro (hold | hwaits)
    · change 2 ^ 31 ≤ (seq + 2 ^ 32 - tget 0 d.trn.gwSeen (gwKey near chan)) % 2 ^ 32 at hold
      omega
    · rw [show d1.trn.gwEarly = [] from hearly] at hwaits
      exact absurd hwaits Bool.false_ne_true
  let b : GwBlock := { far := near, chan := chan, seq := seq, pkts := pkts, bytes := (pkts.map pktBytes).sum, came := pkts.map fun _ => (tb2 d1, p) }
  let d2 : Dev := { d1 with trn := { d1.trn with gwEarly := d1.trn.gwEarly ++ [b] } }
  have hwaits : d2.trn.gwEarly = [b] := by
    change d.trn.gwEarly ++ [b] = [b]
    rw [hearly, List.nil_append]
  calc blkArrive d p near epoch chan seq pkts
      = unpackEarly p near chan d2.trn.gwEarly.length d2 := by
        simp only [blkArrive, hlive, hgw, hfence, Bool.not_true, Bool.or_self, Bool.false_eq_true, if_false]
        exact if_neg hnew
    _ = _ := by
        rw [hwaits, List.length_singleton, unpackEarly_first hwaits rfl rfl hseq, show tget 0 d2.trn.gwSeen (gwKey near chan) = seq from hseq.symm]
        exact congrArg₂ (fun t l => unpack { d1 with trn := t } p l) (gwEarly_none hearly _) (agePkt_unwaited (tb2 d1) p pkts)

/-- A block received before is acknowledged and discarded. -/
theorem blkArrive_again {d : Dev} {p near epoch chan seq : Nat} (hlive : portLive d p = true) (hgw : isGateway d = true)
    (hfence : fenceDrops d near epoch = false) (hlt : seq < 2 ^ 32) (hseen : (seq + 1) % 2 ^ 32 = tget 0 d.trn.gwSeen (gwKey near chan))
    (pkts : List TrnPkt) : blkArrive d p near epoch chan seq pkts = emit d (.block 0xA1 near seq 32 []) := by
  have hold : 2 ^ 31 ≤ (seq + 2 ^ 32 - tget 0 d.trn.gwSeen (gwKey near chan)) % 2 ^ 32 := by omega
  simp only [blkArrive, hlive, hgw, hfence, Bool.not_true, Bool.or_self, Bool.false_eq_true, if_false]
  exact if_pos (.inl hold)

/-- Settles O44: GW_EN, then a block as it closes, is sent again, is acknowledged and arrives. -/
theorem gateways : Obligations.Gateways := by
  unfold Obligations.Gateways
  intro s hr d
  refine ⟨fun n hstopped => ⟨?on, ?off⟩, ?close, fun far seq c b hb => ⟨?resend, onDev_eq hr (fun d => gwAck d far c seq) rfl⟩, ?arrive⟩
  case on =>
    intro hmesh hlo hhi hwas hfree d1
    exact onDev_eq hr (fun d => gwEnable d true n) (gwEnable_on n.isLt hstopped hmesh hlo hhi hwas hfree)
  case off => exact onDev_eq hr (fun d => gwEnable d false n) (gwEnable_off n.isLt hstopped)
  case close =>
    intro far c b hopen hfar hchan hdue seq aged hfresh
    have haged : aged = (agedPkts d b).map (·.1) := by
      simp only [aged, agedPkts, List.map_map]
      rfl
    have hfresh' : ∀ q ∈ agedPkts d b, pktAge q.1 < maxAge := fun q hq => hfresh q.1 (haged ▸ List.mem_map_of_mem hq)
    rw [haged]
    exact onDev_eq hr (fun d => gwDue d far c) ((gwDue_fresh hopen hfar hchan hdue).trans (gwClose_fresh hopen hfar hchan hfresh'))
  case resend => exact fun hlate => onDev_eq hr (fun d => gwResend d far c seq) (gwResend_late hb hlate)
  case arrive =>
    intro p near epoch seq pkts took
    exact ⟨fun h => onDev_eq hr (fun d => blkArrive d p near epoch 0 seq pkts) (blkArrive_next h pkts),
      fun h => onDev_eq hr (fun d => blkArrive d p near epoch 1 seq pkts) (blkArrive_next h pkts),
      fun hlive hgw hfence hlt hseen => onDev_eq hr (fun d => blkArrive d p near epoch 0 seq pkts) (blkArrive_again hlive hgw hfence hlt hseen pkts)⟩

end Sys2Proof.Machine
end

section
/-! ### A teardown by the fabric manager and the requests that wait for a tag (O45) -/

namespace Sys2Proof.Machine

/-- A read of job 2 that waits for a tag. -/
def waitingReq : OutReq := { op := 1, pkt := { dst := 0, src := 0, tag := 0, job := 2, addr := 0 }, port := 0, inst := 1, ctx := 0, use := .planWait, held := true }

/-- A device whose fabric manager is endpoint 9, with a request that waits for a tag (R304). -/
def teardownDev : Dev :=
  let d := setReg State.reset.dev regTrnFm (2 ^ 16 + 9)
  { d with trn := { d.trn with reqs := [(4096, waitingReq)] } }

theorem teardownDev_gives_tag : tget? (fmTeardown teardownDev 9 1).trn.reqs 4096 = none := by decide +kernel

/-- Refutes O45: a teardown of another job gives the tags that are free to the requests that wait for one, and the statement leaves them waiting. -/
theorem not_fabricManager : ¬ Obligations.FabricManager := by
  unfold Obligations.FabricManager
  intro h
  let s : State := { pending := [], perstN := true, dev := teardownDev }
  have hr : Runs s := ⟨rfl, rfl⟩
  obtain ⟨hfrom, -⟩ := h s 9 0 hr
  obtain ⟨-, hteardown, -⟩ := hfrom (by decide +kernel)
  have hrun : exec (.fmJobTeardown 9 1) s = .next (withDev s (fmTeardown teardownDev 9 1)) := onDev_runs hr (fun d => fmTeardown d 9 1)
  have hreq := congrArg (fun r : Res => match r with | .next t => tget? t.dev.trn.reqs 4096 | _ => none) (hrun.symm.trans (hteardown 1))
  simp only [teardownDev_gives_tag] at hreq
  exact absurd hreq (by decide +kernel)

end Sys2Proof.Machine
end

section
/-! ### PTP messages (O24) -/

namespace Sys2Proof.Machine

/-- A change of a domain depends on what it answers for that domain alone. -/
theorem modDom_congr {d : Dev} {k : Nat} {f g : Dom → Dom} (h : f (domSt d k) = g (domSt d k)) : modDom d k f = modDom d k g := by
  simp only [modDom, modTime, domSt] at h ⊢
  rw [h]

theorem ptpSync_one {d : Dev} {p k : Nat} {m : PtpMsg} (hdoms : ptpDoms d p m.domain = [k]) (hparent : fromParent d k p m = true)
    (hone : m.twoStep = false) :
    ptpSync d p m = modDom d k (fun x => { x with sync := some { seq := m.seq, t2 := domNow d k, t1 := some m.time, c1 := m.corr } }) := by
  simp [ptpSync, hdoms, hparent, hone]

theorem ptpFollowUp_one {d : Dev} {p k : Nat} {m : PtpMsg} {w : SyncWait} (hdoms : ptpDoms d p m.domain = [k])
    (hparent : fromParent d k p m = true) (hsync : (domSt d k).sync = some w) (hseq : w.seq = m.seq) (ht1 : w.t1 = none) :
    ptpFollowUp d p m = modDom d k (fun x => { x with sync := some { w with t1 := some m.time, c1 := w.c1 + m.corr } }) := by
  simp only [ptpFollowUp, hdoms, List.foldl_cons, List.foldl_nil, hparent, Bool.not_true, Bool.false_eq_true, if_false]
  exact modDom_congr (by simp [hsync, hseq, ht1])

theorem ptpDelayResp_one {d : Dev} {p k : Nat} {m : PtpMsg} {w : SyncWait} {t1 t3 : Int} (hdoms : ptpDoms d p m.domain = [k])
    (hparent : fromParent d k p m = true) (hsync : (domSt d k).sync = some w) (ht1 : w.t1 = some t1)
    (hreq : (domSt d k).dreq = some (m.seq, t3)) (hmine : m.mine = true) :
    ptpDelayResp d p m = addExch (modDom d k (fun x => { x with sync := none, dreq := none })) k
      { t1 := t1, t2 := w.t2, t3 := t3, t4 := m.time, c1 := w.c1, c2 := m.corr } := by
  simp [ptpDelayResp, hdoms, hsync, ht1, hreq, hparent, hmine]

theorem ptpDelayReq_sends {d : Dev} {k port ident num : Nat} (hparent : (domSt d k).parent = some (port, ident, num))
    (hen : domEnabled d k = true) (hsrc : domSource d k = 1) :
    ptpDelayReq d k = emit (modDom d k (fun x => { x with dreq := some (x.dseq, domNow d k), dseq := (x.dseq + 1) % 65536 }))
      (.delayReq k port (domSt d k).dseq) := by
  simp only [ptpDelayReq, hparent, hen, hsrc, Bool.not_true, Bool.false_eq_true, ne_eq, not_true_eq_false, or_self, if_false]
  exact congrArg (emit · _) (modDom_congr rfl)

/-- Settles O24: each message belongs to the one domain that its port and number select, so the fold over the domains is one change. -/
theorem ptpMessages : Obligations.PtpMessages := by
  unfold Obligations.PtpMessages
  intro s hr
  refine ⟨?messages, ?announce, ?delayReq, ?timeout⟩
  case messages =>
    intro p k m hdoms hparent
    refine ⟨?sync, ?followUp, ?delayResp⟩
    case sync => exact fun hone => onDev_eq hr (fun d => ptpSync d p m) (ptpSync_one hdoms hparent hone)
    case followUp =>
      exact fun w hsync hseq ht1 => onDev_eq hr (fun d => ptpFollowUp d p m) (ptpFollowUp_one hdoms hparent hsync hseq ht1)
    case delayResp =>
      exact fun w t1 t3 hsync ht1 hreq hmine =>
        onDev_eq hr (fun d => ptpDelayResp d p m) (ptpDelayResp_one hdoms hparent hsync ht1 hreq hmine)
  case announce =>
    intro p num k m hdoms e
    exact onDev_eq hr (fun d => ptpAnnounce d p num m) (by simp only [ptpAnnounce, hdoms, List.foldl_cons, List.foldl_nil, e])
  case delayReq =>
    exact fun k port ident num hparent hen hsrc => onDev_eq hr (fun d => ptpDelayReq d k) (ptpDelayReq_sends hparent hen hsrc)
  case timeout => exact fun k p ident num => onDev_runs hr (fun d => masterTimeout d k p ident num)

end Sys2Proof.Machine
end

section
/-! ### Time pins (O26) -/

namespace Sys2Proof.Machine

theorem tpoArm_idle {d : Dev} {n : Nat} (hidle : (tpoSt d n).until_ = none) : tpoArm d n = tpoCommit d n := by
  simp [tpoArm, hidle]

/-- A pulse output with an edge to come is scheduled at it (R350). -/
theorem tpoCommit_places {d : Dev} {n e : Nat} :
    let d1 := commitRegs d [regTimeTpoCtrl n, regTimeTpoStartSec n, regTimeTpoStartSub n, regTimeTpoShape n]
    let d2 := fset (fset d1 (regTimeTpoCtrl n) fldTimeTpoCtrlMissed 0) (regTimeTpoCtrl n) fldTimeTpoCtrlArmed 1
    firstEdge (tpoOf d1 n) (tbTime d2 (tpoOf d1 n).tb) = some e → tpoCommit d n = modTpo d2 n (fun _ => { tpoOf d1 n with next := some e }) := by
  intro d1 d2 hedge
  simp only [tpoCommit]
  rw [hedge]
  rfl

theorem tpoDisarmed_of_idle {d : Dev} {n : Nat} (hidle : (tpoSt d n).until_ = none) :
    tpoDisarm d n = fset (modTpo d n (fun p => { p with next := none })) (regTimeTpoCtrl n) fldTimeTpoCtrlArmed 0 := by
  simp [tpoDisarm, hidle]

theorem pairLooped_modTpo (d : Dev) (n m : Nat) (f : Tpo → Tpo) : pairLooped (modTpo d n f) m = pairLooped d m := rfl

theorem tciSt_setAct (d : Dev) (k v n : Nat) : tciSt (setAct d k v) n = tciSt d n := rfl

theorem tb2_setAct (d : Dev) (k v : Nat) : tb2 (setAct d k v) = tb2 d := rfl

/-- An edge of a pulse output that is not in loop-back drives its ball (R350). -/
theorem tpoDrive_ball {d : Dev} {n : Nat} (h : pairLooped d n = false) (level : Bool) (e : Nat) :
    tpoDrive d n level e = emit d (.pulse n level) := by
  simp [tpoDrive, h]

theorem tpoPulse_leading {d : Dev} {n e : Nat} (hidle : (tpoSt d n).until_ = none) (hnext : (tpoSt d n).next = some e)
    (hdue : e ≤ tbTime d (tpoSt d n).tb) (hloop : pairLooped d n = false) :
    tpoPulse d n = emit (modTpo d n (fun p =>
      { p with next := if p.period = 0 then none else some (e + p.period), until_ := some (e + p.width) })) (.pulse n (!(tpoSt d n).pol)) := by
  simp only [tpoPulse, hidle, hnext, Nat.not_lt.mpr hdue, if_false]
  exact tpoDrive_ball ((pairLooped_modTpo ..).trans hloop) _ e

theorem tpoPulse_trailing {d : Dev} {n u : Nat} (huntil : (tpoSt d n).until_ = some u) (hdue : u ≤ tbTime d (tpoSt d n).tb)
    (hloop : pairLooped d n = false) (hrearm : (tpoSt d n).rearm = false) (honce : (tpoSt d n).period = 0) :
    tpoPulse d n = fset (modTpo (emit (modTpo d n (fun p => { p with until_ := none })) (.pulse n (tpoSt d n).pol)) n
      (fun p => { p with next := none, stop := false })) (regTimeTpoCtrl n) fldTimeTpoCtrlArmed 0 := by
  have hdrive : tpoDrive (modTpo d n (fun p => { p with until_ := none })) n (tpoSt d n).pol u =
      emit (modTpo d n (fun p => { p with until_ := none })) (.pulse n (tpoSt d n).pol) :=
    tpoDrive_ball ((pairLooped_modTpo ..).trans hloop) _ u
  simp only [tpoPulse, huntil, Nat.not_lt.mpr hdue, if_false, hrearm, Bool.false_eq_true, honce, or_true, if_true, hdrive]

/-- An edge that is captured (R351). -/
theorem tciEdge_captures {d : Dev} {n : Nat} {rising : Bool} :
    let edge := fact d (regTimeTciCtrl n) fldTimeTciCtrlEdge
    let d1 := setAct d (regTimeTciCtrl n) (setBits (getReg d (regTimeTciCtrl n)) fldTimeTciCtrlEdge.lo fldTimeTciCtrlEdge.w edge)
    let b := fact d1 (regTimeTciCtrl n) fldTimeTciCtrlTb
    pairLooped d n = false → pulseDoms d n = [] → fact d1 (regTimeTciCtrl n) fldTimeTciCtrlEnable = 1 →
    (edge = 0 ∧ rising = true ∨ edge = 1 ∧ rising = false ∨ edge = 2) → (∀ x, (tciSt d n).last = some x → x + 800 ≤ tb2 d) →
    (tciSt d n).queue.length < 16 →
    tciEdge d n rising = modTci d1 n (fun t => { t with
      queue := t.queue ++ [((lget {} d.tbs b).sec, (lget {} d.tbs b).sub, tget? d.time.stepped b == some (tb2 d))]
      last := some (tb2 d) }) := by
  intro edge d1 b hloop hpulse hen hedge hlast hroom
  have htaken : ¬ (fact d1 (regTimeTciCtrl n) fldTimeTciCtrlEnable = 0 ∨ (edge = 0 ∧ !rising) ∨ (edge = 1 ∧ rising)) := by
    rcases hedge with ⟨he, hup⟩ | ⟨he, hup⟩ | he <;> simp [*]
  simp only [tciEdge, hloop, Bool.false_eq_true, if_false, hpulse, tciCapture]
  rw [if_neg htaken]
  simp only [tciSt_setAct, tb2_setAct, Nat.not_le.mpr hroom, or_false]
  cases hx : (tciSt d n).last with
  | none => rfl
  | some x =>
    simp only [decide_eq_true_eq, Nat.not_lt.mpr (hlast x hx), if_false]
    rfl

/-- Settles O26, with one lemma for each branch of the rows that the statement names. -/
theorem timePins : Obligations.TimePins := by
  unfold Obligations.TimePins
  intro s hr d
  refine ⟨fun n => onDev_runs hr (fun d => tbRead d n), ?_⟩
  intro n k p
  refine ⟨?idle, ?leading, ?trailing, ?edge, ?empty, ?oldest⟩
  case idle =>
    intro hidle d1 q d2
    refine ⟨fun e hedge => ?_, ?_⟩
    · exact onDev_eq hr (fun d => tpoArm d n) ((tpoArm_idle hidle).trans (tpoCommit_places hedge))
    · exact onDev_eq hr (fun d => tpoDisarm d n) (tpoDisarmed_of_idle hidle)
  case leading => exact fun e hidle hnext hdue hloop => onDev_eq hr (fun d => tpoPulse d n) (tpoPulse_leading hidle hnext hdue hloop)
  case trailing =>
    exact fun u huntil hdue hloop hrearm honce => onDev_eq hr (fun d => tpoPulse d n) (tpoPulse_trailing huntil hdue hloop hrearm honce)
  case edge =>
    intro rising edge d1 b hloop hpulse hen hedge hlast hroom
    exact onDev_eq hr (fun d => tciEdge d n rising) (tciEdge_captures hloop hpulse hen hedge hlast hroom)
  case empty => exact fun hq => onDev_eq hr (fun d => tciRead d n) (by simp only [tciRead]; rw [hq])
  case oldest => exact fun sec sub st l hq => onDev_eq hr (fun d => tciRead d n) (by simp only [tciRead]; rw [hq])

end Sys2Proof.Machine
end

section
/-! ### Doorbells (O48) -/

namespace Sys2Proof.Machine

/-- What an entry of the completion ring leaves alone: the submission side of the ring, and the instance's credit. -/
structure SameFetch (i q : Nat) (d e : Dev) : Prop where
  head : fget e (regMbxRingState i q) fldMbxRingStateSqHead = fget d (regMbxRingState i q) fldMbxRingStateSqHead
  tail : (ringSt e i q).sqTail = (ringSt d i q).sqTail
  fetched : (ringSt e i q).fetched = (ringSt d i q).fetched
  credit : credit e i = credit d i

theorem SameFetch.trans {i q : Nat} {d e f : Dev} (h : SameFetch i q d e) (g : SameFetch i q e f) : SameFetch i q d f :=
  ⟨g.head.trans h.head, g.tail.trans h.tail, g.fetched.trans h.fetched, g.credit.trans h.credit⟩

theorem SameFetch.of_eq {i q : Nat} {d e : Dev} (hregs : e.regs = d.regs) (hrings : e.rings = d.rings) : SameFetch i q d e :=
  ⟨fget_of_regs hregs _ _, by simp [ringSt, hrings], by simp [ringSt, hrings], fget_of_regs hregs _ _⟩

theorem ringSt_modRing_self (d : Dev) (i q : Nat) (f : RingSt → RingSt) : ringSt (modRing d i q f) i q = f (ringSt d i q) := by
  simp [ringSt, modRing, tmod, tget_tset_self]

theorem SameFetch.modRing {i q : Nat} (d : Dev) {f : RingSt → RingSt} (htail : ∀ r, (f r).sqTail = r.sqTail)
    (hfetched : ∀ r, (f r).fetched = r.fetched) : SameFetch i q d (modRing d i q f) :=
  ⟨rfl, by rw [ringSt_modRing_self, htail], by rw [ringSt_modRing_self, hfetched], rfl⟩

theorem regMbxRingState_ne_credit (i j q : Nat) : regMbxRingState i q ≠ regMbxCredit j := by
  unfold regMbxRingState regMbxCredit; omega

theorem regMbxRingState_ne_status (i j q : Nat) : regMbxRingState i q ≠ regMbxStatus j := by
  unfold regMbxRingState regMbxStatus; omega

theorem regMbxCredit_ne_status (i j : Nat) : regMbxCredit i ≠ regMbxStatus j := by
  unfold regMbxCredit regMbxStatus; omega

/-- A field of the ring's state beside its submission head. -/
theorem SameFetch.fset_state {i q : Nat} (d : Dev) {f : Fld} (h : f.lo + f.w ≤ 16 ∨ 28 ≤ f.lo) (v : Nat) :
    SameFetch i q d (fset d (regMbxRingState i q) f v) :=
  ⟨fget_fset_beside (by decide) h d _ v, rfl, rfl, fget_fset_ne d (regMbxRingState_ne_credit i i q).symm _ _ v⟩

theorem SameFetch.fset_status {i q : Nat} (d : Dev) (f : Fld) (v : Nat) : SameFetch i q d (fset d (regMbxStatus i) f v) :=
  ⟨fget_fset_ne d (regMbxRingState_ne_status i i q) _ _ v, rfl, rfl, fget_fset_ne d (regMbxCredit_ne_status i i) _ _ v⟩

theorem sameFetch_raiseVector (i q : Nat) (d : Dev) (v : Nat) : SameFetch i q d (raiseVector d i v) := by
  unfold raiseVector
  split
  · exact .of_eq rfl rfl
  · exact .of_eq rfl rfl

theorem sameFetch_raiseRing (i q : Nat) (d : Dev) : SameFetch i q d (raiseRing d i q) := by
  unfold raiseRing
  split
  · exact sameFetch_raiseVector ..
  · split
    · exact .modRing d (fun _ => rfl) (fun _ => rfl)
    · exact (sameFetch_raiseVector ..).trans (.modRing _ (fun _ => rfl) (fun _ => rfl))

theorem sameFetch_writeEntry (i q : Nat) (d : Dev) (bs : List Byte) (irq : Bool) : SameFetch i q d (writeEntry d i q bs irq) := by
  have hwritten (a : Nat) (l : List Byte) : SameFetch i q d (hostWrite d a l) := .of_eq rfl rfl
  have htail (e : Dev) (v : Nat) : SameFetch i q e (fset e (regMbxRingState i q) fldMbxRingStateCqTail v) := .fset_state e (by decide) v
  have hphase (e : Dev) (c : Prop) [Decidable c] (v : Nat) :
      SameFetch i q e (if c then fset e (regMbxRingState i q) fldMbxRingStateCqPhase v else e) := by
    split
    · exact .fset_state e (by decide) v
    · exact .of_eq rfl rfl
  have hused (e : Dev) : SameFetch i q e (modRing e i q (fun r => { r with used := r.used + 1 })) :=
    .modRing e (fun _ => rfl) (fun _ => rfl)
  have hstatus (e : Dev) (v : Nat) : SameFetch i q e (if v = 0 then e else fset e (regMbxStatus i) fldMbxStatusLastStatus v) := by
    split
    · exact .of_eq rfl rfl
    · exact .fset_status e _ v
  have hirq (e : Dev) : SameFetch i q e (if irq then raiseRing e i q else e) := by
    split
    · exact sameFetch_raiseRing i q e
    · exact .of_eq rfl rfl
  exact ((((hwritten _ _).trans (htail _ _)).trans (hphase _ _ _)).trans (hused _)).trans ((hstatus _ _).trans (hirq _))

theorem sameFetch_answerBusy (i q : Nat) (d : Dev) (c : Cmd) (retry : Nat) : SameFetch i q d (answerBusy d i q c retry) := by
  unfold answerBusy putCompletion
  dsimp only
  split
  · exact .modRing d (fun _ => rfl) (fun _ => rfl)
  · exact sameFetch_writeEntry ..

/-- With head and tail equal there is nothing to fetch. -/
theorem fetchLoop_empty {d : Dev} {i q : Nat} (h : fget d (regMbxRingState i q) fldMbxRingStateSqHead = (ringSt d i q).sqTail) (n : Nat)
    (busy : Bool) : fetchLoop i q n busy d = d := by
  cases n with
  | zero => rfl
  | succ n => simp [fetchLoop, h]

/-- The index after the submission head. -/
def sqNext (d : Dev) (i q : Nat) : Nat :=
  let h := fget d (regMbxRingState i q) fldMbxRingStateSqHead
  if h + 1 = ringEntries d i q then 0 else h + 1

/-- The command of the entry at the submission head, and its bytes. -/
def sqBytes (d : Dev) (i q : Nat) : List Byte :=
  hostRead d (fget d (regMbxSqBase i q) fldMbxSqBaseBase * 4096 + 64 * fget d (regMbxRingState i q) fldMbxRingStateSqHead) 64

def sqCmd (d : Dev) (i q : Nat) : Cmd := parseCmd (sqBytes d i q) (sqNext d i q)

/-- A ring with an entry that waits and a place for its completion, of an instance with a working core (R385). -/
structure Waits (d : Dev) (i q : Nat) : Prop where
  fetches : fetches d i q = true
  boot : d.env.boot = 1
  state : instState d i ≠ 1
  entry : fget d (regMbxRingState i q) fldMbxRingStateSqHead ≠ (ringSt d i q).sqTail
  free : freeEntries d i q ≠ 0

/-- The device after the head has passed the entry. -/
def sqPassed (d : Dev) (i q : Nat) : Dev := fset d (regMbxRingState i q) fldMbxRingStateSqHead (sqNext d i q)

theorem credit_sqPassed (d : Dev) (i q : Nat) : credit (sqPassed d i q) i = credit d i :=
  fget_fset_ne d (regMbxRingState_ne_credit i i q).symm _ _ _

theorem instState_sqPassed (d : Dev) (i q : Nat) : instState (sqPassed d i q) i = instState d i :=
  fget_fset_ne d (by unfold regHostFnStatus regMbxRingState; omega) _ _ _

theorem setCredit_env (d : Dev) (i v : Nat) : (setCredit d i v).env = d.env := rfl

/-- What a fetch does with the entry at the head (R385, R386, R388, R410). -/
theorem fetchLoop_waits {d : Dev} {i q : Nat} (h : Waits d i q) (n : Nat) :
    fetchLoop i q (n + 1) false d = if credit d i < cmdCost (sqCmd d i q) then
      fetchLoop i q n true (answerBusy (sqPassed d i q) i q (sqCmd d i q) (retryHint (sqPassed d i q) i (cmdCost (sqCmd d i q))))
    else
      let e := setCredit (sqPassed d i q) i (credit d i - cmdCost (sqCmd d i q))
      if malformed i q (sqBytes d i q) then
        fetchLoop i q n false (cmdEnd (modRing e i q (fun r => { r with running := r.running ++ [sqCmd d i q] })) i q (sqCmd d i q) 0x3A03)
      else fetchLoop i q n false (modRing e i q (fun r => { r with fetched := r.fetched ++ [sqCmd d i q] })) := by
  obtain ⟨hfetches, hboot, hstate, hentry, hfree⟩ := h
  have hcredit := credit_sqPassed d i q
  have hstate' : instState (sqPassed d i q) i ≠ 1 := by rwa [instState_sqPassed]
  have hboot' : (sqPassed d i q).env.boot = 1 := hboot
  simp only [sqPassed, sqCmd, sqBytes, sqNext] at *
  simp [fetchLoop, setCredit_env, *]
  rfl

/-- The device with a new submission tail. -/
def sqTold (d : Dev) (i q ix : Nat) : Dev := modRing d i q (fun r => { r with sqTail := ix })

theorem freeEntries_sqTold (d : Dev) (i q ix : Nat) : freeEntries (sqTold d i q ix) i q = freeEntries d i q := by
  have hring : ringSt (sqTold d i q ix) i q = { ringSt d i q with sqTail := ix } := ringSt_modRing_self ..
  have hsize : ringEntries (sqTold d i q ix) i q = ringEntries d i q := rfl
  simp only [freeEntries, hring, hsize]

theorem retryHint_sqPassed (d : Dev) (i q cost : Nat) : retryHint (sqPassed d i q) i cost = retryHint d i cost := by
  simp only [retryHint, credit_sqPassed]
  rfl

theorem doorbell_plain {d : Dev} {i q ix : Nat} (hreach : hostReaches d i = true) (hix : ix < ringEntries d i q) :
    doorbell d i q ix [] [] = fetchRing (sqTold d i q ix) i q := by
  have hnone : doorbell d i q ix [] [] = if hostReaches d i then sqTail d i q ix else d := rfl
  rw [hnone, if_pos hreach, sqTail, if_neg (Nat.not_le.mpr hix)]
  rfl

/-- The head once it has passed an entry. -/
theorem head_sqPassed {d : Dev} {i q : Nat} (h : sqNext d i q < 2 ^ fldMbxRingStateSqHead.w) :
    fget (sqPassed d i q) (regMbxRingState i q) fldMbxRingStateSqHead = sqNext d i q := by
  rw [sqPassed, fget_fset_self (by decide), Nat.mod_eq_of_lt h]

/-- The command at the head is answered busy, and it was the last (R388). -/
theorem fetchRing_busy {d : Dev} {i q : Nat} (h : Waits d i q) (hfits : sqNext d i q < 2 ^ fldMbxRingStateSqHead.w)
    (hlast : (ringSt d i q).sqTail = sqNext d i q) (hcost : credit d i < cmdCost (sqCmd d i q)) :
    fetchRing d i q = answerBusy (sqPassed d i q) i q (sqCmd d i q) (retryHint d i (cmdCost (sqCmd d i q))) := by
  obtain ⟨n, hn⟩ : ∃ n, ringEntries d i q = n + 1 := ⟨_, (Nat.sub_add_cancel (Nat.two_pow_pos _)).symm⟩
  have hkept := sameFetch_answerBusy i q (sqPassed d i q) (sqCmd d i q) (retryHint d i (cmdCost (sqCmd d i q)))
  rw [fetchRing, hn, fetchLoop_waits h, if_pos hcost, retryHint_sqPassed]
  exact fetchLoop_empty (by rw [hkept.head, hkept.tail, head_sqPassed hfits]; exact hlast.symm) ..

/-- The device after a well-formed command has been fetched for its cost. -/
def sqFetched (d : Dev) (i q : Nat) : Dev :=
  modRing (setCredit (sqPassed d i q) i (credit d i - cmdCost (sqCmd d i q))) i q (fun r => { r with fetched := r.fetched ++ [sqCmd d i q] })

theorem head_sqFetched {d : Dev} {i q : Nat} (h : sqNext d i q < 2 ^ fldMbxRingStateSqHead.w) :
    fget (sqFetched d i q) (regMbxRingState i q) fldMbxRingStateSqHead = sqNext d i q :=
  (fget_fset_ne (sqPassed d i q) (regMbxRingState_ne_credit i i q) _ _ _).trans (head_sqPassed h)

theorem ringSt_sqFetched (d : Dev) (i q : Nat) :
    ringSt (sqFetched d i q) i q = { ringSt d i q with fetched := (ringSt d i q).fetched ++ [sqCmd d i q] } :=
  ringSt_modRing_self ..

theorem credit_sqFetched {d : Dev} {i q : Nat} (h : credit d i < 2 ^ fldMbxCreditCredit.w) :
    credit (sqFetched d i q) i = credit d i - cmdCost (sqCmd d i q) := by
  have hset : credit (sqFetched d i q) i = (credit d i - cmdCost (sqCmd d i q)) % 2 ^ fldMbxCreditCredit.w :=
    fget_fset_self (by decide) (sqPassed d i q) (regMbxCredit i) _
  rw [hset, Nat.mod_eq_of_lt (by omega)]

/-- The command at the head is fetched, and it was the last (R385). -/
theorem fetchRing_takes {d : Dev} {i q : Nat} (h : Waits d i q) (hfits : sqNext d i q < 2 ^ fldMbxRingStateSqHead.w)
    (hlast : (ringSt d i q).sqTail = sqNext d i q) (hcost : cmdCost (sqCmd d i q) ≤ credit d i)
    (hform : malformed i q (sqBytes d i q) = false) : fetchRing d i q = sqFetched d i q := by
  obtain ⟨n, hn⟩ : ∃ n, ringEntries d i q = n + 1 := ⟨_, (Nat.sub_add_cancel (Nat.two_pow_pos _)).symm⟩
  rw [fetchRing, hn, fetchLoop_waits h, if_neg (Nat.not_lt.mpr hcost), hform]
  exact fetchLoop_empty (by rw [← sqFetched, head_sqFetched hfits, ringSt_sqFetched]; exact hlast.symm) ..

/-- Settles O48: one step of the fetch loop takes or refuses the entry, and then head and tail are equal again. -/
theorem doorbellFetches : Obligations.DoorbellFetches := by
  unfold Obligations.DoorbellFetches
  intro s i q ix hr hreach hfetches hboot hstate d h n next bs c htail hix hlt htwo hfits hfree hform hcred
  have hne : h ≠ next := by
    simp only [next]
    split <;> omega
  have hix' : ix.val < ringEntries d i q := by
    rw [hix]
    simp only [next]
    split <;> omega
  have hlast : (ringSt (sqTold d i q ix) i q).sqTail = next := by rw [sqTold, ringSt_modRing_self]; exact hix
  have hwaits : Waits (sqTold d i q ix) i q :=
    ⟨hfetches, hboot, hstate, fun e => hne (e.trans hlast), by rw [freeEntries_sqTold]; omega⟩
  have hrun : exec (.mbxSqTail i q ix [] []) s = .next (withDev s (fetchRing (sqTold d i q ix) i q)) :=
    onDev_eq hr (fun d => doorbell d i q ix [] []) (doorbell_plain hreach hix')
  by_cases hcost : cmdCost c ≤ credit d i
  · rw [fetchRing_takes hwaits hfits hlast hcost hform] at hrun
    refine ⟨_, hrun, head_sqFetched hfits, fun _ => ⟨?_, credit_sqFetched hcred, rfl, rfl⟩, fun hlow => absurd hcost (Nat.not_le.mpr hlow)⟩
    rw [withDev, ringSt_sqFetched, sqTold, ringSt_modRing_self]
    rfl
  · rw [fetchRing_busy hwaits hfits hlast (Nat.not_le.mp hcost)] at hrun
    have hkept := sameFetch_answerBusy i q (sqPassed (sqTold d i q ix) i q) c (retryHint d i (cmdCost c))
    have hold : ringSt (sqPassed (sqTold d i q ix) i q) i q = { ringSt d i q with sqTail := ix } :=
      ringSt_modRing_self d i q (fun r => { r with sqTail := ix })
    refine ⟨_, hrun, hkept.head.trans (head_sqPassed hfits), fun hlow => absurd hlow hcost, fun _ => ⟨?_, ?_, rfl⟩⟩
    · exact hkept.fetched.trans (by rw [hold])
    · exact hkept.credit.trans (credit_sqPassed (sqTold d i q ix) i q)

end Sys2Proof.Machine
end

section
/-! ### Accesses of the host (O47) -/

namespace Sys2Proof.Machine

theorem bar2Read_served {d : Dev} {i off n : Nat} (hreach : hostReaches d i = true)
    (hok : ∀ p ∈ bar2Parts d i off n, bar2Ok d i p.1 p.2 false = true) :
    bar2Read d i off n = emit d (.cplData false ((bar2Parts d i off n).any (fun p => isPoisoned d (bar2Addr d i p.1) p.2))
      ((bar2Parts d i off n).flatMap (fun p => devRead d (bar2Addr d i p.1) p.2))) := by
  have hnone : (bar2Parts d i off n).find? (fun p => !bar2Ok d i p.1 p.2 false) = none :=
    List.find?_eq_none.mpr (fun p hp => by simp [hok p hp])
  simp only [bar2Read, hreach, Bool.not_true, Bool.false_eq_true, if_false]
  rw [hnone]

theorem bar2Write_one {d : Dev} {i off : Nat} {bs : List Byte} (ep : Bool) (hreach : hostReaches d i = true)
    (hone : bar2Parts d i off bs.length = [(off, bs.length)]) (hok : bar2Ok d i off bs.length true = true) :
    bar2Write d i off bs ep = if ep then emit (devWrite d (bar2Addr d i off) bs ep) .aerAdvisory else devWrite d (bar2Addr d i off) bs ep := by
  simp [bar2Write, hreach, hone, hok]

theorem sqTail_fetches {d : Dev} {i q ix : Nat} (h : ix < ringEntries d i q) :
    sqTail d i q ix = fetchRing (modRing d i q (fun r => { r with sqTail := ix })) i q := by
  rw [sqTail, if_neg (Nat.not_le.mpr h)]

theorem hostReaches_congr {d e : Dev} {i : Nat} (hstate : instState e i = instState d i) (henv : e.env = d.env) :
    hostReaches e i = hostReaches d i := by
  simp only [hostReaches, hstate, henv]

/-- A doorbell after the host's writes (R385, log entry 7). -/
theorem doorbell_fetches {d : Dev} {i q ix : Nat} {ws : List (Nat × List Byte)} {bad : List (Nat × Nat)} :
    let d1 := ws.foldl (fun d w => hostWrite d w.1 w.2) d
    let d2 := { d1 with hbad := bad ++ d1.hbad }
    hostReaches d2 i = true → ix < ringEntries d2 i q →
    doorbell d i q ix ws bad = fetchRing (modRing d2 i q (fun r => { r with sqTail := ix })) i q := by
  intro d1 d2 hreach hix
  have hdoor : doorbell d i q ix ws bad = if hostReaches d2 i then sqTail d2 i q ix else d2 := rfl
  rw [hdoor, if_pos hreach, sqTail_fetches hix]

theorem cqHead_frees {d : Dev} {i q ix : Nat} (hq : q ≠ 0) :
    let n := ringEntries d i q
    let steps := (ix + n - (ringSt d i q).cqHead) % n
    ix < n → steps ≤ (ringSt d i q).used →
    cqHead d i q ix = fetchRing (modRing d i q (fun r => { r with cqHead := ix, used := r.used - steps })) i q := by
  intro n steps hix hsteps
  have hin : ¬ (n ≤ ix ∨ (ringSt d i q).used < steps) := by omega
  simp only [cqHead, hq, if_false]
  rw [if_neg hin]

/-- With no notice held there is none to write. -/
theorem drainNotices_none {d : Dev} {i : Nat} (h : (instSt d i).notices = []) (n : Nat) : drainNotices i n d = d := by
  cases n with
  | zero => rfl
  | succ n => simp [drainNotices, h]

theorem instState_fset_ring (d : Dev) (i q : Nat) (f : Fld) (v : Nat) : instState (fset d (regMbxRingState i q) f v) i = instState d i :=
  fget_fset_ne d (by unfold regHostFnStatus regMbxRingState; omega) _ _ _

theorem instState_fset_cfg (d : Dev) (i q : Nat) (f : Fld) (v : Nat) : instState (fset d (regMbxRingCfg i q) f v) i = instState d i :=
  fget_fset_ne d (by unfold regHostFnStatus regMbxRingCfg; omega) _ _ _

/-- A ring pair that was off, with nothing held, starts empty (R385). -/
theorem ringEnable_starts {d : Dev} {i q : Nat} (hoff : fget d (regMbxRingCfg i q) fldMbxRingCfgEnable = 0)
    (hheld : (ringSt d i q).held = []) (hnotices : q = 0 → (instSt d i).notices = []) (hlive : instState d i ≠ 3) :
    let k := regMbxRingState i q
    let d1 := fset (fset (fset (fset (fset d (regMbxRingCfg i q) fldMbxRingCfgEnable 1) k fldMbxRingStateSqHead 0) k fldMbxRingStateCqTail 0) k
      fldMbxRingStateCqPhase 1) k fldMbxRingStateState 1
    ringEnable d i q true = modRing d1 i q (fun r => { r with sqTail := 0, cqHead := 0, used := 0, fetched := [], held := [] }) := by
  intro k d1
  have hheld1 : (ringSt d1 i q).held = [] := hheld
  have hnotices1 (f : RingSt → RingSt) (hq : q = 0) : (instSt (modRing d1 i q f) i).notices = [] := hnotices hq
  simp only [ringEnable, hoff, if_true, Nat.zero_ne_one, if_false, instState_fset_ring, instState_fset_cfg, hlive, false_and, b2n]
  rw [hheld1]
  by_cases hq : q = 0
  · rw [if_pos hq, putHeld, drainNotices_none (hnotices1 _ hq)]
  · rw [if_neg hq, putHeld]

theorem ringFault_stops {d : Dev} {i q : Nat} (h : fget d (regMbxRingState i q) fldMbxRingStateState ≠ 0) :
    ringFault d i q none = record (fset d (regMbxRingState i q) fldMbxRingStateState 2) { status := 0x3605, inst := i, detail := q * 2 ^ 32 } := by
  simp only [ringFault, h, if_false, Option.getD_none, Nat.zero_mul, Nat.add_zero]

theorem noticeWrite_writes {d : Dev} {i st res : Nat} {rest : List (Nat × Nat)} (hnotice : (instSt d i).notices = (st, res) :: rest)
    (hruns : fget d (regMbxRingState i 0) fldMbxRingStateState = 1 ∨ fget d (regMbxRingState i 0) fldMbxRingStateState = 3)
    (hfree : freeEntries d i 0 > 0) :
    noticeWrite d i = raiseVector (writeEntry (modInst d i (fun x => { x with notices := rest })) i 0
      (cplBytes 0xFFFFFFFF st 0 0 0 noStep res) false) i 0 := by
  simp only [noticeWrite, drainNotices, hnotice, hruns, hfree, and_self, if_true]

theorem msixUnmask_raises {d : Dev} {i v : Nat} (hreach : hostReaches d i = true) (hv : v < vectorsOf i) :
    let d1 := modInst d i (fun x => { x with unmasked := natPut x.unmasked v, vecPend := x.vecPend.filter (· != v) })
    msixUnmask d i v = if (instSt d i).vecPend.contains v then emit d1 (.msix i v) else d1 := by
  simp [msixUnmask, hreach, Nat.not_le.mpr hv]

/-- Settles O47, with one lemma for each access that the statement names. -/
theorem hostAccess : Obligations.HostAccess := by
  unfold Obligations.HostAccess
  intro s i q hr hreach d k
  refine ⟨?read, ?write, ?tail, ?head, ?enable, ?disable, ?fault, ?notice, ?unmask, ?coalesce⟩
  case read =>
    intro off n hok
    exact (if_neg (by simp [show alive s.dev = true from hr.2])).trans (onDev_eq hr (fun d => bar2Read d i off n) (bar2Read_served hreach hok))
  case write => exact fun off bs ep hone hok => onDev_eq hr (fun d => bar2Write d i off bs ep) (bar2Write_one ep hreach hone hok)
  case tail =>
    intro ix ws bad d1 d2 hix hstate henv hsize
    exact onDev_eq hr (fun d => doorbell d i q ix ws bad)
      (doorbell_fetches ((hostReaches_congr hstate henv).trans hreach) (hsize ▸ hix))
  case head =>
    intro ix n steps hix hsteps hq
    exact onDev_eq hr (fun d => if hostReaches d i then cqHead d i q ix else d) ((if_pos hreach).trans (cqHead_frees hq hix hsteps))
  case enable =>
    intro hoff hheld hnotices hlive d1
    exact onDev_eq hr (fun d => if hostReaches d i then ringEnable d i q true else d)
      ((if_pos hreach).trans (ringEnable_starts hoff hheld hnotices hlive))
  case disable => exact onDev_eq hr (fun d => if hostReaches d i then ringEnable d i q false else d) (if_pos hreach)
  case fault => exact fun h => onDev_eq hr (fun d => ringFault d i q none) (ringFault_stops h)
  case notice =>
    exact fun st res rest hnotice hruns hfree => onDev_eq hr (fun d => noticeWrite d i) (noticeWrite_writes hnotice hruns hfree)
  case unmask =>
    intro v hv d1
    exact onDev_eq hr (fun d => msixUnmask d i v) (msixUnmask_raises hreach hv)
  case coalesce =>
    intro hopen
    exact ⟨fun hpend => onDev_eq hr (fun d => coalesceEnd d i q) (by simp only [coalesceEnd]; rw [if_pos hopen, if_pos hpend]),
      fun hquiet => onDev_eq hr (fun d => coalesceEnd d i q) (by simp only [coalesceEnd]; rw [if_pos hopen, hquiet]; rfl)⟩

end Sys2Proof.Machine
end

section
/-! ### Boot, watchdog and attestation (O53) -/

namespace Sys2Proof.Machine

/-- A stage that is accepted does its work, is recorded and shown, and the next one begins (R455, R457). -/
theorem bootStage_passes {d : Dev} {readable : Bool} {failed : List Nat} {ms : Nat} (hboot : d.env.boot = 0)
    (hfuse : fget d regSecFuse fldSecFuseDebugBlown ≠ 0)
    (himage : fget d regMgtBoot fldMgtBootStage = 1 → (bootImage d readable).isSome = true) :
    let n := fget d regMgtBoot fldMgtBootStage
    let d1 := stageWork d n ms failed
    let d2 := logOnly d1 { status := 0x1A40 + n, detail := mgtDetail 0 3 n d1.mgt.running.version }
    bootStage d true readable failed ms = showBoot (if n < 7 then fset d2 regMgtBoot fldMgtBootStage (n + 1) else d2) (0x1A40 + n) := by
  intro n d1 d2
  have hclock : ¬ (n = 0 ∧ (!true) = true) := by simp
  have hdebug : ¬ (n = 0 ∧ fget d regSecFuse fldSecFuseDebugBlown = 0) := fun h => hfuse h.2
  have haccepted : ¬ (n = 1 ∧ bootImage d readable = none) := fun ⟨hone, hnone⟩ => by
    simpa [hnone] using himage hone
  rw [bootStage, if_neg (not_not.mpr hboot)]
  dsimp only
  rw [if_neg hclock, if_neg hdebug, if_neg haccepted]

/-- The restart of management core `k`, before what it interrupts (R459). -/
def wdRestarted (d : Dev) (k : Nat) : Dev :=
  let d1 := fsat (modMgt d (fun m => { m with lastWd := some (tb2 d), areaOk := true })) regMgtWd fldMgtWdRestarts 1
  let d2 := fset (fset d1 regMgtWd fldMgtWdLastCore k) regMgtWd fldMgtWdLastSec (tb2Sec d1)
  logOnly (charge d2 partMgt (500 * wUnit)) { status := 0x1A48, detail := mgtDetail 0 k 0 d.mgt.running.version }

theorem wdRestart_restarts {d : Dev} {k : Nat} (hit : Option (Nat × Nat)) (hlast : ∀ t, d.mgt.lastWd = some t → t + 10 * subPerSec ≤ tb2 d)
    (harea : d.mgt.areaOk = true) :
    wdRestart d k true hit = if k < 2 then interrupt (wdRestarted d k) hit else wdRestarted d k := by
  have himage : ¬ ((!(true && d.mgt.areaOk) && d.mgt.flash != some d.mgt.running) = true) := by simp [harea]
  rw [wdRestart]
  dsimp only
  rw [if_neg himage]
  cases ht : d.mgt.lastWd with
  | none => rfl
  | some t =>
    have hlate : ¬ (decide (tb2 d < t + 10 * subPerSec) = true) := by simp [Nat.not_lt.mpr (hlast t ht)]
    exact if_neg hlate

/-- With no freeze and no resize in progress and no context, a restart interrupts the command in hand alone (log entry 137). -/
theorem interrupt_inHand {d : Dev} {i q : Nat} (hidle : ∀ j < 65, (instSt d j).resize = none ∧ (instSt d j).freezing = none)
    (hctxs : liveCtxs d = []) : interrupt d (some (i, q)) = interruptOn d i q := by
  have hfold : (List.range 65).foldl (fun d i => interruptFreeze (undoResize d i) i) d = d :=
    List.foldlRecOn (motive := (· = d)) _ _ rfl fun e he j hj => by
      subst he
      obtain ⟨hresize, hfreezing⟩ := hidle j (List.mem_range.1 hj)
      simp [undoResize, interruptFreeze, hresize, hfreezing]
  simp only [interrupt, hfold, hctxs, List.foldl_nil]

/-- A command in hand that changes state ends with 0x3A10 and nothing changed (R408, R424). -/
theorem interruptOn_ends {d e : Dev} {i q : Nat} {c : Cmd} (hhead : (ringSt d i q).fetched.head? = some c)
    (htake : takeCmd d i q c.opcode = some (c, e)) (hquery : onlyQueries c.opcode = false) (herr : cmdErr d i q c = none)
    (hsave : c.opcode ≠ 0x37) (hcommit : c.opcode ≠ 0x81) : interruptOn d i q = cmdEnd e i q c 0x3A10 := by
  obtain ⟨l, hl⟩ := List.head?_eq_some_iff.mp hhead
  simp [interruptOn, hl, htake, hquery, herr, hsave, hcommit]

/-- The registers after a page is written (R468). -/
theorem persistPage_regs {d : Dev} (h : min 255 d.mgt.unsaved ≠ 0) : (persistPage d).regs =
    (fsat (fset d regMgtLog fldMgtLogNextPage ((fget d regMgtLog fldMgtLogNextPage + 1) % 16384)) regMgtLog fldMgtLogPersisted
      (min 255 d.mgt.unsaved)).regs := by
  simp only [persistPage, h, if_false]

theorem persistPage_unsaved {d : Dev} (h : min 255 d.mgt.unsaved ≠ 0) :
    (persistPage d).mgt.unsaved = d.mgt.unsaved - min 255 d.mgt.unsaved := by
  simp only [persistPage, h, if_false]
  rfl

theorem persistPage_nextPg {d : Dev} (h : min 255 d.mgt.unsaved ≠ 0) :
    (persistPage d).mgt.nextPg = (fget d regMgtLog fldMgtLogNextPage + 1) % 16384 := by
  simp only [persistPage, h, if_false]

/-- `NEXT_PAGE` shows the page after the one written. -/
theorem persistPage_shows {d : Dev} (h : min 255 d.mgt.unsaved ≠ 0) :
    fget (persistPage d) regMgtLog fldMgtLogNextPage = (fget d regMgtLog fldMgtLogNextPage + 1) % 16384 := by
  rw [fget_of_regs (persistPage_regs h), fsat, fget_fset_beside (by decide) (by decide), fget_fset_self (by decide)]
  exact Nat.mod_mod _ _

/-- The page that is written (R468). -/
theorem persistPage_page {d : Dev} (h : min 255 d.mgt.unsaved ≠ 0) :
    ∃ p, tget? (persistPage d).mgt.pages (fget d regMgtLog fldMgtLogNextPage) = some p ∧ p.time = tb2 d ∧ p.boots = d.mgt.boots ∧
      p.recs = (d.flt.log.drop (d.flt.log.length - d.mgt.unsaved)).take (min 255 d.mgt.unsaved) := by
  simp only [persistPage, h, if_false]
  exact ⟨_, tget?_tset_self .., rfl, rfl, rfl⟩

/-- The measurement of one block, signed (R465). -/
theorem spdmMeas_signed {d : Dev} {k : Nat} (hlow : 1 ≤ k) (hhigh : k ≤ 5) (nonce : List Byte) :
    let f := takeFree d
    let body := measBlock d k ++ natLe 32 (Config.freeNat f.1)
    let req := 0xE0 :: natLe 1 k ++ nonce
    spdmMeas d k true nonce = spdmAnswer f.2 req 0x60 (body ++ Config.identitySign (d.mgt.script ++ req ++ body)) := by
  intro f body req
  have hzero : k ≠ 0 := by omega
  have hall : k ≠ 0xFF := by omega
  simp only [spdmMeas, hzero, hall, hhigh, if_true, if_false]
  rfl

/-- Settles O53: the boot stages, the restarts of the management cores, the log and the answers of the SPDM responder, each by its lemma. -/
theorem bootAndAttest : Obligations.BootAndAttest := by
  unfold Obligations.BootAndAttest
  intro s hr d goes
  refine ⟨?boot, ?watchdog, ?log, ?version, ?capabilities, ?algorithms, ?digests, ?certificate, ?challenge, ?measurements, ?unsupported⟩
  case boot =>
    intro readable failed ms hboot n _ hfuse himage d1 d2
    exact onDev_eq hr (fun d => bootStage d true readable failed ms) (bootStage_passes hboot hfuse himage)
  case watchdog =>
    intro k hlast harea restart hit after
    have hexpiry (hit : Option (Nat × Nat)) : exec (.watchdogExpiry k true hit) s =
        goes (if k.val < 2 then interrupt (wdRestarted d k) hit else wdRestarted d k) :=
      onDev_eq hr (fun d => watchdog d k true hit) (wdRestart_restarts hit hlast harea)
    refine ⟨hexpiry hit, ?sram, ?inHand⟩
    case sram =>
      exact onDev_eq hr (fun d => mgtSram d k true hit)
        (wdRestart_restarts (d := fsat d regMgtSramErr fldMgtSramErrUncorrected 1) hit hlast harea)
    case inHand =>
      intro i q c e r hin hcore hidle hctxs hhead htake hquery herr hsave hcommit
      rw [hexpiry, if_pos hcore, hin]
      exact congrArg goes ((interrupt_inHand hidle hctxs).trans (interruptOn_ends hhead htake hquery herr hsave hcommit))
  case log =>
    intro hunsaved
    have hsome : min 255 d.mgt.unsaved ≠ 0 := by omega
    exact ⟨_, onDev_runs hr (fun d => logPersist d), persistPage_unsaved hsome, persistPage_nextPg hsome,
      (persistPage_shows hsome).trans (persistPage_nextPg hsome).symm, persistPage_page hsome⟩
  case version => exact onDev_runs hr (fun d => spdmVersion d)
  case capabilities => exact onDev_runs hr (fun d => spdmCaps d)
  case algorithms => exact onDev_runs hr (fun d => spdmAlgs d)
  case digests => exact onDev_runs hr (fun d => spdmDigests d)
  case certificate => exact fun off len => onDev_runs hr (fun d => spdmCert d 0 off len)
  case challenge => exact fun nonce => onDev_runs hr (fun d => spdmChallenge d 0 nonce)
  case measurements =>
    intro k nonce hlow hhigh f body req
    exact onDev_eq hr (fun d => spdmMeas d k true nonce) (spdmMeas_signed hlow hhigh nonce)
  case unsupported => exact fun code => onDev_runs hr (fun d => spdmRefuse d code 0x07)

end Sys2Proof.Machine
end

section
/-! ### The monotonic time base (O27) -/

namespace Sys2Proof.Machine

theorem foldl_tbs {α : Type} {f : Dev → α → Dev} (h : ∀ d x, (f d x).tbs = d.tbs) (l : List α) (d : Dev) : (l.foldl f d).tbs = d.tbs :=
  List.foldlRecOn l f (motive := fun e => e.tbs = d.tbs) rfl (fun e he x _ => (h e x).trans he)

/-! What leaves every time base. -/

@[simp] theorem modTime_tbs (d : Dev) (f : TimeSt → TimeSt) : (modTime d f).tbs = d.tbs := rfl
@[simp] theorem modDom_tbs (d : Dev) (k : Nat) (f : Dom → Dom) : (modDom d k f).tbs = d.tbs := rfl
@[simp] theorem modTpo_tbs (d : Dev) (n : Nat) (f : Tpo → Tpo) : (modTpo d n f).tbs = d.tbs := rfl
@[simp] theorem modTci_tbs (d : Dev) (n : Nat) (f : Tci → Tci) : (modTci d n f).tbs = d.tbs := rfl
@[simp] theorem fsat_tbs (d : Dev) (k : Nat) (f : Fld) (n : Nat) : (fsat d k f n).tbs = d.tbs := rfl
@[simp] theorem setAct_tbs (d : Dev) (k v : Nat) : (setAct d k v).tbs = d.tbs := rfl
@[simp] theorem commitRegs_tbs (d : Dev) (ks : List Nat) : (commitRegs d ks).tbs = d.tbs := foldl_tbs commitReg_tbs ks d
@[simp] theorem showDom_tbs (d : Dev) (k : Nat) : (showDom d k).tbs = d.tbs := rfl
@[simp] theorem setFreq_tbs (d : Dev) (k : Nat) (freq rate : Int) : (setFreq d k freq rate).tbs = d.tbs := rfl
@[simp] theorem showFollow_tbs (d : Dev) (b : Nat) (k : Option Nat) : (showFollow d b k).tbs = d.tbs := by
  simp [showFollow, apply_ite Dev.tbs]

@[simp] theorem setDomState_tbs (d : Dev) (k st : Nat) : (setDomState d k st).tbs = d.tbs := by
  simp [setDomState, apply_ite Dev.tbs]

@[simp] theorem timeReject_tbs (d : Dev) (key : Nat) : (timeReject d key).tbs = d.tbs := by
  simp [timeReject, cfgReject]

/-! PTP and the servo. -/

@[simp] theorem addExch_tbs (d : Dev) (k : Nat) (e : Exch) : (addExch d k e).tbs = d.tbs := by
  simp [addExch, apply_ite Dev.tbs]

theorem ptpSync_tbs (d : Dev) (p : Nat) (m : PtpMsg) : (ptpSync d p m).tbs = d.tbs :=
  foldl_tbs (fun d k => by simp [apply_ite Dev.tbs]) _ d

theorem ptpFollowUp_tbs (d : Dev) (p : Nat) (m : PtpMsg) : (ptpFollowUp d p m).tbs = d.tbs :=
  foldl_tbs (fun d k => by simp [apply_ite Dev.tbs]) _ d

theorem ptpDelayResp_tbs (d : Dev) (p : Nat) (m : PtpMsg) : (ptpDelayResp d p m).tbs = d.tbs :=
  foldl_tbs (fun d k => by
    dsimp only
    split
    · split
      · simp [apply_ite Dev.tbs]
      · rfl
    · rfl) _ d

theorem ptpAnnounce_tbs (d : Dev) (p num : Nat) (m : PtpAnnounce) : (ptpAnnounce d p num m).tbs = d.tbs :=
  foldl_tbs (fun _ _ => by rfl) _ d

theorem ptpDelayReq_tbs (d : Dev) (k : Nat) : (ptpDelayReq d k).tbs = d.tbs := by
  unfold ptpDelayReq
  split
  · rfl
  · simp [apply_ite Dev.tbs]

theorem domLoss_tbs (d : Dev) (k : Nat) : (domLoss d k).tbs = d.tbs := by
  simp [domLoss, apply_ite Dev.tbs]

theorem domEnable_tbs (d : Dev) (mask : Nat) : (domEnable d mask).tbs = d.tbs :=
  foldl_tbs (fun d k => by simp [apply_ite Dev.tbs]) _ _

@[simp] theorem lockCount_tbs (d : Dev) (k : Nat) (theta : Int) : (lockCount d k theta).tbs = d.tbs := by
  simp [lockCount, apply_ite Dev.tbs]

@[simp] theorem servo_tbs (d : Dev) (k : Nat) : (servo d k).tbs = d.tbs := by
  unfold servo
  split
  · rfl
  · simp [apply_ite Dev.tbs]

@[simp] theorem chooseParent_tbs (d : Dev) (k : Nat) : (chooseParent d k).tbs = d.tbs := by
  simp [chooseParent, apply_ite Dev.tbs]

/-! SyncE. -/

@[simp] theorem synceResume_tbs (d : Dev) : (synceResume d).tbs = d.tbs := foldl_tbs (fun _ _ => by rfl) _ d

@[simp] theorem synceHold_tbs (d : Dev) (f : Int) : (synceHold d f).tbs = d.tbs :=
  foldl_tbs (fun d k => by simp [apply_ite Dev.tbs]) _ d

@[simp] theorem synceLost_tbs (d : Dev) : (synceLost d).tbs = d.tbs := by
  simp [synceLost, apply_ite Dev.tbs]

@[simp] theorem synceOff_tbs (d : Dev) : (synceOff d).tbs = d.tbs := by
  simp [synceOff, apply_ite Dev.tbs]

theorem synceChange_tbs (d : Dev) (locked : Bool) (f : Int) : (synceChange d locked f).tbs = d.tbs := by
  simp [synceChange, apply_ite Dev.tbs]

@[simp] theorem commitEdges_tbs (d : Dev) : (commitEdges d).tbs = d.tbs := foldl_tbs (fun _ _ => by rfl) _ d

/-! Pulse outputs and capture inputs. -/

@[simp] theorem tpoMissed_tbs (d : Dev) (n : Nat) : (tpoMissed d n).tbs = d.tbs := by
  simp [tpoMissed]

@[simp] theorem tpoPlace_tbs (d : Dev) (n : Nat) (p : Tpo) (e : Option Nat) : (tpoPlace d n p e).tbs = d.tbs := by
  cases e with
  | none => simp [tpoPlace]
  | some e => rfl

@[simp] theorem tpoCommit_tbs (d : Dev) (n : Nat) : (tpoCommit d n).tbs = d.tbs := by
  simp [tpoCommit]

theorem tpoArm_tbs (d : Dev) (n : Nat) : (tpoArm d n).tbs = d.tbs := by
  simp [tpoArm, apply_ite Dev.tbs]

theorem tpoDisarmed_tbs (d : Dev) (n : Nat) : (tpoDisarm d n).tbs = d.tbs := by
  simp [tpoDisarm, apply_ite Dev.tbs]

@[simp] theorem tposStepped_tbs (d : Dev) (b : Nat) (diff : Int) : (tposStepped d b diff).tbs = d.tbs :=
  foldl_tbs (fun d n => by
    dsimp only
    split
    · split <;> simp [apply_ite Dev.tbs]
    · simp [apply_ite Dev.tbs]) _ d

@[simp] theorem tciDrop_tbs (d : Dev) (n : Nat) : (tciDrop d n).tbs = d.tbs := by
  simp [tciDrop, apply_ite Dev.tbs]

@[simp] theorem tciCapture_tbs (d : Dev) (n : Nat) (rising : Bool) (b : Option Nat) : (tciCapture d n rising b).2.tbs = d.tbs := by
  simp [tciCapture, apply_ite Prod.snd, apply_ite Dev.tbs]

theorem tciEdge_tbs (d : Dev) (n : Nat) (rising : Bool) : (tciEdge d n rising).tbs = d.tbs := by
  unfold tciEdge
  split
  · rfl
  · split
    · exact tciCapture_tbs d n rising none
    · split
      · exact foldl_tbs (fun _ _ => by rfl) _ d
      · rfl

@[simp] theorem tpoDrive_tbs (d : Dev) (n : Nat) (level : Bool) (e : Nat) : (tpoDrive d n level e).tbs = d.tbs := by
  simp [tpoDrive, apply_ite Dev.tbs]

theorem tpoPulse_tbs (d : Dev) (n : Nat) : (tpoPulse d n).tbs = d.tbs := by
  unfold tpoPulse
  dsimp only
  split
  · simp [apply_ite Dev.tbs]
  · split
    · rfl
    · simp [apply_ite Dev.tbs]

theorem tciRead_tbs (d : Dev) (n : Nat) : (tciRead d n).tbs = d.tbs := by
  unfold tciRead
  split <;> rfl

/-! What steps or slews a time base, but TB2. -/

/-- TB2 is as it was. -/
def KeepsTb2 (d t : Dev) : Prop := lget {} t.tbs 2 = lget {} d.tbs 2

theorem KeepsTb2.trans {d t u : Dev} (h : KeepsTb2 d t) (k : KeepsTb2 t u) : KeepsTb2 d u := Eq.trans k h

theorem KeepsTb2.of_tbs {d t : Dev} (h : t.tbs = d.tbs) : KeepsTb2 d t := by
  rw [KeepsTb2, h]

/-- A change of another time base. -/
theorem KeepsTb2.of_lset {d t : Dev} {b : Nat} {v : Tb} (hb : b ≠ 2) (h : t.tbs = lset d.tbs b v) : KeepsTb2 d t := by
  rw [KeepsTb2, h, lget, lset, List.getElem?_set_ne hb, lget]

theorem stepTb_keepsTb2 (d : Dev) {b : Nat} (hb : b ≠ 2) (v : Nat) : KeepsTb2 d (stepTb d b v) :=
  .of_lset hb (by simp only [stepTb, tposStepped_tbs, record_tbs, modTime_tbs]; rfl)

theorem keepRate_keepsTb2 (d : Dev) {b : Nat} (hb : b ≠ 2) : KeepsTb2 d (keepRate d b) := .of_lset hb rfl

theorem timeSet_keepsTb2 (d : Dev) (v : Nat) : KeepsTb2 d (timeSet d v) := by
  unfold timeSet
  dsimp only
  split
  · exact .of_tbs (timeReject_tbs d _)
  · next h =>
    have hb : bitsAt v 48 2 ≠ 2 := fun e => h (.inl e)
    exact (KeepsTb2.of_tbs (by simp)).trans (stepTb_keepsTb2 _ hb _)

theorem moveTb_keepsTb2 (d : Dev) {b : Nat} (hb : b ≠ 2) : KeepsTb2 d (moveTb d b) := by
  unfold moveTb
  split
  · exact (KeepsTb2.of_tbs (showFollow_tbs d b none)).trans (keepRate_keepsTb2 _ hb)
  · exact .of_tbs (by simp [apply_ite Dev.tbs])

theorem followTb_keepsTb2 (d : Dev) {b : Nat} (hb : b ≠ 2) (k : Nat) : KeepsTb2 d (followTb d b k) := by
  unfold followTb
  split
  · exact keepRate_keepsTb2 d hb
  · dsimp only
    split
    · exact stepTb_keepsTb2 d hb _
    · exact .of_lset hb rfl

theorem servoUpdate_keepsTb2 (d : Dev) (k : Nat) : KeepsTb2 d (servoUpdate d k) := by
  have hfollow (e : Dev) (b : Nat) (hb : b ≠ 2) :
      KeepsTb2 e (if followOf (moveTb e b) b = some k then followTb (moveTb e b) b k else moveTb e b) := by
    split
    · exact (moveTb_keepsTb2 e hb).trans (followTb_keepsTb2 _ hb k)
    · exact moveTb_keepsTb2 e hb
  have hservo (e : Dev) : KeepsTb2 e (if domEnabled e k then chooseParent (servo e k) k else e) := .of_tbs (by simp [apply_ite Dev.tbs])
  exact (KeepsTb2.of_tbs (by simp)).trans ((hservo _).trans
    (((hfollow _ 0 (by decide)).trans (hfollow _ 1 (by decide))).trans (hfollow _ 3 (by decide))))

theorem onDev_keepsTb2 {s t : State} {f : Dev → Dev} (hf : ∀ d, KeepsTb2 d (f d)) (h : onDev s f = .next t) : KeepsTb2 s.dev t.dev := by
  rcases onDev_cases s f with hrun | hrun
  · rw [hrun] at h
    cases h
    rfl
  · rw [hrun] at h
    cases h
    exact hf s.dev

/-- No command of the time unit steps, slews or sets TB2 (R335). -/
theorem timeOp_keepsTb2 {i : Instr} {s t : State} (hi : TimeOp i) (h : exec i s = .next t) : KeepsTb2 s.dev t.dev := by
  cases hi with
  | sync p m => exact onDev_keepsTb2 (fun d => .of_tbs (ptpSync_tbs d p m)) h
  | followUp p m => exact onDev_keepsTb2 (fun d => .of_tbs (ptpFollowUp_tbs d p m)) h
  | delayResp p m => exact onDev_keepsTb2 (fun d => .of_tbs (ptpDelayResp_tbs d p m)) h
  | announce p n m => exact onDev_keepsTb2 (fun d => .of_tbs (ptpAnnounce_tbs d p n m)) h
  | delayReqSend k => exact onDev_keepsTb2 (fun d => .of_tbs (ptpDelayReq_tbs d k)) h
  | foreignMasterTimeout k p ident num => exact onDev_keepsTb2 (f := fun d => masterTimeout d k p ident num) (fun d => .of_tbs rfl) h
  | servoUpdate k => exact onDev_keepsTb2 (fun d => servoUpdate_keepsTb2 d k) h
  | domainLossTimeout k => exact onDev_keepsTb2 (fun d => .of_tbs (domLoss_tbs d k)) h
  | synceStateChange locked f => exact onDev_keepsTb2 (fun d => .of_tbs (synceChange_tbs d locked f)) h
  | domEn m => exact onDev_keepsTb2 (fun d => .of_tbs (domEnable_tbs d m)) h
  | timeSet v => exact onDev_keepsTb2 (fun d => timeSet_keepsTb2 d v.toNat) h
  | tbRead n => exact onDev_keepsTb2 (f := fun d => tbRead d n) (fun d => .of_tbs rfl) h
  | arm n => exact onDev_keepsTb2 (fun d => .of_tbs (tpoArm_tbs d n)) h
  | disarm n => exact onDev_keepsTb2 (fun d => .of_tbs (tpoDisarmed_tbs d n)) h
  | tpoPulse n => exact onDev_keepsTb2 (fun d => .of_tbs (tpoPulse_tbs d n)) h
  | tciEdge n r => exact onDev_keepsTb2 (fun d => .of_tbs (tciEdge_tbs d n r)) h
  | tciRead n => exact onDev_keepsTb2 (fun d => .of_tbs (tciRead_tbs d n)) h

/-! A cycle of the time unit. -/

theorem OnlyMem.tbs {d t : Dev} (h : OnlyMem d t) : t.tbs = d.tbs := by obtain ⟨_, _, _, _, _, _, rfl⟩ := h; rfl

theorem devWrite_tbs (d : Dev) (a : Nat) (bs : List Byte) (p : Bool) : (devWrite d a bs p).tbs = d.tbs := (devWrite_onlyMem d a bs p).tbs

theorem poisonLine_tbs (d : Dev) (line : Nat) : (poisonLine d line).tbs = d.tbs := (OnlyMem.foldl healRow_onlyMem (unitsIn line 128) d).tbs

theorem maskedWrite_tbs (d : Dev) (line mask : Nat) (data : List Byte) (p : Bool) : (maskedWrite d line mask data p).tbs = d.tbs := by
  unfold maskedWrite
  extract_lets
  split
  · rfl
  · exact devWrite_tbs d line _ p

theorem countJobChoice_tbs (d : Dev) (job : Nat) : (countJobChoice d job).tbs = d.tbs := rfl

theorem applyWriteType_tbs (d : Dev) (op : Nat) (r : TrnReq) : (applyWriteType d op r).1.tbs = d.tbs := by
  simp only [applyWriteType, devPut, apply_ite Prod.fst, apply_ite Dev.tbs, maskedWrite_tbs, devWrite_tbs, poisonLine_tbs,
    countJobChoice_tbs, fsat_tbs, ite_self]

theorem sendPkt_tbs (d : Dev) (p : Nat) (q : TrnPkt) : (sendPkt d p q).tbs = d.tbs := by
  unfold sendPkt
  split
  · rfl
  · dsimp only
    split <;> rfl

theorem applyOnLine_tbs (d : Dev) (op : Nat) (r : TrnReq) (port : Nat) : (applyOnLine d op r port).tbs = d.tbs := by
  simp only [applyOnLine, sendReply, sendPkt_tbs, apply_ite Dev.tbs, countJobChoice_tbs, fsat_tbs, applyWriteType_tbs, ite_self]

theorem drainLines_tbs (d : Dev) : (drainLines d).tbs = d.tbs :=
  foldl_tbs (fun d k => by
    dsimp only
    split
    · split
      · rfl
      · exact applyOnLine_tbs ..
    · rfl) _ d

/-- A number of three digits in bases S and M, of which the most significant counts modulo N, after an addition to the least one. -/
theorem carried_value {S M N : Nat} (sec sub f : Nat) :
    let s := sub + f / M
    (((sec + s / S) % N * S + s % S) * M + f % M) % (N * S * M) = ((sec * S + sub) * M + f) % (N * S * M) := by
  intro s
  have hf : M * (f / M) + f % M = f := Nat.div_add_mod f M
  have hs : S * (s / S) + s % S = s := Nat.div_add_mod s S
  have hsec : N * ((sec + s / S) / N) + (sec + s / S) % N = sec + s / S := Nat.div_add_mod _ N
  have hsum : (sec * S + sub) * M + f = ((sec + s / S) % N * S + s % S) * M + f % M + N * S * M * ((sec + s / S) / N) :=
    calc (sec * S + sub) * M + f = (sec * S + sub) * M + (M * (f / M) + f % M) := by rw [hf]
      _ = (sec * S + s) * M + f % M := by ring
      _ = (sec * S + (S * (s / S) + s % S)) * M + f % M := by rw [hs]
      _ = ((sec + s / S) * S + s % S) * M + f % M := by ring
      _ = ((N * ((sec + s / S) / N) + (sec + s / S) % N) * S + s % S) * M + f % M := by rw [hsec]
      _ = _ := by ring
  rw [hsum, Nat.add_mul_mod_self_left]

/-- A cycle advances a time base by its rate (R334). -/
theorem tbTick_value (a : Tb) : (((tbTick a).sec * subPerSec + (tbTick a).sub) * 2 ^ 40 + (tbTick a).frac) % (2 ^ 48 * subPerSec * 2 ^ 40) =
    ((a.sec * subPerSec + a.sub) * 2 ^ 40 + a.frac + a.rate) % (2 ^ 48 * subPerSec * 2 ^ 40) := by
  rw [Nat.add_assoc _ a.frac a.rate]
  exact carried_value a.sec a.sub (a.frac + a.rate)

theorem lget_map {l : List Tb} {n : Nat} (h : n < l.length) (f : Tb → Tb) : lget {} (l.map f) n = f (lget {} l n) := by
  simp [lget, h]

/-- Settles O27: TB2 is in no command's reach, and an empty queue advances every time base by one tick. -/
theorem monotonicTb2 : Obligations.MonotonicTb2 := by
  unfold Obligations.MonotonicTb2
  refine ⟨rfl, rfl, fun i s t hi _ h => timeOp_keepsTb2 hi h, ?_⟩
  intro s t n hr hidle hn h a b _ _ _
  have hstep : step s = .next (withDev s (drainLines (timeTick s.dev))) := by
    rw [step, hidle]
    exact onDev_runs hr (fun d => drainLines (timeTick d))
  have ht : t.dev = drainLines (timeTick s.dev) := by
    rw [hstep] at h
    cases h
    rfl
  have hb : b = tbTick a := by
    have htbs : t.dev.tbs = s.dev.tbs.map tbTick := by rw [ht, drainLines_tbs]; rfl
    rw [show b = lget {} t.dev.tbs n from rfl, htbs, lget_map hn]
  rw [hb]
  exact ⟨rfl, Nat.mod_lt _ (by decide), Nat.mod_lt _ (by decide), Nat.mod_lt _ (by decide), tbTick_value a⟩

end Sys2Proof.Machine
end

section
/-! ### A stream's descriptor of one element (O11) -/

namespace Sys2Proof.Machine

/-- A row of one of the kinds runs a valid descriptor that is neither done nor ended, and none of whose ranges is held (R100, R104). -/
theorem runStream_valid {d : Dev} {c s : Nat} {kinds : List Nat} {e : Desc} (he : parseDesc (devRead d (storeAddr c (descOff d c s)) 128) = e)
    (hruns : strmRuns d c s = true) (hguard : strmGuard d c s e = none) (hvalid : descValid d c s e = true) (hopen : e.pstate < 4)
    (hkind : kinds.contains e.kind = true) :
    runStream d c s kinds =
      runElems c s e (descTotal e - startElem d c s e + 1) (startElem d c s e) (setStrmState d c s 2) := by
  have hp : ¬ (e.pstate = 4 ∨ e.pstate = 5) := by omega
  simp only [runStream, he, hruns, hguard, hvalid, hp, hkind, Bool.not_true, Bool.true_or, Bool.false_eq_true, if_false]

/-- A delivery of an element whose source gives its bytes and whose destination takes them (R102, R104). -/
theorem deliverOne_data {d d1 d2 : Dev} {c s l : Nat} {e : Desc} {row src dst : Option Nat} {bs : List Byte} {p : Bool}
    (hsrc : (if e.kind = 1 then row else none) = src) (hdst : (if e.kind = 2 then row else none) = dst)
    (hf : fetchElem d c s e l src = .data d1 bs p) (hp : putElem d1 c s e l dst bs p = .ok d2) :
    deliverOne d c s e l 0 row = .ok (releaseSource d2 c s e l src) := by
  simp [deliverOne, hsrc, hdst, hf, hp]

/-- The only element of a descriptor counts as delivered, and the descriptor ends (R104, R105). -/
def onlyDelivered (d : Dev) (c s : Nat) (e : Desc) : Dev :=
  let d1 := noteDelivery (modStrm d c s (fun t => { t with left := 1 })) c s e
  endDesc d1 c s e (strmSt d1 c s).failing

section
variable {d d1 : Dev} {c s : Nat} {e : Desc} (hcounts : e.counts = [1, 1, 1, 1]) (hfail : (strmSt d c s).failing = 0)
include hcounts hfail

/-- A descriptor of one element that needs no index. -/
theorem runElems_only (hneeds : needsIndex e = false) (hdone : deliverOne d c s e 0 0 none = .ok d1) :
    runElems c s e 2 0 d = onlyDelivered d1 c s e := by
  have htotal : descTotal e = 1 := by rw [descTotal, hcounts]; rfl
  simp [runElems, htotal, hneeds, hfail, hdone, onlyDelivered]

/-- A descriptor of one element with a good index below its limit, which the index stream passes (R102, R103). -/
theorem runElems_indexed {x : Nat} (hneeds : needsIndex e = true) (hidx : readIndex d c e.idx = some (x, false)) (hlim : x < e.limit)
    (hdone : deliverOne d c s e 0 0 (some x) = .ok d1) : runElems c s e 2 0 d = onlyDelivered (advanceHead d1 c e.idx 4) c s e := by
  have htotal : descTotal e = 1 := by rw [descTotal, hcounts]; rfl
  have hrow : 1 % lget 1 e.counts 0 = 0 := by rw [hcounts]; rfl
  simp [runElems, htotal, hneeds, hidx, Nat.not_le.2 hlim, hfail, hdone, hrow, onlyDelivered]

end

/-- Settles O11: the descriptor starts at its only element, with or without an index, and its delivery ends it. -/
theorem streamsRun : Obligations.StreamsRun := by
  unfold Obligations.StreamsRun
  intro st c s hr hruns e d0 ended hvalid hguard hp hcounts hleft hfail
  have htotal : descTotal e = 1 := by rw [descTotal, hcounts]; rfl
  have hstart : startElem st.dev c s e = 0 := by simp [startElem, hleft, hp]
  have run {kinds : List Nat} (hk : kinds.contains e.kind = true) : runStream st.dev c s kinds = runElems c s e 2 0 d0 := by
    rw [runStream_valid rfl hruns hguard hvalid (by rw [hp]; decide) hk, hstart, htotal]
  refine ⟨fun d1 bs p d2 hfetch hput => ⟨fun hk => ?copy, fun hk => ?fill⟩, fun x d1 bs p d2 hidx hlim =>
    ⟨fun hk hfetch hput => ?gather, fun hk hfetch hput => ?scatter⟩⟩
  case copy =>
    refine onDev_eq hr (fun d => runStream d c s [0]) ((run (by rw [hk]; rfl)).trans (runElems_only hcounts hfail (by simp [needsIndex, hk]) ?_))
    exact deliverOne_data (ite_self _) (ite_self _) hfetch hput
  case fill =>
    refine onDev_eq hr (fun d => runStream d c s [3]) ((run (by rw [hk]; rfl)).trans (runElems_only hcounts hfail (by simp [needsIndex, hk]) ?_))
    exact deliverOne_data (ite_self _) (ite_self _) hfetch hput
  case gather =>
    refine onDev_eq hr (fun d => runStream d c s [1]) ((run (by rw [hk]; rfl)).trans
      (runElems_indexed hcounts hfail (by simp [needsIndex, hk]) hidx hlim ?_))
    exact deliverOne_data (if_pos hk) (if_neg (by rw [hk]; decide)) hfetch hput
  case scatter =>
    refine onDev_eq hr (fun d => runStream d c s [2]) ((run (by rw [hk]; rfl)).trans
      (runElems_indexed hcounts hfail (by simp [needsIndex, hk]) hidx hlim ?_))
    exact deliverOne_data (if_neg (by rw [hk]; decide)) (if_pos hk) hfetch hput

end Sys2Proof.Machine
end

section
/-! ### What reaches a stream from outside (O12) -/

namespace Sys2Proof.Machine

/-- An allowed configuration, for slot work on a reserved core alone, starts its stream with empty state (R96, R123). -/
theorem strmEnable_starts {d : Dev} {c s v : Nat} (hon : coreOn d c = true)
    (hst : strmState d c s = 0 ∨ strmState d c s = 1 ∨ strmState d c s = 6 ∨ strmState d c s = 7) (hen : bitOf v 0 = true)
    (hcfg : strmCfgOk v ((coreCtx d c).1 == 0) = true) (hslot : (coreCtx d c).1 = 0 → slotHeld d c = true) :
    strmEnable d c s v =
      let d1 := commitReg (setReg d (regCoreStrmCfg c s) v) (regCoreStrmCfg c s)
      let d2 := fset (fset d1 (regCoreStrmPtr c s) fldCoreStrmPtrHead 0) (regCoreStrmPtr c s) fldCoreStrmPtrTail 0
      islandWork (setStrmState (modStrm d2 c s
        (fun _ => { inst := (coreCtx d c).2.1, ctx := (coreCtx d c).2.2, slot := (coreCtx d c).1 == 0 })) c s 1) c := by
  have hrests : ¬ (strmState d c s ≠ 0 ∧ strmState d c s ≠ 1 ∧ strmState d c s ≠ 6 ∧ strmState d c s ≠ 7) := by omega
  have hallowed : (!strmCfgOk v ((coreCtx d c).1 == 0) || ((coreCtx d c).1 == 0 && !slotHeld d c)) = false := by
    by_cases h0 : (coreCtx d c).1 = 0
    · simp [hcfg, hslot h0]
    · simp [hcfg, h0]
  simp only [strmEnable, hon, hrests, hen, hallowed, Bool.not_true, Bool.false_eq_true, if_false]

section
variable {d : Dev} {c s : Nat}

/-- A fault of a copy or fill at its next element (R106): neither side takes a row index, and nothing runs before it. -/
theorem pageFault_next {e : Desc} {at_ : Nat} {dest : Bool} (he : parseDesc (devRead d (storeAddr c (descOff d c s)) 128) = e)
    (hruns : strmRuns d c s = true) (hguard : strmGuard d c s e = none) (hvalid : descValid d c s e = true) (hopen : e.pstate < 4)
    (hhost : (e.kind = 0 ∧ (e.sspace = 3 ∨ e.dspace = 3)) ∨ (e.kind = 3 ∧ e.dspace = 3)) (hat : at_ ≤ startElem d c s e)
    (hlt : at_ < descTotal e) (hstart : startElem (setStrmState d c s 2) c s e = startElem d c s e) (hgood : (strmSt d c s).failing = 0)
    (hrun : strmState (setStrmState d c s 2) c s = 2) :
    pageFault d c s at_ dest =
      let l := startElem d c s e
      let d1 := modStrm (writeProgress (setStrmState d c s 2) c s e l 2 0) c s
        (fun t => { t with inBytes := [], asked := [], lines := [], wrElem := none })
      let a := if faultsDest e dest then sideAddr e.dst e.dstr e.esize (coordOf e l) none else sideAddr e.src e.sstr e.esize (coordOf e l) none
      sendPageReq (setStrmState d1 c s 5) c s e.pasid a.toNat := by
  have hspace : ((e.sspace != 3 || e.kind == 3) && e.dspace != 3) = false := by
    rcases hhost with ⟨hk, hs | hd⟩ | ⟨hk, hd⟩
    · simp [hk, hs]
    · simp [hd]
    · simp [hd]
  have hrow : ¬ e.kind = (if faultsDest e dest = true then 2 else 1) := by
    split <;> omega
  have hfail : (strmSt (setStrmState d c s 2) c s).failing = 0 := hgood
  simp only [pageFault, he, hruns, hguard, hvalid, Nat.not_le.2 hopen, Nat.not_le.2 hlt, hspace, Nat.max_eq_right hat, Nat.sub_self, runElems,
    hrow, hstart, hfail, hrun]
  simp

/-- A response to the page request of a stream in page wait that no saved context asks for and whose context does not end (R107). -/
theorem pageResponse_goesOn (hreq : (strmSt d c s).pageReq.isSome = true) (hsaved : savedAsk d c s = none)
    (hlive : strmEnding (nextPageReq (modStrm d c s (fun t => { t with pageReq := none }))) (strmSt d c s) = false)
    (hwait : strmState (nextPageReq (modStrm d c s (fun t => { t with pageReq := none }))) c s = 5) (ok : Bool) :
    pageResponse d c s ok =
      let d1 := nextPageReq (modStrm d c s (fun t => { t with pageReq := none }))
      runStream (noteProgress (setStrmState (modStrm d1 c s (fun t => { t with failing := if ok then 0 else 0x3103 })) c s 1) c s)
        c s [0, 1, 2, 3] := by
  have hsome : (strmSt d c s).pageReq.isNone = false := by rw [← Option.not_isSome, hreq, Bool.not_true]
  simp only [pageResponse, hsaved, hsome, hlive, hwait, Bool.false_eq_true, if_false]

section
variable {e : Desc} (he : parseDesc (devRead d (storeAddr c (descOff d c s)) 128) = e) (hspace : e.sspace = 3)
  (hasked : (strmSt d c s).asked ≠ []) (hloop : d.env.pcieLoop = false)
include he hspace hasked hloop

/-- A good completion for a stream that asked for host memory brings at most the rest of an element (R109). -/
theorem hostCompletion_ok (data : List Byte) : hostCompletion d c s data .ok =
    runStream (modStrm d c s (fun t => { t with
      inBytes := t.inBytes ++ (data.take (2 ^ e.esize - (strmSt d c s).inBytes.length % 2 ^ e.esize)).map (fun b => (b, false)) })) c s [0, 1, 2] := by
  simp only [hostCompletion, he, hspace, hasked, hloop, ne_eq, not_true_eq_false, Bool.false_eq_true, or_self, if_false, reduceCtorEq,
    decide_false, Bool.or_false]

/-- A completion that does not come brings the rest of an element poisoned, and the request is in error (R109, R376). -/
theorem completionTimeout_poisons : completionTimeout d c s =
    runStream (modStrm d c s (fun t => { t with
      inBytes := t.inBytes ++ List.replicate (2 ^ e.esize - (strmSt d c s).inBytes.length % 2 ^ e.esize) (0, true)
      inErr := true })) c s [0, 1, 2] := by
  simp only [completionTimeout, hostCompletion, he, hspace, hasked, hloop, ne_eq, not_true_eq_false, Bool.false_eq_true, or_self, or_true, if_false,
    reduceCtorEq, decide_true, Bool.or_true]

end

theorem peerCredit_returns (hdir : cfgOf d c s fldCoreStrmCfgDir = 2) (hring : isRing d c s = true)
    (hfree : peerCredits d c s + (strmUsed d c s + (if (strmSt d c s).fill = 0 then 0 else 1)) < ringSlots d c s) :
    peerCredit d c s = modStrm d c s (fun t => { t with credits := some (peerCredits d c s + 1) }) := by
  simp only [peerCredit, hdir, hring, hfree, and_self, if_true]

/-- The stall watch of a context with blocked streams expires (R114): nothing that makes it wait holds. -/
theorem stallExpiry_ends {i x : Nat} {ss blocked : List Nat} (hss : strmsOf d c i x = ss)
    (hbl : ss.filter (fun s => strmState d c s == 3 || strmState d c s == 4 || headWait d c i x == some s) = blocked)
    (hlim : tget (fget d (regCoreStall c) fldCoreStallStallLimit) (coreSt d c).watch (ctxKey i x) ≠ 0) (hsome : blocked.isEmpty = false)
    (hpage : ss.any (fun s => strmState d c s == 5) = false) (hfence : coreFenced d c = false) (hstop : coreState d c ≠ 2)
    (hrestore : coreState d c ≠ 3) (htear : openTeardown d i x = none) (haway : (ctxSt d i x).away.contains c = false)
    (hwait : d.tier.waits.any (fun w => w.inst == i && w.ctx == x) = false) :
    stallExpiry d c i x =
      let k := regCoreStallLast c
      ss.foldl (fun d s => setStrmState d c s 7)
        (endCtx (fset (fset (fset d k fldCoreStallLastBlocked (bitMap blocked)) k fldCoreStallLastInstance i) k fldCoreStallLastContext x)
          i x 0x4107 0 (c + bitMap blocked * 2 ^ 32)) := by
  simp only [stallExpiry, hss, hbl, hlim, hsome, hpage, hfence, hstop, hrestore, htear, haway, hwait, Option.isSome_none, decide_false, Bool.or_self,
    Bool.false_eq_true, if_false]

end

/-- Settles O12: each event by the lemma on its row. -/
theorem streamEvents : Obligations.StreamEvents := by
  unfold Obligations.StreamEvents
  intro st c s hr d t e
  refine ⟨?enable, ?fault, ?response, ?completion, ?credit, ?stall⟩
  case enable =>
    exact fun v hon hst hen hcfg hslot => onDev_eq hr (fun d => strmEnable d c s v.toNat) (strmEnable_starts hon hst hen hcfg hslot)
  case fault =>
    exact fun at_ dest hruns hguard hvalid hopen hhost hat hlt hstart hgood hrun => onDev_eq hr (fun d => pageFault d c s at_ dest)
      (pageFault_next rfl hruns hguard hvalid hopen hhost hat hlt hstart hgood hrun)
  case response =>
    intro hreq hsaved d1 goes hlive hwait
    exact ⟨onDev_eq hr (fun d => pageResponse d c s true) (pageResponse_goesOn hreq hsaved hlive hwait true),
      onDev_eq hr (fun d => pageResponse d c s false) (pageResponse_goesOn hreq hsaved hlive hwait false),
      onDev_eq hr (fun d => pageResponse d c s false) (pageResponse_goesOn hreq hsaved hlive hwait false)⟩
  case completion =>
    intro data hspace hasked hloop want
    exact ⟨onDev_eq hr (fun d => hostCompletion d c s data .ok) (hostCompletion_ok rfl hspace hasked hloop data),
      onDev_eq hr (fun d => completionTimeout d c s) (completionTimeout_poisons rfl hspace hasked hloop)⟩
  case credit => exact fun hdir hring hfree => onDev_eq hr (fun d => peerCredit d c s) (peerCredit_returns hdir hring hfree)
  case stall =>
    intro i x ss blocked k hlim hblocked hpage hfence hstop hrestore htear haway hwait
    exact onDev_eq hr (fun d => stallExpiry d c i x)
      (stallExpiry_ends rfl rfl hlim hblocked hpage hfence hstop hrestore htear haway hwait)

end Sys2Proof.Machine
end

section
/-! ### Scrubbing of a core's store (O13) -/

namespace Sys2Proof.Machine

section
variable {d : Dev} {c : Nat} (hon : coreOn d c = true)
include hon

theorem storeScrub_good (word : Nat) : storeScrub d c word 0 = d := by
  simp [storeScrub, hon]

theorem storeScrub_corrected (word : Nat) : storeScrub d c word 1 = storeCorrected d c (storeAddr c (32 * word)) := by
  simp [storeScrub, hon]

/-- The first uncorrectable error of a word poisons it, and fences the core behind one in another bank in the same period (R95, R437). -/
theorem storeScrub_poisons {word : Nat} (hnew : d.poison.contains (storeAddr c (32 * word)) = false) :
    storeScrub d c word 2 =
      let a := storeAddr c (32 * word)
      let d2 := record (fsat { d with poison := natPut d.poison a } (regCoreSramErr c) fldCoreSramErrPoisoned 1)
        { status := 0x1108, addr := a, detail := c }
      let seen := if (coreSt d2 c).scrubAt = scrubPeriod d2 then (coreSt d2 c).scrubBad else []
      let d3 := modCore d2 c (fun t => { t with scrubAt := scrubPeriod d2, scrubBad := storeBank (32 * word) :: seen })
      if seen.any (· != storeBank (32 * word)) then fenceCore d3 c else d3 := by
  have hpoison : 2 = 2 ∧ (!d.poison.contains (storeAddr c (32 * word))) = true := ⟨rfl, by rw [hnew]; rfl⟩
  rw [storeScrub, hon]
  exact (if_neg (by decide)).trans ((if_neg (by decide)).trans (if_pos hpoison))

end

/-- Settles O13: the row by its outcome. -/
theorem coreScrub : Obligations.CoreScrub := by
  unfold Obligations.CoreScrub
  intro s c w hr hon a
  exact ⟨onDev_eq hr (fun d => storeScrub d c w 0) (storeScrub_good hon w), onDev_eq hr (fun d => storeScrub d c w 1) (storeScrub_corrected hon w),
    fun hnew => onDev_eq hr (fun d => storeScrub d c w 2) (storeScrub_poisons hon hnew)⟩

end Sys2Proof.Machine
end

section
/-! ### Stops, saves and restores of a core (O10) -/

namespace Sys2Proof.Machine

/-- A stop whose save met no uncorrectable error, or whose row saves nothing, places the work that waits and counts no loss (R437). -/
theorem saveLost_eq (c err : Nat) (saves : Bool) (d : Dev) :
    saveLost c err saves d = placeWork (if saves = true ∧ err = 2 then noteStateLost d c else d) := by
  simp [saveLost]

/-- What RECLAIM leaves of a device once the borrowed context is saved (R115). -/
def reclaimed (d : Dev) (c i x ns : Nat) : Dev :=
  let d := modCore (setCoreState (lentSaved d c i x) c 0) c (fun t => { t with borrowed := none })
  let d := fsat d regTimeSpCount fldTimeSpCountReclaims 1
  let d := fset d regTimeSpReclaimMax fldTimeSpReclaimMaxReclaimMax (max (fget d regTimeSpReclaimMax fldTimeSpReclaimMaxReclaimMax) (min ns 65535))
  if (ctxSt d i x).away.contains c then { d with sp := { d.sp with saved := d.sp.saved ++ [(c, i, x)] } } else d

theorem reclaimRow_borrowed {d : Dev} {c i x : Nat} (hb : (coreSt d c).borrowed = some (i, x)) (hs : coreState d c ≠ 3) (ns err : Nat) :
    reclaimRow d c ns err = placeWork (if err = 2 then noteStateLost (reclaimed (saveCore d c i x 0 err) c i x ns) c
      else reclaimed (saveCore d c i x 0 err) c i x ns) := by
  have hrec : reclaim d c ns err = reclaimed (saveCore d c i x 0 err) c i x ns := by
    simp only [reclaim, hs, hb, if_false]
    rfl
  simp [reclaimRow, saveLost_eq, hrec, hs, hb]

theorem reclaimRow_restoring {d : Dev} {c : Nat} (hs : coreState d c = 3) (ns err : Nat) : reclaimRow d c ns err =
    placeWork (setCoreState (modCore d c (fun k => { watch := k.watch, scrubBad := k.scrubBad, scrubAt := k.scrubAt })) c 0) := by
  simp [reclaimRow, saveLost_eq, reclaim, hs]

section
variable {d : Dev} {c : Nat} (hs : coreState d c = 1 ∨ coreState d c = 2) (hf : coreFenced d c = false)
include hs hf

theorem preemptRow_stopping (err : Nat) : preemptRow d c false err = placeWork (setCoreState d c 2) := by
  have hstands : ¬ (¬ coreState d c = 1 ∧ ¬ coreState d c = 2) := by omega
  simp [preemptRow, saveLost_eq, preempt, hstands, hf]

theorem preemptRow_reached (hb : (coreSt d c).borrowed = none) (err : Nat) : preemptRow d c true err =
    let d1 := setCoreState (modCore (saveCore d c (coreCtx d c).2.1 (coreCtx d c).2.2 1 err) c (fun k => { k with borrowed := none })) c 0
    placeWork (if err = 2 then noteStateLost d1 c else d1) := by
  have hstands : ¬ (¬ coreState d c = 1 ∧ ¬ coreState d c = 2) := by omega
  have hsaves : (coreState d c == 1 || coreState d c == 2) = true := by simpa using hs
  simp [preemptRow, saveLost_eq, preempt, runningCtx, hstands, hsaves, hb, hf]

end

/-- What a readable save area of the current format asks of the core it returns to (R118). -/
structure Restores (d : Dev) (c : Nat) : Prop where
  on     : coreOn d c = true
  idle   : coreState d c = 0 ∨ coreState d c = 3
  whole  : coreFenced d c = false
  access : accessErr d (.ctx (coreCtx d c).2.1 (coreCtx d c).2.2) false (getAct d (regCoreSaveBase c)) 16384 = none
  clean  : isPoisoned d (getAct d (regCoreSaveBase c)) 64 = false
  format : devNat d (getAct d (regCoreSaveBase c)) 2 = 0x0101
  valid  : devNat d (getAct d (regCoreSaveBase c) + 2) 1 = 1

/-- A core with the registers of its save area. -/
def reloaded (d : Dev) (c : Nat) : Dev :=
  modCore d c (fun k => { savedRegs d (getAct d (regCoreSaveBase c)) with watch := k.watch, scrubBad := k.scrubBad, scrubAt := k.scrubAt })

/-- Context `x` of instance `i` goes on on a core that is not reserved for slot work. -/
def resumed (d : Dev) (c cls base i x : Nat) : Dev :=
  let d := modCore d c (fun k => { k with borrowed := none })
  let d := { d with sp := { d.sp with saved := d.sp.saved.filter (fun p => p.2 != (i, x)) } }
  let d := (List.range 16).foldl (restoreStream base c i x (savedStreams d i x c base)) (startCore (ctxBack d i x c base) c)
  (List.range 4).foldl (restoreBrick base c (cls * 2048 + i * 16 + x)) d

theorem restoreCore_part {d : Dev} {c : Nat} (h : Restores d c) : restoreCore d c false = setCoreState (reloaded d c) c 3 := by
  obtain ⟨hon, hidle, hf, hacc, hclean, hfmt, hvalid⟩ := h
  have hstands : ¬ (coreState d c ≠ 0 ∧ coreState d c ≠ 3) := by omega
  simp [restoreCore, hon, hstands, hf, hacc, hclean, hfmt, hvalid, reloaded]

theorem restoreCore_whole {d : Dev} {c : Nat} (h : Restores d c) (hfree : fget (reloaded d c) (regCorePart c) fldCorePartSlotReserved ≠ 1) :
    restoreCore d c true =
      let base := getAct d (regCoreSaveBase c)
      resumed (reloaded d c) c (coreCtx d c).1 base (devNat d (base + 4) 4 / 16 % 128) (devNat d (base + 4) 4 % 16) := by
  obtain ⟨hon, hidle, hf, hacc, hclean, hfmt, hvalid⟩ := h
  have hstands : ¬ (coreState d c ≠ 0 ∧ coreState d c ≠ 3) := by omega
  rw [reloaded] at hfree
  simp [restoreCore, hon, hstands, hf, hacc, hclean, hfmt, hvalid, reloaded, resumed, hfree]

theorem coreLost_running {d : Dev} {c : Nat} (hb : (coreSt d c).borrowed = none) (hon : coreOn d c = true) :
    coreLost d c = noteStateLost (endCtx d (coreCtx d c).2.1 (coreCtx d c).2.2 0x410C 0 c) c := by
  simp [coreLost, coreStateLost, runningCtx, hb, hon]

/-- Settles O10: each row by the state of the core it finds. -/
theorem coreStops : Obligations.CoreStops := by
  unfold Obligations.CoreStops
  intro s c hr lost
  refine ⟨?reclaim, ?abandon, ?preempt, ?restore, ?stateLost⟩
  case reclaim =>
    intro i x ns err hb hs d1 d2 d2' d3 d4
    refine onDev_eq hr (fun d => reclaimRow d c ns err) ((reclaimRow_borrowed hb hs ns err).trans ?_)
    rw [reclaimed, lentSaved]
  case abandon => exact fun ns err hs => onDev_eq hr (fun d => reclaimRow d c ns err) (reclaimRow_restoring hs ns err)
  case preempt =>
    exact fun hb hs hf err => ⟨onDev_eq hr (fun d => preemptRow d c false err) (preemptRow_stopping hs hf err),
      onDev_eq hr (fun d => preemptRow d c true err) (preemptRow_reached hs hf hb err)⟩
  case restore =>
    intro base si sx d1 d2 d3 d4 hon hidle hf hfree hacc hclean hfmt hvalid
    have h : Restores s.dev c := ⟨hon, hidle, hf, hacc, hclean, hfmt, hvalid⟩
    refine ⟨onDev_eq hr (fun d => restoreCore d c false) (restoreCore_part h), onDev_eq hr (fun d => restoreCore d c true) ?_⟩
    have hwhole := restoreCore_whole h hfree
    rw [resumed, reloaded] at hwhole
    exact hwhole
  case stateLost => exact fun hb hon => onDev_eq hr (fun d => coreLost d c) (coreLost_running hb hon)

end Sys2Proof.Machine
end

section
/-! ### VF Enable and a context that waits for another core (O49) -/

namespace Sys2Proof.Machine

/-- VF Enable with NumVFs at one function (R391). -/
def vfVisit (n : Nat) (d : Dev) (i : Nat) : Dev :=
  if i ≤ n then (if instState d i = 0 then setInstState d i 1 else d)
  else if instState d i = 0 then d
  else setInstState (releaseInst (instanceTeardown (endInst d i 0x5607) i) i) i 0

theorem vfVisit_absent {d : Dev} {n i : Nat} (hi : n < i) (h : instState d i = 0) : vfVisit n d i = d := by
  simp only [vfVisit, Nat.not_le.2 hi, h, if_true, if_false]

theorem vfVisit_removes {d : Dev} {n i : Nat} (hi : n < i) (h : instState d i ≠ 0) :
    vfVisit n d i = setInstState (releaseInst (instanceTeardown (endInst d i 0x5607) i) i) i 0 := by
  simp only [vfVisit, Nat.not_le.2 hi, h, if_false]

/-- Where the last of some functions alone exists, it alone is removed. -/
theorem foldl_vfVisit_last {d : Dev} {n i : Nat} {l : List Nat} (hl : ∀ k ∈ l, n < k ∧ instState d k = 0) (hi : n < i)
    (h : instState d i ≠ 0) : (l ++ [i]).foldl (vfVisit n) d = setInstState (releaseInst (instanceTeardown (endInst d i 0x5607) i) i) i 0 := by
  have hbefore : l.foldl (vfVisit n) d = d :=
    List.foldlRecOn (motive := (· = d)) _ _ rfl fun e he k hk => by
      subst he
      exact vfVisit_absent (hl k hk).1 (hl k hk).2
  rw [List.foldl_append, hbefore, List.foldl_cons, List.foldl_nil, vfVisit_removes hi h]

theorem instState_vfEnable (d : Dev) (n i : Nat) : instState (vfEnable d n) i = instState ((rangeFrom 1 64).foldl (vfVisit n) d) i := by
  unfold vfEnable vfVisit
  rfl

/-! The teardown of a context that holds no unit. -/

/-- Nothing of a core is a context's. -/
structure OffCore (d : Dev) (i x c : Nat) : Prop where
  strms    : strmsOf d c i x = []
  borrowed : (coreSt d c).borrowed = none
  other    : (coreCtx d c).2 ≠ (i, x)

/-- On a device without stream state and borrowed contexts a core is off each context that it does not name, but for those of instance 0, which
the streams' default names. -/
theorem offCore_of_unused {d : Dev} {i x c : Nat} (hstrms : d.strms = []) (hcores : d.cores = []) (hi : i ≠ 0)
    (hother : (coreCtx d c).2 ≠ (i, x)) : OffCore d i x c where
  strms := List.filter_eq_nil_iff.2 fun s _ => by simp [strmOf, strmSt, tget, tget?, hstrms, Ne.symm hi]
  borrowed := by simp [coreSt, tget, tget?, hcores]
  other := hother

theorem dropCore_off {d : Dev} {i x c : Nat} (h : OffCore d i x c) (haway : (ctxSt d i x).away = []) : dropCore d i x c = d := by
  obtain ⟨hstrms, hborrowed, hother⟩ := h
  simp [dropCore, hstrms, hborrowed, hother, haway]

/-- What is left to do for the work of a context that holds neither an array nor a core: what waits of it is dropped, and other work placed. -/
def waitsDropped (d : Dev) (i x : Nat) : Dev :=
  let d := modTier (stopWaits (dropUnit d i x) i x) (fun t => { t with later := t.later.filter (fun r => !(r.inst == i && r.ctx == some x)) })
  giveTags <| placeWork { d with
    shares := d.shares.filter (fun p => !ownRun i x p.2)
    reruns := d.reruns.filter (fun r => !(r.inst == i && r.ctx == x))
    sp := { d.sp with saved := d.sp.saved.filter (fun s => s.2 != (i, x)) }
    trn := { d.trn with reqs := d.trn.reqs.filter (fun p => !(p.2.inst == i && p.2.ctx == x)) } }

theorem dropCtxWork_off {d : Dev} {i x : Nat} (harrs : ctxArrays d i x = []) (hcores : ∀ c < 96, OffCore d i x c)
    (haway : (ctxSt d i x).away = []) : dropCtxWork d i x = waitsDropped d i x := by
  have hnone : (List.range 96).foldl (fun d c => dropCore d i x c) d = d :=
    List.foldlRecOn (motive := (· = d)) _ _ rfl fun e he c hc => by
      subst he
      exact dropCore_off (hcores c (List.mem_range.1 hc)) haway
  simp only [dropCtxWork, harrs, List.foldl_nil, hnone]
  rfl

/-- The teardown of a context from when its commands have ended and its work is dropped (R434). -/
def tornDown (d : Dev) (i x status seq : Nat) (bytes : List Byte) : Dev :=
  let d := mapRec d seq (fun r => { r with flags := r.flags ||| 8 })
  let r := findRec d i seq
  freeCtx (notice (modInst d i (fun s => { s with slots := tset s.slots x (r, bytes) })) i status seq) i x

theorem tearContext_eq (d : Dev) (i x status seq : Nat) :
    tearContext d i x status seq = tornDown (dropCtxWork (endCommands d i x status) i x) i x status seq (auditBytes (ctxSt d i x)) := rfl

/-- The teardown of an owner after its rings and its contexts (R435). -/
def ownerCleared (d : Dev) (i status seq : Nat) : Dev :=
  let d := dropExports (dropInstRefs (clearInstData (dropFreeze d i) i) i) i
  let d := modInst (mapRec d seq (fun r => { r with flags := r.flags ||| 12 })) i (fun s => { s with ending := none, dirty := false })
  notice (setInstState d i (if i = 0 ∨ (instSt d i).held then 2 else 1)) 0 status seq

theorem instanceTeardown_ending {d : Dev} {i status seq : Nat} (h : (instSt d i).ending = some (status, seq)) :
    instanceTeardown d i = ownerCleared ((List.range 16).foldl (tearOpen i status seq) (ringsReset d i)) i status seq := by
  simp only [instanceTeardown, h]
  rfl

/-! A context that waits with a stream number that no core has. -/

/-- The stream number at which `CORE_STRM_CFG` of core 0 would be `HOST_FN_STATUS` of function 1. -/
def strayStrm : Nat := (regHostFnStatus 1 - regCoreStrmCfg 0 0) / 0x40

theorem strayStrm_names : regCoreStrmCfg 0 strayStrm = regHostFnStatus 1 := by decide

/-- A device with function 64 and a context of it, and a context of instance 0 that waits for another core with the stray stream (R120). -/
def strayDev : Dev :=
  let d := modInst (setInstState State.reset.dev 64 2) 0 (fun s => { s with part := { s.part with cores := 1 } })
  let d := modCtx (modCtx d 64 0 (fun c => { c with live := true })) 0 0 (fun c => { c with live := true })
  { d with reruns := [{ core := 0, inst := 0, ctx := 0, strms := [{ strm := strayStrm, cfg := 1, desc := 0, ptr := 0 }] }] }

/-- That device with function 64 ended and its rings reset. -/
def strayEnded : Dev := ringsReset (endInst strayDev 64 0x5607) 64

theorem strayDev_insts : (∀ k ∈ rangeFrom 1 63, 0 < k ∧ instState strayDev k = 0) ∧ instState strayDev 64 ≠ 0 := by decide +kernel

/-- That device once the context of function 64 is torn down and the waiting one placed on core 0. -/
def strayOut : Dev := tornDown (waitsDropped (endCommands strayEnded 64 0 0x5607) 64 0) 64 0 0x5607 0 (auditBytes (ctxSt strayEnded 64 0))

theorem strayDev_ending : (instSt (endInst strayDev 64 0x5607) 64).ending = some (0x5607, 0) := by decide +kernel

theorem strayEnded_ctx : (ctxSt strayEnded 64 0).ending = none ∧ (ctxSt strayEnded 64 0).live = true := by decide +kernel

theorem strayEnded_off : (let d := endCommands strayEnded 64 0 0x5607
    ctxArrays d 64 0 = [] ∧ (ctxSt d 64 0).away = [] ∧ d.strms = [] ∧ d.cores = [] ∧ ∀ c < 96, (coreCtx d c).2 ≠ (64, 0)) := by decide +kernel

theorem strayOut_shows :
    instState (releaseInst (ownerCleared ((rangeFrom 1 15).foldl (tearOpen 64 0x5607 0) strayOut) 64 0x5607 0) 64) 1 = 1 := by decide +kernel

theorem tearContext_stray : tearContext strayEnded 64 0 0x5607 0 = strayOut := by
  obtain ⟨harrs, haway, hstrms, hcores, hother⟩ := strayEnded_off
  rw [tearContext_eq, dropCtxWork_off harrs (fun c hc => offCore_of_unused hstrms hcores (by decide) (hother c hc)) haway]
  rfl

/-- Placing the waiting context writes `STATE` of function 1. -/
theorem vfEnable_stray : instState (vfEnable strayDev 0) 1 = 1 := by
  obtain ⟨hnone, hlast⟩ := strayDev_insts
  obtain ⟨hends, hlive⟩ := strayEnded_ctx
  have hvisits : rangeFrom 1 64 = rangeFrom 1 63 ++ [64] := by decide
  have hctxs : List.range 16 = 0 :: rangeFrom 1 15 := by decide
  have hfirst : tearOpen 64 0x5607 0 strayEnded 0 = strayOut := by
    rw [tearOpen, hends, hlive]
    exact tearContext_stray
  rw [instState_vfEnable, hvisits, foldl_vfVisit_last hnone (by decide) hlast, instanceTeardown_ending strayDev_ending, hctxs,
    List.foldl_cons, show ringsReset (endInst strayDev 64 0x5607) 64 = strayEnded from rfl, hfirst, setInstState, instState, fget_fset_ne _ (by decide)]
  exact strayOut_shows

/-- Refutes O49: nothing bounds the stream numbers of a context that waits for another core. The teardown of function 64 places one whose
`CORE_STRM_CFG` is the status of function 1, which then reads bare though VF Enable is cleared. -/
theorem not_hostLinks : ¬ Obligations.HostLinks := by
  unfold Obligations.HostLinks
  intro h
  let s : State := { pending := [], perstN := true, dev := strayDev }
  have hr : Runs s := ⟨rfl, rfl⟩
  obtain ⟨-, -, -, -, -, -, -, -, -, -, -, t, ht, -, hall⟩ := h s hr
  have hrun : exec (.vfEnable 0) s = .next (withDev s (vfEnable strayDev 0)) := onDev_runs hr (fun d => vfEnable d 0)
  rw [hrun] at ht
  cases ht
  have hone : instState (vfEnable strayDev 0) 1 = 0 := hall 1 (by decide)
  rw [vfEnable_stray] at hone
  exact absurd hone (by decide)

end Sys2Proof.Machine
end

section
/-! ### Operators at the head of a context's queue (O59) -/

namespace Sys2Proof.Machine

/-- An exchange whose sums are all read back writes Y (R52, R417). -/
theorem collDrive_finishes {d : Dev} {o : OpIn} {g : Group} {sc : Bool} {v : Inv} (hhead : (ctxSt d o.i o.x).queue.head? = some v)
    (hlive : (ctxSt d o.i o.x).ending = none) (hphase : v.phase = 3) (hpos : 10 * collOutLen o g sc ≤ v.pos) (hout : collOut d o = 0) (fuel : Nat) :
    collDrive o g sc (fuel + 1) d = collFinish d o g sc := by
  have hat : collAt d o = (3, v.pos) := by simp only [collAt, hhead, hphase]
  rw [collDrive]
  simp only [hat, hlive, Option.isSome_none, Nat.not_lt.2 hpos, hout, Bool.false_eq_true, if_false, if_true]

/-- The bytes of the operand that the operation of an ATOMIC step takes (R501). -/
def operandSize (p : PlanStep) : Nat := if p.f0 = 0x0A then 80 else if p.f0 = 0x0B then 128 else if p.f0 = 4 then 16 else 8

/-- The request of an ATOMIC step, with the operand that its operation takes (R418, R501). -/
def operandReq (d : Dev) (p : PlanStep) : TrnReq :=
  let n := operandSize p
  if n ≤ 16 then
    { blankReq with a := fieldLe (devRead d p.f2 n) 0 8, b := fieldLe (devRead d p.f2 n) 8 8, poison := isPoisoned d p.f2 n }
  else { blankReq with data := devRead d p.f2 n, poison := isPoisoned d p.f2 n }

/-- The list of a STREAMS step starts on the streams of its mask that are enabled for the context (R418). -/
def listsStarted (d : Dev) (i x c : Nat) (p : PlanStep) : Dev :=
  (bitList 16 p.f0).foldl (fun d n =>
    if strmOf d c n i x = true then
      let k := regCoreStrmDesc c n
      let d := fset (fset d k fldCoreStrmDescDescBase p.f1) k fldCoreStrmDescDescCount (p.f2 % 65536)
      let d := fset (commitReg d k) (regCoreStrmPtr c n) fldCoreStrmPtrDescNext 0
      if strmState d c n = 0 then setStrmState d c n 1 else d
    else d) d

section
variable {d : Dev} {i x : Nat} {v : Inv} (hready : headReady d i x = some v)
include hready

/-- The head's operator runs on a readable parameter block (R411, R412), and waits or completes with what it answers (R273, R500). -/
theorem operRow_head {op : Nat} (hop : headOp v = some op) (herr : headErr (beginStep d i x v) i x v = none) :
    operRow d i x op =
      let o := headIn (beginStep d i x v) i x v
      let ready := noteReady (beginStep d i x v) i op o
      let r := runOperator (beginStep d i x v) op { o with ready := ready }
      if r.waits then modHead r.dev i x (fun w => { w with ready := ready })
      else stepDone (modHead r.dev i x (fun w => { w with ready := [] })) i x r.status r.addr r.flags.toNat r.result true := by
  simp only [operRow, hready, hop, herr, bne_self_eq_false, Bool.false_eq_true, if_false]

/-- A plan's step runs the operator that it names (R418). -/
theorem planOperator_head {op : Nat} (hop : headOp v = some op) (hplan : v.isPlan = true) (hknown : opKnown op = true) (hlt : op < 0x0140) :
    planOperator d i x = operRow d i x op := by
  have hown : ¬ (0x0140 ≤ op ∧ op ≤ 0x0143) := by omega
  simp only [planOperator, hready, hop, hplan, hknown, hown, Bool.not_true, Bool.false_eq_true, if_false]

/-! The collectives (R417). -/

/-- An all-reduce at its start: its group, formats and places are in order, and its exchange begins. -/
theorem collRow_starts {sc : Bool} {o : OpIn} {g : Group} (hop : headOp v = some (if sc = true then 0x0141 else 0x0140)) (hnew : v.started = false)
    (ho : headIn (beginStep d i x v) i x v = o) (hg : groupAt (beginStep d i x v) (groupField o) = g)
    (herr : headErr (beginStep d i x v) i x v = none) (hgroup : groupErr (beginStep d i x v) o = none) (hgood : collBad o g sc = false)
    (hacc : firstAccess (beginStep d i x v) o.who [(false, o.ten 0, inBytes (bitsAt (o.fld 2) 0 4) (bitsAt (o.fld 2) 4 2) 1 (o.fld 0)),
      (true, o.ten 1, outBytes o.attr 1 (collOutLen o g sc)), (true, g.scratch, 128 * blockLen o g + 128)] = none) :
    collRow d i x sc = collPump (modHead (beginStep d i x v) i x (fun w => { w with phase := 0, pos := 0, lines := [] })) i x := by
  simp only [collRow, hready, hop, hnew, herr, ho, hgroup, hg, hgood, hacc, bne_self_eq_false, Bool.false_eq_true, if_false]

/-- An all-reduce that has begun goes on with its exchange. -/
theorem collRow_goesOn {sc : Bool} (hop : headOp v = some (if sc = true then 0x0141 else 0x0140)) (hrun : v.started = true) :
    collRow d i x sc = collPump d i x := by
  simp only [collRow, hready, hop, hrun, bne_self_eq_false, Bool.false_eq_true, if_false, if_true]

/-- What the head that may run says of its context. -/
theorem headReady_head : (ctxSt d i x).queue.head? = some v ∧ (ctxSt d i x).ending = none := by
  rw [headReady] at hready
  split at hready
  · cases hready
  · rename_i w hw
    split at hready
    · rename_i hall
      simp only [Bool.and_eq_true, Option.isNone_iff_eq_none] at hall
      cases hready
      exact ⟨hw, hall.1.1.1.1.1.1.1.2⟩
    · cases hready

/-- Once every sum is read back, the exchange writes Y. -/
theorem collPump_finishes {sc : Bool} {o : OpIn} {g : Group} (hop : headOp v = some (if sc = true then 0x0141 else 0x0140))
    (ho : headIn d i x v = o) (hg : groupAt d (groupField o) = g) (hphase : v.phase = 3) (hpos : 10 * collOutLen o g sc ≤ v.pos)
    (hout : collOut d o = 0) : collPump d i x = collFinish d o g sc := by
  obtain ⟨hhead, hlive⟩ := headReady_head hready
  have hcoll : collHead d i x = some (o, g, sc) := by
    cases sc <;> simp [collHead, hhead, hop, ho, hg]
  have hi : o.i = i := by rw [← ho]; rfl
  have hx : o.x = x := by rw [← ho]; rfl
  have hfuel : collFuel o g = 12 * o.fld 0 + 3 * g.n + 7 + 1 := rfl
  simp only [collPump, hcoll, hfuel]
  exact collDrive_finishes (hi ▸ hx ▸ hhead) (hi ▸ hx ▸ hlive) hphase hpos hout _

/-- An all-gather or all-to-all whose blocks are all there writes them in rank order (R417). -/
theorem moveRow_moves {all : Bool} {blocks : List (List Byte × Bool)} {o : OpIn} {g : Group}
    (hop : headOp v = some (if all = true then 0x0143 else 0x0142)) (ho : headIn (beginStep d i x v) i x v = o)
    (hg : groupAt (beginStep d i x v) (groupField o) = g) (herr : headErr (beginStep d i x v) i x v = none)
    (hgroup : groupErr (beginStep d i x v) o = none)
    (hacc : firstAccess (beginStep d i x v) o.who [(false, o.ten 0, if all = true then o.fld 0 * g.n else o.fld 0),
      (true, o.ten 1, o.fld 0 * g.n)] = none)
    (hcount : blocks.length + 1 = g.n) (hlen : ∀ b ∈ blocks, b.1.length = o.fld 0) :
    moveRow d i x all blocks =
      let d := beginStep d i x v
      let n := o.fld 0
      let own := o.ten 0 + (if all = true then g.rank * n else 0)
      let ys := blocks.take g.rank ++ [(devRead d own n, false)] ++ blocks.drop g.rank
      let d2 := ys.zipIdx.foldl (fun d p => devWrite d (o.ten 1 + p.2 * n) p.1.1 false) d
      let d3 := ys.zipIdx.foldl (fun d p => if p.1.2 = true then markPoison d (o.ten 1 + p.2 * n) 0 (8 * n) else d) d2
      stepDone ((poisonedParts d own n).foldl (fun d p => markPoison d (o.ten 1 + g.rank * n + p.1) 0 (8 * p.2)) d3) i x 0 0 0 0 true := by
  have hall : ¬ (blocks.length + 1 ≠ g.n ∨ (blocks.any fun b => b.1.length != o.fld 0) = true) := by
    simp only [hcount, ne_eq, not_true_eq_false, false_or, List.any_eq_true, bne_iff_ne, not_exists, not_and, not_not]
    exact hlen
  simp only [moveRow, hready, hop, herr, ho, hgroup, hg, hacc, bne_self_eq_false, Bool.false_eq_true, if_false]
  rw [if_neg hall]

/-! The steps of a plan (R418). -/

section
variable {p : PlanStep} (hplan : v.isPlan = true) (hstep : v.plan.head? = some p)
include hplan hstep

/-- The current step of a plan runs in the row of its kind. -/
theorem planRow_runs {k : Nat} (hnew : v.started = false) (hk : p.kind = k) (act : Dev → Inv → PlanStep → Dev) :
    planRow d i x k act = act (beginStep d i x v) v p := by
  simp only [planRow, hready, hstep, hplan, hnew, hk, beq_self_eq_true, Bool.not_false, Bool.and_self, if_true]

section
variable (hnew : v.started = false)
include hnew

theorem planStreams_starts {c : Nat} (hk : p.kind = 2) (hcore : planCore (beginStep d i x v) i x = some c) : planStreams d i x =
    stepDone (modCtx (listsStarted (beginStep d i x v) i x c p) i x (fun y => { y with hand := natPut y.hand c })) i x 0 := by
  rw [planStreams, planRow_runs hready hplan hstep hnew hk, hcore]
  rfl

theorem planAtomic_issues (hk : p.kind = 4) (hacc : accessErr (beginStep d i x v) (.ctx i x) false p.f2 (operandSize p) = none) :
    planAtomic d i x = planIssue (beginStep d i x v) i x p.f0 p.f1 (operandReq (beginStep d i x v) p) (.planAtomic p.f3) := by
  rw [operandSize] at hacc
  rw [planAtomic, planRow_runs hready hplan hstep hnew hk]
  simp only [hacc]
  rfl

section
variable (hk : p.kind = 6) (hal : p.f1 % 8 = 0) (hallow : issueRefusal (beginStep d i x v) i x 1 (p.f1 / 128 * 128 % 2 ^ 48) = none)
include hk hal hallow

/-- A line of another endpoint is read by a request (R307, R501). -/
theorem planWaitValue_away (haway : p.f1 / 2 ^ 48 ≠ ownEndpoint (beginStep d i x v)) :
    planWaitValue d i x = issue (beginStep d i x v) i x 1 (p.f1 / 128 * 128) blankReq .planWait := by
  rw [planWaitValue, planRow_runs hready hplan hstep hnew hk]
  refine (if_neg (not_not_intro hal)).trans ((if_neg haway).trans ?_)
  unfold planIssue
  rw [hallow]

/-- A line of this device whose value is reached completes the step (R290, R501). -/
theorem planWaitValue_reached {r : TrnRsp} (hown : p.f1 / 2 ^ 48 = ownEndpoint (beginStep d i x v))
    (hline : ownLine (beginStep d i x v) i x (p.f1 / 128 * 128) = .rsp 0x81 r) (hclean : r.poison = false)
    (hreached : p.f2 ≤ fieldLe r.data (p.f1 % 128) 8) : planWaitValue d i x = stepDone (beginStep d i x v) i x 0 := by
  rw [planWaitValue, planRow_runs hready hplan hstep hnew hk]
  refine (if_neg (not_not_intro hal)).trans ((if_pos hown).trans ?_)
  rw [hallow, hline]
  simp only [hclean, hreached, Bool.false_eq_true, if_false, if_true]

end

/-- With determinism off a step may read TB1 as a choice (R337, R360). -/
theorem planTimeRead_writes (hk : p.kind = 8) (hoff : (ctxSt (beginStep d i x v) i x).detOff = true)
    (hacc : accessErr (beginStep d i x v) (.ctx i x) true p.f1 16 = none) : planTimeRead d i x =
      let d1 := beginStep d i x v
      let t := lget {} d1.tbs 1
      stepDone (devWrite (countChoice d1 i x (stepOwner v)) p.f1 (natLe 8 t.sec ++ natLe 8 t.sub) false) i x 0 := by
  rw [planTimeRead, planRow_runs hready hplan hstep hnew hk]
  simp only [hoff, hacc, Bool.not_true, Bool.false_eq_true, if_false]

end

section
variable (hnew : v.started = false) {c : Nat} (hk : p.kind = 3) (hcore : planCore d i x = some c)
include hnew hk hcore

/-- A plan waits for the fetch engine, the consumer of an outbound stream (R97, R98). -/
theorem planWaitHead_outbound (hdir : cfgOf (beginStep d i x v) c (p.f0 % 16) fldCoreStrmCfgDir = 1)
    (hcount : headReached (beginStep d i x v) c (p.f0 % 16) p.f1 = true) : planWaitHead d i x = stepDone (beginStep d i x v) i x 0 := by
  simp only [planWaitHead, hready, hplan, hstep, hcore, hk, hnew, hdir, hcount, ne_eq, not_true_eq_false, Bool.false_eq_true, if_false, if_true]

/-- A plan is the consumer of an inbound or peer stream and releases what it waited for (log entry 121). -/
theorem planWaitHead_consumes (hdir : cfgOf (beginStep d i x v) c (p.f0 % 16) fldCoreStrmCfgDir ≠ 1)
    (hcount : countFilled (beginStep d i x v) c (p.f0 % 16) p.f1 = true) : planWaitHead d i x =
      let d1 := beginStep d i x v
      stepDone (if strmOf d1 c (p.f0 % 16) i x = true then releaseTo d1 c (p.f0 % 16) p.f1 else d1) i x 0 := by
  simp only [planWaitHead, hready, hplan, hstep, hcore, hk, hnew, hdir, hcount, ne_eq, not_true_eq_false, Bool.false_eq_true, if_false, if_true]

end

end

end

section
variable {d : Dev} {i x op ga : Nat} {pkt : TrnReq} (hallow : issueRefusal d i x op (ga % 2 ^ 48) = none)
include hallow

/-- A request to another endpoint is issued (R307). -/
theorem planIssue_away (haway : ga / 2 ^ 48 ≠ ownEndpoint d) (use : ReqUse) : planIssue d i x op ga pkt use = issue d i x op ga pkt use := by
  unfold planIssue
  rw [hallow]
  cases use with
  | planAtomic old => exact if_neg haway
  | _ => rfl

/-- An atomic or a release to this device's home agents that waits for no earlier reply is served at once (R290, R311). -/
theorem planIssue_own (hown : ga / 2 ^ 48 = ownEndpoint d)
    (hfree : ¬ ((op = 0x0C ∨ op = 0x0D) ∧ (ctxReqs d i x).any (fun r => isWriteType r.2.op) = true)) (old : Nat) :
    planIssue d i x op ga pkt (.planAtomic old) = ownAtomic d i x op ga pkt old := by
  unfold planIssue
  rw [hallow]
  exact (if_pos hown).trans (if_neg hfree)

/-- A release to this device waits for the replies of earlier write-type requests (R311). -/
theorem planIssue_held (hown : ga / 2 ^ 48 = ownEndpoint d) (hrel : op = 0x0C ∨ op = 0x0D)
    (hout : (ctxReqs d i x).any (fun r => isWriteType r.2.op) = true) (old : Nat) :
    planIssue d i x op ga pkt (.planAtomic old) = modHead d i x (fun v => { v with started := false }) := by
  unfold planIssue
  rw [hallow]
  exact (if_pos hown).trans (if_pos ⟨hrel, hout⟩)

end

/-- A request of a context to this device's own endpoint (R290). -/
def ownReq (d : Dev) (i x ga : Nat) (pkt : TrnReq) : TrnReq :=
  { pkt with dst := ownEndpoint d, src := ownEndpoint d, job := (ctxSt d i x).job, addr := ga % 2 ^ 48, cls := (ctxSt d i x).cls }

section
variable {d d2 : Dev} {i x op ga : Nat} {pkt : TrnReq} {q : TrnRsp} (hhome : homeRefusal d op (ownReq d i x ga pkt) = none)
include hhome

/-- An old value that the home agents answer is written at the step's place (R501). -/
theorem ownAtomic_answers {old : Nat} (happ : applyWriteType d op (ownReq d i x ga pkt) = (d2, .rsp 0x84 q))
    (hacc : accessErr d2 (.ctx i x) true old 8 = none) :
    ownAtomic d i x op ga pkt old = stepDone (devPut d2 old 8 q.value q.poison) i x 0 := by
  rw [ownReq] at hhome happ
  simp only [ownAtomic, hhome, happ, planReply, hacc]

theorem ownAtomic_done (old : Nat) (happ : applyWriteType d op (ownReq d i x ga pkt) = (d2, .rsp 0x82 q)) :
    ownAtomic d i x op ga pkt old = stepDone d2 i x 0 := by
  rw [ownReq] at hhome happ
  simp only [ownAtomic, hhome, happ, planReply]

end

/-- Settles O59: each row runs for the head it is given, by the lemma on its operator, collective or kind of step. -/
theorem operatorsAndPlans : Obligations.OperatorsAndPlans := by
  unfold Obligations.OperatorsAndPlans
  intro s i x v hr hready d goes o
  refine ⟨?operators, ?sums, ?blocks, fun p hplan hstep hnew => ?steps⟩
  case operators =>
    intro p hp hop herr r
    obtain ⟨hexec, hknown, hlt⟩ : (∀ s, exec p.1 s = onDev s (fun d => operRow d i x p.2)) ∧ opKnown p.2 = true ∧ p.2 < 0x0140 := by
      simp only [List.mem_cons, List.not_mem_nil, or_false] at hp
      rcases hp with rfl | rfl | rfl | rfl | rfl | rfl | rfl | rfl | rfl | rfl | rfl | rfl | rfl <;>
        exact ⟨fun s => rfl, rfl, Nat.le_of_ble_eq_true rfl⟩
    have hrow := operRow_head hready hop herr
    refine ⟨fun hdone => (hexec s).trans (onDev_eq hr _ (hrow.trans (if_neg (by rw [hdone]; decide)))),
      fun hwaits => (hexec s).trans (onDev_eq hr _ (hrow.trans (if_pos hwaits))), fun hplan => ?_⟩
    rw [hexec, onDev_runs hr]
    exact onDev_eq hr (fun d => planOperator d i x) (planOperator_head hready hop hplan hknown hlt)
  case sums =>
    intro sc hop run g f
    have hexec : run = onDev s (fun d => collRow d i x sc) := by cases sc <;> rfl
    rw [hexec]
    refine ⟨fun hnew herr hgroup hgood hacc => onDev_eq hr _ (collRow_starts hready hop hnew rfl rfl herr hgroup hgood hacc), fun hrun => ?_⟩
    have hgoes := collRow_goesOn hready hop hrun
    exact ⟨onDev_eq hr _ hgoes, fun hphase hpos hout => onDev_eq hr _ (hgoes.trans (collPump_finishes hready hop rfl rfl hphase hpos hout))⟩
  case blocks =>
    intro all blocks hop herr hgroup g n hacc hcount hlen own ys d2 d3
    have hexec : exec (if all = true then .alltoall i x blocks else .allgather i x blocks) s = onDev s (fun d => moveRow d i x all blocks) := by
      cases all <;> rfl
    rw [hexec]
    exact onDev_eq hr _ (moveRow_moves hready hop rfl rfl herr hgroup hacc hcount hlen)
  case steps =>
    have run {k : Nat} (hk : p.kind = k) (act : Dev → Inv → PlanStep → Dev) := planRow_runs hready hplan hstep hnew hk act
    refine ⟨fun hk => ?planEnd, fun c hk hcore => ?lists, fun c hk hcore => ?head, fun hk => ?atomic, fun hk => ?away, fun hk => ?release,
      fun hk => ?value, fun hk => ?fence, fun hk => ?time⟩
    case planEnd => exact onDev_eq hr (fun d => planEnd d i x) (run hk _)
    case lists => exact onDev_eq hr (fun d => planStreams d i x) (planStreams_starts hready hplan hstep hnew hk hcore)
    case head =>
      exact ⟨fun hdir hcount => onDev_eq hr (fun d => planWaitHead d i x) (planWaitHead_outbound hready hplan hstep hnew hk hcore hdir hcount),
        fun hdir hcount => onDev_eq hr (fun d => planWaitHead d i x) (planWaitHead_consumes hready hplan hstep hnew hk hcore hdir hcount)⟩
    case atomic =>
      intro n bs b pkt hacc hallow
      have hissue := planAtomic_issues hready hplan hstep hnew hk hacc
      refine ⟨fun haway => onDev_eq hr (fun d => planAtomic d i x) (hissue.trans (planIssue_away hallow haway _)), fun hown hlo hhi => ?_⟩
      intro r d2 q hhome happ hput
      have hfree : ¬ ((p.f0 = 0x0C ∨ p.f0 = 0x0D) ∧ (ctxReqs d i x).any (fun r => isWriteType r.2.op) = true) := by omega
      exact onDev_eq hr (fun d => planAtomic d i x) (hissue.trans ((planIssue_own hallow hown hfree _).trans (ownAtomic_answers hhome happ hput)))
    case away =>
      exact fun hallow haway => onDev_eq hr (fun d => planRelease d i x) ((run hk _).trans (planIssue_away hallow haway _))
    case release =>
      intro hrel hallow hown
      refine ⟨fun hout => onDev_eq hr (fun d => planRelease d i x) ((run hk _).trans (planIssue_held hallow hown hrel hout _)),
        fun d2 k q hout => ?_⟩
      intro r hhome happ
      have hissue : planRelease s.dev i x = ownAtomic d i x p.f0 p.f1 { blankReq with a := p.f2 } p.f3 :=
        (run hk _).trans (planIssue_own hallow hown (fun hwait => by simp [hout] at hwait) _)
      refine ⟨?done, ?answers⟩
      case done =>
        rintro rfl
        exact onDev_eq hr (fun d => planRelease d i x) (hissue.trans (ownAtomic_done hhome _ happ))
      case answers =>
        rintro rfl hput
        exact onDev_eq hr (fun d => planRelease d i x) (hissue.trans (ownAtomic_answers hhome happ hput))
    case value =>
      intro hal line hallow
      exact ⟨fun haway => onDev_eq hr (fun d => planWaitValue d i x) (planWaitValue_away hready hplan hstep hnew hk hal hallow haway),
        fun r hown hline hclean hreached => onDev_eq hr (fun d => planWaitValue d i x)
          (planWaitValue_reached hready hplan hstep hnew hk hal hallow hown hline hclean hreached)⟩
    case fence =>
      exact ⟨fun hnone => onDev_eq hr (fun d => planFence d i x) ((run hk _).trans (if_pos hnone)),
        fun hout => onDev_eq hr (fun d => planFence d i x) ((run hk _).trans (if_neg hout))⟩
    case time =>
      intro hoff hacc t
      exact onDev_eq hr (fun d => planTimeRead d i x) (planTimeRead_writes hready hplan hstep hnew hk hoff hacc)

end Sys2Proof.Machine
end
